-- ==== Sys2Proof/Word.lean ====
section
/-!
DEFINITION. The word types of the BX-960 and the keyed tables the state is made of (R3, R7, R150).
-/

namespace Sys2Proof

/-- A byte, the unit of every address space (R198). -/
abbrev Byte := BitVec 8
/-- A g register, an address, a special register (R150). -/
abbrev Word := BitVec 64
/-- A v register: 64 lanes of 32 bits or 32 lanes of 64 bits (R3, R150). -/
abbrev Vec := BitVec 2048
/-- A mask register (R150). -/
abbrev Mask := BitVec 64
/-- The 128 bits of a capability (R207). -/
abbrev CapBits := BitVec 128

/-- A table keyed by natural numbers: keys strictly rising, no entry equal to the table's default. -/
abbrev Table (α : Type) := List (Nat × α)

end Sys2Proof
end

