-- ==== Sys2Proof/Config.lean ====
section
/-!
DEFINITION. What the manual leaves to an implementation or leaves open, as constants without a body: nothing can be
proved about them, so whatever is proved holds for every choice. Each is named in the assumption log.
-/

namespace Sys2Proof.Config

/-- Which of `n` enabled steps the machine takes next (R9, R356): a free choice, indexed by a counter (DESIGN CHOICE, log entry 4). -/
opaque choose : Nat → Nat → Nat
/-- AES-256-XTS encryption of one 16-byte block under key `k` and tweak `t` (R203; DESIGN CHOICE, log entry 7). -/
opaque xtsEnc (k t blk : Nat) (b : BitVec 128) : BitVec 128
/-- AES-256-XTS decryption of one 16-byte block (R203; DESIGN CHOICE, log entry 7). -/
opaque xtsDec (k t blk : Nat) (b : BitVec 128) : BitVec 128
/-- Whether a signature verifies under the vendor's or the owner's key (R23, R112; DESIGN CHOICE, log entry 10). -/
opaque signatureOk (content sig : List Byte) : Bool
/-- Within how many cycles each write goes on to memory, where nothing holds it back (R360; DESIGN CHOICE, log entry 53). -/
opaque writeBound : Nat
/-- How many empty bundles the deterministic Narund translator puts after an operation of a section, beyond those that it needs (R14; DESIGN
CHOICE, log entry 9). -/
opaque narundFree (code : List Byte) : Nat → Nat
/-- The translator version that every load status reports (R14, R26; DESIGN CHOICE, log entry 9). -/
opaque translatorVersion : BitVec 32
/-- The monitor's own measurement, fixed for the part (R96; DESIGN CHOICE, log entry 10). -/
opaque romMeasurement : BitVec 256
/-- The payload of an SPDM response the manual takes from its standard (R103; PRESUMED, log entry 11). -/
opaque spdmPayload (req : Nat) (state : Nat) : List Byte
/-- The HBM channel that holds a physical 4 KiB frame: the interleaving is not given (R446; DESIGN CHOICE, log entry 21). -/
opaque channelOf : Nat → Nat
/-- The host I/O virtual page that the host gives a page of a function that the firmware maps for a lease (R72, R352; DESIGN CHOICE, log entry 18). -/
opaque hostPage : Nat → Nat → Nat
/-- A byte of a mirrored page, as the mirror in another package sends it (R345; DESIGN CHOICE, log entry 29): by function and address. -/
opaque mirrorByte : Nat → Nat → Byte
/-- A value the manual leaves free, one for each count (DESIGN CHOICE, log entry 4). -/
opaque freeWord : Nat → BitVec 64

end Sys2Proof.Config
end

