-- ==== Sys2Proof/Syntax.lean ====
section
/-!
DEFINITION. The instructions and the steps of the Brixael Rhaulo (BX-960): one constructor of `Instr` for
every row of spec/opcode_table.json. The bundle-slot instructions carry the fields of 06_bundles_and_encodings.md
(R132–R146); the rows without an encoding are steps of other agents of the machine (95_what_each_step_holds.md) and
carry what picks the step out (a context, a core, an operation) or what an outside agent brings.
-/

namespace Sys2Proof

/-- The slot kinds of R117: C; X and Y (one decode); M; P and Q (one decode); Z; A. -/
inductive SlotKind where
  | c | x | m | v | z | a
  deriving DecidableEq, Repr

/-- The literal word that may follow a slot word (R118). -/
abbrev Lit := Option (BitVec 32)

/-- An immediate or displacement: in its `n`-bit field, or in the literal word (R132, R134, R136). -/
inductive Imm (n : Nat) where
  | short (i : BitVec n)
  | long (l : BitVec 32)
  deriving DecidableEq, Repr

/-- One launch slot: level-1 partition, die and slot number (R66). -/
structure SlotRef where
  l1 : Nat
  die : Nat
  n : Nat
  deriving DecidableEq, Repr

/-- The fields of a job slot that the firmware writes (R338). -/
inductive JobField where
  | valid | job | func | nranks | myrank | heapBase | heapLen
  deriving DecidableEq, Repr

/-- What the firmware writes that has no behaviour of its own: page-table entries and roots (R218–R220), job-slot fields (R338),
segment-table entries (R340), bytes at a raw address (R212), and a page that it zeroes (R97). -/
inductive FwReg where
  | pte (addr : Nat)
  | root (func space : Nat)
  | jobField (l1 job : Nat) (f : JobField)
  | segment (l1 job idx : Nat)
  | raw (addr : BitVec 64) (n : Nat)
  | zeroPage (func va : Nat)
  deriving DecidableEq, Repr

/-- A sealed key as another package's monitor sends it, with its record and the function that is to own it (R99, R106, R110). -/
structure SealedKey where
  key : BitVec 512
  olines : BitVec 48
  pdigest : BitVec 256
  owner : Nat
  deriving DecidableEq, Repr

/-- The measurements of the package at the other end of a transfer: block 1 and the fuse count of block 3 (R104, R110). -/
structure Measured where
  block1 : BitVec 256
  block3 : Nat
  deriving DecidableEq, Repr

/-- The operation of this package that an answer is for, and the port on which the answer arrives; 16 is the package's own (R347, R369, R398). -/
structure PortOp where
  op : Nat
  port : Nat
  deriving DecidableEq, Repr

/-- A port, and how many of its flits sent but not yet accepted are encrypted again (R348). -/
structure TagFail where
  port : Nat
  resend : Nat
  deriving DecidableEq, Repr

/-- Who reads a word with an error (R447): a context; an engine for a task that has retired; the array of a core, which has a parity error;
the firmware or Spindle; or, for an error of one bit, some unit of a cluster. -/
inductive CheckBy where
  | context (id : Nat) | retired (tid : Nat) | array (core : Nat) | firmware | corrected (cluster : Nat)
  deriving DecidableEq, Repr

/-- What the sensors of a cluster report (R442, R443): the thermal limit in 50 MHz units, TEMP, PWR, and the power of the device. -/
structure Sensors where
  limit : Nat
  temp : Nat
  pwr : Nat
  power : Nat
  deriving DecidableEq, Repr

/-- Which of the units of a start-up work, step by step, and how many clusters fail the self-test of step 2 (R444); where step 4 passes, the
fabric ports that stay down all the same, and those that run x2 (R2, R348). -/
structure StartTest where
  units : List Bool
  bad : Nat
  down : List Nat := []
  half : List Nat := []
  deriving DecidableEq, Repr

/-- Where a line is moved, and whether its ciphertext stays as it is (R97, R101). -/
structure MoveTo where
  line : Nat
  unchanged : Bool
  deriving DecidableEq, Repr

/-- A fabric head with its data, as it arrives at a receiving port (R333, R369): job, source package, source rank,
source context and channel sequence; destination partition; heap offset, length and data; the flag word of a PUTF, the
addend, the scope of the peer register; the port it arrives on, the number its ACK or NACK
carries and the instruction it belongs to. -/
structure Head where
  port : Nat
  job : BitVec 16
  srcPkg : Nat
  srcRank : Nat
  srcCtx : Nat
  seq : Nat
  tag : Nat
  part : Nat
  hoff : Nat
  len : Nat
  data : List (BitVec 8)
  flag : Nat
  addend : BitVec 64
  scope : Nat
  batch : Nat
  deriving DecidableEq, Repr

/-- Where a receiving port takes an operation from: this package's own channel operation `n` (a rank on this package),
or the wire. -/
inductive PortSrc where
  | chan (n : Nat)
  | wire (h : Head)
  deriving DecidableEq, Repr

/-- The instructions and steps of the machine. -/
inductive Instr where
  -- C slot: control and system (R132, R133)
  | br (d : Imm 18)
  | bl (g : Fin 64) (d : Imm 18)
  | beqz (g : Fin 64) (d : Imm 18)
  | bnez (g : Fin 64) (d : Imm 18)
  | bltz (g : Fin 64) (d : Imm 18)
  | bgez (g : Fin 64) (d : Imm 18)
  | bgtz (g : Fin 64) (d : Imm 18)
  | blez (g : Fin 64) (d : Imm 18)
  | bmz (d : Imm 18)
  | jr (a : Fin 64)
  | jlr (d a : Fin 64)
  | tail
  | next (d : Fin 64)
  | steal (d : Fin 64)
  | chkG (a : Fin 64)
  | chkV (a : Fin 64)
  | trap (i : BitVec 12)
  | eret
  | mfsr (d : Fin 64) (n : BitVec 12)
  | mtsr (a : Fin 64) (n : BitVec 12)
  | featq (d a : Fin 64) (i : BitVec 12)
  | idle
  | dbrk (i : BitVec 12)
  | prack
  | mcrd (d a : Fin 64) (w : BitVec 12)
  -- X and Y slots: scalar and capability (R134, R135)
  | add (d a b : Fin 64)
  | sub (d a b : Fin 64)
  | addi (d a : Fin 64) (i : Imm 12)
  | and (d a b : Fin 64)
  | or (d a b : Fin 64)
  | xor (d a b : Fin 64)
  | andi (d a : Fin 64) (i : Imm 12)
  | ori (d a : Fin 64) (i : Imm 12)
  | xori (d a : Fin 64) (i : Imm 12)
  | shl (d a b : Fin 64)
  | shr (d a b : Fin 64)
  | sar (d a b : Fin 64)
  | shli (d a c : Fin 64)
  | shri (d a c : Fin 64)
  | sari (d a c : Fin 64)
  | mul (d a b : Fin 64)
  | mulh (d a b : Fin 64)
  | mulhn (d a b : Fin 64)
  | div (d a b : Fin 64)
  | divn (d a b : Fin 64)
  | rem (d a b : Fin 64)
  | remn (d a b : Fin 64)
  | cmpeq (d a b : Fin 64)
  | cmpne (d a b : Fin 64)
  | cmplt (d a b : Fin 64)
  | cmpltn (d a b : Fin 64)
  | cmple (d a b : Fin 64)
  | cmplen (d a b : Fin 64)
  | cmpeqi (d a : Fin 64) (i : Imm 12)
  | cmplti (d a : Fin 64) (i : Imm 12)
  | sel (d a b c : Fin 64)
  | min (d a b : Fin 64)
  | max (d a b : Fin 64)
  | minn (d a b : Fin 64)
  | maxn (d a b : Fin 64)
  | clz (d a : Fin 64)
  | ctz (d a : Fin 64)
  | popc (d a : Fin 64)
  | sext (d a w : Fin 64)
  | zext (d a w : Fin 64)
  | extr (d a h o : Fin 64)
  | inshi (d a : Fin 64) (i : BitVec 32)
  | cnarrow (d a : Fin 32) (b c : Fin 64)
  | cperm (d a : Fin 32) (m : BitVec 12)
  | cget (d : Fin 64) (a : Fin 32) (s : BitVec 12)
  | cmov (d a : Fin 32)
  | cclr (d : Fin 32)
  | cchk (d : Fin 64) (a : Fin 32) (b c : Fin 64)
  -- M slot: memory (R136, R137)
  | ldI8 (d : Fin 64) (k : Fin 32) (g : Fin 64) (i : Imm 7)
  | ldN8 (d : Fin 64) (k : Fin 32) (g : Fin 64) (i : Imm 7)
  | ldI16 (d : Fin 64) (k : Fin 32) (g : Fin 64) (i : Imm 7)
  | ldN16 (d : Fin 64) (k : Fin 32) (g : Fin 64) (i : Imm 7)
  | ldI32 (d : Fin 64) (k : Fin 32) (g : Fin 64) (i : Imm 7)
  | ldN32 (d : Fin 64) (k : Fin 32) (g : Fin 64) (i : Imm 7)
  | ldI64 (d : Fin 64) (k : Fin 32) (g : Fin 64) (i : Imm 7)
  | stI8 (d : Fin 64) (k : Fin 32) (g : Fin 64) (i : Imm 7)
  | stI16 (d : Fin 64) (k : Fin 32) (g : Fin 64) (i : Imm 7)
  | stI32 (d : Fin 64) (k : Fin 32) (g : Fin 64) (i : Imm 7)
  | stI64 (d : Fin 64) (k : Fin 32) (g : Fin 64) (i : Imm 7)
  | lds (d : Fin 64) (k : Fin 32) (g : Fin 64) (i : Imm 7)
  | vld (d : Fin 64) (k : Fin 32) (g : Fin 64) (i : Imm 7)
  | vst (d : Fin 64) (k : Fin 32) (g : Fin 64) (i : Imm 7)
  | vlds (d : Fin 64) (k : Fin 32) (g : Fin 64) (i : Imm 7)
  | vldx (d : Fin 64) (k : Fin 32) (x : Fin 64) (w : Fin 4) (s : Fin 2) (c : Fin 8) (z : Fin 2) (l : Lit)
  | vstx (d : Fin 64) (k : Fin 32) (x : Fin 64) (w : Fin 4) (s : Fin 2) (c : Fin 8) (z : Fin 2) (l : Lit)
  | vldm (d : Fin 8) (k : Fin 32) (g : Fin 64) (i : Imm 7)
  | vstm (d : Fin 8) (k : Fin 32) (g : Fin 64) (i : Imm 7)
  | cld (d k : Fin 32) (g : Fin 64) (i : Imm 7)
  | cst (d k : Fin 32) (g : Fin 64) (i : Imm 7)
  | tlock (k : Fin 32) (a b : Fin 64)
  | tunlk (k : Fin 32) (a b : Fin 64)
  | cbset (h : Fin 16) (a b : Fin 64)
  | cbwaitC (h : Fin 16) (n : BitVec 8)
  | cbwaitP (h : Fin 16) (n : BitVec 8)
  | cbadvC (h : Fin 16) (n : BitVec 8)
  | cbadvP (h : Fin 16) (n : BitVec 8)
  -- P and Q slots: vector (R138, R139)
  | vaddF (d a b : Fin 64) (m t : Fin 8) (x : Lit)
  | vsubF (d a b : Fin 64) (m t : Fin 8) (x : Lit)
  | vmulF (d a b : Fin 64) (m t : Fin 8) (x : Lit)
  | vfma (d a b : Fin 64) (m t : Fin 8) (x : Lit)
  | vfnma (d a b : Fin 64) (m t : Fin 8) (x : Lit)
  | vminF (d a b : Fin 64) (m t : Fin 8) (x : Lit)
  | vmaxF (d a b : Fin 64) (m t : Fin 8) (x : Lit)
  | vabs (d a : Fin 64) (m t : Fin 8) (x : Lit)
  | vneg (d a : Fin 64) (m t : Fin 8) (x : Lit)
  | vrcp (d a : Fin 64) (m t : Fin 8) (x : Lit)
  | vrsq (d a : Fin 64) (m t : Fin 8) (x : Lit)
  | vexp2 (d a : Fin 64) (m t : Fin 8) (x : Lit)
  | vlog2 (d a : Fin 64) (m t : Fin 8) (x : Lit)
  | vcmpEqF (d : Fin 8) (a b : Fin 64) (m t : Fin 8) (x : Lit)
  | vcmpLtF (d : Fin 8) (a b : Fin 64) (m t : Fin 8) (x : Lit)
  | vcmpLeF (d : Fin 8) (a b : Fin 64) (m t : Fin 8) (x : Lit)
  | vaddI (d a b : Fin 64) (m t : Fin 8) (x : Lit)
  | vsubI (d a b : Fin 64) (m t : Fin 8) (x : Lit)
  | vmulI (d a b : Fin 64) (m t : Fin 8) (x : Lit)
  | vmad (d a b : Fin 64) (m t : Fin 8) (x : Lit)
  | vadds (d a b : Fin 64) (m t : Fin 8) (x : Lit)
  | vsubs (d a b : Fin 64) (m t : Fin 8) (x : Lit)
  | vminI (d a b : Fin 64) (m t : Fin 8) (x : Lit)
  | vmaxI (d a b : Fin 64) (m t : Fin 8) (x : Lit)
  | vand (d a b : Fin 64) (m t : Fin 8) (x : Lit)
  | vor (d a b : Fin 64) (m t : Fin 8) (x : Lit)
  | vxor (d a b : Fin 64) (m t : Fin 8) (x : Lit)
  | vshl (d a b : Fin 64) (m t : Fin 8) (x : Lit)
  | vshr (d a b : Fin 64) (m t : Fin 8) (x : Lit)
  | vcmpEqI (d : Fin 8) (a b : Fin 64) (m t : Fin 8) (x : Lit)
  | vcmpLtI (d : Fin 8) (a b : Fin 64) (m t : Fin 8) (x : Lit)
  | vcmpLeI (d : Fin 8) (a b : Fin 64) (m t : Fin 8) (x : Lit)
  | vcvt (d a : Fin 64) (y z : Fin 2) (s m t : Fin 8) (x : Lit)
  | vpack (d a b : Fin 64) (m t : Fin 8) (x : Lit)
  | vunpk (d a b : Fin 64) (m t : Fin 8) (x : Lit)
  | vsplit (d a b : Fin 64) (x : BitVec 32)
  | vclz (d a : Fin 64) (m t : Fin 8) (x : Lit)
  | vrcmb (d a g : Fin 64) (x : BitVec 32)
  | vamax (d a : Fin 64) (m t : Fin 8) (x : Lit)
  | vrsumF (d a : Fin 64) (m t : Fin 8) (x : Lit)
  | vrmaxF (d a : Fin 64) (m t : Fin 8) (x : Lit)
  | vrsumI (d a : Fin 64) (m t : Fin 8) (x : Lit)
  | vrmaxI (d a : Fin 64) (m t : Fin 8) (x : Lit)
  | vmov (d a : Fin 64) (m t : Fin 8) (x : Lit)
  | vsel (d a b : Fin 64) (m t : Fin 8) (x : Lit)
  | vbcst (d a : Fin 64) (m t : Fin 8)
  | vext (d a n : Fin 64) (t : Fin 8) (x : Lit)
  | vins (d a n : Fin 64) (t : Fin 8)
  | mskpsh (a : Fin 8)
  | mskinv
  | mskpop
  | mskand (d a b : Fin 8)
  | mskor (d a b : Fin 8)
  | mskmov (d a : Fin 8)
  | viota (d : Fin 64) (m t : Fin 8)
  | vscalb (d a b : Fin 64) (m t : Fin 8) (x : Lit)
  -- Z slot: matrix beats (R140, R141)
  | xcfg (a b : Fin 8)
  | xcfgSl (s : Fin 8)
  | xacq
  | xrel
  | xpushA (k : Fin 32) (a b : Fin 64)
  | xpushW (k : Fin 32) (a b : Fin 64)
  | xflip
  | xshift
  | xscl (r : Fin 64) (s : Fin 8)
  | xacc (t : Fin 8) (a b : Fin 64)
  | xdrain (t : Fin 8) (a b : Fin 64) (m : Fin 8)
  | xzero (t : Fin 8)
  | xwait
  | xres (r : Fin 64)
  | xmpc (r : Fin 64)
  | xhdr (t : Fin 8) (a b : Fin 64) (m : Fin 8)
  | xsete (t : Fin 8) (a : Fin 64)
  | xclrf (t : Fin 8)
  | xmark (t : Fin 8) (a b : Fin 64) (m : Fin 2)
  -- A slot: asynchronous engines and synchronisation (R142–R144)
  | fadd (k : Fin 32) (a : Fin 64) (s : Fin 8)
  | fwait (k : Fin 32) (a : Fin 64) (s : Fin 8)
  | binit (k : Fin 32) (a : Fin 64) (s : Fin 8)
  | barrive (k : Fin 32) (a : Fin 64) (s : Fin 8)
  | bwait (k : Fin 32) (a : Fin 64) (s : Fin 8)
  | babort (k : Fin 32) (a : Fin 64) (s : Fin 8)
  | gjoin (k : Fin 32) (a : Fin 64)
  | gleave (k : Fin 32) (a : Fin 64)
  | fence (s : Fin 8)
  | qfence (q : BitVec 19)
  | ald (d : Fin 64) (k : Fin 32) (a : Fin 64) (s : Fin 8) (z : Fin 2) (l : Lit)
  | ast (d : Fin 64) (k : Fin 32) (a : Fin 64) (s : Fin 8) (z : Fin 2) (l : Lit)
  | aadd (d : Fin 64) (k : Fin 32) (a : Fin 64) (u s : Fin 8) (z : Fin 2) (l : Lit)
  | aand (d : Fin 64) (k : Fin 32) (a : Fin 64) (u s : Fin 8) (z : Fin 2) (l : Lit)
  | aor (d : Fin 64) (k : Fin 32) (a : Fin 64) (u s : Fin 8) (z : Fin 2) (l : Lit)
  | axor (d : Fin 64) (k : Fin 32) (a : Fin 64) (u s : Fin 8) (z : Fin 2) (l : Lit)
  | amin (d : Fin 64) (k : Fin 32) (a : Fin 64) (u s : Fin 8) (z : Fin 2) (l : Lit)
  | amax (d : Fin 64) (k : Fin 32) (a : Fin 64) (u s : Fin 8) (z : Fin 2) (l : Lit)
  | aminn (d : Fin 64) (k : Fin 32) (a : Fin 64) (u s : Fin 8) (z : Fin 2) (l : Lit)
  | amaxn (d : Fin 64) (k : Fin 32) (a : Fin 64) (u s : Fin 8) (z : Fin 2) (l : Lit)
  | axchg (d : Fin 64) (k : Fin 32) (a : Fin 64) (u s : Fin 8) (z : Fin 2) (l : Lit)
  | acas (d : Fin 64) (k : Fin 32) (a : Fin 64) (u s : Fin 8) (z : Fin 2) (l : Lit)
  | amaxrs (d : Fin 64) (k : Fin 32) (a : Fin 64) (u s : Fin 8) (z : Fin 2) (l : Lit)
  | ascAdd (d : Fin 64) (k : Fin 32) (a : Fin 64) (z : Fin 2) (l : Lit)
  | ascXchg (d : Fin 64) (k : Fin 32) (a : Fin 64) (z : Fin 2) (l : Lit)
  | ascCas (d : Fin 64) (k : Fin 32) (a : Fin 64) (z : Fin 2) (l : Lit)
  | ascLd (d : Fin 64) (k : Fin 32) (a : Fin 64) (z : Fin 2) (l : Lit)
  | ascSt (d : Fin 64) (k : Fin 32) (a : Fin 64) (z : Fin 2) (l : Lit)
  | ascMax (d : Fin 64) (k : Fin 32) (a : Fin 64) (z : Fin 2) (l : Lit)
  | cpy (s d : Fin 32) (a : Fin 64) (b : Option (Fin 32))
  | cpys (s d : Fin 32) (a : Fin 64) (b : Option (Fin 32))
  | cpyg (s d : Fin 32) (a : Fin 64) (b : Option (Fin 32))
  | cpycb (s : Fin 32) (h : Fin 16) (a : Fin 64) (b : Option (Fin 32))
  | rput (e : Fin 16) (c k : Fin 32) (a : Fin 64) (b : Option (Fin 32))
  | rputf (e : Fin 16) (c k : Fin 32) (a : Fin 64) (b : Option (Fin 32))
  | rputs (e : Fin 16) (c k : Fin 32) (a : Fin 64) (b : Option (Fin 32))
  | rsemadd (e : Fin 16) (k : Fin 32) (a : Fin 64)
  | rpull (e : Fin 16) (c k : Fin 32) (a : Fin 64) (b : Option (Fin 32))
  | rputsf (e : Fin 16) (c k : Fin 32) (a : Fin 64) (b : Option (Fin 32))
  -- the empty bundle (R118) and the hint opcodes of every slot (R145)
  | nop
  | hint (k : SlotKind) (o : Fin 16) (p : BitVec 24) (l : Lit)
  -- steps of the other agents of the machine and of its inputs (no encoding; 95_what_each_step_holds.md)
  | imageLoad (f : Nat) (img : List (BitVec 8))
  | unload (inst : Nat)
  | unloadComplete (inst : Nat)
  | launchSlotWrite (f : Nat) (q : SlotRef) (w : Nat) (v : BitVec 64)
  | walkStart (q : SlotRef)
  | skeinNodeVisit (q : SlotRef) (n : Nat)
  | joinNodeVisit (q : SlotRef) (n : Nat)
  | conditionalNodeVisit (q : SlotRef) (n : Nat)
  | whileNodeVisit (q : SlotRef) (n : Nat)
  | flagNodeVisit (q : SlotRef) (n : Nat)
  | leaseEstablish (l : Nat) (granted : Bool)
  | routerTableLoad (l : Nat)
  | taskPlace (l : Nat)
  | completionRecordWrite (core : Nat) (task : Nat)
  | skeinNodeComplete (l : Nat)
  | descriptorWrite (f : Nat) (d : BitVec 1024)
  | create (f : Nat)
  | wheelMaskWrite (p : Nat) (mask : BitVec 256)
  | tokenRefill
  | releaseRequest (f : Nat) (destroy : Bool)
  | functionLevelReset (f : Nat)
  | releaseQuiesced (f : Nat)
  | zeroingComplete (f : Nat)
  | registerWrite (r : FwReg) (v : Nat)
  | arbiterCycle (core : Nat)
  | resultLand (id : Nat)
  | loadReturn (n : Nat)
  | divideComplete (n : Nat)
  | mkeyCreate (f : Nat)
  | slotZeroise (slot : Nat)
  | rotate (slot : Nat) (ranges : List (Nat × Nat))
  | rotationSweepLine (slot : Nat)
  | updateStage (img : List (BitVec 8))
  | updateSwitch (handover : List (BitVec 8)) (version : Nat)
  | heartbeat
  | updateTrialTimeout
  | updateCommit
  | bootrecClear (mask : BitVec 64)
  | spindleQuiesce (die : Nat)
  | getVersion (f : Nat)
  | getCapabilities (f : Nat)
  | negotiateAlgorithms (f : Nat)
  | getDigests (f : Nat)
  | getCertificate (f : Nat) (certSlot : Nat)
  | challenge (f : Nat)
  | getMeasurements (f : Nat) (index : Nat)
  | keyExchange (f : Nat)
  | finish (f : Nat) (sess : Nat)
  | spdmHeartbeat (f : Nat) (sess : Nat)
  | keyUpdate (f : Nat) (sess : Nat)
  | endSession (f : Nat) (sess : Nat)
  | chunkGet (f : Nat)
  | sealProvision (f : Nat) (sess : Nat) (slot : Nat) (olines : BitVec 48) (key : BitVec 512) (pdigest : BitVec 256) (rot : Bool)
  | sealRevoke (f : Nat) (sess : Nat) (slot : Nat)
  | spdmUnsupportedRequest (f : Nat)
  | sealedSlotTransfer (slot : Nat) (peer : Measured) (load : Option SealedKey)
  | slotTransferConfirm (slot : Nat)
  | xpushAPerform (core : Nat)
  | xpushWPerform (core : Nat)
  | xflipPerform (core : Nat)
  | xsclPerform (core : Nat)
  | xshiftPerform (core : Nat)
  | xaccPerform (core : Nat)
  | xdrainPerform (core : Nat)
  | xzeroPerform (core : Nat)
  | xsetePerform (core : Nat)
  | xclrfPerform (core : Nat)
  | xmarkPerform (core : Nat)
  | xcfgPerform (core : Nat)
  | arrayAcquire (core : Nat)
  | xrelComplete (id : Nat)
  | fwaitComplete (id : Nat)
  | bwaitComplete (id : Nat)
  | cbwaitComplete (id : Nat)
  | xwaitComplete (id : Nat)
  | tlockComplete (id : Nat)
  | copyBeat (n : Nat)
  | cbEscape (core : Nat)
  | heatSweep (cluster : Nat)
  | shootdown (f : Nat) (space : Nat) (va : Nat)
  | dirtyHarvest (f : Nat) (va : Nat)
  | discardReclaim (f : Nat) (va : Nat)
  | writePropagate (n : Nat)
  | atomicPerform (n : Nat)
  | qntFlush (n : Nat)
  | ascPerform (n : Nat)
  | fenceComplete (id : Nat)
  | qfenceComplete (id : Nat)
  | groupDrainComplete (l1 : Nat) (slot : Nat)
  | remoteChannelEntry (n : Nat)
  | put (src : PortSrc)
  | putf (src : PortSrc)
  | putfFlagAdd (n : Nat)
  | semadd (src : PortSrc)
  | pullreq (src : PortSrc)
  | pulldata (n : PortOp) (data : List (BitVec 8))
  | ack (n : PortOp) (r : Nat)
  | nack (n : PortOp) (r : Nat) (reason : Nat)
  | rankEntryWrite (l1 : Nat) (job : Nat) (rank : Nat) (v : BitVec 64)
  | holdDrainReport (l1 : Nat) (job : Nat) (rank : Nat)
  | flitTagFail (f : TagFail)
  | linkRekey (port : Nat)
  | rankLost (l1 : Nat) (job : Nat) (rank : Nat)
  | pageRequestResponse (f : Nat) (page : Nat) (gen : BitVec 6) (epoch : BitVec 3) (ok : Bool)
  | hostTranslationInvalidate (f : Nat) (page : Nat)
  | hostWrite (f : Nat) (space : Nat) (addr : Nat) (data : List (BitVec 8))
  | hostRead (f : Nat) (space : Nat) (addr : Nat) (len : Nat)
  | intpost (f : Nat) (w : BitVec 64)
  | trapEntry (id : Nat)
  | timer (id : Nat)
  | interrupt (id : Nat)
  | preemptRequest (id : Nat)
  | preempt (id : Nat)
  | gracefulPreemptRequest (id : Nat) (g : BitVec 32)
  | graceExpire (id : Nat)
  | switchIn (id : Nat)
  | debugAttach (id : Nat)
  | debugResume (id : Nat)
  | debugRead (id : Nat) (plane : Bool) (off : Nat)
  | machineCheck (unit : Nat) (addr : BitVec 64) (who : CheckBy)
  | clusterGate (c : Nat)
  | clusterWake (c : Nat)
  | capWrite (c : Nat) (v : Nat)
  | freqChange (c : Nat) (r : Sensors)
  | deviceStart (t : StartTest)
  | powerLoss
  | linkReturn (port : Nat)
  | spindleResume (die : Nat)
  | reEncryptingMove (src : Nat) (dst : MoveTo)
  | debugDetach (id : Nat)
  | lostChannelPair (i : Nat)
  deriving DecidableEq, Repr

end Sys2Proof
end

