-- ==== Sys2Proof/WellFormed.lean ====
section
/-!
DEFINITION. Which operand values an instruction's encoding admits: the reserved values, the type, scope, use, block,
modifier and special-register restrictions of R124–R144, R194 and R421. An encoding that breaks one raises 0x01.
-/

namespace Sys2Proof

/-- A class-F type code (R127). -/
def tyF (t : Fin 8) : Bool := decide (t.val ≤ 3)
/-- A class-I type code: every code is one (R127). -/
def tyI (_t : Fin 8) : Bool := true
/-- A class-B type or width code (R127). -/
def tyB (t : Fin 8) : Bool := decide (t.val ≤ 5)
/-- The lanes of a class-F type (R279). -/
def lanesF (t : Fin 8) : Nat := if t.val = 3 then 32 else 64
/-- The lanes of a class-I type (R279). -/
def lanesI (t : Fin 8) : Nat := if t.val % 4 = 3 then 32 else 64
/-- The lanes of a VCVT type: class 0 is I, class 1 is F (R138). -/
def lanesOf (z : Fin 2) (t : Fin 8) : Nat := if z.val = 0 then lanesI t else lanesF t
/-- A type code of a VCVT class (R138, R127). -/
def tyOk (z : Fin 2) (t : Fin 8) : Bool := if z.val = 0 then tyI t else tyF t
/-- A SCOPE field (R128). -/
def scopeOk (s : Fin 8) : Bool := decide (s.val ≤ 4)
/-- A USE field (R129). -/
def useOk (u : Fin 8) : Bool := decide (u.val ≤ 5)
/-- An operand block of `n` registers that stays within g63 (R125). -/
def blockOk (a : Fin 64) (n : Nat) : Bool := decide (a.val + n ≤ 64)
/-- A block with the barrier offset after it where a barrier record is attached (R143). -/
def blockBarOk (a : Fin 64) (n : Nat) (b : Option (Fin 32)) : Bool :=
  match b with
  | none => blockOk a n
  | some _ => blockOk a (n + 1)
/-- NEXT may not name g1–g4 or g6 (R194). -/
def nextFlagOk (d : Fin 64) : Bool :=
  decide (d.val ≠ 1) && decide (d.val ≠ 2) && decide (d.val ≠ 3) && decide (d.val ≠ 4) && decide (d.val ≠ 6)
/-- The special registers MFSR may name (R421). -/
def srReadable (n : Nat) : Bool := decide (n ≤ 0x10) || (decide (0x20 ≤ n) && decide (n ≤ 0x2F))
/-- The special registers MTSR may name (R421). -/
def srWritable (n : Nat) : Bool :=
  decide (n = 5) || (decide (0xD ≤ n) && decide (n ≤ 0xF)) || (decide (0x20 ≤ n) && decide (n ≤ 0x2F))

/-- One 12-bit source modifier for a type of `lanes` lanes (R130): class, segment field, distance. -/
def modFieldOk (lanes m : Nat) : Bool :=
  if m / 1024 % 4 = 0 then decide (m % 1024 = 0)
  else decide (m % 2 = 0) && decide (m / 128 % 8 ≠ 7) && decide (m / 2 % 64 < 2 ^ (m / 128 % 8))
    && decide (2 ^ (m / 128 % 8) ≤ lanes)

/-- The modifier literal of an instruction that uses `nsrc` of VA, VB (R130). -/
def modOk (nsrc lanes : Nat) (x : Lit) : Bool :=
  match x with
  | none => true
  | some l =>
    let n := l.toNat
    decide (n < 2 ^ 24) && modFieldOk lanes (n % 4096) && modFieldOk lanes (n / 4096)
      && (decide (nsrc = 2) || decide (n / 4096 = 0))

/-- The literal of VSPLIT (R138): slice index, type, mask destination 1–7. -/
def splitLitOk (x : BitVec 32) : Bool := decide (x.toNat < 128) && decide (x.toNat / 16 % 8 ≠ 0)
/-- The literal of VRCMB (R138): slice count − 1, first tile, type. -/
def rcmbLitOk (x : BitVec 32) : Bool :=
  decide (x.toNat < 128) && decide (x.toNat / 8 % 8 + x.toNat % 8 ≤ 7)

/-- The operand values an instruction's encoding admits. Steps of other agents have no encoding and no restriction. -/
def wf : Instr → Bool
  | .br _ => true
  | .bl _ _ => true
  | .beqz _ _ => true
  | .bnez _ _ => true
  | .bltz _ _ => true
  | .bgez _ _ => true
  | .bgtz _ _ => true
  | .blez _ _ => true
  | .bmz _ => true
  | .jr _ => true
  | .jlr _ _ => true
  | .tail => true
  | .next d => nextFlagOk d
  | .steal _ => true
  | .chkG _ => true
  | .chkV _ => true
  | .trap _ => true
  | .eret => true
  | .mfsr _ n => srReadable n.toNat
  | .mtsr _ n => srWritable n.toNat
  | .featq _ _ _ => true
  | .idle => true
  | .dbrk _ => true
  | .prack => true
  | .mcrd _ _ w => decide (w.toNat < 8)
  | .add _ _ _ => true
  | .sub _ _ _ => true
  | .addi _ _ _ => true
  | .and _ _ _ => true
  | .or _ _ _ => true
  | .xor _ _ _ => true
  | .andi _ _ _ => true
  | .ori _ _ _ => true
  | .xori _ _ _ => true
  | .shl _ _ _ => true
  | .shr _ _ _ => true
  | .sar _ _ _ => true
  | .shli _ _ _ => true
  | .shri _ _ _ => true
  | .sari _ _ _ => true
  | .mul _ _ _ => true
  | .mulh _ _ _ => true
  | .mulhn _ _ _ => true
  | .div _ _ _ => true
  | .divn _ _ _ => true
  | .rem _ _ _ => true
  | .remn _ _ _ => true
  | .cmpeq _ _ _ => true
  | .cmpne _ _ _ => true
  | .cmplt _ _ _ => true
  | .cmpltn _ _ _ => true
  | .cmple _ _ _ => true
  | .cmplen _ _ _ => true
  | .cmpeqi _ _ _ => true
  | .cmplti _ _ _ => true
  | .sel _ _ _ _ => true
  | .min _ _ _ => true
  | .max _ _ _ => true
  | .minn _ _ _ => true
  | .maxn _ _ _ => true
  | .clz _ _ => true
  | .ctz _ _ => true
  | .popc _ _ => true
  | .sext _ _ _ => true
  | .zext _ _ _ => true
  | .extr _ _ h o => decide (o.val ≤ h.val)
  | .inshi _ _ _ => true
  | .cnarrow d _ _ _ => decide (d.val ≠ 0)
  | .cperm d _ _ => decide (d.val ≠ 0)
  | .cget _ _ s => decide (s.toNat < 6)
  | .cmov d _ => decide (d.val ≠ 0)
  | .cclr d => decide (d.val ≠ 0)
  | .cchk _ _ _ _ => true
  | .ldI8 _ _ _ _ => true
  | .ldN8 _ _ _ _ => true
  | .ldI16 _ _ _ _ => true
  | .ldN16 _ _ _ _ => true
  | .ldI32 _ _ _ _ => true
  | .ldN32 _ _ _ _ => true
  | .ldI64 _ _ _ _ => true
  | .stI8 _ _ _ _ => true
  | .stI16 _ _ _ _ => true
  | .stI32 _ _ _ _ => true
  | .stI64 _ _ _ _ => true
  | .lds _ _ _ _ => true
  | .vld _ _ _ _ => true
  | .vst _ _ _ _ => true
  | .vlds _ _ _ _ => true
  | .vldx _ _ _ w _ _ z _ => !(decide (w.val = 3) && decide (z.val = 0))
  | .vstx _ _ _ w _ _ z _ => !(decide (w.val = 3) && decide (z.val = 0))
  | .vldm d _ _ _ => decide (d.val ≠ 0)
  | .vstm d _ _ _ => decide (d.val ≠ 0)
  | .cld d _ _ _ => decide (d.val ≠ 0)
  | .cst _ _ _ _ => true
  | .tlock _ _ _ => true
  | .tunlk _ _ _ => true
  | .cbset _ _ _ => true
  | .cbwaitC _ _ => true
  | .cbwaitP _ _ => true
  | .cbadvC _ _ => true
  | .cbadvP _ _ => true
  | .vaddF _ _ _ _ t x => tyF t && modOk 2 (lanesF t) x
  | .vsubF _ _ _ _ t x => tyF t && modOk 2 (lanesF t) x
  | .vmulF _ _ _ _ t x => tyF t && modOk 2 (lanesF t) x
  | .vfma _ _ _ _ t x => tyF t && modOk 2 (lanesF t) x
  | .vfnma _ _ _ _ t x => tyF t && modOk 2 (lanesF t) x
  | .vminF _ _ _ _ t x => tyF t && modOk 2 (lanesF t) x
  | .vmaxF _ _ _ _ t x => tyF t && modOk 2 (lanesF t) x
  | .vabs _ _ _ t x => tyF t && modOk 1 (lanesF t) x
  | .vneg _ _ _ t x => tyF t && modOk 1 (lanesF t) x
  | .vrcp _ _ _ t x => tyF t && modOk 1 (lanesF t) x
  | .vrsq _ _ _ t x => tyF t && modOk 1 (lanesF t) x
  | .vexp2 _ _ _ t x => tyF t && modOk 1 (lanesF t) x
  | .vlog2 _ _ _ t x => tyF t && modOk 1 (lanesF t) x
  | .vcmpEqF d _ _ _ t x => tyF t && modOk 2 (lanesF t) x && decide (d.val ≠ 0)
  | .vcmpLtF d _ _ _ t x => tyF t && modOk 2 (lanesF t) x && decide (d.val ≠ 0)
  | .vcmpLeF d _ _ _ t x => tyF t && modOk 2 (lanesF t) x && decide (d.val ≠ 0)
  | .vaddI _ _ _ _ t x => tyI t && modOk 2 (lanesI t) x
  | .vsubI _ _ _ _ t x => tyI t && modOk 2 (lanesI t) x
  | .vmulI _ _ _ _ t x => tyI t && modOk 2 (lanesI t) x
  | .vmad _ _ _ _ t x => tyI t && modOk 2 (lanesI t) x
  | .vadds _ _ _ _ t x => tyI t && modOk 2 (lanesI t) x
  | .vsubs _ _ _ _ t x => tyI t && modOk 2 (lanesI t) x
  | .vminI _ _ _ _ t x => tyI t && modOk 2 (lanesI t) x
  | .vmaxI _ _ _ _ t x => tyI t && modOk 2 (lanesI t) x
  | .vand _ _ _ _ t x => tyI t && modOk 2 (lanesI t) x
  | .vor _ _ _ _ t x => tyI t && modOk 2 (lanesI t) x
  | .vxor _ _ _ _ t x => tyI t && modOk 2 (lanesI t) x
  | .vshl _ _ _ _ t x => tyI t && modOk 2 (lanesI t) x
  | .vshr _ _ _ _ t x => tyI t && modOk 2 (lanesI t) x
  | .vcmpEqI d _ _ _ t x => tyI t && modOk 2 (lanesI t) x && decide (d.val ≠ 0)
  | .vcmpLtI d _ _ _ t x => tyI t && modOk 2 (lanesI t) x && decide (d.val ≠ 0)
  | .vcmpLeI d _ _ _ t x => tyI t && modOk 2 (lanesI t) x && decide (d.val ≠ 0)
  | .vcvt _ _ y z s _ t x => tyOk y t && tyOk z s && modOk 1 (lanesOf z s) x
  | .vpack _ _ _ _ t x => tyB t && modOk 2 (64) x
  | .vunpk _ _ _ _ t x => tyB t && modOk 2 (64) x
  | .vsplit _ _ _ x => splitLitOk x
  | .vclz _ _ _ t x => tyI t && modOk 1 (lanesI t) x
  | .vrcmb _ _ _ x => rcmbLitOk x
  | .vamax _ _ _ t x => tyF t && modOk 1 (lanesF t) x
  | .vrsumF _ _ _ t x => tyF t && modOk 1 (lanesF t) x
  | .vrmaxF _ _ _ t x => tyF t && modOk 1 (lanesF t) x
  | .vrsumI _ _ _ t x => tyI t && modOk 1 (lanesI t) x
  | .vrmaxI _ _ _ t x => tyI t && modOk 1 (lanesI t) x
  | .vmov _ _ _ t x => tyI t && modOk 1 (lanesI t) x
  | .vsel _ _ _ _ t x => tyI t && modOk 2 (lanesI t) x
  | .vbcst _ _ _ _ => true
  | .vext _ _ n t x => decide (n.val < lanesI t) && modOk 1 (lanesI t) x
  | .vins _ _ n t => decide (n.val < lanesI t)
  | .mskpsh _ => true
  | .mskinv => true
  | .mskpop => true
  | .mskand d _ _ => decide (d.val ≠ 0)
  | .mskor d _ _ => decide (d.val ≠ 0)
  | .mskmov d _ => decide (d.val ≠ 0)
  | .viota _ _ _ => true
  | .vscalb _ _ _ _ t x => tyF t && modOk 2 (lanesF t) x
  | .xcfg a b => tyB a && tyB b
  | .xcfgSl _ => true
  | .xacq => true
  | .xrel => true
  | .xpushA _ _ _ => true
  | .xpushW _ _ _ => true
  | .xflip => true
  | .xshift => true
  | .xscl _ _ => true
  | .xacc _ _ _ => true
  | .xdrain _ _ _ _ => true
  | .xzero _ => true
  | .xwait => true
  | .xres r => decide (r.val < 62)
  | .xmpc _ => true
  | .xhdr _ _ b m => decide (m.val ≤ 2) && (decide (m.val ≠ 0) || decide (b.val = 0))
  | .xsete _ _ => true
  | .xclrf _ => true
  | .xmark _ _ _ _ => true
  | .fadd _ a s => scopeOk s && blockOk a 2
  | .fwait _ a s => scopeOk s && blockOk a 2
  | .binit _ a s => scopeOk s && blockOk a 2
  | .barrive _ a s => scopeOk s && blockOk a 1
  | .bwait _ a s => scopeOk s && blockOk a 1
  | .babort _ a s => scopeOk s && blockOk a 1
  | .gjoin _ _ => true
  | .gleave _ _ => true
  | .fence s => scopeOk s
  | .qfence q => decide (q.toNat ≠ 0)
  | .ald _ _ _ s _ _ => scopeOk s
  | .ast _ _ _ s _ _ => scopeOk s
  | .aadd _ _ _ u s _ _ => useOk u && scopeOk s
  | .aand _ _ _ u s _ _ => useOk u && scopeOk s
  | .aor _ _ _ u s _ _ => useOk u && scopeOk s
  | .axor _ _ _ u s _ _ => useOk u && scopeOk s
  | .amin _ _ _ u s _ _ => useOk u && scopeOk s
  | .amax _ _ _ u s _ _ => useOk u && scopeOk s
  | .aminn _ _ _ u s _ _ => useOk u && scopeOk s
  | .amaxn _ _ _ u s _ _ => useOk u && scopeOk s
  | .axchg _ _ _ u s _ _ => useOk u && scopeOk s && decide (u.val ≠ 2)
  | .acas d _ _ u s _ _ => useOk u && scopeOk s && decide (u.val ≠ 2) && decide (d.val ≠ 63)
  | .amaxrs _ _ _ u s _ _ => useOk u && scopeOk s && decide (u.val ≠ 2)
  | .ascAdd _ _ _ _ _ => true
  | .ascXchg _ _ _ _ _ => true
  | .ascCas d _ _ _ _ => decide (d.val ≠ 63)
  | .ascLd _ _ _ _ _ => true
  | .ascSt _ _ _ _ _ => true
  | .ascMax _ _ _ _ _ => true
  | .cpy _ _ a b => blockBarOk a 3 b
  | .cpys _ _ a b => blockBarOk a 6 b
  | .cpyg _ _ a b => blockBarOk a 5 b
  | .cpycb _ _ a b => blockBarOk a 2 b
  | .rput _ _ _ a b => blockBarOk a 3 b
  | .rputf _ _ _ a b => blockBarOk a 5 b
  | .rputs _ _ _ a b => blockBarOk a 6 b
  | .rsemadd _ _ a => blockOk a 2
  | .rpull _ _ _ a b => blockBarOk a 3 b
  | .rputsf _ _ _ a b => blockBarOk a 8 b
  | .nop => true
  | .hint _ _ _ _ => true
  | .imageLoad _ _ => true
  | .unload _ => true
  | .unloadComplete _ => true
  | .launchSlotWrite _ _ _ _ => true
  | .walkStart _ => true
  | .skeinNodeVisit _ _ => true
  | .joinNodeVisit _ _ => true
  | .conditionalNodeVisit _ _ => true
  | .whileNodeVisit _ _ => true
  | .flagNodeVisit _ _ => true
  | .leaseEstablish _ _ => true
  | .routerTableLoad _ => true
  | .taskPlace _ => true
  | .completionRecordWrite _ _ => true
  | .skeinNodeComplete _ => true
  | .descriptorWrite _ _ => true
  | .create _ => true
  | .wheelMaskWrite _ _ => true
  | .tokenRefill => true
  | .releaseRequest _ _ => true
  | .functionLevelReset _ => true
  | .releaseQuiesced _ => true
  | .zeroingComplete _ => true
  | .registerWrite _ _ => true
  | .arbiterCycle _ => true
  | .resultLand _ => true
  | .loadReturn _ => true
  | .divideComplete _ => true
  | .mkeyCreate _ => true
  | .slotZeroise _ => true
  | .rotate _ _ => true
  | .rotationSweepLine _ => true
  | .updateStage _ => true
  | .updateSwitch _ _ => true
  | .heartbeat => true
  | .updateTrialTimeout => true
  | .updateCommit => true
  | .bootrecClear _ => true
  | .spindleQuiesce _ => true
  | .getVersion _ => true
  | .getCapabilities _ => true
  | .negotiateAlgorithms _ => true
  | .getDigests _ => true
  | .getCertificate _ _ => true
  | .challenge _ => true
  | .getMeasurements _ _ => true
  | .keyExchange _ => true
  | .finish _ _ => true
  | .spdmHeartbeat _ _ => true
  | .keyUpdate _ _ => true
  | .endSession _ _ => true
  | .chunkGet _ => true
  | .sealProvision _ _ _ _ _ _ _ => true
  | .sealRevoke _ _ _ => true
  | .spdmUnsupportedRequest _ => true
  | .sealedSlotTransfer _ _ _ => true
  | .slotTransferConfirm _ => true
  | .xpushAPerform _ => true
  | .xpushWPerform _ => true
  | .xflipPerform _ => true
  | .xsclPerform _ => true
  | .xshiftPerform _ => true
  | .xaccPerform _ => true
  | .xdrainPerform _ => true
  | .xzeroPerform _ => true
  | .xsetePerform _ => true
  | .xclrfPerform _ => true
  | .xmarkPerform _ => true
  | .xcfgPerform _ => true
  | .arrayAcquire _ => true
  | .xrelComplete _ => true
  | .fwaitComplete _ => true
  | .bwaitComplete _ => true
  | .cbwaitComplete _ => true
  | .xwaitComplete _ => true
  | .tlockComplete _ => true
  | .copyBeat _ => true
  | .cbEscape _ => true
  | .heatSweep _ => true
  | .shootdown _ _ _ => true
  | .dirtyHarvest _ _ => true
  | .discardReclaim _ _ => true
  | .writePropagate _ => true
  | .atomicPerform _ => true
  | .qntFlush _ => true
  | .ascPerform _ => true
  | .fenceComplete _ => true
  | .qfenceComplete _ => true
  | .groupDrainComplete _ _ => true
  | .remoteChannelEntry _ => true
  | .put _ => true
  | .putf _ => true
  | .putfFlagAdd _ => true
  | .semadd _ => true
  | .pullreq _ => true
  | .pulldata _ _ => true
  | .ack _ _ => true
  | .nack _ _ _ => true
  | .rankEntryWrite _ _ _ _ => true
  | .holdDrainReport _ _ _ => true
  | .flitTagFail _ => true
  | .linkRekey _ => true
  | .rankLost _ _ _ => true
  | .pageRequestResponse _ _ _ _ _ => true
  | .hostTranslationInvalidate _ _ => true
  | .hostWrite _ _ _ _ => true
  | .hostRead _ _ _ _ => true
  | .intpost _ _ => true
  | .trapEntry _ => true
  | .timer _ => true
  | .interrupt _ => true
  | .preemptRequest _ => true
  | .preempt _ => true
  | .gracefulPreemptRequest _ _ => true
  | .graceExpire _ => true
  | .switchIn _ => true
  | .debugAttach _ => true
  | .debugResume _ => true
  | .debugRead _ _ _ => true
  | .machineCheck _ _ _ => true
  | .clusterGate _ => true
  | .clusterWake _ => true
  | .capWrite _ _ => true
  | .freqChange _ _ => true
  | .deviceStart _ => true
  | .powerLoss => true
  | .linkReturn _ => true
  | .spindleResume _ => true
  | .reEncryptingMove _ _ => true
  | .debugDetach _ => true
  | .lostChannelPair _ => true

end Sys2Proof
end

