-- ==== Sys2Proof/Decode.lean ====
section
/-!
DEFINITION. Decoding of bundles and slot words (06_bundles_and_encodings.md), total on any bytes and rejecting by fault
code, and the encoder written from the same tables. A slot word is read by the opcode map into an instruction, which
stands only if it is well formed and encodes back to the very word: that is the zero-field check of R146.
-/

namespace Sys2Proof

/-- Low 3 bits. -/
def fin8 (n : Nat) : Fin 8 := ⟨n % 8, Nat.mod_lt _ (by decide)⟩
/-- Low bit. -/
def fin2 (n : Nat) : Fin 2 := ⟨n % 2, Nat.mod_lt _ (by decide)⟩
/-- Low 2 bits. -/
def fin4 (n : Nat) : Fin 4 := ⟨n % 4, Nat.mod_lt _ (by decide)⟩
/-- Low 4 bits. -/
def fin16 (n : Nat) : Fin 16 := ⟨n % 16, Nat.mod_lt _ (by decide)⟩
/-- Low 5 bits. -/
def fin32 (n : Nat) : Fin 32 := ⟨n % 32, Nat.mod_lt _ (by decide)⟩
/-- Low 6 bits. -/
def fin64 (n : Nat) : Fin 64 := ⟨n % 64, Nat.mod_lt _ (by decide)⟩
/-- Low `k` bits as a bit vector. -/
def bits (k n : Nat) : BitVec k := BitVec.ofNat k n

/-- The immediate of an `n`-bit field, replaced by the literal where one follows (R132, R134, R136). -/
def immOf (n : Nat) (field : Nat) (l : Lit) : Imm n :=
  match l with
  | some x => .long x
  | none => .short (BitVec.ofNat n field)
/-- The bits an immediate puts into its field: zero beside a literal. -/
def Imm.field {n : Nat} : Imm n → Nat
  | .short i => i.toNat
  | .long _ => 0
/-- The literal an immediate needs. -/
def Imm.lit {n : Nat} : Imm n → Lit
  | .short _ => none
  | .long l => some l
/-- The barrier record's k register, from the literal (R143). -/
def barOf (l : Lit) : Option (Fin 32) := l.map fun x => fin32 x.toNat
/-- The BA bit (R143). -/
def barBit : Option (Fin 32) → Nat
  | none => 0
  | some _ => 1
/-- The literal that names the barrier record's k register (R143). -/
def barLit : Option (Fin 32) → Lit
  | none => none
  | some k => some (BitVec.ofNat 32 k.val)

/-- What a slot instruction encodes to. -/
structure Encoding where
  kind : SlotKind
  op : Nat
  body : Nat
  lit : Lit
  deriving DecidableEq, Repr

/-- The C-slot map (R133): fields of body `w` and literal `l` under opcode `op`, before the zero-field and reserved-value checks. -/
def readC (op w : Nat) (l : Lit) : Option Instr :=
  match op with
  | 0 => some (.br (immOf 18 (w) l))
  | 1 => some (.bl (fin64 (w / 262144)) (immOf 18 (w) l))
  | 2 => some (.beqz (fin64 (w / 262144)) (immOf 18 (w) l))
  | 3 => some (.bnez (fin64 (w / 262144)) (immOf 18 (w) l))
  | 4 => some (.bltz (fin64 (w / 262144)) (immOf 18 (w) l))
  | 5 => some (.bgez (fin64 (w / 262144)) (immOf 18 (w) l))
  | 6 => some (.bgtz (fin64 (w / 262144)) (immOf 18 (w) l))
  | 7 => some (.blez (fin64 (w / 262144)) (immOf 18 (w) l))
  | 8 => some (.bmz (immOf 18 (w) l))
  | 9 => some (.jr (fin64 (w / 4096)))
  | 10 => some (.jlr (fin64 (w / 262144)) (fin64 (w / 4096)))
  | 11 => some (.tail)
  | 12 => some (.next (fin64 (w / 262144)))
  | 13 => some (.steal (fin64 (w / 262144)))
  | 14 => if w / 2048 % 2 = 1 then some (.chkV (fin64 (w / 4096))) else some (.chkG (fin64 (w / 4096)))
  | 15 => some (.trap (bits 12 (w)))
  | 16 => some (.eret)
  | 17 => some (.mfsr (fin64 (w / 262144)) (bits 12 (w)))
  | 18 => some (.mtsr (fin64 (w / 4096)) (bits 12 (w)))
  | 19 => some (.featq (fin64 (w / 262144)) (fin64 (w / 4096)) (bits 12 (w)))
  | 20 => some (.idle)
  | 21 => some (.dbrk (bits 12 (w)))
  | 22 => some (.prack)
  | 23 => some (.mcrd (fin64 (w / 262144)) (fin64 (w / 4096)) (bits 12 (w)))
  | _ => none

/-- The X- and Y-slot map (R135): fields of body `w` and literal `l` under opcode `op`, before the zero-field and reserved-value checks. -/
def readX (op w : Nat) (l : Lit) : Option Instr :=
  match op with
  | 0 => some (.add (fin64 (w / 262144)) (fin64 (w / 4096)) (fin64 (w / 64)))
  | 1 => some (.sub (fin64 (w / 262144)) (fin64 (w / 4096)) (fin64 (w / 64)))
  | 2 => some (.addi (fin64 (w / 262144)) (fin64 (w / 4096)) (immOf 12 (w) l))
  | 3 => some (.and (fin64 (w / 262144)) (fin64 (w / 4096)) (fin64 (w / 64)))
  | 4 => some (.or (fin64 (w / 262144)) (fin64 (w / 4096)) (fin64 (w / 64)))
  | 5 => some (.xor (fin64 (w / 262144)) (fin64 (w / 4096)) (fin64 (w / 64)))
  | 6 => some (.andi (fin64 (w / 262144)) (fin64 (w / 4096)) (immOf 12 (w) l))
  | 7 => some (.ori (fin64 (w / 262144)) (fin64 (w / 4096)) (immOf 12 (w) l))
  | 8 => some (.xori (fin64 (w / 262144)) (fin64 (w / 4096)) (immOf 12 (w) l))
  | 9 => some (.shl (fin64 (w / 262144)) (fin64 (w / 4096)) (fin64 (w / 64)))
  | 10 => some (.shr (fin64 (w / 262144)) (fin64 (w / 4096)) (fin64 (w / 64)))
  | 11 => some (.sar (fin64 (w / 262144)) (fin64 (w / 4096)) (fin64 (w / 64)))
  | 12 => some (.shli (fin64 (w / 262144)) (fin64 (w / 4096)) (fin64 (w)))
  | 13 => some (.shri (fin64 (w / 262144)) (fin64 (w / 4096)) (fin64 (w)))
  | 14 => some (.sari (fin64 (w / 262144)) (fin64 (w / 4096)) (fin64 (w)))
  | 15 => some (.mul (fin64 (w / 262144)) (fin64 (w / 4096)) (fin64 (w / 64)))
  | 16 => some (.mulh (fin64 (w / 262144)) (fin64 (w / 4096)) (fin64 (w / 64)))
  | 17 => some (.mulhn (fin64 (w / 262144)) (fin64 (w / 4096)) (fin64 (w / 64)))
  | 18 => some (.div (fin64 (w / 262144)) (fin64 (w / 4096)) (fin64 (w / 64)))
  | 19 => some (.divn (fin64 (w / 262144)) (fin64 (w / 4096)) (fin64 (w / 64)))
  | 20 => some (.rem (fin64 (w / 262144)) (fin64 (w / 4096)) (fin64 (w / 64)))
  | 21 => some (.remn (fin64 (w / 262144)) (fin64 (w / 4096)) (fin64 (w / 64)))
  | 22 => some (.cmpeq (fin64 (w / 262144)) (fin64 (w / 4096)) (fin64 (w / 64)))
  | 23 => some (.cmpne (fin64 (w / 262144)) (fin64 (w / 4096)) (fin64 (w / 64)))
  | 24 => some (.cmplt (fin64 (w / 262144)) (fin64 (w / 4096)) (fin64 (w / 64)))
  | 25 => some (.cmpltn (fin64 (w / 262144)) (fin64 (w / 4096)) (fin64 (w / 64)))
  | 26 => some (.cmple (fin64 (w / 262144)) (fin64 (w / 4096)) (fin64 (w / 64)))
  | 27 => some (.cmplen (fin64 (w / 262144)) (fin64 (w / 4096)) (fin64 (w / 64)))
  | 28 => some (.cmpeqi (fin64 (w / 262144)) (fin64 (w / 4096)) (immOf 12 (w) l))
  | 29 => some (.cmplti (fin64 (w / 262144)) (fin64 (w / 4096)) (immOf 12 (w) l))
  | 30 => some (.sel (fin64 (w / 262144)) (fin64 (w / 4096)) (fin64 (w / 64)) (fin64 (w)))
  | 31 => some (.min (fin64 (w / 262144)) (fin64 (w / 4096)) (fin64 (w / 64)))
  | 32 => some (.max (fin64 (w / 262144)) (fin64 (w / 4096)) (fin64 (w / 64)))
  | 33 => some (.minn (fin64 (w / 262144)) (fin64 (w / 4096)) (fin64 (w / 64)))
  | 34 => some (.maxn (fin64 (w / 262144)) (fin64 (w / 4096)) (fin64 (w / 64)))
  | 35 => some (.clz (fin64 (w / 262144)) (fin64 (w / 4096)))
  | 36 => some (.ctz (fin64 (w / 262144)) (fin64 (w / 4096)))
  | 37 => some (.popc (fin64 (w / 262144)) (fin64 (w / 4096)))
  | 38 => some (.sext (fin64 (w / 262144)) (fin64 (w / 4096)) (fin64 (w)))
  | 39 => some (.zext (fin64 (w / 262144)) (fin64 (w / 4096)) (fin64 (w)))
  | 40 => some (.extr (fin64 (w / 262144)) (fin64 (w / 4096)) (fin64 (w / 64)) (fin64 (w)))
  | 41 => (l.map fun y => .inshi (fin64 (w / 262144)) (fin64 (w / 4096)) y)
  | 42 => some (.cnarrow (fin32 (w / 262144)) (fin32 (w / 4096)) (fin64 (w / 64)) (fin64 (w)))
  | 43 => some (.cperm (fin32 (w / 262144)) (fin32 (w / 4096)) (bits 12 (w)))
  | 44 => some (.cget (fin64 (w / 262144)) (fin32 (w / 4096)) (bits 12 (w)))
  | 45 => some (.cmov (fin32 (w / 262144)) (fin32 (w / 4096)))
  | 46 => some (.cclr (fin32 (w / 262144)))
  | 47 => some (.cchk (fin64 (w / 262144)) (fin32 (w / 4096)) (fin64 (w / 64)) (fin64 (w)))
  | _ => none

/-- The M-slot map (R137): fields of body `w` and literal `l` under opcode `op`, before the zero-field and reserved-value checks. -/
def readM (op w : Nat) (l : Lit) : Option Instr :=
  match op with
  | 0 => some (.ldI8 (fin64 (w / 262144)) (fin32 (w / 8192)) (fin64 (w / 128)) (immOf 7 (w) l))
  | 1 => some (.ldN8 (fin64 (w / 262144)) (fin32 (w / 8192)) (fin64 (w / 128)) (immOf 7 (w) l))
  | 2 => some (.ldI16 (fin64 (w / 262144)) (fin32 (w / 8192)) (fin64 (w / 128)) (immOf 7 (w) l))
  | 3 => some (.ldN16 (fin64 (w / 262144)) (fin32 (w / 8192)) (fin64 (w / 128)) (immOf 7 (w) l))
  | 4 => some (.ldI32 (fin64 (w / 262144)) (fin32 (w / 8192)) (fin64 (w / 128)) (immOf 7 (w) l))
  | 5 => some (.ldN32 (fin64 (w / 262144)) (fin32 (w / 8192)) (fin64 (w / 128)) (immOf 7 (w) l))
  | 6 => some (.ldI64 (fin64 (w / 262144)) (fin32 (w / 8192)) (fin64 (w / 128)) (immOf 7 (w) l))
  | 7 => some (.stI8 (fin64 (w / 262144)) (fin32 (w / 8192)) (fin64 (w / 128)) (immOf 7 (w) l))
  | 8 => some (.stI16 (fin64 (w / 262144)) (fin32 (w / 8192)) (fin64 (w / 128)) (immOf 7 (w) l))
  | 9 => some (.stI32 (fin64 (w / 262144)) (fin32 (w / 8192)) (fin64 (w / 128)) (immOf 7 (w) l))
  | 10 => some (.stI64 (fin64 (w / 262144)) (fin32 (w / 8192)) (fin64 (w / 128)) (immOf 7 (w) l))
  | 11 => some (.lds (fin64 (w / 262144)) (fin32 (w / 8192)) (fin64 (w / 128)) (immOf 7 (w) l))
  | 12 => some (.vld (fin64 (w / 262144)) (fin32 (w / 8192)) (fin64 (w / 128)) (immOf 7 (w) l))
  | 13 => some (.vst (fin64 (w / 262144)) (fin32 (w / 8192)) (fin64 (w / 128)) (immOf 7 (w) l))
  | 14 => some (.vlds (fin64 (w / 262144)) (fin32 (w / 8192)) (fin64 (w / 128)) (immOf 7 (w) l))
  | 15 => some (.vldx (fin64 (w / 262144)) (fin32 (w / 8192)) (fin64 (w / 128)) (fin4 (w / 32)) (fin2 (w / 16)) (fin8 (w / 2)) (fin2 (w)) l)
  | 16 => some (.vstx (fin64 (w / 262144)) (fin32 (w / 8192)) (fin64 (w / 128)) (fin4 (w / 32)) (fin2 (w / 16)) (fin8 (w / 2)) (fin2 (w)) l)
  | 17 => some (.vldm (fin8 (w / 262144)) (fin32 (w / 8192)) (fin64 (w / 128)) (immOf 7 (w) l))
  | 18 => some (.vstm (fin8 (w / 262144)) (fin32 (w / 8192)) (fin64 (w / 128)) (immOf 7 (w) l))
  | 19 => some (.cld (fin32 (w / 262144)) (fin32 (w / 8192)) (fin64 (w / 128)) (immOf 7 (w) l))
  | 20 => some (.cst (fin32 (w / 262144)) (fin32 (w / 8192)) (fin64 (w / 128)) (immOf 7 (w) l))
  | 21 => some (.tlock (fin32 (w / 8192)) (fin64 (w / 128)) (fin64 (w / 2)))
  | 22 => some (.tunlk (fin32 (w / 8192)) (fin64 (w / 128)) (fin64 (w / 2)))
  | 23 => some (.cbset (fin16 (w / 1048576)) (fin64 (w / 4096)) (fin64 (w / 64)))
  | 24 => some (.cbwaitC (fin16 (w / 1048576)) (bits 8 (w / 4096)))
  | 25 => some (.cbwaitP (fin16 (w / 1048576)) (bits 8 (w / 4096)))
  | 26 => some (.cbadvC (fin16 (w / 1048576)) (bits 8 (w / 4096)))
  | 27 => some (.cbadvP (fin16 (w / 1048576)) (bits 8 (w / 4096)))
  | _ => none

/-- The P- and Q-slot map (R139): fields of body `w` and literal `l` under opcode `op`, before the zero-field and reserved-value checks. -/
def readV (op w : Nat) (l : Lit) : Option Instr :=
  match op with
  | 0 => some (.vaddF (fin64 (w / 262144)) (fin64 (w / 4096)) (fin64 (w / 64)) (fin8 (w / 8)) (fin8 (w)) l)
  | 1 => some (.vsubF (fin64 (w / 262144)) (fin64 (w / 4096)) (fin64 (w / 64)) (fin8 (w / 8)) (fin8 (w)) l)
  | 2 => some (.vmulF (fin64 (w / 262144)) (fin64 (w / 4096)) (fin64 (w / 64)) (fin8 (w / 8)) (fin8 (w)) l)
  | 3 => some (.vfma (fin64 (w / 262144)) (fin64 (w / 4096)) (fin64 (w / 64)) (fin8 (w / 8)) (fin8 (w)) l)
  | 4 => some (.vfnma (fin64 (w / 262144)) (fin64 (w / 4096)) (fin64 (w / 64)) (fin8 (w / 8)) (fin8 (w)) l)
  | 5 => some (.vminF (fin64 (w / 262144)) (fin64 (w / 4096)) (fin64 (w / 64)) (fin8 (w / 8)) (fin8 (w)) l)
  | 6 => some (.vmaxF (fin64 (w / 262144)) (fin64 (w / 4096)) (fin64 (w / 64)) (fin8 (w / 8)) (fin8 (w)) l)
  | 7 => some (.vabs (fin64 (w / 262144)) (fin64 (w / 4096)) (fin8 (w / 8)) (fin8 (w)) l)
  | 8 => some (.vneg (fin64 (w / 262144)) (fin64 (w / 4096)) (fin8 (w / 8)) (fin8 (w)) l)
  | 9 => some (.vrcp (fin64 (w / 262144)) (fin64 (w / 4096)) (fin8 (w / 8)) (fin8 (w)) l)
  | 10 => some (.vrsq (fin64 (w / 262144)) (fin64 (w / 4096)) (fin8 (w / 8)) (fin8 (w)) l)
  | 11 => some (.vexp2 (fin64 (w / 262144)) (fin64 (w / 4096)) (fin8 (w / 8)) (fin8 (w)) l)
  | 12 => some (.vlog2 (fin64 (w / 262144)) (fin64 (w / 4096)) (fin8 (w / 8)) (fin8 (w)) l)
  | 13 => some (.vcmpEqF (fin8 (w / 2097152)) (fin64 (w / 4096)) (fin64 (w / 64)) (fin8 (w / 8)) (fin8 (w)) l)
  | 14 => some (.vcmpLtF (fin8 (w / 2097152)) (fin64 (w / 4096)) (fin64 (w / 64)) (fin8 (w / 8)) (fin8 (w)) l)
  | 15 => some (.vcmpLeF (fin8 (w / 2097152)) (fin64 (w / 4096)) (fin64 (w / 64)) (fin8 (w / 8)) (fin8 (w)) l)
  | 16 => some (.vaddI (fin64 (w / 262144)) (fin64 (w / 4096)) (fin64 (w / 64)) (fin8 (w / 8)) (fin8 (w)) l)
  | 17 => some (.vsubI (fin64 (w / 262144)) (fin64 (w / 4096)) (fin64 (w / 64)) (fin8 (w / 8)) (fin8 (w)) l)
  | 18 => some (.vmulI (fin64 (w / 262144)) (fin64 (w / 4096)) (fin64 (w / 64)) (fin8 (w / 8)) (fin8 (w)) l)
  | 19 => some (.vmad (fin64 (w / 262144)) (fin64 (w / 4096)) (fin64 (w / 64)) (fin8 (w / 8)) (fin8 (w)) l)
  | 20 => some (.vadds (fin64 (w / 262144)) (fin64 (w / 4096)) (fin64 (w / 64)) (fin8 (w / 8)) (fin8 (w)) l)
  | 21 => some (.vsubs (fin64 (w / 262144)) (fin64 (w / 4096)) (fin64 (w / 64)) (fin8 (w / 8)) (fin8 (w)) l)
  | 22 => some (.vminI (fin64 (w / 262144)) (fin64 (w / 4096)) (fin64 (w / 64)) (fin8 (w / 8)) (fin8 (w)) l)
  | 23 => some (.vmaxI (fin64 (w / 262144)) (fin64 (w / 4096)) (fin64 (w / 64)) (fin8 (w / 8)) (fin8 (w)) l)
  | 24 => some (.vand (fin64 (w / 262144)) (fin64 (w / 4096)) (fin64 (w / 64)) (fin8 (w / 8)) (fin8 (w)) l)
  | 25 => some (.vor (fin64 (w / 262144)) (fin64 (w / 4096)) (fin64 (w / 64)) (fin8 (w / 8)) (fin8 (w)) l)
  | 26 => some (.vxor (fin64 (w / 262144)) (fin64 (w / 4096)) (fin64 (w / 64)) (fin8 (w / 8)) (fin8 (w)) l)
  | 27 => some (.vshl (fin64 (w / 262144)) (fin64 (w / 4096)) (fin64 (w / 64)) (fin8 (w / 8)) (fin8 (w)) l)
  | 28 => some (.vshr (fin64 (w / 262144)) (fin64 (w / 4096)) (fin64 (w / 64)) (fin8 (w / 8)) (fin8 (w)) l)
  | 29 => some (.vcmpEqI (fin8 (w / 2097152)) (fin64 (w / 4096)) (fin64 (w / 64)) (fin8 (w / 8)) (fin8 (w)) l)
  | 30 => some (.vcmpLtI (fin8 (w / 2097152)) (fin64 (w / 4096)) (fin64 (w / 64)) (fin8 (w / 8)) (fin8 (w)) l)
  | 31 => some (.vcmpLeI (fin8 (w / 2097152)) (fin64 (w / 4096)) (fin64 (w / 64)) (fin8 (w / 8)) (fin8 (w)) l)
  | 32 => some (.vcvt (fin64 (w / 262144)) (fin64 (w / 4096)) (fin2 (w / 2048)) (fin2 (w / 1024)) (fin8 (w / 64)) (fin8 (w / 8)) (fin8 (w)) l)
  | 33 => some (.vpack (fin64 (w / 262144)) (fin64 (w / 4096)) (fin64 (w / 64)) (fin8 (w / 8)) (fin8 (w)) l)
  | 34 => some (.vunpk (fin64 (w / 262144)) (fin64 (w / 4096)) (fin64 (w / 64)) (fin8 (w / 8)) (fin8 (w)) l)
  | 35 => (l.map fun y => .vsplit (fin64 (w / 262144)) (fin64 (w / 4096)) (fin64 (w / 64)) y)
  | 36 => some (.vclz (fin64 (w / 262144)) (fin64 (w / 4096)) (fin8 (w / 8)) (fin8 (w)) l)
  | 37 => (l.map fun y => .vrcmb (fin64 (w / 262144)) (fin64 (w / 4096)) (fin64 (w / 64)) y)
  | 38 => some (.vamax (fin64 (w / 262144)) (fin64 (w / 4096)) (fin8 (w / 8)) (fin8 (w)) l)
  | 39 => some (.vrsumF (fin64 (w / 262144)) (fin64 (w / 4096)) (fin8 (w / 8)) (fin8 (w)) l)
  | 40 => some (.vrmaxF (fin64 (w / 262144)) (fin64 (w / 4096)) (fin8 (w / 8)) (fin8 (w)) l)
  | 41 => some (.vrsumI (fin64 (w / 262144)) (fin64 (w / 4096)) (fin8 (w / 8)) (fin8 (w)) l)
  | 42 => some (.vrmaxI (fin64 (w / 262144)) (fin64 (w / 4096)) (fin8 (w / 8)) (fin8 (w)) l)
  | 43 => some (.vmov (fin64 (w / 262144)) (fin64 (w / 4096)) (fin8 (w / 8)) (fin8 (w)) l)
  | 44 => some (.vsel (fin64 (w / 262144)) (fin64 (w / 4096)) (fin64 (w / 64)) (fin8 (w / 8)) (fin8 (w)) l)
  | 45 => some (.vbcst (fin64 (w / 262144)) (fin64 (w / 4096)) (fin8 (w / 8)) (fin8 (w)))
  | 46 => some (.vext (fin64 (w / 262144)) (fin64 (w / 4096)) (fin64 (w / 64)) (fin8 (w)) l)
  | 47 => some (.vins (fin64 (w / 262144)) (fin64 (w / 4096)) (fin64 (w / 64)) (fin8 (w)))
  | 48 => some (.mskpsh (fin8 (w / 262144)))
  | 49 => some (.mskinv)
  | 50 => some (.mskpop)
  | 51 => some (.mskand (fin8 (w / 2097152)) (fin8 (w / 262144)) (fin8 (w / 32768)))
  | 52 => some (.mskor (fin8 (w / 2097152)) (fin8 (w / 262144)) (fin8 (w / 32768)))
  | 53 => some (.mskmov (fin8 (w / 2097152)) (fin8 (w / 262144)))
  | 54 => some (.viota (fin64 (w / 262144)) (fin8 (w / 8)) (fin8 (w)))
  | 55 => some (.vscalb (fin64 (w / 262144)) (fin64 (w / 4096)) (fin64 (w / 64)) (fin8 (w / 8)) (fin8 (w)) l)
  | _ => none

/-- The Z-slot map (R141): fields of body `w` and literal `l` under opcode `op`, before the zero-field and reserved-value checks. -/
def readZ (op w : Nat) (l : Lit) : Option Instr :=
  match op with
  | 0 => if w / 131072 % 2 = 1 then some (.xcfgSl (fin8 (w / 16384))) else some (.xcfg (fin8 (w / 2097152)) (fin8 (w / 262144)))
  | 1 => some (.xacq)
  | 2 => some (.xrel)
  | 3 => some (.xpushA (fin32 (w / 524288)) (fin64 (w / 8192)) (fin64 (w / 128)))
  | 4 => some (.xpushW (fin32 (w / 524288)) (fin64 (w / 8192)) (fin64 (w / 128)))
  | 5 => some (.xflip)
  | 6 => some (.xshift)
  | 7 => some (.xscl (fin64 (w / 262144)) (fin8 (w / 32768)))
  | 8 => some (.xacc (fin8 (w / 2097152)) (fin64 (w / 32768)) (fin64 (w / 512)))
  | 9 => some (.xdrain (fin8 (w / 2097152)) (fin64 (w / 32768)) (fin64 (w / 512)) (fin8 (w / 64)))
  | 10 => some (.xzero (fin8 (w / 2097152)))
  | 11 => some (.xwait)
  | 12 => some (.xres (fin64 (w / 262144)))
  | 13 => some (.xmpc (fin64 (w / 262144)))
  | 14 => some (.xhdr (fin8 (w / 2097152)) (fin64 (w / 32768)) (fin64 (w / 512)) (fin8 (w / 64)))
  | 15 => some (.xsete (fin8 (w / 2097152)) (fin64 (w / 32768)))
  | 16 => some (.xclrf (fin8 (w / 2097152)))
  | 17 => some (.xmark (fin8 (w / 2097152)) (fin64 (w / 32768)) (fin64 (w / 512)) (fin2 (w / 64)))
  | _ => none

/-- The A-slot map (R144): fields of body `w` and literal `l` under opcode `op`, before the zero-field and reserved-value checks. -/
def readA (op w : Nat) (l : Lit) : Option Instr :=
  match op with
  | 0 => some (.fadd (fin32 (w / 524288)) (fin64 (w / 8192)) (fin8 (w / 1024)))
  | 1 => some (.fwait (fin32 (w / 524288)) (fin64 (w / 8192)) (fin8 (w / 1024)))
  | 2 => some (.binit (fin32 (w / 524288)) (fin64 (w / 8192)) (fin8 (w / 1024)))
  | 3 => some (.barrive (fin32 (w / 524288)) (fin64 (w / 8192)) (fin8 (w / 1024)))
  | 4 => some (.bwait (fin32 (w / 524288)) (fin64 (w / 8192)) (fin8 (w / 1024)))
  | 5 => some (.babort (fin32 (w / 524288)) (fin64 (w / 8192)) (fin8 (w / 1024)))
  | 6 => some (.gjoin (fin32 (w / 524288)) (fin64 (w / 8192)))
  | 7 => some (.gleave (fin32 (w / 524288)) (fin64 (w / 8192)))
  | 8 => some (.fence (fin8 (w / 2097152)))
  | 9 => some (.qfence (bits 19 (w)))
  | 10 => some (.ald (fin64 (w / 262144)) (fin32 (w / 8192)) (fin64 (w / 128)) (fin8 (w / 2)) (fin2 (w)) l)
  | 11 => some (.ast (fin64 (w / 262144)) (fin32 (w / 8192)) (fin64 (w / 128)) (fin8 (w / 2)) (fin2 (w)) l)
  | 12 => some (.aadd (fin64 (w / 262144)) (fin32 (w / 8192)) (fin64 (w / 128)) (fin8 (w / 16)) (fin8 (w / 2)) (fin2 (w)) l)
  | 13 => some (.aand (fin64 (w / 262144)) (fin32 (w / 8192)) (fin64 (w / 128)) (fin8 (w / 16)) (fin8 (w / 2)) (fin2 (w)) l)
  | 14 => some (.aor (fin64 (w / 262144)) (fin32 (w / 8192)) (fin64 (w / 128)) (fin8 (w / 16)) (fin8 (w / 2)) (fin2 (w)) l)
  | 15 => some (.axor (fin64 (w / 262144)) (fin32 (w / 8192)) (fin64 (w / 128)) (fin8 (w / 16)) (fin8 (w / 2)) (fin2 (w)) l)
  | 16 => some (.amin (fin64 (w / 262144)) (fin32 (w / 8192)) (fin64 (w / 128)) (fin8 (w / 16)) (fin8 (w / 2)) (fin2 (w)) l)
  | 17 => some (.amax (fin64 (w / 262144)) (fin32 (w / 8192)) (fin64 (w / 128)) (fin8 (w / 16)) (fin8 (w / 2)) (fin2 (w)) l)
  | 18 => some (.aminn (fin64 (w / 262144)) (fin32 (w / 8192)) (fin64 (w / 128)) (fin8 (w / 16)) (fin8 (w / 2)) (fin2 (w)) l)
  | 19 => some (.amaxn (fin64 (w / 262144)) (fin32 (w / 8192)) (fin64 (w / 128)) (fin8 (w / 16)) (fin8 (w / 2)) (fin2 (w)) l)
  | 20 => some (.axchg (fin64 (w / 262144)) (fin32 (w / 8192)) (fin64 (w / 128)) (fin8 (w / 16)) (fin8 (w / 2)) (fin2 (w)) l)
  | 21 => some (.acas (fin64 (w / 262144)) (fin32 (w / 8192)) (fin64 (w / 128)) (fin8 (w / 16)) (fin8 (w / 2)) (fin2 (w)) l)
  | 22 => some (.amaxrs (fin64 (w / 262144)) (fin32 (w / 8192)) (fin64 (w / 128)) (fin8 (w / 16)) (fin8 (w / 2)) (fin2 (w)) l)
  | 23 => match w / 16 % 8 with
    | 0 => some (.ascAdd (fin64 (w / 262144)) (fin32 (w / 8192)) (fin64 (w / 128)) (fin2 (w)) l)
    | 1 => some (.ascXchg (fin64 (w / 262144)) (fin32 (w / 8192)) (fin64 (w / 128)) (fin2 (w)) l)
    | 2 => some (.ascCas (fin64 (w / 262144)) (fin32 (w / 8192)) (fin64 (w / 128)) (fin2 (w)) l)
    | 3 => some (.ascLd (fin64 (w / 262144)) (fin32 (w / 8192)) (fin64 (w / 128)) (fin2 (w)) l)
    | 4 => some (.ascSt (fin64 (w / 262144)) (fin32 (w / 8192)) (fin64 (w / 128)) (fin2 (w)) l)
    | 5 => some (.ascMax (fin64 (w / 262144)) (fin32 (w / 8192)) (fin64 (w / 128)) (fin2 (w)) l)
    | _ => none
  | 24 => some (.cpy (fin32 (w / 524288)) (fin32 (w / 16384)) (fin64 (w / 256)) (barOf l))
  | 25 => some (.cpys (fin32 (w / 524288)) (fin32 (w / 16384)) (fin64 (w / 256)) (barOf l))
  | 26 => some (.cpyg (fin32 (w / 524288)) (fin32 (w / 16384)) (fin64 (w / 256)) (barOf l))
  | 27 => some (.cpycb (fin32 (w / 524288)) (fin16 (w / 16384)) (fin64 (w / 256)) (barOf l))
  | 28 => some (.rput (fin16 (w / 1048576)) (fin32 (w / 32768)) (fin32 (w / 1024)) (fin64 (w / 16)) (barOf l))
  | 29 => some (.rputf (fin16 (w / 1048576)) (fin32 (w / 32768)) (fin32 (w / 1024)) (fin64 (w / 16)) (barOf l))
  | 30 => some (.rputs (fin16 (w / 1048576)) (fin32 (w / 32768)) (fin32 (w / 1024)) (fin64 (w / 16)) (barOf l))
  | 31 => some (.rsemadd (fin16 (w / 1048576)) (fin32 (w / 1024)) (fin64 (w / 16)))
  | 32 => some (.rpull (fin16 (w / 1048576)) (fin32 (w / 32768)) (fin32 (w / 1024)) (fin64 (w / 16)) (barOf l))
  | 33 => some (.rputsf (fin16 (w / 1048576)) (fin32 (w / 32768)) (fin32 (w / 1024)) (fin64 (w / 16)) (barOf l))
  | _ => none

/-- The encoding of a slot instruction: kind, opcode, body bits [23:0] and literal (R132–R144). Steps of other agents and
the empty bundle have none. -/
def enc : Instr → Option Encoding
  | .br d => some ⟨.c, 0, d.field, d.lit⟩
  | .bl g d => some ⟨.c, 1, g.val * 262144 + d.field, d.lit⟩
  | .beqz g d => some ⟨.c, 2, g.val * 262144 + d.field, d.lit⟩
  | .bnez g d => some ⟨.c, 3, g.val * 262144 + d.field, d.lit⟩
  | .bltz g d => some ⟨.c, 4, g.val * 262144 + d.field, d.lit⟩
  | .bgez g d => some ⟨.c, 5, g.val * 262144 + d.field, d.lit⟩
  | .bgtz g d => some ⟨.c, 6, g.val * 262144 + d.field, d.lit⟩
  | .blez g d => some ⟨.c, 7, g.val * 262144 + d.field, d.lit⟩
  | .bmz d => some ⟨.c, 8, d.field, d.lit⟩
  | .jr a => some ⟨.c, 9, a.val * 4096, none⟩
  | .jlr d a => some ⟨.c, 10, d.val * 262144 + a.val * 4096, none⟩
  | .tail => some ⟨.c, 11, 0, none⟩
  | .next d => some ⟨.c, 12, d.val * 262144, none⟩
  | .steal d => some ⟨.c, 13, d.val * 262144, none⟩
  | .chkG a => some ⟨.c, 14, a.val * 4096, none⟩
  | .chkV a => some ⟨.c, 14, 2048 + a.val * 4096, none⟩
  | .trap i => some ⟨.c, 15, i.toNat, none⟩
  | .eret => some ⟨.c, 16, 0, none⟩
  | .mfsr d n => some ⟨.c, 17, d.val * 262144 + n.toNat, none⟩
  | .mtsr a n => some ⟨.c, 18, a.val * 4096 + n.toNat, none⟩
  | .featq d a i => some ⟨.c, 19, d.val * 262144 + a.val * 4096 + i.toNat, none⟩
  | .idle => some ⟨.c, 20, 0, none⟩
  | .dbrk i => some ⟨.c, 21, i.toNat, none⟩
  | .prack => some ⟨.c, 22, 0, none⟩
  | .mcrd d a w => some ⟨.c, 23, d.val * 262144 + a.val * 4096 + w.toNat, none⟩
  | .add d a b => some ⟨.x, 0, d.val * 262144 + a.val * 4096 + b.val * 64, none⟩
  | .sub d a b => some ⟨.x, 1, d.val * 262144 + a.val * 4096 + b.val * 64, none⟩
  | .addi d a i => some ⟨.x, 2, d.val * 262144 + a.val * 4096 + i.field, i.lit⟩
  | .and d a b => some ⟨.x, 3, d.val * 262144 + a.val * 4096 + b.val * 64, none⟩
  | .or d a b => some ⟨.x, 4, d.val * 262144 + a.val * 4096 + b.val * 64, none⟩
  | .xor d a b => some ⟨.x, 5, d.val * 262144 + a.val * 4096 + b.val * 64, none⟩
  | .andi d a i => some ⟨.x, 6, d.val * 262144 + a.val * 4096 + i.field, i.lit⟩
  | .ori d a i => some ⟨.x, 7, d.val * 262144 + a.val * 4096 + i.field, i.lit⟩
  | .xori d a i => some ⟨.x, 8, d.val * 262144 + a.val * 4096 + i.field, i.lit⟩
  | .shl d a b => some ⟨.x, 9, d.val * 262144 + a.val * 4096 + b.val * 64, none⟩
  | .shr d a b => some ⟨.x, 10, d.val * 262144 + a.val * 4096 + b.val * 64, none⟩
  | .sar d a b => some ⟨.x, 11, d.val * 262144 + a.val * 4096 + b.val * 64, none⟩
  | .shli d a c => some ⟨.x, 12, d.val * 262144 + a.val * 4096 + c.val, none⟩
  | .shri d a c => some ⟨.x, 13, d.val * 262144 + a.val * 4096 + c.val, none⟩
  | .sari d a c => some ⟨.x, 14, d.val * 262144 + a.val * 4096 + c.val, none⟩
  | .mul d a b => some ⟨.x, 15, d.val * 262144 + a.val * 4096 + b.val * 64, none⟩
  | .mulh d a b => some ⟨.x, 16, d.val * 262144 + a.val * 4096 + b.val * 64, none⟩
  | .mulhn d a b => some ⟨.x, 17, d.val * 262144 + a.val * 4096 + b.val * 64, none⟩
  | .div d a b => some ⟨.x, 18, d.val * 262144 + a.val * 4096 + b.val * 64, none⟩
  | .divn d a b => some ⟨.x, 19, d.val * 262144 + a.val * 4096 + b.val * 64, none⟩
  | .rem d a b => some ⟨.x, 20, d.val * 262144 + a.val * 4096 + b.val * 64, none⟩
  | .remn d a b => some ⟨.x, 21, d.val * 262144 + a.val * 4096 + b.val * 64, none⟩
  | .cmpeq d a b => some ⟨.x, 22, d.val * 262144 + a.val * 4096 + b.val * 64, none⟩
  | .cmpne d a b => some ⟨.x, 23, d.val * 262144 + a.val * 4096 + b.val * 64, none⟩
  | .cmplt d a b => some ⟨.x, 24, d.val * 262144 + a.val * 4096 + b.val * 64, none⟩
  | .cmpltn d a b => some ⟨.x, 25, d.val * 262144 + a.val * 4096 + b.val * 64, none⟩
  | .cmple d a b => some ⟨.x, 26, d.val * 262144 + a.val * 4096 + b.val * 64, none⟩
  | .cmplen d a b => some ⟨.x, 27, d.val * 262144 + a.val * 4096 + b.val * 64, none⟩
  | .cmpeqi d a i => some ⟨.x, 28, d.val * 262144 + a.val * 4096 + i.field, i.lit⟩
  | .cmplti d a i => some ⟨.x, 29, d.val * 262144 + a.val * 4096 + i.field, i.lit⟩
  | .sel d a b c => some ⟨.x, 30, d.val * 262144 + a.val * 4096 + b.val * 64 + c.val, none⟩
  | .min d a b => some ⟨.x, 31, d.val * 262144 + a.val * 4096 + b.val * 64, none⟩
  | .max d a b => some ⟨.x, 32, d.val * 262144 + a.val * 4096 + b.val * 64, none⟩
  | .minn d a b => some ⟨.x, 33, d.val * 262144 + a.val * 4096 + b.val * 64, none⟩
  | .maxn d a b => some ⟨.x, 34, d.val * 262144 + a.val * 4096 + b.val * 64, none⟩
  | .clz d a => some ⟨.x, 35, d.val * 262144 + a.val * 4096, none⟩
  | .ctz d a => some ⟨.x, 36, d.val * 262144 + a.val * 4096, none⟩
  | .popc d a => some ⟨.x, 37, d.val * 262144 + a.val * 4096, none⟩
  | .sext d a w => some ⟨.x, 38, d.val * 262144 + a.val * 4096 + w.val, none⟩
  | .zext d a w => some ⟨.x, 39, d.val * 262144 + a.val * 4096 + w.val, none⟩
  | .extr d a h o => some ⟨.x, 40, d.val * 262144 + a.val * 4096 + h.val * 64 + o.val, none⟩
  | .inshi d a i => some ⟨.x, 41, d.val * 262144 + a.val * 4096, some i⟩
  | .cnarrow d a b c => some ⟨.x, 42, d.val * 262144 + a.val * 4096 + b.val * 64 + c.val, none⟩
  | .cperm d a m => some ⟨.x, 43, d.val * 262144 + a.val * 4096 + m.toNat, none⟩
  | .cget d a s => some ⟨.x, 44, d.val * 262144 + a.val * 4096 + s.toNat, none⟩
  | .cmov d a => some ⟨.x, 45, d.val * 262144 + a.val * 4096, none⟩
  | .cclr d => some ⟨.x, 46, d.val * 262144, none⟩
  | .cchk d a b c => some ⟨.x, 47, d.val * 262144 + a.val * 4096 + b.val * 64 + c.val, none⟩
  | .ldI8 d k g i => some ⟨.m, 0, d.val * 262144 + k.val * 8192 + g.val * 128 + i.field, i.lit⟩
  | .ldN8 d k g i => some ⟨.m, 1, d.val * 262144 + k.val * 8192 + g.val * 128 + i.field, i.lit⟩
  | .ldI16 d k g i => some ⟨.m, 2, d.val * 262144 + k.val * 8192 + g.val * 128 + i.field, i.lit⟩
  | .ldN16 d k g i => some ⟨.m, 3, d.val * 262144 + k.val * 8192 + g.val * 128 + i.field, i.lit⟩
  | .ldI32 d k g i => some ⟨.m, 4, d.val * 262144 + k.val * 8192 + g.val * 128 + i.field, i.lit⟩
  | .ldN32 d k g i => some ⟨.m, 5, d.val * 262144 + k.val * 8192 + g.val * 128 + i.field, i.lit⟩
  | .ldI64 d k g i => some ⟨.m, 6, d.val * 262144 + k.val * 8192 + g.val * 128 + i.field, i.lit⟩
  | .stI8 d k g i => some ⟨.m, 7, d.val * 262144 + k.val * 8192 + g.val * 128 + i.field, i.lit⟩
  | .stI16 d k g i => some ⟨.m, 8, d.val * 262144 + k.val * 8192 + g.val * 128 + i.field, i.lit⟩
  | .stI32 d k g i => some ⟨.m, 9, d.val * 262144 + k.val * 8192 + g.val * 128 + i.field, i.lit⟩
  | .stI64 d k g i => some ⟨.m, 10, d.val * 262144 + k.val * 8192 + g.val * 128 + i.field, i.lit⟩
  | .lds d k g i => some ⟨.m, 11, d.val * 262144 + k.val * 8192 + g.val * 128 + i.field, i.lit⟩
  | .vld d k g i => some ⟨.m, 12, d.val * 262144 + k.val * 8192 + g.val * 128 + i.field, i.lit⟩
  | .vst d k g i => some ⟨.m, 13, d.val * 262144 + k.val * 8192 + g.val * 128 + i.field, i.lit⟩
  | .vlds d k g i => some ⟨.m, 14, d.val * 262144 + k.val * 8192 + g.val * 128 + i.field, i.lit⟩
  | .vldx d k x w s c z l => some ⟨.m, 15, d.val * 262144 + k.val * 8192 + x.val * 128 + w.val * 32 + s.val * 16 + c.val * 2 + z.val, l⟩
  | .vstx d k x w s c z l => some ⟨.m, 16, d.val * 262144 + k.val * 8192 + x.val * 128 + w.val * 32 + s.val * 16 + c.val * 2 + z.val, l⟩
  | .vldm d k g i => some ⟨.m, 17, d.val * 262144 + k.val * 8192 + g.val * 128 + i.field, i.lit⟩
  | .vstm d k g i => some ⟨.m, 18, d.val * 262144 + k.val * 8192 + g.val * 128 + i.field, i.lit⟩
  | .cld d k g i => some ⟨.m, 19, d.val * 262144 + k.val * 8192 + g.val * 128 + i.field, i.lit⟩
  | .cst d k g i => some ⟨.m, 20, d.val * 262144 + k.val * 8192 + g.val * 128 + i.field, i.lit⟩
  | .tlock k a b => some ⟨.m, 21, k.val * 8192 + a.val * 128 + b.val * 2, none⟩
  | .tunlk k a b => some ⟨.m, 22, k.val * 8192 + a.val * 128 + b.val * 2, none⟩
  | .cbset h a b => some ⟨.m, 23, h.val * 1048576 + a.val * 4096 + b.val * 64, none⟩
  | .cbwaitC h n => some ⟨.m, 24, h.val * 1048576 + n.toNat * 4096, none⟩
  | .cbwaitP h n => some ⟨.m, 25, h.val * 1048576 + n.toNat * 4096, none⟩
  | .cbadvC h n => some ⟨.m, 26, h.val * 1048576 + n.toNat * 4096, none⟩
  | .cbadvP h n => some ⟨.m, 27, h.val * 1048576 + n.toNat * 4096, none⟩
  | .vaddF d a b m t x => some ⟨.v, 0, d.val * 262144 + a.val * 4096 + b.val * 64 + m.val * 8 + t.val, x⟩
  | .vsubF d a b m t x => some ⟨.v, 1, d.val * 262144 + a.val * 4096 + b.val * 64 + m.val * 8 + t.val, x⟩
  | .vmulF d a b m t x => some ⟨.v, 2, d.val * 262144 + a.val * 4096 + b.val * 64 + m.val * 8 + t.val, x⟩
  | .vfma d a b m t x => some ⟨.v, 3, d.val * 262144 + a.val * 4096 + b.val * 64 + m.val * 8 + t.val, x⟩
  | .vfnma d a b m t x => some ⟨.v, 4, d.val * 262144 + a.val * 4096 + b.val * 64 + m.val * 8 + t.val, x⟩
  | .vminF d a b m t x => some ⟨.v, 5, d.val * 262144 + a.val * 4096 + b.val * 64 + m.val * 8 + t.val, x⟩
  | .vmaxF d a b m t x => some ⟨.v, 6, d.val * 262144 + a.val * 4096 + b.val * 64 + m.val * 8 + t.val, x⟩
  | .vabs d a m t x => some ⟨.v, 7, d.val * 262144 + a.val * 4096 + m.val * 8 + t.val, x⟩
  | .vneg d a m t x => some ⟨.v, 8, d.val * 262144 + a.val * 4096 + m.val * 8 + t.val, x⟩
  | .vrcp d a m t x => some ⟨.v, 9, d.val * 262144 + a.val * 4096 + m.val * 8 + t.val, x⟩
  | .vrsq d a m t x => some ⟨.v, 10, d.val * 262144 + a.val * 4096 + m.val * 8 + t.val, x⟩
  | .vexp2 d a m t x => some ⟨.v, 11, d.val * 262144 + a.val * 4096 + m.val * 8 + t.val, x⟩
  | .vlog2 d a m t x => some ⟨.v, 12, d.val * 262144 + a.val * 4096 + m.val * 8 + t.val, x⟩
  | .vcmpEqF d a b m t x => some ⟨.v, 13, d.val * 2097152 + a.val * 4096 + b.val * 64 + m.val * 8 + t.val, x⟩
  | .vcmpLtF d a b m t x => some ⟨.v, 14, d.val * 2097152 + a.val * 4096 + b.val * 64 + m.val * 8 + t.val, x⟩
  | .vcmpLeF d a b m t x => some ⟨.v, 15, d.val * 2097152 + a.val * 4096 + b.val * 64 + m.val * 8 + t.val, x⟩
  | .vaddI d a b m t x => some ⟨.v, 16, d.val * 262144 + a.val * 4096 + b.val * 64 + m.val * 8 + t.val, x⟩
  | .vsubI d a b m t x => some ⟨.v, 17, d.val * 262144 + a.val * 4096 + b.val * 64 + m.val * 8 + t.val, x⟩
  | .vmulI d a b m t x => some ⟨.v, 18, d.val * 262144 + a.val * 4096 + b.val * 64 + m.val * 8 + t.val, x⟩
  | .vmad d a b m t x => some ⟨.v, 19, d.val * 262144 + a.val * 4096 + b.val * 64 + m.val * 8 + t.val, x⟩
  | .vadds d a b m t x => some ⟨.v, 20, d.val * 262144 + a.val * 4096 + b.val * 64 + m.val * 8 + t.val, x⟩
  | .vsubs d a b m t x => some ⟨.v, 21, d.val * 262144 + a.val * 4096 + b.val * 64 + m.val * 8 + t.val, x⟩
  | .vminI d a b m t x => some ⟨.v, 22, d.val * 262144 + a.val * 4096 + b.val * 64 + m.val * 8 + t.val, x⟩
  | .vmaxI d a b m t x => some ⟨.v, 23, d.val * 262144 + a.val * 4096 + b.val * 64 + m.val * 8 + t.val, x⟩
  | .vand d a b m t x => some ⟨.v, 24, d.val * 262144 + a.val * 4096 + b.val * 64 + m.val * 8 + t.val, x⟩
  | .vor d a b m t x => some ⟨.v, 25, d.val * 262144 + a.val * 4096 + b.val * 64 + m.val * 8 + t.val, x⟩
  | .vxor d a b m t x => some ⟨.v, 26, d.val * 262144 + a.val * 4096 + b.val * 64 + m.val * 8 + t.val, x⟩
  | .vshl d a b m t x => some ⟨.v, 27, d.val * 262144 + a.val * 4096 + b.val * 64 + m.val * 8 + t.val, x⟩
  | .vshr d a b m t x => some ⟨.v, 28, d.val * 262144 + a.val * 4096 + b.val * 64 + m.val * 8 + t.val, x⟩
  | .vcmpEqI d a b m t x => some ⟨.v, 29, d.val * 2097152 + a.val * 4096 + b.val * 64 + m.val * 8 + t.val, x⟩
  | .vcmpLtI d a b m t x => some ⟨.v, 30, d.val * 2097152 + a.val * 4096 + b.val * 64 + m.val * 8 + t.val, x⟩
  | .vcmpLeI d a b m t x => some ⟨.v, 31, d.val * 2097152 + a.val * 4096 + b.val * 64 + m.val * 8 + t.val, x⟩
  | .vcvt d a y z s m t x => some ⟨.v, 32, d.val * 262144 + a.val * 4096 + y.val * 2048 + z.val * 1024 + s.val * 64 + m.val * 8 + t.val, x⟩
  | .vpack d a b m t x => some ⟨.v, 33, d.val * 262144 + a.val * 4096 + b.val * 64 + m.val * 8 + t.val, x⟩
  | .vunpk d a b m t x => some ⟨.v, 34, d.val * 262144 + a.val * 4096 + b.val * 64 + m.val * 8 + t.val, x⟩
  | .vsplit d a b x => some ⟨.v, 35, d.val * 262144 + a.val * 4096 + b.val * 64, some x⟩
  | .vclz d a m t x => some ⟨.v, 36, d.val * 262144 + a.val * 4096 + m.val * 8 + t.val, x⟩
  | .vrcmb d a g x => some ⟨.v, 37, d.val * 262144 + a.val * 4096 + g.val * 64, some x⟩
  | .vamax d a m t x => some ⟨.v, 38, d.val * 262144 + a.val * 4096 + m.val * 8 + t.val, x⟩
  | .vrsumF d a m t x => some ⟨.v, 39, d.val * 262144 + a.val * 4096 + m.val * 8 + t.val, x⟩
  | .vrmaxF d a m t x => some ⟨.v, 40, d.val * 262144 + a.val * 4096 + m.val * 8 + t.val, x⟩
  | .vrsumI d a m t x => some ⟨.v, 41, d.val * 262144 + a.val * 4096 + m.val * 8 + t.val, x⟩
  | .vrmaxI d a m t x => some ⟨.v, 42, d.val * 262144 + a.val * 4096 + m.val * 8 + t.val, x⟩
  | .vmov d a m t x => some ⟨.v, 43, d.val * 262144 + a.val * 4096 + m.val * 8 + t.val, x⟩
  | .vsel d a b m t x => some ⟨.v, 44, d.val * 262144 + a.val * 4096 + b.val * 64 + m.val * 8 + t.val, x⟩
  | .vbcst d a m t => some ⟨.v, 45, d.val * 262144 + a.val * 4096 + m.val * 8 + t.val, none⟩
  | .vext d a n t x => some ⟨.v, 46, d.val * 262144 + a.val * 4096 + n.val * 64 + t.val, x⟩
  | .vins d a n t => some ⟨.v, 47, d.val * 262144 + a.val * 4096 + n.val * 64 + t.val, none⟩
  | .mskpsh a => some ⟨.v, 48, a.val * 262144, none⟩
  | .mskinv => some ⟨.v, 49, 0, none⟩
  | .mskpop => some ⟨.v, 50, 0, none⟩
  | .mskand d a b => some ⟨.v, 51, d.val * 2097152 + a.val * 262144 + b.val * 32768, none⟩
  | .mskor d a b => some ⟨.v, 52, d.val * 2097152 + a.val * 262144 + b.val * 32768, none⟩
  | .mskmov d a => some ⟨.v, 53, d.val * 2097152 + a.val * 262144, none⟩
  | .viota d m t => some ⟨.v, 54, d.val * 262144 + m.val * 8 + t.val, none⟩
  | .vscalb d a b m t x => some ⟨.v, 55, d.val * 262144 + a.val * 4096 + b.val * 64 + m.val * 8 + t.val, x⟩
  | .xcfg a b => some ⟨.z, 0, a.val * 2097152 + b.val * 262144, none⟩
  | .xcfgSl s => some ⟨.z, 0, 11927552 + s.val * 16384, none⟩
  | .xacq => some ⟨.z, 1, 0, none⟩
  | .xrel => some ⟨.z, 2, 0, none⟩
  | .xpushA k a b => some ⟨.z, 3, k.val * 524288 + a.val * 8192 + b.val * 128, none⟩
  | .xpushW k a b => some ⟨.z, 4, k.val * 524288 + a.val * 8192 + b.val * 128, none⟩
  | .xflip => some ⟨.z, 5, 0, none⟩
  | .xshift => some ⟨.z, 6, 0, none⟩
  | .xscl r s => some ⟨.z, 7, r.val * 262144 + s.val * 32768, none⟩
  | .xacc t a b => some ⟨.z, 8, t.val * 2097152 + a.val * 32768 + b.val * 512, none⟩
  | .xdrain t a b m => some ⟨.z, 9, t.val * 2097152 + a.val * 32768 + b.val * 512 + m.val * 64, none⟩
  | .xzero t => some ⟨.z, 10, t.val * 2097152, none⟩
  | .xwait => some ⟨.z, 11, 0, none⟩
  | .xres r => some ⟨.z, 12, r.val * 262144, none⟩
  | .xmpc r => some ⟨.z, 13, r.val * 262144, none⟩
  | .xhdr t a b m => some ⟨.z, 14, t.val * 2097152 + a.val * 32768 + b.val * 512 + m.val * 64, none⟩
  | .xsete t a => some ⟨.z, 15, t.val * 2097152 + a.val * 32768, none⟩
  | .xclrf t => some ⟨.z, 16, t.val * 2097152, none⟩
  | .xmark t a b m => some ⟨.z, 17, t.val * 2097152 + a.val * 32768 + b.val * 512 + m.val * 64, none⟩
  | .fadd k a s => some ⟨.a, 0, k.val * 524288 + a.val * 8192 + s.val * 1024, none⟩
  | .fwait k a s => some ⟨.a, 1, k.val * 524288 + a.val * 8192 + s.val * 1024, none⟩
  | .binit k a s => some ⟨.a, 2, k.val * 524288 + a.val * 8192 + s.val * 1024, none⟩
  | .barrive k a s => some ⟨.a, 3, k.val * 524288 + a.val * 8192 + s.val * 1024, none⟩
  | .bwait k a s => some ⟨.a, 4, k.val * 524288 + a.val * 8192 + s.val * 1024, none⟩
  | .babort k a s => some ⟨.a, 5, k.val * 524288 + a.val * 8192 + s.val * 1024, none⟩
  | .gjoin k a => some ⟨.a, 6, 2048 + k.val * 524288 + a.val * 8192, none⟩
  | .gleave k a => some ⟨.a, 7, 2048 + k.val * 524288 + a.val * 8192, none⟩
  | .fence s => some ⟨.a, 8, s.val * 2097152, none⟩
  | .qfence q => some ⟨.a, 9, q.toNat, none⟩
  | .ald d k a s z l => some ⟨.a, 10, d.val * 262144 + k.val * 8192 + a.val * 128 + s.val * 2 + z.val, l⟩
  | .ast d k a s z l => some ⟨.a, 11, d.val * 262144 + k.val * 8192 + a.val * 128 + s.val * 2 + z.val, l⟩
  | .aadd d k a u s z l => some ⟨.a, 12, d.val * 262144 + k.val * 8192 + a.val * 128 + u.val * 16 + s.val * 2 + z.val, l⟩
  | .aand d k a u s z l => some ⟨.a, 13, d.val * 262144 + k.val * 8192 + a.val * 128 + u.val * 16 + s.val * 2 + z.val, l⟩
  | .aor d k a u s z l => some ⟨.a, 14, d.val * 262144 + k.val * 8192 + a.val * 128 + u.val * 16 + s.val * 2 + z.val, l⟩
  | .axor d k a u s z l => some ⟨.a, 15, d.val * 262144 + k.val * 8192 + a.val * 128 + u.val * 16 + s.val * 2 + z.val, l⟩
  | .amin d k a u s z l => some ⟨.a, 16, d.val * 262144 + k.val * 8192 + a.val * 128 + u.val * 16 + s.val * 2 + z.val, l⟩
  | .amax d k a u s z l => some ⟨.a, 17, d.val * 262144 + k.val * 8192 + a.val * 128 + u.val * 16 + s.val * 2 + z.val, l⟩
  | .aminn d k a u s z l => some ⟨.a, 18, d.val * 262144 + k.val * 8192 + a.val * 128 + u.val * 16 + s.val * 2 + z.val, l⟩
  | .amaxn d k a u s z l => some ⟨.a, 19, d.val * 262144 + k.val * 8192 + a.val * 128 + u.val * 16 + s.val * 2 + z.val, l⟩
  | .axchg d k a u s z l => some ⟨.a, 20, d.val * 262144 + k.val * 8192 + a.val * 128 + u.val * 16 + s.val * 2 + z.val, l⟩
  | .acas d k a u s z l => some ⟨.a, 21, d.val * 262144 + k.val * 8192 + a.val * 128 + u.val * 16 + s.val * 2 + z.val, l⟩
  | .amaxrs d k a u s z l => some ⟨.a, 22, d.val * 262144 + k.val * 8192 + a.val * 128 + u.val * 16 + s.val * 2 + z.val, l⟩
  | .ascAdd d k a z l => some ⟨.a, 23, 4 + d.val * 262144 + k.val * 8192 + a.val * 128 + z.val, l⟩
  | .ascXchg d k a z l => some ⟨.a, 23, 20 + d.val * 262144 + k.val * 8192 + a.val * 128 + z.val, l⟩
  | .ascCas d k a z l => some ⟨.a, 23, 36 + d.val * 262144 + k.val * 8192 + a.val * 128 + z.val, l⟩
  | .ascLd d k a z l => some ⟨.a, 23, 52 + d.val * 262144 + k.val * 8192 + a.val * 128 + z.val, l⟩
  | .ascSt d k a z l => some ⟨.a, 23, 68 + d.val * 262144 + k.val * 8192 + a.val * 128 + z.val, l⟩
  | .ascMax d k a z l => some ⟨.a, 23, 84 + d.val * 262144 + k.val * 8192 + a.val * 128 + z.val, l⟩
  | .cpy s d a b => some ⟨.a, 24, s.val * 524288 + d.val * 16384 + a.val * 256 + barBit b * 128, barLit b⟩
  | .cpys s d a b => some ⟨.a, 25, s.val * 524288 + d.val * 16384 + a.val * 256 + barBit b * 128, barLit b⟩
  | .cpyg s d a b => some ⟨.a, 26, s.val * 524288 + d.val * 16384 + a.val * 256 + barBit b * 128, barLit b⟩
  | .cpycb s h a b => some ⟨.a, 27, s.val * 524288 + h.val * 16384 + a.val * 256 + barBit b * 128, barLit b⟩
  | .rput e c k a b => some ⟨.a, 28, e.val * 1048576 + c.val * 32768 + k.val * 1024 + a.val * 16 + barBit b * 8, barLit b⟩
  | .rputf e c k a b => some ⟨.a, 29, e.val * 1048576 + c.val * 32768 + k.val * 1024 + a.val * 16 + barBit b * 8, barLit b⟩
  | .rputs e c k a b => some ⟨.a, 30, e.val * 1048576 + c.val * 32768 + k.val * 1024 + a.val * 16 + barBit b * 8, barLit b⟩
  | .rsemadd e k a => some ⟨.a, 31, e.val * 1048576 + k.val * 1024 + a.val * 16, none⟩
  | .rpull e c k a b => some ⟨.a, 32, e.val * 1048576 + c.val * 32768 + k.val * 1024 + a.val * 16 + barBit b * 8, barLit b⟩
  | .rputsf e c k a b => some ⟨.a, 33, e.val * 1048576 + c.val * 32768 + k.val * 1024 + a.val * 16 + barBit b * 8, barLit b⟩
  | .nop => none
  | .hint k o p l => some ⟨k, 112 + o.val, p.toNat, l⟩
  | .imageLoad _ _ => none
  | .unload _ => none
  | .unloadComplete _ => none
  | .launchSlotWrite _ _ _ _ => none
  | .walkStart _ => none
  | .skeinNodeVisit _ _ => none
  | .joinNodeVisit _ _ => none
  | .conditionalNodeVisit _ _ => none
  | .whileNodeVisit _ _ => none
  | .flagNodeVisit _ _ => none
  | .leaseEstablish _ _ => none
  | .routerTableLoad _ => none
  | .taskPlace _ => none
  | .completionRecordWrite _ _ => none
  | .skeinNodeComplete _ => none
  | .descriptorWrite _ _ => none
  | .create _ => none
  | .wheelMaskWrite _ _ => none
  | .tokenRefill => none
  | .releaseRequest _ _ => none
  | .functionLevelReset _ => none
  | .releaseQuiesced _ => none
  | .zeroingComplete _ => none
  | .registerWrite _ _ => none
  | .arbiterCycle _ => none
  | .resultLand _ => none
  | .loadReturn _ => none
  | .divideComplete _ => none
  | .mkeyCreate _ => none
  | .slotZeroise _ => none
  | .rotate _ _ => none
  | .rotationSweepLine _ => none
  | .updateStage _ => none
  | .updateSwitch _ _ => none
  | .heartbeat => none
  | .updateTrialTimeout => none
  | .updateCommit => none
  | .bootrecClear _ => none
  | .spindleQuiesce _ => none
  | .getVersion _ => none
  | .getCapabilities _ => none
  | .negotiateAlgorithms _ => none
  | .getDigests _ => none
  | .getCertificate _ _ => none
  | .challenge _ => none
  | .getMeasurements _ _ => none
  | .keyExchange _ => none
  | .finish _ _ => none
  | .spdmHeartbeat _ _ => none
  | .keyUpdate _ _ => none
  | .endSession _ _ => none
  | .chunkGet _ => none
  | .sealProvision _ _ _ _ _ _ _ => none
  | .sealRevoke _ _ _ => none
  | .spdmUnsupportedRequest _ => none
  | .sealedSlotTransfer _ _ _ => none
  | .slotTransferConfirm _ => none
  | .xpushAPerform _ => none
  | .xpushWPerform _ => none
  | .xflipPerform _ => none
  | .xsclPerform _ => none
  | .xshiftPerform _ => none
  | .xaccPerform _ => none
  | .xdrainPerform _ => none
  | .xzeroPerform _ => none
  | .xsetePerform _ => none
  | .xclrfPerform _ => none
  | .xmarkPerform _ => none
  | .xcfgPerform _ => none
  | .arrayAcquire _ => none
  | .xrelComplete _ => none
  | .fwaitComplete _ => none
  | .bwaitComplete _ => none
  | .cbwaitComplete _ => none
  | .xwaitComplete _ => none
  | .tlockComplete _ => none
  | .copyBeat _ => none
  | .cbEscape _ => none
  | .heatSweep _ => none
  | .shootdown _ _ _ => none
  | .dirtyHarvest _ _ => none
  | .discardReclaim _ _ => none
  | .writePropagate _ => none
  | .atomicPerform _ => none
  | .qntFlush _ => none
  | .ascPerform _ => none
  | .fenceComplete _ => none
  | .qfenceComplete _ => none
  | .groupDrainComplete _ _ => none
  | .remoteChannelEntry _ => none
  | .put _ => none
  | .putf _ => none
  | .putfFlagAdd _ => none
  | .semadd _ => none
  | .pullreq _ => none
  | .pulldata _ _ => none
  | .ack _ _ => none
  | .nack _ _ _ => none
  | .rankEntryWrite _ _ _ _ => none
  | .holdDrainReport _ _ _ => none
  | .flitTagFail _ => none
  | .linkRekey _ => none
  | .rankLost _ _ _ => none
  | .pageRequestResponse _ _ _ _ _ => none
  | .hostTranslationInvalidate _ _ => none
  | .hostWrite _ _ _ _ => none
  | .hostRead _ _ _ _ => none
  | .intpost _ _ => none
  | .trapEntry _ => none
  | .timer _ => none
  | .interrupt _ => none
  | .preemptRequest _ => none
  | .preempt _ => none
  | .gracefulPreemptRequest _ _ => none
  | .graceExpire _ => none
  | .switchIn _ => none
  | .debugAttach _ => none
  | .debugResume _ => none
  | .debugRead _ _ _ => none
  | .machineCheck _ _ _ => none
  | .clusterGate _ => none
  | .clusterWake _ => none
  | .capWrite _ _ => none
  | .freqChange _ _ => none
  | .deviceStart _ => none
  | .powerLoss => none
  | .linkReturn _ => none
  | .spindleResume _ => none
  | .reEncryptingMove _ _ => none
  | .debugDetach _ => none
  | .lostChannelPair _ => none

/-- The word of an encoding: L in [31], OP in [30:24], body in [23:0] (R118). -/
def Encoding.word (e : Encoding) : BitVec 32 :=
  BitVec.ofNat 32 ((if e.lit.isSome then 2 ^ 31 else 0) + e.op * 2 ^ 24 + e.body)

/-- The slot word and the literal of an instruction: none for a step that has no encoding. -/
def encode (i : Instr) : Option (BitVec 32 × Lit) := (enc i).map fun e => (e.word, e.lit)

/-- The opcode maps of the six slot kinds; 0x70–0x7F is a hint in each (R145). -/
def readSlot (k : SlotKind) (op w : Nat) (l : Lit) : Option Instr :=
  if 112 ≤ op then some (.hint k (fin16 (op - 112)) (bits 24 w) l)
  else
    match k with
    | .c => readC op w l
    | .x => readX op w l
    | .m => readM op w l
    | .v => readV op w l
    | .z => readZ op w l
    | .a => readA op w l

/-- Whether the Literal column of the maps takes a literal on this opcode; an opcode outside the maps is left to the
opcode check (R121, R143, R146). -/
def litAllowed (k : SlotKind) (op w : Nat) : Bool :=
  match k with
  | .c => decide (op ≤ 8) || decide (0x18 ≤ op)
  | .x => decide (op = 2) || (decide (6 ≤ op) && decide (op ≤ 8)) || decide (op = 0x1C) || decide (op = 0x1D)
      || decide (op = 0x29) || decide (0x30 ≤ op)
  | .m => decide (op ≤ 0x14) || decide (0x1C ≤ op)
  | .v => decide (op ≤ 0x2C) || decide (op = 0x2E) || decide (0x37 ≤ op)
  | .z => decide (0x12 ≤ op)
  | .a =>
    if op ≤ 9 then false
    else if op ≤ 0x17 then true
    else if op ≤ 0x1B then decide (w / 128 % 2 = 1)
    else if op = 0x1F then false
    else if op ≤ 0x21 then decide (w / 8 % 2 = 1)
    else true

/-- Why a slot word does not decode: the fault codes of R146. -/
inductive DecodeError where
  | reserved   -- 0x01
  | literal    -- 0x02
  deriving DecidableEq, Repr

/-- Whether slot word `w` of kind `k` carries a literal that its instruction does not take (R121 check 2). -/
def badLiteral (k : SlotKind) (w : BitVec 32) : Bool :=
  decide (2 ^ 31 ≤ w.toNat) && !litAllowed k (w.toNat / 2 ^ 24 % 128) (w.toNat % 2 ^ 24)

/-- Decode one slot word with the literal that follows it (R121 checks 2 and 3). -/
def decodeSlot (k : SlotKind) (w : BitVec 32) (l : Lit) : Except DecodeError Instr :=
  if badLiteral k w then .error .literal
  else
    match readSlot k (w.toNat / 2 ^ 24 % 128) (w.toNat % 2 ^ 24) l with
    | none => .error .reserved
    | some i => if wf i && decide (encode i = some (w, l)) then .ok i else .error .reserved

/-- The kind of the slot at a header bit (R117). -/
def slotKindOf (b : Nat) : SlotKind :=
  match b with
  | 0 => .c
  | 1 => .x
  | 2 => .x
  | 3 => .m
  | 4 => .v
  | 5 => .v
  | 6 => .z
  | _ => .a

/-- The first header bit of a kind (R117). -/
def kindBit : SlotKind → Nat
  | .c => 0
  | .x => 1
  | .m => 3
  | .v => 4
  | .z => 6
  | .a => 7

/-- Four bytes, little-endian (R118). -/
def word32 (a b c d : Byte) : BitVec 32 := d ++ c ++ b ++ a
/-- The bytes of a word, little-endian (R118). -/
def bytes32 (w : BitVec 32) : List Byte :=
  [w.extractLsb' 0 8, w.extractLsb' 8 8, w.extractLsb' 16 8, w.extractLsb' 24 8]

/-- A slot as it stands in a bundle: header bit, slot word, literal. -/
structure RawSlot where
  bit : Nat
  word : BitVec 32
  lit : Lit
  deriving DecidableEq, Repr

/-- Cut the slot words and literals of the header bits `bits` out of `bytes`; none if the bytes end first (R118). -/
def cutSlots : List Nat → List Byte → Option (List RawSlot × Nat)
  | [], _ => some ([], 0)
  | b :: bs, p :: q :: r :: s :: rest =>
    if (word32 p q r s).toNat < 2 ^ 31 then
      (cutSlots bs rest).map fun t => (⟨b, word32 p q r s, none⟩ :: t.1, t.2 + 4)
    else
      match rest with
      | e :: f :: g :: h :: rest' =>
        (cutSlots bs rest').map fun t => (⟨b, word32 p q r s, some (word32 e f g h)⟩ :: t.1, t.2 + 8)
      | _ => none
  | _ :: _, _ => none

/-- The header bits that are set, ascending (R117). -/
def headerBits (h : Byte) : List Nat := (List.range 8).filter fun i => h.getLsbD i

/-- A decoded bundle: its slots in header-bit order and its length in bytes. The empty bundle is one `nop` of length 1
(R118). -/
structure Bundle where
  slots : List (Nat × Instr)
  len : Nat
  deriving DecidableEq, Repr

/-- A decoding fault (R121): the code, and the offending slot word and header bit (zero for 0x05). -/
structure DecodeFault where
  code : Nat
  word : BitVec 32
  bit : Nat
  deriving DecidableEq, Repr

/-- The literal check over the slots in header-bit order (R121 check 2): a literal not taken, or the fourth literal. -/
def literalCheck : Nat → List RawSlot → Option RawSlot
  | _, [] => none
  | n, s :: ss =>
    if badLiteral (slotKindOf s.bit) s.word then some s
    else
      match s.lit with
      | none => literalCheck n ss
      | some _ => if n = 3 then some s else literalCheck (n + 1) ss

/-- Opcodes and field values over the slots in header-bit order (R121 check 3). -/
def decodeSlots : List RawSlot → Except RawSlot (List (Nat × Instr))
  | [] => .ok []
  | s :: ss =>
    match decodeSlot (slotKindOf s.bit) s.word s.lit with
    | .error _ => .error s
    | .ok i =>
      match decodeSlots ss with
      | .error e => .error e
      | .ok is => .ok ((s.bit, i) :: is)

/-- The control transfers of R122. -/
def isTransfer (i : Instr) : Bool :=
  match enc i with
  | some ⟨.c, op, _, _⟩ => decide (op ≤ 10) || decide (op = 16)
  | _ => false

/-- The instructions that push, invert or pop the mask stack (R293, R294). -/
def movesStack (i : Instr) : Bool :=
  match enc i with
  | some ⟨.v, op, _, _⟩ => decide (48 ≤ op) && decide (op ≤ 50)
  | _ => false

/-- A bundle with two of MSKPSH, MSKINV and MSKPOP (R283): the offending slot is the second one, that of Q, and it is looked for once every slot
has passed its own check (DESIGN CHOICE, log entry 6). -/
def stackClash (is : List (Nat × Instr)) : Option (Nat × Instr) := (is.filter fun p => movesStack p.2)[1]?

/-- Decode a bundle from its header and the bytes after it up to the end of its 64-byte line, in the order of R121.
`delay` says that it is a delay bundle. -/
def decodeBundle (delay : Bool) (hdr : Byte) (rest : List Byte) : Except DecodeFault Bundle :=
  if hdr.toNat = 0 then .ok ⟨[(0, .nop)], 1⟩
  else
    match cutSlots (headerBits hdr) rest with
    | none => .error ⟨5, 0, 0⟩
    | some (raw, n) =>
      match literalCheck 0 raw with
      | some s => .error ⟨2, s.word, s.bit⟩
      | none =>
        match decodeSlots raw with
        | .error s => .error ⟨1, s.word, s.bit⟩
        | .ok is =>
          match stackClash is with
          | some p => .error ⟨1, (match encode p.2 with | some e => e.1 | none => 0), p.1⟩
          | none =>
            match is.find? fun p => delay && isTransfer p.2 with
            | some p => .error ⟨4, (match encode p.2 with | some e => e.1 | none => 0), p.1⟩
            | none => .ok ⟨is, n + 1⟩

/-- The bytes of an instruction that stands alone in its bundle, at header bit `b`: header, slot word, literal; one zero
byte for the empty bundle (R117, R118). -/
def encodeAlone (b : Nat) (i : Instr) : List Byte :=
  match encode i with
  | none => [0]
  | some (w, l) =>
    BitVec.ofNat 8 (2 ^ b) :: bytes32 w ++ (match l with | none => [] | some x => bytes32 x)

/-- The bytes of a bundle that holds one table word at header bit `b`, with a literal of zeros where the word asks for
one. -/
def tableBytes (b : Nat) (nbits w : Nat) : List Byte :=
  if nbits ≤ 8 then [BitVec.ofNat 8 w]
  else
    BitVec.ofNat 8 (2 ^ b) :: bytes32 (BitVec.ofNat 32 w) ++ (if w / 2 ^ 31 % 2 = 1 then bytes32 0 else [])

/-- What the decoder reads from one table word placed at header bit `b`. -/
def decodeAt (b nbits w : Nat) : Option Instr :=
  match tableBytes b nbits w with
  | [] => none
  | h :: rest =>
    match decodeBundle false h rest with
    | .ok ⟨[(_, i)], _⟩ => some i
    | _ => none

/-- The header bit of the first slot kind, in header order, under which a table word decodes. A table word names no slot
kind, and one word can be an instruction of several kinds: the choice of the first is the model's (DESIGN CHOICE, log
entry 6). -/
def tableBit (nbits w : Nat) : Nat :=
  match [0, 1, 3, 4, 6, 7].find? fun b => (decodeAt b nbits w).isSome with
  | some b => b
  | none => 0

/-- The instruction the decoder reads from a word of the opcode table. -/
def decodeTableWord (nbits w : Nat) : Option Instr := decodeAt (tableBit nbits w) nbits w

end Sys2Proof
end

