-- ==== Sys2Proof/Machine/State.lean ====
section
/-!
DEFINITION. The state of one BX-960 package as plain data: its contexts, cores, clusters, memory, ordering machine,
launch walker, partitions, key slots, fabric tables and logs; its faults and refusals; the state right after reset.
-/

namespace Sys2Proof.Machine

/-- Why the machine stops for good. -/
inductive Fault where
  /-- A step names an agent that the part does not have (a core, a partition, a port): raised by the steps of other
  agents. Safe: no such unit exists (R2, R3). -/
  | noSuchUnit
  deriving DecidableEq, Repr

/-- Why an instruction has no meaning. -/
inductive Refusal where
  /-- An instruction without a meaning yet, raised by its arm of `exec`. Safe. -/
  | notModelled (mnemonic : String)
  deriving DecidableEq, Repr

/-- A capability register: 128 bits and the tag (R207). -/
structure Cap where
  bits : CapBits := 0
  tag : Bool := false
  deriving DecidableEq, Repr

/-- A scalar register with its poison tag (R150, R174). -/
structure GReg where
  v : Word := 0
  p : Bool := false
  deriving DecidableEq, Repr

/-- A vector register with its poison tag (R150, R282). -/
structure VReg where
  v : Vec := 0
  p : Bool := false
  deriving DecidableEq, Repr

/-- A circular-buffer handle (R213), the number `p` of its reserved slots (R246, R251), and the number of its loan (R245). -/
structure Handle where
  pcnt : Nat := 0
  ccnt : Nat := 0
  ofs : Nat := 0
  gp : Nat := 0
  nov : Nat := 0
  unit : Nat := 0
  loan : Bool := false
  count : Nat := 0
  slot : Nat := 0
  base : Nat := 0
  p : Nat := 0
  lent : Nat := 0
  deriving DecidableEq, Repr

/-- A register name, for interlocks (R160). -/
inductive Reg where
  | g (n : Nat) | v (n : Nat) | m (n : Nat) | k (n : Nat)
  deriving DecidableEq, Repr

/-- What an exposed result writes (R158, R159): for m and v registers the bits it writes; `flag` is the flag of a STEAL that
the range arbiter has still to answer (R79, R195); `hAdv` moves a handle's count (R247), `hRes` its number of reserved slots (R251). -/
inductive Payload where
  | g (n : Nat) (v : Word) (p : Bool)
  | flag (n : Nat)
  | m (n : Nat) (v sel : Mask)
  | v (n : Nat) (v sel : Vec) (p : Bool)
  | k (n : Nat) (c : Cap)
  | e (n : Nat) (v : BitVec 13)
  | h (n : Nat) (w : Handle)
  | hAdv (n : Nat) (consumer : Bool) (k : Nat)
  | hRes (n k : Nat)
  | stack (s : List Mask)
  deriving DecidableEq, Repr

/-- A pending exposed result: it lands at the start of step `due` (R158). -/
structure Res where
  due : Nat
  val : Payload
  deriving DecidableEq, Repr

/-- A control transfer waiting for its delay bundle (R122): taken or not, target, address of the branch bundle; whether
it is an ERET (R425). -/
structure Br where
  taken : Bool
  target : Word
  pc : Word
  eret : Bool := false
  deriving DecidableEq, Repr

/-- A translated or untranslated location of an access, as checked at issue: space, address in it, size, KEY. -/
structure Acc where
  space : Nat
  addr : Nat
  size : Nat
  key : Nat
  deriving DecidableEq, Repr

/-- A wait that holds its context (R155, R383). FWAIT and BWAIT hold the next bundle; the others hold their own. A TLOCK keeps the
pages, with their sizes, that it has been promised entries for (R242). -/
inductive Wait where
  | fwait (a : Acc) (v : Word) (scope : Nat) (iss : Nat) (pc : Word)
  | bwait (a : Acc) (gen : Nat) (scope : Nat) (iss : Nat) (pc : Word)
  | cbC (h n : Nat)
  | cbP (h n : Nat)
  | xacq
  | xrel
  | xwait
  | drain
  | tlock (a : Acc) (iss : Nat) (pc : Word) (pages : List (Nat × Nat))
  | fence (scope : Nat)
  | qfence (q : Nat)
  | asc
  | idle
  deriving DecidableEq, Repr

/-- An undelivered late fault (R403): code, tval, tval2, issue number of its access, the registers the access names,
and whether the next bundle is its fault point (R451). -/
structure Late where
  code : Nat
  tval : Word
  tval2 : Word
  iss : Nat
  regs : List Reg
  next : Bool
  deriving DecidableEq, Repr

/-- A latch record (R411): what lands, and in how many steps after return. The bits written are kept whole. (DEDUCED, log entry 20.) -/
structure Latch where
  steps : Nat
  val : Payload
  deriving DecidableEq, Repr

/-- A trap frame or switch frame (R410); `after` a 0x58 that waits for a delay bundle (R389), `fb` the branch bundle of a transfer whose
target is to be executed next, `branch` the transfer whose delay bundle is (R123), `more` the waits after the first. -/
structure Frame where
  pc : Word
  cause : Word
  tval : Word
  tval2 : Word
  pf : Option Late
  latches : List Latch
  stack : List Mask
  wait : Option Wait
  fb : Option Word
  after : Option Word
  branch : Option Br
  more : List Wait := []
  deriving DecidableEq, Repr

/-- A trap in the making: what sr.cause, sr.tval and sr.tval2 take, the return PC, and FPC for a task that it ends. -/
structure Trap where
  code : Nat
  ds : Bool
  fb : Bool
  pf : Bool
  late : Bool
  tval : Word
  tval2 : Word
  ret : Word
  fpc : Word
  deriving DecidableEq, Repr

/-- One dimension of a skein (R55): LO, HI, STEP and its shift. -/
structure Dim where
  lo : Int
  hi : Int
  step : Int
  shift : Nat
  deriving DecidableEq, Repr

/-- A locked range of a context (R223, R242): space, first address, length, and the first addresses and sizes of its locked
pages. -/
structure Lock where
  space : Nat
  addr : Nat
  len : Nat
  pages : List (Nat × Nat)
  deriving DecidableEq, Repr

/-- A task on a context (R76, R80): its number, function, partition, loaded image, launch, serial, persistent range
bookkeeping, skein dimensions (for NEXT) and the lease ranges of its launch as (space, first, length). -/
structure Task where
  tid : Nat
  func : Nat
  l1 : Nat
  child : Nat
  expl : Bool
  inst : Nat
  launch : Nat
  serial : Nat
  skein : Nat
  persist : Bool
  iters : Nat
  dims : List Dim
  order : List Nat
  ranges : List (Nat × Nat × Nat)
  deriving DecidableEq, Repr

/-- The header of an accumulator tile (R308, R309). -/
structure TileHdr where
  et : Nat := 0
  wa : Nat := 0
  wb : Nat := 0
  sl : Bool := false
  ovf : Bool := false
  rows : BitVec 256 := 0
  cols : BitVec 256 := 0
  deriving DecidableEq, Repr

/-- The configuration of an array (R302, R314), saved with a task that owned it (R330, R416). -/
structure ArrayCfg where
  wa : Nat
  wb : Nat
  sl : Bool
  s1 : Nat
  cfgd : Bool
  deriving DecidableEq, Repr

/-- A pre-emption in progress (R413), a context switched out, or one that is switched in and waits for its array (R417). -/
inductive Preempt where
  | none | requested | out | entering
  deriving DecidableEq, Repr

/-- One hardware context (R148–R153) with everything that is saved with it: `touched` are the tiles R416 saves, `tiles` their
saved bytes and headers while it is switched out, `owned` the configuration of the array it then owned; `after` the flags
of a BWAIT whose 0x58 waits for a delay bundle (R389);
`more` the waits that `wait` comes before, `last` the bundle last issued (R419), `lines` the 64-byte lines of code
that have been fetched (R155, R189), `area` the 4 KiB frames of its save area (R416), `arriveAt` where the
record lies that an address of the arrival latch names (R387), `won` the number of the operation whose interlocked result a g register
has taken last (R120), `drains` the issue numbers of the XDRAINs whose results are still among the pending ones (R323, R408). -/
structure Ctx where
  task : Option Task := none
  g : Table GReg := []
  v : Table VReg := []
  m : Table Mask := []
  stack : List Mask := []
  k : Table Cap := []
  e : Table (BitVec 13) := []
  h : Table Handle := []
  pc : Word := 0
  br : Option Br := none
  delay : Option Br := none
  fb : Option Word := none
  step : Nat := 0
  pend : List Res := []
  cause : Word := 0
  tval : Word := 0
  tval2 : Word := 0
  mpc : Word := 0
  fflags : BitVec 5 := 0
  lo : Word := 0
  hi : Word := 0
  tcmp : Word := 0
  ien : BitVec 16 := 0
  ipend : BitVec 16 := 0
  prq : Option Nat := none
  steal : Option Nat := none
  wait : Option Wait := none
  more : List Wait := []
  frame : Option Frame := none
  saved : Option Frame := none
  ret : Bool := false
  trapReq : Option Trap := none
  late : Option Late := none
  arrive : List (Nat × Nat) := []
  arriveAt : Table Nat := []
  groups : List Nat := []
  locks : List Lock := []
  touched : List Nat := []
  preempt : Preempt := .none
  owned : Option ArrayCfg := none
  tiles : List (Nat × Memory × TileHdr) := []
  dbg : Bool := false
  dbgStop : Option (BitVec 12) := none
  iss : Nat := 0
  obs : List (Nat × Nat × Nat) := []
  after : Option Word := none
  last : Word := 0
  lines : List Nat := []
  area : List Nat := []
  won : Table Nat := []
  drains : List Nat := []
  deriving DecidableEq, Repr

/-- What an operation keeps of its instruction for a replay entry (R414): the capabilities and the block values at issue, its slot
word and its literal. -/
structure Origin where
  caps : List CapBits := []
  vals : List Word := []
  word : BitVec 32 := 0
  lit : BitVec 32 := 0
  deriving DecidableEq, Repr

/-- Where an interlocked load puts its data (R160, R232–R240): a g register with size and sign; the lanes of a v
register; a mask; a capability; for XMPC and XRES, sr.mpc where a later instruction of the context was to change it, and for XMPC whether
a later XRES has cleared the LOST that it is to read (R325). -/
inductive LoadDest where
  | g (n : Nat) (size : Nat) (signed : Bool)
  | v (n : Nat)
  | m (n : Nat)
  | k (n : Nat)
  | xhdr (n t mode word : Nat)
  | xmpc (n : Nat) (got : Option Word) (lost : Bool)
  | xres (n : Nat) (got : Option Word)
  | word (n : Nat) (w : Word) (p : Bool)
  deriving DecidableEq, Repr

/-- An interlocked load in flight: the parts it reads, as (byte offset in the register, space address, size); `freed` the
ring slots, as (address, length), that a later CBADV.C of its context has freed (R247); `old` the bytes, as the load would have
read them, that copy beats have overwritten while it could be performed, the earliest beat first (R200). -/
structure Load where
  id : Nat
  tid : Nat
  ctx : Nat
  iss : Nat
  pc : Word
  space : Nat
  key : Nat
  parts : List (Nat × Nat × Nat)
  dest : LoadDest
  soft : Bool := false
  soft0 : Bool := false
  freed : List (Nat × Nat) := []
  old : List (List Host.Cell) := []
  deriving DecidableEq, Repr

/-- A divide in flight, with its result and the cycle by which it lands (R178). -/
structure Div where
  id : Nat
  tid : Nat
  ctx : Nat
  dest : Nat
  val : Word
  p : Bool
  due : Nat
  deriving DecidableEq, Repr

/-- What an operation of the atomic unit does (R384–R390, R393). -/
inductive AtomOp where
  | ald | ast | add | and | or | xor | min | max | minn | maxn | xchg | cas | maxrs
  | fadd | binit | barrive | babort | gcreate | gjoin | gleave
  deriving DecidableEq, Repr

/-- An operation of the atomic unit in flight (R363, R372), with its issue time: `asc` for the slot wheel (R376); `locs` the
locations of a record that its issue has translated (R451); `got` the value that a .SPC atomic has read early, and the 8-byte
words it locks (R372). -/
structure Atom where
  id : Nat
  tid : Nat
  ctx : Nat
  iss : Nat
  pc : Word
  a : Acc
  op : AtomOp
  x : Word
  y : Word
  use : Nat
  scope : Nat
  dest : Option Nat
  asc : Bool
  issued : Nat
  locs : List Nat := []
  got : Option (Nat × List Nat) := none
  src : Origin := {}
  deriving DecidableEq, Repr

/-- One 64-byte aligned destination chunk of a copy still to be done: source address, destination address, length. -/
structure Beat where
  src : Nat
  dst : Nat
  len : Nat
  deriving DecidableEq, Repr

/-- A copy in its context's queue (R249–R253): spaces and keys of both sides, the beats left, the attached barrier
record, and the handle of a CPYCB with the slots it reserved; the numbers of its beats done (R414), and the spare units that it was
lent at issue, each with the number of its loan (R245). -/
structure Copy where
  id : Nat
  tid : Nat
  ctx : Nat
  iss : Nat
  pc : Word
  sspace : Nat
  skey : Nat
  dspace : Nat
  dkey : Nat
  beats : List Beat
  bar : Option Acc
  cb : Option (Nat × Nat)
  groups : List Nat
  done : Nat := 0
  loans : List (Nat × Nat) := []
  src : Origin := {}
  deriving DecidableEq, Repr

/-- What a remote operation is (R333, R397). -/
inductive RemKind where
  | put | putf | semadd | pull
  deriving DecidableEq, Repr

/-- A remote operation, from its queue to its acknowledgement (R368, R369, R397): one head on the channel to
`rank`; `batch` is common to the rows of one instruction. -/
structure Remote where
  id : Nat
  tid : Nat
  ctx : Nat
  iss : Nat
  pc : Word
  peer : Nat
  rank : Nat
  scope : Nat
  kind : RemKind
  lspace : Nat
  lkey : Nat
  laddr : Nat
  hoff : Nat
  len : Nat
  flag : Option Nat
  addend : Word
  bar : Option Acc
  batch : Nat
  groups : List Nat
  src : Origin := {}
  deriving DecidableEq, Repr

/-- Where a remote operation stands: in its remote queue, in the hold queue of an egress port (R346), or in its channel and the
outstanding set (R368). -/
inductive RemStage where
  | queue
  | hold (port : Nat)
  | sent
  deriving DecidableEq, Repr

/-- Where one copy of a sent operation stands: on its way; at this package's own port with its flag add to come (R369);
performed there, or rejected with a reason (R341), the answer still to come. -/
inductive LegState where
  | sent | flag | performed
  | rejected (reason : Nat)
  deriving DecidableEq, Repr

/-- One copy of a sent operation (R344): to the primary rank or the mirror, to a rank of this package or another; PART as its head
carries it (R399). -/
structure Leg where
  mirror : Bool
  rank : Nat
  here : Bool
  part : Nat
  state : LegState
  deriving DecidableEq, Repr

/-- A remote operation with its stage, its data, its copies not yet acknowledged, whether one was rejected, whether one has
been acknowledged; `written` counts the bytes that a pull has written (R397); `job`, `srank` and `spkg` are JOB, SRANK and SPKG as its head
carries them (R399). -/
structure Out where
  op : Remote
  stage : RemStage
  data : List Byte
  legs : List Leg
  nack : Bool
  done : Bool
  written : Nat := 0
  job : Nat := 0
  srank : Nat := 0
  spkg : Nat := 0
  deriving DecidableEq, Repr

/-- A flag add that a port is to perform after the bytes of its PUTF (R369): function and address of the word; whether it is that of the
mirror's copy (R344). -/
structure FlagAdd where
  id : Nat
  src : PortSrc
  func : Nat
  va : Nat
  addend : Word
  scope : Nat
  mirror : Bool
  deriving DecidableEq, Repr

/-- What a port sends back to another package: ACK (reason 0) or NACK for a number, or PULLDATA (R333, R369); `left` of its flits are
still to leave, at the cost of a function (R334). -/
structure Reply where
  port : Nat
  tag : Nat
  reason : Nat
  data : List Byte
  func : Nat
  left : Nat
  deriving DecidableEq, Repr

/-- A rejected or lost remote operation, numbered `op`, waiting to be reported at a fence (R343, R349). -/
structure Reject where
  tid : Nat
  ctx : Nat
  iss : Nat
  scope : Nat
  hoff : Nat
  rank : Nat
  lost : Bool
  op : Nat
  deriving DecidableEq, Repr

/-- A write in the ordering machine (R356–R360): level 0 own buffer, 1 CORE, 2 CLUSTER, 3 memory (kept for its
cumulative set); its place in the coherence order once it has left level 0; the cells it writes under key `key`; the
cumulative set of a release (R366); the scope it is performed at (R358). `cover` is the place in issue order from which on the
write is in its context's cumulative set: 0 for M-slot writes and atomics, none for a beat or an XACC that no wait has
covered (R366). `born` is the time of its issue (R360); `parts` the virtual addresses and lengths of the chunks that its cells belong to, and
whether it is performed as a whole (R229, R238). -/
structure Write where
  id : Nat
  tid : Nat
  ctx : Nat
  iss : Nat
  pc : Word
  level : Nat
  stamp : Nat
  key : Nat
  cells : List Host.Cell
  rel : List Nat
  groups : List Nat
  scope : Nat
  cover : Option Nat
  born : Nat
  parts : List (Nat × Nat)
  whole : Bool
  deriving DecidableEq, Repr

/-- How the bytes of a 128-byte line are kept (R203–R205): as the plain data of a key and tweak, or as the raw ciphertext
of a sealed line with its slot and tweak. Lines not listed read the same under every key (DESIGN CHOICE, log entry 7). -/
inductive LineTag where
  | key (k t : Nat)
  | raw (slot tweak : Nat)
  deriving DecidableEq, Repr

/-- The mode of a tile as issued XZEROs leave it (R303). -/
structure TileMode where
  wa : Nat := 0
  wb : Nat := 0
  sl : Bool := false
  deriving DecidableEq, Repr

/-- An entry of the matrix queue with the operands read at issue (R306, R314–R323). -/
inductive XOp where
  | cfg
  | pushA (rows : List Nat) (rb : Nat)
  | pushW (off n pm wb : Nat) (keys : Table Nat)
  | flip
  | shift (wa : Nat)
  | scl (seg : Nat) (v : Vec)
  | acc (t row pair kstep : Nat) (sl : Bool) (ea : Word)
  | drain (t m q eo mode vd due : Nat)
  | zero (t wa wb : Nat) (sl : Bool)
  | sete (t et : Nat)
  | clrf (t : Nat)
  | mark (t : Nat) (col : Bool) (i : Nat) (w : Word)
  | hdr (load : Nat)
  deriving DecidableEq, Repr

/-- A matrix-queue entry of a task. -/
structure XEntry where
  tid : Nat
  ctx : Nat
  iss : Nat
  op : XOp
  deriving DecidableEq, Repr

/-- The bytes of a tile row as they were before an XACC that no XWAIT of its task has covered (R327). -/
structure Undo where
  tid : Nat
  iss : Nat
  cells : List Host.Cell
  deriving DecidableEq, Repr

/-- A compute core (R154, R163, R222, R302, R306): array, tiles, the XACCs that no XWAIT has covered (R327), issue arbiter,
first-level TLB as (function, space, page address, page size), `clean` those of its entries, locked ones included, whose DIRTY is clear
(R221). -/
structure Core where
  owner : Option Nat := none
  waiters : List Nat := []
  wa : Nat := 0
  wb : Nat := 0
  sl : Bool := false
  s1 : Nat := 0
  cfgd : Bool := false
  np : Nat := 0
  ns : Nat := 0
  active : Table Int := []
  shadow : Table Int := []
  fifo : List (List Int) := []
  banks : List (List Int) := []
  scales : Table Nat := []
  queue : List XEntry := []
  hdr : Table TileHdr := []
  mode : Table TileMode := []
  dc : Table Nat := []
  cur : Option Nat := none
  last0 : Option Nat := none
  granted : Table Nat := []
  escape : Nat := 0
  undo : List Undo := []
  tlb : List (Nat × Nat × Nat × Nat) := []
  clean : List (Nat × Nat × Nat × Nat) := []
  deriving DecidableEq, Repr

/-- A cluster (R215, R221, R440, R442, R443): second-level TLB as (function, space, page address, page size), `clean` those of its entries
whose DIRTY is clear (R221), sweeper, power state,
thermal limit and telemetry word, `due` the time by which a new FREQ takes effect, `beat` the part of a cycle of its own clock that has
passed (R443). -/
structure Cluster where
  sweeps : Nat := 0
  state : Nat := 2
  cap : Nat := 80
  freq : Nat := 80
  corr : Nat := 0
  temp : Nat := 0
  pwr : Nat := 0
  router : Table (BitVec 32) := []
  idle : Nat := 0
  wakeAt : Nat := 0
  limit : Nat := 80
  due : Nat := 0
  beat : Nat := 0
  tlb : List (Nat × Nat × Nat × Nat) := []
  clean : List (Nat × Nat × Nat × Nat) := []
  deriving DecidableEq, Repr

/-- A retirement-tracker entry (R169, R170): the task, where it ran, the record it will write, and
the writes its release must publish (R80, R366). -/
structure Retire where
  core : Nat
  ctx : Nat
  task : Task
  code : Nat
  fpc : Word
  tval : Word
  pend : Bool
  mchk : Bool
  left : Nat
  tail : Bool
  need : List Nat
  deriving DecidableEq, Repr

/-- A group slot (R165, R166): its level-1 partition, the record, the members (contexts with their tasks); draining once
the last has left. -/
structure Group where
  l1 : Nat
  addr : Nat
  acc : Acc
  members : List (Nat × Nat)
  draining : Bool
  deriving DecidableEq, Repr

/-- A launch slot (R66). -/
structure Slot where
  func : Nat := 0
  inst : Nat := 0
  start : Nat := 0
  nodes : Nat := 0
  en : Bool := false
  graph : Nat := 0
  step : Nat := 0
  thresh : Nat := 0
  flag : Nat := 0
  walks : Nat := 0
  lastStatus : Nat := 0
  lastNode : Nat := 0
  enerr : Nat := 0
  deriving DecidableEq, Repr

/-- A walk of a launch slot (R62–R65): function, image, graph, paths that are to visit a node, visits made, status once
abandoned, and the host pages for which its nodes have raised a request (R70). -/
structure Walk where
  slot : SlotRef
  func : Nat
  inst : Nat
  graph : Nat
  nodes : Nat
  paths : List Nat
  visits : Nat
  failed : Option (Nat × Nat)
  asked : List Nat
  deriving DecidableEq, Repr

/-- Where a launch stands (R72, R74, R82): it waits for its lease, it places its tasks, or it has got no lease. -/
inductive LaunchStage where
  | lease | placing | failed
  deriving DecidableEq, Repr

/-- A skein launch in flight (R54, R74, R77, R81, R82); `reserve` the frames, with their sizes, that its lease has reserved for first
touches (R225). -/
structure Launch where
  id : Nat
  walk : Nat
  node : Nat
  die : Nat
  func : Nat
  l1 : Nat
  child : Nat
  expl : Bool
  inst : Nat
  skein : Nat
  entry : Nat
  root : Nat
  dims : List Dim
  order : List Nat
  n : Nat
  persist : Bool
  count : Nat
  weight : Nat
  matrix : Bool
  rmode : Bool
  rcap : Nat
  crec : Nat
  summ : Nat
  succ : List Nat
  err : Nat
  ranges : List (Nat × Nat × Nat)
  stage : LaunchStage
  lease : Nat
  next : Nat
  turn : Nat
  seq : Nat
  launched : Nat
  normal : Nat
  faulted : Nat
  dropped : Nat
  left : Nat
  first : Nat
  recs : Nat
  reserve : List (Nat × Nat) := []
  deriving DecidableEq, Repr

/-- A partition descriptor (R85) with the bookkeeping of its budgets (R87, R88): tokens left, debts, the debts that the last refill
left, the tokens that each of its requests of the cycle has lacked, its requests that wait; its wheel mask (R373), release (R92–R94)
and event and machine-check logs (R401, R448); the placement cursor and the launch whose turn it is (R74, R75); the tokens its
zeroing pass has still to take, whether it has ended (R437, R438), and the save areas that it is to zero (R94). -/
structure Part where
  state : Nat := 0
  level : Nat := 0
  parent : Nat := 0
  clusters : BitVec 16 := 0
  mask : BitVec 512 := 0
  tused : Nat := 0
  tbudget : Nat := 0
  mtok : Nat := 0
  ftok : Nat := 0
  weight : Nat := 0
  mleft : Nat := 0
  fleft : Nat := 0
  mdebt : Nat := 0
  fdebt : Nat := 0
  mcarry : Nat := 0
  fcarry : Nat := 0
  mwant : List (Nat × Nat) := []
  fwant : List (Nat × Nat) := []
  nextM : Nat := 0
  nextF : Nat := 0
  nextT : Nat := 0
  nextW : Nat := 0
  mwait : Option Nat := none
  fwait : Option Nat := none
  mline : List Nat := []
  fline : List Nat := []
  destroy : Bool := false
  wheel : BitVec 256 := 0
  events : List (Nat × Nat) := []
  mclog : List (BitVec 512) := []
  resident : Option Nat := none
  epoch : Nat := 0
  stale : Nat := 0
  dropped : Nat := 0
  cursor : Nat := 0
  rr : Nat := 0
  zeroLeft : Nat := 0
  zeroed : Bool := false
  areas : List (Nat × Nat) := []
  deriving DecidableEq, Repr

/-- A loaded image (R24–R27): function, base address and size of its code, entry offsets, measurement, trap table
(R406), templates (R449), skeins, policies as (slot, digest, measurements), wheel and router sections, where the line map of translated code
lies and its length (R15). `home` is where the image lies, `base` its code, `size` how many bytes the loaded image takes. -/
structure Image where
  func : Nat
  l1 : Nat
  home : Nat
  base : Nat
  size : Nat
  entries : List Nat
  digest : List Byte
  traps : List (Nat × Nat)
  roots : List (BitVec 128)
  skeins : List (BitVec 1024)
  policies : List (Nat × List Byte × List (List Byte))
  wheel : List (Nat × Nat)
  router : List (Nat × List (BitVec 32))
  lineMap : List Nat × Nat
  unloading : Bool
  deriving DecidableEq, Repr

/-- A key slot of the monitor (R99): key numbers of CUR and NEXT, record, release mask as context numbers, sweep
ranges left, the tokens that the sweep has paid for its line (R115). -/
structure KeySlot where
  cur : Nat := 0
  nxt : Nat := 0
  pdigest : Nat := 0
  olines : Nat := 0
  pline : Nat := 0
  prange : Nat := 0
  owner : Nat := 255
  gen : Nat := 0
  state : Nat := 0
  release : List Nat := []
  sweep : List (Nat × Nat) := []
  moving : Bool := false
  paid : Nat := 0
  deriving DecidableEq, Repr

/-- A job slot (R338) with its rank table (R339) and segment table (R340). -/
structure Job where
  valid : Bool := false
  job : BitVec 16 := 0
  func : Nat := 0
  nranks : Nat := 0
  myrank : Nat := 0
  heapBase : Nat := 0
  heapLen : Nat := 0
  ranks : Table (BitVec 64) := []
  segs : Table (BitVec 128) := []
  lost : List Nat := []
  reported : List Nat := []
  deriving DecidableEq, Repr

/-- A fabric port (R342, R346–R349): up, running x2, the flit counters of both directions (R347), consecutive tag failures, down since, reject log;
`again` the flits that are still to be sent again (R347, R348). -/
structure Port where
  up : Bool := true
  x2 : Bool := false
  flits : Nat := 0
  rx : Nat := 0
  fails : Nat := 0
  again : Nat := 0
  downAt : Nat := 0
  rejects : List (BitVec 256) := []
  rejectCount : Nat := 0
  deriving DecidableEq, Repr

/-- The states of a firmware update (R113). -/
inductive Update where
  | idle | staged | trial
  deriving DecidableEq, Repr

/-- The monitor and start-up (R96, R111–R114, R444): fuses, the two firmware slots, update state, saved handover, status
of the last command, start-up record, DRBG count; whether fuse bits are being blown (R114), the heartbeats missed (R113), and the running
image as it was started (R104). -/
structure Monitor where
  fuses : Nat := 0
  slot0 : List Byte := []
  slot1 : List Byte := []
  active : Nat := 0
  running : Nat := 0
  update : Update := .idle
  switchAt : Nat := 0
  handover : List Byte := []
  updateFailed : Bool := false
  status : Nat := 0
  bootrec : List Nat := [0, 0, 0, 0, 0, 0, 0]
  started : Bool := false
  keys : Nat := 1
  committing : Bool := false
  missed : Nat := 0
  code : List Byte := []
  deriving DecidableEq, Repr

/-- A function's SPDM responder (R103): negotiation reached, sessions as (number, finished), last response. -/
structure Spdm where
  stage : Nat := 0
  sessions : List (Nat × Bool) := []
  answer : List Byte := []
  error : Nat := 0
  deriving DecidableEq, Repr

/-- What came of an instruction in the bundle that issues: it takes effect, it trapped, it holds its context, or it ended
the task. -/
inductive Verdict where
  | effect | trapped | held | ended
  deriving DecidableEq, Repr

/-- The place an instruction issues from: the context (4 × core + number), its slot's header bit, its bundle's length, and what its
operations keep of it (R414). -/
structure Cur where
  id : Nat := 0
  bit : Nat := 0
  len : Nat := 1
  verdict : Verdict := .effect
  src : Origin := {}
  deriving DecidableEq, Repr

/-- The state of the package. `lastArrive` holds the scope of the last BARRIVE of the current generation of a record, by location
(R386); `paid` the tokens that an operation has taken while it waits for more (R87); `fused` the clusters fused off (R2, R444);
`pool` the zeroed frames that reservations gave back, by level-1 partition, frame and size (R225); `coresOff` the cores fused off in the
last cluster, `portsOff` the ports fused off (R2; DESIGN CHOICE, log entry 54); `power` the device power in mW (R442); `seen` the heads that have passed their tag check
and wait for their turn (R348), by channel and number. Fields of the model's own: `inbox`, `grant`, `cur`, `ready`, `held`, `choice`, `fresh`, `stamp`,
`turn`, `refilled` (DESIGN CHOICE, log entry 4), `frames`, the frames handed out, with their sizes (DESIGN CHOICE, log entry 18); `halves` the
64-byte halves of sealed lines that have come to L2 while the other half has not (R115, R205). -/
structure State where
  time : Nat
  inbox : List Instr
  grant : Option Nat
  cur : Cur
  ready : List Nat
  held : List Nat
  choice : Nat
  fresh : Nat
  stamp : Nat
  turn : Nat
  refilled : Nat
  ctxs : Table Ctx
  cores : Table Core
  clusters : Table Cluster
  mem : Memory
  lines : Table LineTag
  owners : Table Nat
  ptes : Table Word
  roots : Table Nat
  hostGone : List (Nat × Nat)
  hostBad : List (Nat × Nat)
  requests : List (Nat × Nat × Nat × Nat)
  loads : List Load
  divs : List Div
  atoms : List Atom
  copies : List Copy
  outs : List Out
  flags : List FlagAdd
  replies : List Reply
  spoiled : List (Nat × Nat × Nat)
  rejects : List Reject
  writes : List Write
  lastArrive : Table Nat
  retire : List Retire
  groups : Table Group
  slots : Table Slot
  walks : Table Walk
  launches : Table Launch
  parts : Table Part
  insts : Table Image
  loadStatus : Table (BitVec 128)
  keys : Table KeySlot
  jobs : Table Job
  rxSeq : Table Nat
  ports : Table Port
  monitor : Monitor
  spdm : Table Spdm
  quiesced : List Nat
  served : Table (Nat × Nat)
  fwStatus : Nat
  hostOut : List (BitVec 8)
  paid : Table Nat
  lostPairs : List Nat
  fused : Nat
  pool : List (Nat × Nat × Nat)
  coresOff : Nat
  portsOff : Nat
  power : Nat
  seen : List (Nat × Nat)
  frames : List (Nat × Nat)
  halves : List Nat
  deriving DecidableEq, Repr

/-- The machine right after reset: nothing runs, no partition is created, nothing is listed; every count and register is
zero (R66, R85, R99, R339, R340, R442; DESIGN CHOICE, log entries 1, 2, 4). -/
def State.reset : State where
  time := 0
  inbox := []
  grant := none
  cur := {}
  ready := []
  held := []
  choice := 0
  fresh := 0
  stamp := 0
  turn := 0
  refilled := 0
  ctxs := []
  cores := []
  clusters := []
  mem := []
  lines := []
  owners := []
  ptes := []
  roots := []
  hostGone := []
  hostBad := []
  requests := []
  loads := []
  divs := []
  atoms := []
  copies := []
  outs := []
  flags := []
  replies := []
  spoiled := []
  rejects := []
  writes := []
  lastArrive := []
  retire := []
  groups := []
  slots := []
  walks := []
  launches := []
  parts := []
  insts := []
  loadStatus := []
  keys := []
  jobs := []
  rxSeq := []
  ports := []
  monitor := {}
  spdm := []
  quiesced := []
  served := []
  fwStatus := 0
  hostOut := []
  paid := []
  lostPairs := []
  fused := 0
  pool := []
  coresOff := 0
  portsOff := 0
  power := 0
  seen := []
  frames := []
  halves := []

end Sys2Proof.Machine
end

