-- ==== Sys2Proof/Machine/Regs.lean ====
section
/-!
DEFINITION. The registers of a context (R150–R153) and the results that are still to land in them (R157–R162); the
state's tables of contexts, cores and clusters. An instruction reads the registers as they are at the start of its step:
`State.me` is the issuing context with every result due by then landed.
-/

namespace Sys2Proof.Machine

/-- What a step answers. -/
abbrev Result := Host.Outcome State Fault Refusal

/-- The cores of the part (R3). -/
def nCores : Nat := 128
/-- The clusters of the part (R3). -/
def nClusters : Nat := 16
/-- The clusters present: those fused off bear no number (R2, R446). -/
def State.clusterCount (s : State) : Nat := nClusters - s.fused
/-- The cores present, numbered without gaps (R2, R148): those of the clusters present, the last of which may lack some (DESIGN CHOICE,
log entry 54). -/
def State.coreCount (s : State) : Nat := 8 * s.clusterCount - s.coresOff
/-- The fabric ports present, numbered without gaps (R2; DESIGN CHOICE, log entry 54). -/
def State.portTotal (s : State) : Nat := 16 - s.portsOff
/-- The core of a context number. -/
def coreOf (id : Nat) : Nat := id / 4
/-- The cluster of a core (R3). -/
def clusterOf (core : Nat) : Nat := core / 8

/-- The context numbered `id` (4 × core + context). -/
def State.ctx (s : State) (id : Nat) : Ctx := Table.get {} s.ctxs id
/-- Replace a context. -/
def State.setCtx (s : State) (id : Nat) (c : Ctx) : State := { s with ctxs := Table.set s.ctxs id c }
/-- A core. -/
def State.core (s : State) (n : Nat) : Core := Table.get {} s.cores n
/-- Replace a core. -/
def State.setCore (s : State) (n : Nat) (c : Core) : State := { s with cores := Table.set s.cores n c }
/-- A cluster. -/
def State.cluster (s : State) (n : Nat) : Cluster := Table.get {} s.clusters n
/-- Replace a cluster. -/
def State.setCluster (s : State) (n : Nat) (c : Cluster) : State := { s with clusters := Table.set s.clusters n c }
/-- The partition of a device function (R91). -/
def State.part (s : State) (f : Nat) : Part := Table.get {} s.parts f
/-- Replace a partition. -/
def State.setPart (s : State) (f : Nat) (p : Part) : State := { s with parts := Table.set s.parts f p }

/-- Put the selected bits of `val` over `old` (R159, R281). -/
def mergeBits {n : Nat} (old val sel : BitVec n) : BitVec n := (old &&& ~~~sel) ||| (val &&& sel)

/-- A g register; g0 reads 0 with a clear tag (R124, R174). -/
def Ctx.gr (c : Ctx) (a : Nat) : GReg := if a = 0 then {} else Table.get {} c.g a
/-- A v register. -/
def Ctx.vr (c : Ctx) (a : Nat) : VReg := Table.get {} c.v a
/-- A k register. -/
def Ctx.kr (c : Ctx) (a : Nat) : Cap := Table.get {} c.k a
/-- A peer register. -/
def Ctx.er (c : Ctx) (a : Nat) : BitVec 13 := Table.get 0 c.e a
/-- A circular-buffer handle. -/
def Ctx.hr (c : Ctx) (a : Nat) : Handle := Table.get {} c.h a
/-- The top of the mask stack: all ones when it is empty (R126). -/
def Ctx.top (c : Ctx) : Mask :=
  match c.stack with
  | [] => BitVec.allOnes 64
  | x :: _ => x
/-- The mask that a 3-bit MSK field selects (R126). -/
def Ctx.mask (c : Ctx) (m : Nat) : Mask := if m = 0 then c.top else Table.get 0 c.m m

/-- Write a g register: a write to g0 is ignored (R124). -/
def Ctx.setG (c : Ctx) (n : Nat) (v : Word) (p : Bool) : Ctx :=
  if n = 0 then c else { c with g := Table.set c.g n ⟨v, p⟩ }
/-- Write a k register: an untagged one holds zero (R183); k0 is never written (R124). -/
def Ctx.setK (c : Ctx) (n : Nat) (x : Cap) : Ctx :=
  if n = 0 then c else { c with k := Table.set c.k n (if x.tag then x else {}) }

/-- CCNT advances by `k`; the loan goes back when it reaches GP + NOV, be it on its way further (R216, R247). -/
def Handle.consume (h : Handle) (k : Nat) : Handle :=
  let w := { h with ccnt := (h.ccnt + k) % 2 ^ 16 }
  if h.loan ∧ (h.gp + h.nov + 2 ^ 16 - h.ccnt) % 2 ^ 16 ≤ k then { w with ofs := (w.ofs + w.nov) % 2 ^ 16, loan := false, nov := 0 }
  else w

/-- Write what a result carries (R158, R159). -/
def Ctx.apply (c : Ctx) (p : Payload) : Ctx :=
  match p with
  | .g n v q => c.setG n v q
  | .flag _ => c
  | .m n v sel => { c with m := Table.set c.m n (mergeBits (Table.get 0 c.m n) v sel) }
  | .v n v sel q => { c with v := Table.set c.v n ⟨mergeBits (c.vr n).v v sel, q⟩ }
  | .k n x => c.setK n x
  | .e n v => { c with e := Table.set c.e n v }
  | .h n w => { c with h := Table.set c.h n w }
  | .hAdv n consumer k =>
    let w := c.hr n
    if consumer then { c with h := Table.set c.h n (w.consume k) }
    else { c with h := Table.set c.h n { w with pcnt := (w.pcnt + k) % 2 ^ 16 } }
  | .hRes n k => { c with h := Table.set c.h n { c.hr n with p := (c.hr n).p + k } }
  | .stack t => { c with stack := t }

/-- Write a list of results in order (R159). -/
def Ctx.applyAll : List Res → Ctx → Ctx
  | [], c => c
  | r :: rs, c => Ctx.applyAll rs (c.apply r.val)

/-- Land every result that is due by the start of the context's current step (R158). -/
def Ctx.land (c : Ctx) : Ctx :=
  { Ctx.applyAll (c.pend.filter fun r => decide (r.due ≤ c.step)) c with
    pend := c.pend.filter fun r => decide (c.step < r.due) }

/-- One step goes by for the context: results due at its start land (R157). -/
def Ctx.tick (c : Ctx) : Ctx := { c.land with step := c.step + 1 }

/-- The exposed results of g, m and v destinations (R161). -/
def Payload.exposed : Payload → Bool
  | .g _ _ _ => true
  | .flag _ => true
  | .m _ _ _ => true
  | .v _ _ _ _ => true
  | _ => false

/-- The register a result is bound for (R160). -/
def Payload.reg : Payload → Option Reg
  | .g n _ _ => some (.g n)
  | .flag n => some (.g n)
  | .m n _ _ => some (.m n)
  | .v n _ _ _ => some (.v n)
  | .k n _ => some (.k n)
  | _ => none

/-- What is left of a pending result once `p`, which comes after it, has been written: the bits that `p` does not cover, under the poison
of `p` (R120, R159, R282). -/
def Payload.under (q p : Payload) : Option Payload :=
  match q, p with
  | .g i _ _, .g j _ _ => if i = j then none else some q
  | .flag i, .g j _ _ => if i = j then none else some q
  | .k i _, .k j _ => if i = j then none else some q
  | .m i x sel, .m j _ sel' =>
    if i ≠ j then some q else if sel &&& ~~~sel' = 0 then none else some (.m i x (sel &&& ~~~sel'))
  | .v i x sel _, .v j _ sel' y =>
    if i ≠ j then some q else if sel &&& ~~~sel' = 0 then none else some (.v i x (sel &&& ~~~sel') y)
  | _, _ => some q

/-- An interlocked result comes in: it is written at once, and comes after every exposed result that is pending for its register (R160).
(DEDUCED, log entry 13.) -/
def Ctx.come (c : Ctx) (p : Payload) : Ctx :=
  { c.apply p with pend := c.pend.filterMap fun r => (r.val.under p).map fun v => ⟨r.due, v⟩ }

/-- The interlocked result of operation `n` comes in. Of several results of one bundle for one register that of the highest slot stays,
whichever comes first: operations are numbered in slot order (R120). -/
def Ctx.comeFrom (c : Ctx) (n : Nat) (p : Payload) : Ctx :=
  match p with
  | .g d _ _ => if n < Table.get 0 c.won d then c else { c.come p with won := Table.set c.won d n }
  | _ => c.come p

/-- The results that no latch record would hold land: the bundle that follows sees them in either case (R162). -/
def Ctx.landOwn (c : Ctx) : Ctx :=
  { Ctx.applyAll (c.pend.filter fun r => !r.val.exposed && decide (r.due ≤ c.step)) c with
    pend := c.pend.filter fun r => r.val.exposed || decide (c.step < r.due) }

/-- The issuing context as an instruction of its next bundle reads it (R120, R158). -/
def State.me (s : State) : Ctx := (s.ctx s.cur.id).land

/-- The instruction takes effect, leaving the issuing context as `c`. -/
def State.setMe (s : State) (c : Ctx) : State :=
  { s with ctxs := Table.set s.ctxs s.cur.id c, cur := { s.cur with verdict := .effect } }

/-- The instruction takes effect without a result. -/
def State.done (s : State) : State := s.setMe s.me

/-- The instruction's result `p` lands `lat` steps after its own (R158). -/
def State.put (s : State) (lat : Nat) (p : Payload) : State :=
  s.setMe { s.me with pend := s.me.pend ++ [⟨s.me.step + lat, p⟩] }

/-- Several results of one instruction, in order (R158, R194). -/
def State.puts (s : State) (lat : Nat) (ps : List Payload) : State :=
  s.setMe { s.me with pend := s.me.pend ++ ps.map fun p => ⟨s.me.step + lat, p⟩ }

/-- A result bound for g register `d`; g0 takes none (R124, R158). -/
def State.putG (s : State) (lat : Nat) (d : Fin 64) (v : Word) (p : Bool) : State :=
  if d.val = 0 then s.done else s.put lat (.g d.val v p)

/-- The bundle of the instruction cannot issue in this cycle and is HELD, for the wait `w` (R155). -/
def State.holdFor (s : State) (w : Wait) : State :=
  { s with ctxs := Table.set s.ctxs s.cur.id { s.ctx s.cur.id with wait := some w },
           cur := { s.cur with verdict := .held } }

/-- The bundle of the instruction is HELD for want of room in an engine queue or the retirement tracker (R155). -/
def State.holdFull (s : State) : State := { s with cur := { s.cur with verdict := .held } }

/-- The value of g register `a` as the instruction reads it. -/
def State.gv (s : State) (a : Fin 64) : Word := (s.me.gr a.val).v
/-- The poison tag of g register `a` as the instruction reads it. -/
def State.gp (s : State) (a : Fin 64) : Bool := (s.me.gr a.val).p

/-- The issuing task, if the context holds one. -/
def State.task (s : State) : Option Task := (s.ctx s.cur.id).task
/-- The number of the issuing task. -/
def State.tid (s : State) : Nat := match s.task with | some t => t.tid | none => 0
/-- The device function of the issuing task (R91). -/
def State.func (s : State) : Nat := match s.task with | some t => t.func | none => 0

/-- A new number for an operation, a task or a write. -/
def State.newId (s : State) : Nat × State := (s.fresh, { s with fresh := s.fresh + 1 })

/-- The next issue number of the context: its place in issue order (R356). -/
def State.nextIss (s : State) : Nat × State :=
  (s.me.iss, s.setMe { s.me with iss := s.me.iss + 1 })

end Sys2Proof.Machine
end

