-- ==== Sys2Proof/Machine/Mem.lean ====
section
/-!
DEFINITION. Memory as the agents reach it: where each space lies (R198), translation (R218–R227), ciphertext lines
(R203–R206), the buffered writes of the ordering machine (R356–R361) and the capability checks (R207–R212).
-/

namespace Sys2Proof.Machine

/-! ### Where the spaces lie

One byte memory holds every store of the package. HBM has its physical addresses; the model places the others above it. -/

/-- Host memory, by host I/O virtual page (R352). -/
def flatHost : Nat := 2 ^ 60
/-- The L2 of a cluster. -/
def flatL2 (cluster : Nat) : Nat := 2 ^ 62 + cluster * 2 ^ 24
/-- The spare pool of a cluster. -/
def flatSpare (cluster : Nat) : Nat := 2 ^ 62 + 2 ^ 40 + cluster * 2 ^ 20
/-- The A buffer of a core; its spare window lies in the cluster's spare pool (R198, R213). -/
def flatA (core : Nat) : Nat := 2 ^ 63 + core * 2 ^ 24
/-- The W buffer of a core. -/
def flatW (core : Nat) : Nat := 2 ^ 63 + core * 2 ^ 24 + 2 ^ 22
/-- The C buffer of a core. -/
def flatC (core : Nat) : Nat := 2 ^ 63 + core * 2 ^ 24 + 2 ^ 23

/-- The location of an untranslated space for a core (R198). An offset past the end of its store, which a capability may
cover and for which no fault is given, goes round within the store (DESIGN CHOICE, log entry 49). -/
def flatOf (core space addr : Nat) : Nat :=
  match space with
  | 2 => flatL2 (clusterOf core) + addr % 2 ^ 24
  | 3 => if addr < 0x300000 then flatA core + addr else flatSpare (clusterOf core) + (addr - 0x300000) % 2 ^ 20
  | 4 => flatW core + addr % 2 ^ 21
  | _ => flatC core + addr % 2 ^ 21

/-- Whether a location is kept as ciphertext: HBM and L2 (R203). -/
def ciphered (flat : Nat) : Bool :=
  decide (flat < 2 ^ 60) || (decide (2 ^ 62 ≤ flat) && decide (flat < 2 ^ 62 + 2 ^ 40))

/-- Whether a location lies in L2. -/
def inL2 (a : Nat) : Bool := decide (2 ^ 62 ≤ a) && decide (a < 2 ^ 62 + 2 ^ 40)

/-- Where the out-of-band tag of a 16-byte slot is kept (R207, R241): a byte of its own beside memory. -/
def tagCell (flat : Nat) : Nat := 2 ^ 64 + flat / 16

/-! ### Ciphertext lines -/

/-- Whether the sweep of a rotating slot has passed a line (R115): its first place in the list is below the pointer. -/
def sweptBefore : List (Nat × Nat) → Nat → Nat → Nat → Bool
  | [], _, _, _ => false
  | (lo, n) :: rs, i, line, target =>
    match i with
    | 0 => decide (lo ≤ target) && decide (target < line) && decide (target < lo + n)
    | i + 1 => (decide (lo ≤ target) && decide (target < lo + n)) || sweptBefore rs i line target

/-- The key a slot uses on a line: NEXT where its sweep has passed the line, else CUR (R115, R116). -/
def State.keyFor (s : State) (slot line : Nat) : Nat :=
  let k := Table.get {} s.keys slot
  if decide (k.state = 2) && sweptBefore k.sweep k.prange k.pline line then k.nxt else k.cur

/-- The 16-byte block of a location, as it is kept. -/
def memBlock (m : Memory) (flat : Nat) : BitVec 128 :=
  BitVec.ofNat 128 (leNat (m.readN (flat / 16 * 16) 16))

/-- Byte `i` of a block. -/
def blockByte (b : BitVec 128) (i : Nat) : Byte := BitVec.ofNat 8 (b.toNat / 256 ^ (i % 16))

/-- The key that a sealed slot uses on a line it seals, kept at `line` (R115): NEXT once the sweep has passed the HBM line that
records the same slot and tweak. (DESIGN CHOICE, log entry 50.) -/
def State.sealKey (s : State) (slot tweak line : Nat) : Nat :=
  match s.lines.find? fun p => decide (p.1 < 2 ^ 53) && decide (p.2 = .raw slot tweak) with
  | some p => s.keyFor slot p.1
  | none => s.keyFor slot line

/-- The byte at a location as decryption under key number `k` and the line's physical address yields it (R101, R203). A
line kept under another key, or as raw ciphertext, yields what that decryption gives. -/
def State.peekKey (s : State) (k flat : Nat) : Byte :=
  let line := flat / 128
  let blk := flat / 16 % 8
  match Table.find s.lines line with
  | none => s.mem.read flat
  | some (.key k' t') =>
    if k' = k ∧ t' = line then s.mem.read flat
    else blockByte (Config.xtsDec k line blk (Config.xtsEnc k' t' blk (memBlock s.mem flat))) flat
  | some (.raw _ _) => blockByte (Config.xtsDec k line blk (memBlock s.mem flat)) flat

/-- The byte at a location as an access under key slot `slot` reads it (R203): plain bytes outside the ciphered tiers. -/
def State.peek (s : State) (slot flat : Nat) : Byte :=
  if ciphered flat then s.peekKey (s.keyFor slot (flat / 128)) flat else s.mem.read flat

/-- Byte `flat` of the raw ciphertext of a line (R204, R205). -/
def State.rawByte (s : State) (flat : Nat) : Byte :=
  match Table.find s.lines (flat / 128) with
  | some (.key k t) => blockByte (Config.xtsEnc k t (flat / 16 % 8) (memBlock s.mem flat)) flat
  | _ => s.mem.read flat

/-- Bring a line under key `k` before a part of it is written: its other bytes then read as they would have. -/
def State.rekeyLine (s : State) (k line : Nat) : State :=
  match Table.find s.lines line with
  | some (.key k' t') =>
    if k' = k ∧ t' = line then s
    else
      { s with mem := s.mem.writeCells ((List.range 128).map fun i => (line * 128 + i, s.peekKey k (line * 128 + i))),
               lines := Table.set s.lines line (.key k line) }
  | some (.raw _ _) =>
    { s with mem := s.mem.writeCells ((List.range 128).map fun i => (line * 128 + i, s.peekKey k (line * 128 + i))),
             lines := Table.set s.lines line (.key k line) }
  | none => { s with lines := Table.set s.lines line (.key k line) }

/-- Make a line hold raw ciphertext with a slot and tweak before a part of it is written (R205). -/
def State.rawLine (s : State) (slot tweak line : Nat) : State :=
  match Table.find s.lines line with
  | some (.key _ _) =>
    { s with mem := s.mem.writeCells ((List.range 128).map fun i => (line * 128 + i, s.rawByte (line * 128 + i))),
             lines := Table.set s.lines line (.raw slot tweak) }
  | _ => { s with lines := Table.set s.lines line (.raw slot tweak) }

/-- The key argument of a write of raw ciphertext with its slot and tweak (R205). Key slots lie below 256 (R99). -/
def rawKey (slot tweak : Nat) : Nat := 256 + slot + 256 * tweak

/-- Write one byte under key slot `slot` (R203), or as raw ciphertext with the slot and tweak of `rawKey`. A write over a
sealed W-buffer line clears its mark (R205). -/
def State.poke (s : State) (slot : Nat) (c : Host.Cell) : State :=
  let s1 :=
    if 256 ≤ slot then s.rawLine (slot % 256) ((slot - 256) / 256) (c.1 / 128)
    else if ciphered c.1 then s.rekeyLine (s.keyFor slot (c.1 / 128)) (c.1 / 128)
    else
      match Table.find s.lines (c.1 / 128) with
      | none => s
      | some _ => { s with lines := Table.del s.lines (c.1 / 128) }
  { s1 with mem := s1.mem.write c.1 c.2 }

/-- Write cells under a key slot, in order. -/
def State.pokeCells (s : State) (slot : Nat) : List Host.Cell → State
  | [] => s
  | c :: cs => State.pokeCells (s.poke slot c) slot cs

/-! ### The writes of the ordering machine (R356–R361) -/

/-- The byte a list of cells gives an address: the last one named (R238). -/
def cellAt (a : Nat) : List Host.Cell → Option Byte
  | [] => none
  | (x, b) :: cs =>
    match cellAt a cs with
    | some y => some y
    | none => if x = a then some b else none

/-- Whether two lists of cells name a common address. -/
def overlaps (cs : List Host.Cell) (as : List Nat) : Bool := cs.any fun c => as.contains c.1

/-- Spaces whose addresses name the same bytes: 0, 7 and 8 (R218). -/
def rootSpace' (space : Nat) : Nat := if space = 7 ∨ space = 8 then 0 else space

/-- Who reads: a context's accesses (the context, its core, their place in issue order), or an agent of the package that
sees memory only (R359). `lo` is the narrowest level it reads: above 0 for an atomic at its scope (R363). -/
structure Viewer where
  ctx : Nat
  core : Option Nat
  iss : Nat
  lo : Nat
  deriving DecidableEq, Repr

/-- An agent that sees memory only: a receiving port, Spindle, the host link (R359). -/
def chipViewer : Viewer := ⟨0, none, 0, 3⟩

/-- Whether a buffered write is seen (R359): by its own context from issue on, in its core from level 1, in its cluster
from level 2. Writes in memory are read there. -/
def Write.seenBy (w : Write) (v : Viewer) : Bool :=
  match v.core with
  | none => false
  | some c =>
    if w.level < v.lo then false
    else
    match w.level with
    | 0 => decide (w.ctx = v.ctx) && decide (w.iss < v.iss)
    | 1 => decide (coreOf w.ctx = c)
    | 2 => decide (clusterOf (coreOf w.ctx) = clusterOf c)
    | _ => false

/-- Whether write `b` comes after `a` for a reader: an own write not yet placed is the latest; placed ones follow the
coherence order (R360, R361). -/
def Write.after (a b : Write) : Bool :=
  if a.level = 0 then decide (b.level = 0) && decide (a.iss < b.iss)
  else decide (b.level = 0) || decide (a.stamp < b.stamp)

/-- The latest seen write to an address (R361). -/
def latestWrite (v : Viewer) (a : Nat) : List Write → Option Write
  | [] => none
  | w :: ws =>
    match latestWrite v a ws with
    | none => if w.seenBy v && (cellAt a w.cells).isSome then some w else none
    | some u => if w.seenBy v && (cellAt a w.cells).isSome && u.after w then some w else some u

/-- Insert a write before those that come after it for a reader. -/
def insertSeen (w : Write) : List Write → List Write
  | [] => [w]
  | u :: us => if u.after w then u :: insertSeen w us else w :: u :: us

/-- The buffered writes to a line that a reader sees, the earliest first (R359, R360). -/
def seenWrites (v : Viewer) (line : Nat) (ws : List Write) : List Write :=
  (ws.filter fun w => w.seenBy v && w.cells.any fun c => decide (c.1 / 128 = line)).foldr insertSeen []

/-- The package as a reader sees a line: the writes to it that the reader sees have been made, each under its own key (R203,
R361). -/
def State.viewOf (s : State) (v : Viewer) (line : Nat) : State :=
  (seenWrites v line s.writes).foldl
    (fun u w => u.pokeCells w.key (w.cells.filter fun c => decide (c.1 / 128 = line))) s

/-- The byte a reader gets at a location under a key slot (R203, R361). -/
def State.see (s : State) (v : Viewer) (slot a : Nat) : Byte := (s.viewOf v (a / 128)).peek slot a

/-- One of `n` values for a unit of a read, free for each unit (R9): `units` lists the units of the read, `c` is the next free
choice. -/
def pick (c : Nat) (units : List Nat) (u n : Nat) : Nat := Config.choose (c + units.idxOf u) n % n

/-- The bytes a reader gets. -/
def State.seeAll (s : State) (v : Viewer) (slot : Nat) (as : List Nat) : List Byte := as.map (s.see v slot)

/-- What a reader observes at locations: the writes read, and the writes in memory whose cumulative set is still to be
made visible (R366). -/
def State.observed (s : State) (v : Viewer) (as : List Nat) : List Write :=
  (as.filterMap fun a => latestWrite v a s.writes).eraseDups
    ++ s.writes.filter fun w => decide (w.level = 3) && overlaps w.cells as

/-- Drop writes in memory that no longer stand for anything: overwritten, or with no cumulative set left. -/
def State.sweepWrites (s : State) : State :=
  { s with writes := s.writes.filter fun w =>
      decide (w.level < 3) || w.rel.any fun i => s.writes.any fun u => decide (u.id = i) && decide (u.level < 3) }

/-- A write in memory no longer stands where it is overwritten (R360); a buffered one is as it was. -/
def Write.trim (w : Write) (as : List Nat) : Write :=
  if w.level < 3 then w else { w with cells := w.cells.filter fun c => !as.contains c.1 }

/-- Put data into memory: older writes in memory no longer stand at those addresses (R360). -/
def State.memWrite (s : State) (slot : Nat) (cells : List Host.Cell) : State :=
  State.pokeCells
    { s with writes := (s.writes.map (·.trim (cells.map (·.1)))).filter fun w => !w.cells.isEmpty || decide (w.level < 3) }
    slot cells

/-- Insert a write by its place in the coherence order, later first. -/
def insertWrite (w : Write) : List Write → List Write
  | [] => [w]
  | u :: us => if u.stamp ≤ w.stamp then w :: u :: us else u :: insertWrite w us

/-- The placed writes, latest first. -/
def placed (ws : List Write) : List Write := (ws.filter fun w => decide (w.level = 1) || decide (w.level = 2)).foldr insertWrite []

/-- The placed writes, latest first, that must reach a level before a new write at these addresses can stand there
(R360). -/
def mustMove (level : Nat) : List Write → List Nat → List Write
  | [], _ => []
  | w :: ws, as =>
    if decide (w.level < level) && overlaps w.cells as then w :: mustMove level ws (w.cells.map (·.1) ++ as)
    else mustMove level ws as

/-- Move one write to a level: at level 3 it is in memory (R360). -/
def State.moveTo (s : State) (level : Nat) (w : Write) : State :=
  let s1 := if level = 3 then s.memWrite w.key w.cells else s
  { s1 with writes := s1.writes.map fun u => if u.id = w.id then { u with level := level } else u }

/-- Move every placed write at these addresses out to a level, oldest first (R360). -/
def State.forceOut (s : State) (level : Nat) (as : List Nat) : State :=
  ((mustMove level (placed s.writes) as).reverse.foldl (fun t w => t.moveTo level w) s).sweepWrites

/-- The placed writes at some addresses, latest first, up to the latest that a reader sees, which are still short of a level. -/
def State.seenFirst (s : State) (v : Viewer) (level : Nat) (as : List Nat) : List Write :=
  let m := (as.filterMap fun a => latestWrite v a s.writes).foldl (fun n w => max n (w.stamp + 1)) 0
  mustMove level (placed (s.writes.filter fun w => decide (w.stamp < m))) as

/-- The latest write that a reader sees at some addresses, and those before it, move out to a level, oldest first (R360, R363). -/
def State.forceSeen (s : State) (v : Viewer) (level : Nat) (as : List Nat) : State :=
  ((s.seenFirst v level as).reverse.foldl (fun t w => t.moveTo level w) s).sweepWrites

/-- The level at which a scope sees a write: CORE, CLUSTER, or memory for CHIP and wider (R357, R358, R382). -/
def levelOf (scope : Nat) : Nat := if scope = 0 then 1 else if scope = 1 then 2 else 3

/-- A write that is at once performed at a scope (R358, R363): it takes its place in the coherence order now. `cover` says from
where on it is in the cumulative set of its context (R366). -/
def State.writeAs (s : State) (cover : Option Nat) (tid ctx iss scope key : Nat) (cells : List Host.Cell)
    (rel : List Nat) : State :=
  let s1 := s.forceOut (levelOf scope) (cells.map (·.1))
  let s2 := if levelOf scope = 3 then s1.memWrite key cells else s1
  let w : Write :=
    ⟨s2.fresh, tid, ctx, iss, 0, levelOf scope, s2.stamp, key, cells, rel, [], scope, cover, s2.time, [], true⟩
  State.sweepWrites { s2 with stamp := s2.stamp + 1, fresh := s2.fresh + 1, writes := s2.writes ++ [w] }

/-- The write of an atomic, performed at its scope (R363). -/
def State.writeAt (s : State) (tid ctx iss scope key : Nat) (cells : List Host.Cell) (rel : List Nat) : State :=
  s.writeAs (some 0) tid ctx iss scope key cells rel

/-- A write of an engine for a context, performed at its scope: in the cumulative set once a wait covers it (R358, R366). -/
def State.writeEngine (s : State) (tid ctx iss scope key : Nat) (cells : List Host.Cell) : State :=
  s.writeAs none tid ctx iss scope key cells []

/-- Whether a write is that of an XACC or XZERO: into a C buffer, where no copy may write (R199). -/
def Write.inTile (w : Write) : Bool :=
  w.cells.any fun c => decide (2 ^ 63 ≤ c.1) && decide (c.1 < 2 ^ 64) && decide (2 ^ 23 ≤ c.1 % 2 ^ 24)

/-- The writes of a context's engines issued before `iss` are covered by a wait there: they are in the cumulative set from then on
(R366). -/
def State.coverWrites (s : State) (ctx iss : Nat) : State :=
  { s with writes := s.writes.map fun w =>
      if w.ctx = ctx ∧ w.iss < iss ∧ w.cover = none then { w with cover := some iss } else w }

/-- The own writes of a context, latest first, that must leave the private buffer before a new own write at these addresses (R360). -/
def ownBefore (ctx : Nat) : List Write → List Nat → List Write
  | [], _ => []
  | w :: ws, as =>
    if decide (w.ctx = ctx) && decide (w.level = 0) && overlaps w.cells as then
      w :: ownBefore ctx ws (w.cells.map (·.1) ++ as)
    else ownBefore ctx ws as

/-- A write leaves the private buffer and takes its place in the coherence order (R360). -/
def State.placeWrite (s : State) (w : Write) : State :=
  { s with stamp := s.stamp + 1
           writes := s.writes.map fun u => if u.id = w.id then { u with level := 1, stamp := s.stamp } else u }

/-- Whether a load of a context that is still to return, issued before `iss`, reads one of some addresses of its space. -/
def Load.before (l : Load) (ctx iss space addr n : Nat) : Bool :=
  decide (l.ctx = ctx) && decide (l.iss < iss) && decide (rootSpace' l.space = rootSpace' space)
    && l.parts.any fun p => decide (p.2.1 < addr + n) && decide (addr < p.2.1 + p.2.2)

/-- Data put straight into memory by a receiving port, visible at CHIP in one step (R369). -/
def State.writeChip (s : State) (key : Nat) (cells : List Host.Cell) : State :=
  (s.forceOut 3 (cells.map (·.1))).memWrite key cells

/-! ### Translation (R218–R220) -/

/-- A leaf found by the walker: where its entry is, the entry, and the page size (R219). -/
structure Leaf where
  key : Nat
  pte : Word
  size : Nat
  deriving DecidableEq, Repr

/-- Leaves per page and bytes per entry of a size code at its level (R219). -/
def sizeCode : Nat → Option (Nat × Nat)
  | 0 => some (12, 1) | 1 => some (12, 4) | 2 => some (12, 16) | 3 => some (12, 64) | 4 => some (12, 256)
  | 5 => some (21, 1) | 6 => some (21, 2) | 7 => some (21, 8) | 8 => some (21, 32) | 9 => some (21, 128)
  | 10 => some (30, 1) | 11 => some (30, 4) | _ => none

/-- Bits [hi:lo] of a word as a number. -/
def field (w : Word) (hi lo : Nat) : Nat := w.toNat / 2 ^ lo % 2 ^ (hi + 1 - lo)

/-- The walk from a table at physical address `tab`, with the shifts of the levels left (R218, R219). Past the 512 GiB of HBM there is no
table (R3). -/
def walkFrom (ptes : Table Word) : List Nat → Nat → Nat → Option Leaf
  | [], _, _ => none
  | sh :: rest, tab, va =>
    let idx := va / 2 ^ sh % 512
    let e := Table.get 0 ptes (tab / 8 + idx)
    if 2 ^ 39 ≤ tab then none
    else if field e 3 0 = 15 then
      if field e 4 4 = 1 ∧ rest ≠ [] then walkFrom ptes rest (field e 53 14 * 4096) va else none
    else
      match sizeCode (field e 3 0) with
      | none => none
      | some (lsh, n) =>
        if lsh = sh then
          let first := tab / 8 + idx / n * n
          let f := Table.get 0 ptes first
          if field f 4 4 = 1 ∨ field f 6 6 = 1 then some ⟨first, f, n * 2 ^ sh⟩ else none
        else none

/-- The root number of a space: SPACE 1 has its own, SPACE 0, 7 and 8 share one (R218). -/
def rootSpace (space : Nat) : Nat := if space = 1 then 1 else 0

/-- The leaf of a virtual address (R218). -/
def State.leaf (s : State) (func space va : Nat) : Option Leaf :=
  match Table.find s.roots (func * 2 + rootSpace space) with
  | none => none
  | some r => if va < 2 ^ 57 then walkFrom s.ptes [48, 39, 30, 21, 12] r va else none

/-- VALID, ANON, DISC, WR, DIRTY of a leaf (R220). -/
def Leaf.valid (l : Leaf) : Bool := decide (field l.pte 4 4 = 1)
def Leaf.anon (l : Leaf) : Bool := decide (field l.pte 6 6 = 1)
def Leaf.disc (l : Leaf) : Bool := decide (field l.pte 7 7 = 1)
def Leaf.wr (l : Leaf) : Bool := decide (field l.pte 5 5 = 1)
def Leaf.dirty (l : Leaf) : Bool := decide (field l.pte 8 8 = 1)
/-- A page with a frame that holds its data (R242). -/
def Leaf.populated (l : Leaf) : Bool := l.valid && !l.anon && !l.disc
/-- The location a populated leaf gives an address: frame bits below the page size are ignored (R219). -/
def Leaf.flat (l : Leaf) (space va : Nat) : Nat :=
  (if space = 1 then flatHost else 0) + field l.pte 53 14 * 4096 / l.size * l.size + va % l.size

/-- The host I/O virtual page that a SPACE 1 leaf gives an address (R352). -/
def Leaf.hostPage (l : Leaf) (va : Nat) : Nat := l.flat 0 va / 4096

/-- Replace bits [hi:lo] of a word. -/
def setField (w : Word) (hi lo v : Nat) : Word :=
  BitVec.ofNat 64 (w.toNat - field w hi lo * 2 ^ lo + v % 2 ^ (hi + 1 - lo) * 2 ^ lo)

/-- The next heat: each step saturates at 3 (R221). -/
def heat (h : Nat) : Nat := if h < 3 then h + 1 else 3

/-- Set a leaf entry. -/
def State.setPte (s : State) (key : Nat) (w : Word) : State := { s with ptes := Table.set s.ptes key w }

/-- The pages that the contexts of a core have locked entries for, as TLB entries (R222, R223). -/
def State.lockedPages (s : State) (core : Nat) : List (Nat × Nat × Nat × Nat) :=
  (List.range 4).flatMap fun j =>
    let c := s.ctx (4 * core + j)
    c.locks.flatMap fun k => k.pages.map fun p => ((match c.task with | some t => t.func | none => 0), rootSpace k.space, p)

/-- An access of a core looks its page up in the first-level TLB: 256 entries, those that are locked among them; a miss fills one
and drops the oldest (R222; DESIGN CHOICE, log entry 17). -/
def State.firstLevel (s : State) (core : Nat) (ent : Nat × Nat × Nat × Nat) : State :=
  let k := s.core core
  if k.tlb.contains ent || (s.lockedPages core).contains ent then s
  else s.setCore core { k with tlb := (ent :: k.tlb).take (256 - (s.lockedPages core).length) }

/-- The entries whose DIRTY is clear, once that of `ent` is set or cleared; those that no TLB holds any more are forgotten. -/
def markClean (xs : List (Nat × Nat × Nat × Nat)) (held : List (Nat × Nat × Nat × Nat)) (ent : Nat × Nat × Nat × Nat) (clean : Bool) :
    List (Nat × Nat × Nat × Nat) :=
  let ys := xs.filter fun e => decide (e ≠ ent) && held.contains e
  if clean then ent :: ys else ys

/-- The DIRTY of the TLB entry that an access of a core goes through, clear or not (R221): that of its first-level or locked entry, else of
the second-level entry, else of the leaf that a fill takes. -/
def State.entryClean (s : State) (core : Nat) (ent : Nat × Nat × Nat × Nat) (l : Leaf) : Bool :=
  let k := s.core core
  let cl := s.cluster (clusterOf core)
  if k.tlb.contains ent || (s.lockedPages core).contains ent then k.clean.contains ent
  else if cl.tlb.contains ent then cl.clean.contains ent
  else !l.dirty

/-- The heat and DIRTY updates of an access of a core (R221): a second-level TLB fill, where neither level holds the page, or the first
write through an entry whose DIRTY is clear, which sets it in the entries of the core and its cluster. A write through a locked entry sets
DIRTY in the leaf in any case (R223). The second-level TLB holds 8,192 entries and drops its oldest (R222; DESIGN CHOICE, log entry 17). -/
def State.touch (s : State) (core func space va : Nat) (l : Leaf) (write : Bool) : State :=
  let ent := (func, rootSpace space, va / l.size * l.size, l.size)
  let cl := s.cluster (clusterOf core)
  let locked := s.lockedPages core
  let fill := !cl.tlb.contains ent && !(s.core core).tlb.contains ent && !locked.contains ent
  let clean := s.entryClean core ent l
  let s0 := s.firstLevel core ent
  let k := s0.core core
  let s1 := s0.setCore core { k with clean := markClean k.clean (k.tlb ++ locked) ent (clean && !write) }
  let tlb := if fill then (ent :: cl.tlb).take 8192 else cl.tlb
  let s2 := if fill || write then
    s1.setCluster (clusterOf core) { cl with tlb := tlb, clean := markClean cl.clean tlb ent (clean && !write) } else s1
  if write then
    if fill || clean then s2.setPte l.key (setField (setField l.pte 8 8 1) 13 12 (heat (field l.pte 13 12)))
    else if locked.contains ent then s2.setPte l.key (setField l.pte 8 8 1)
    else s2
  else if fill then s2.setPte l.key (setField l.pte 11 10 (heat (field l.pte 11 10)))
  else s2

/-! ### The leaves of a function -/

/-- The entries of a table, with their indices. -/
def tableEntries (ptes : Table Word) (tab : Nat) : List (Nat × Word) :=
  ptes.filterMap fun e => if tab / 8 ≤ e.1 ∧ e.1 < tab / 8 + 512 then some (e.1 - tab / 8, e.2) else none

/-- The leaves below a table: where the first entry of each group stands, and the page (R218, R219). -/
def leavesFrom (ptes : Table Word) : List Nat → Nat → Nat → List (Nat × Leaf)
  | [], _, _ => []
  | sh :: rest, tab, va =>
    if 2 ^ 39 ≤ tab then [] else
    (tableEntries ptes tab).flatMap fun e =>
      if field e.2 3 0 = 15 then
        if field e.2 4 4 = 1 ∧ rest ≠ [] then leavesFrom ptes rest (field e.2 53 14 * 4096) (va + e.1 * 2 ^ sh) else []
      else
        match sizeCode (field e.2 3 0) with
        | none => []
        | some (lsh, n) =>
          if lsh = sh ∧ e.1 % n = 0 ∧ (field e.2 4 4 = 1 ∨ field e.2 6 6 = 1) then
            [(va + e.1 * 2 ^ sh, ⟨tab / 8 + e.1, e.2, n * 2 ^ sh⟩)]
          else []

/-- The leaves of a space of a function, with their virtual addresses (R218). -/
def State.leaves (s : State) (func space : Nat) : List (Nat × Leaf) :=
  match Table.find s.roots (func * 2 + rootSpace space) with
  | none => []
  | some r => leavesFrom s.ptes [48, 39, 30, 21, 12] r 0

/-- The entries of a leaf are cleared: a page of several entries has them side by side (R219). -/
def State.clearLeaf (s : State) (l : Leaf) : State :=
  match sizeCode (field l.pte 3 0) with
  | some (_, n) => { s with ptes := s.ptes.filter fun e => !(decide (l.key ≤ e.1) && decide (e.1 < l.key + n)) }
  | none => s.setPte l.key 0

/-- A page with a frame, discarded or not (R94, R226). -/
def Leaf.framed (l : Leaf) : Bool := l.valid && !l.anon

/-! ### Frames -/

/-- The level-1 partition of a function (R91). -/
def parentOf (f : Nat) : Nat := if f < 16 then f else (f - 16) / 8

/-- The channel that holds a location of HBM (R446). -/
def channelAt (flat : Nat) : Nat := Config.channelOf (flat / 4096) % 256

/-- Whether a location of HBM is lost with its channel pair (R446). -/
def State.lost (s : State) (flat : Nat) : Bool := s.lostPairs.contains (channelAt flat / 2)

/-- The channels that hold no frame of a function: those it does not own, and those that are lost (R83, R84, R446). -/
def State.barred (s : State) (f : Nat) : List Nat :=
  (List.range 256).filter fun i => !(s.part (parentOf f)).mask.getLsbD (256 + i) || s.lostPairs.contains (i / 2)

/-- The memory that is in use, as (first address, size): the frames handed out, the tables, and the pages that they map (R218–R220). -/
def State.taken (s : State) : List (Nat × Nat) :=
  s.frames ++ (s.ptes.map fun p => (p.1 / 512 * 4096, 4096)) ++ (s.roots.map fun p => (p.2, 4096))
    ++ s.parts.flatMap fun p => (s.leaves p.1 0).filterMap fun l => if l.2.framed then some (l.2.flat 0 l.1, l.2.size) else none

/-- Whether a frame is free and lies in the 512 GiB of HBM, within the channels of a function (R3, R83). -/
def State.frameFits (s : State) (f frame size : Nat) : Bool :=
  decide (frame + size ≤ 2 ^ 39) && !(s.taken.any fun p => decide (p.1 < frame + size) && decide (frame < p.1 + p.2))
    && ((s.barred f).isEmpty
        || (List.range (size / 4096)).all fun i => !(s.barred f).contains (channelAt (frame + 4096 * i)))

/-- Whether a range of memory holds nothing: no byte or tag but zero, no ciphertext, and no write on its way to it. -/
def State.blank (s : State) (lo n : Nat) : Bool :=
  !(s.mem.any fun c => (decide (lo ≤ c.1) && decide (c.1 < lo + n)) || (decide (tagCell lo ≤ c.1) && decide (c.1 < tagCell (lo + n))))
    && !(s.lines.any fun c => decide (lo ≤ c.1 * 128) && decide (c.1 * 128 < lo + n))
    && !s.writes.any fun w => w.cells.any fun c => decide (lo ≤ c.1) && decide (c.1 < lo + n)

/-- Whether a frame may be handed out: it fits, and it is zero where it must be so already (`zero`). -/
def State.frameOk (s : State) (zero : Bool) (f frame size : Nat) : Bool := s.frameFits f frame size && (!zero || s.blank frame size)

/-- The first of `n` frames from `a` on, `step` apart, that may be handed out. -/
def State.frameFrom (s : State) (zero : Bool) (f size step : Nat) : Nat → Nat → Option Nat
  | 0, _ => none
  | n + 1, a => if s.frameOk zero f a size then some a else State.frameFrom s zero f size step n (a + step)

/-- How far apart the places of frames of a size are: a page stands at a multiple of its size (R219). -/
def frameStep (size : Nat) : Nat := if size &&& (size - 1) = 0 then max size 4096 else 4096

/-- The lowest free frame for a function in the 512 GiB, if there is one (R3): none for a function that may use no channel (R83). -/
def State.freeFrame (s : State) (zero : Bool) (f size : Nat) : Option Nat :=
  if (s.barred f).length = 256 then none else s.frameFrom zero f size (frameStep size) (2 ^ 39 / frameStep size) 0

/-- Memory with a range zeroed. -/
def State.zeroRange (s : State) (lo n : Nat) : State :=
  { s with mem := s.mem.filter fun c => !(decide (lo ≤ c.1) && decide (c.1 < lo + n))
           lines := s.lines.filter fun c => !(decide (lo ≤ c.1 * 128) && decide (c.1 * 128 < lo + n)) }

/-- The tag cells of a range zeroed. -/
def State.zeroTags (s : State) (lo n : Nat) : State :=
  { s with mem := s.mem.filter fun c => !(decide (tagCell lo ≤ c.1) && decide (c.1 < tagCell (lo + n))) }

/-- Every write that has left its private buffer reaches a range of memory. -/
def State.settle (s : State) (lo n : Nat) : State :=
  s.forceOut 3 ((s.writes.flatMap (·.cells)).filterMap fun c => if lo ≤ c.1 ∧ c.1 < lo + n then some c.1 else none)

/-- A frame with its bytes and tags zeroed, whatever was on its way to it (R94, R97, R225). -/
def State.wipe (s : State) (lo n : Nat) : State := ((s.settle lo n).zeroRange lo n).zeroTags lo n

/-- A frame for a function: one given back by a lease of its level-1 partition, or the lowest that is free; none where the memory is
exhausted (R225; DESIGN CHOICE, log entry 18). -/
def State.frameBy (s : State) (zero : Bool) (f size : Nat) (take : Nat → State) : Option (Nat × State) :=
  match s.pool.find? fun p => decide (p.1 = parentOf f) && decide (p.2.2 = size) with
  | some p => some (p.2.1, { s with pool := s.pool.erase p })
  | none => (s.freeFrame zero f size).map fun a => (a, { take a with frames := (a, size) :: s.frames })

/-- A frame that the firmware gives a function: zeroed as it is given (R97, R225). -/
def State.newFrame (s : State) (f size : Nat) : Option (Nat × State) := s.frameBy false f size fun a => s.wipe a size

/-- Some 4 KiB frames that the firmware gives a function, wherever each is free (DESIGN CHOICE, log entry 18). -/
def State.newFrames (s : State) (f : Nat) : Nat → Option (List Nat × State)
  | 0 => some ([], s)
  | n + 1 => (s.newFrame f 4096).bind fun p => (State.newFrames p.2 f n).map fun q => (p.1 :: q.1, q.2)

/-- Where a byte lies that is kept in 4 KiB frames. -/
def inFrames (frames : List Nat) (off : Nat) : Nat := frames.getD (off / 4096) 0 + off % 4096

/-- A frame for a first touch that nothing has been reserved for: one that is zero already (R225). A free frame that something has been left
in is the firmware's until it zeroes it (DESIGN CHOICE, log entry 18). -/
def State.zeroFrame (s : State) (f size : Nat) : Option (Nat × State) := s.frameBy true f size fun _ => s

/-- Whether a frame lies within a range. -/
def frameIn (lo n : Nat) (p : Nat × Nat) : Bool := decide (lo ≤ p.1) && decide (p.1 + p.2 ≤ lo + n)

/-- A frame that the lease of a launch has reserved (R225). -/
def State.takeReserved (s : State) (launch size : Nat) : Option (Nat × State) :=
  match Table.find s.launches launch with
  | none => none
  | some l =>
    (l.reserve.find? fun p => decide (p.2 = size)).map fun p =>
      (p.1, { s with launches := Table.set s.launches launch { l with reserve := l.reserve.erase p } })

/-- The frame of a discarded page that a write revives stays with the firmware (R226; DESIGN CHOICE, log entry 18). -/
def State.keepFrame (s : State) (l : Leaf) : State :=
  let old := (l.flat 0 0, l.size)
  if l.framed && !s.frames.contains old then { s with frames := old :: s.frames } else s

/-- The first write to an anonymous or discarded page of a function: a zeroed frame, reserved where the lease of the launch has
one, goes into the leaf in one update (R225, R226). Without a frame the leaf stays, and the TLBs are as they were (DESIGN CHOICE, log
entries 17 and 18). -/
def State.firstTouch (s : State) (launch : Option Nat) (f gen : Nat) (l : Leaf) : State :=
  match (launch.bind (s.takeReserved · l.size)).or (s.zeroFrame f l.size) with
  | none => s
  | some (frame, s1) =>
    let w := setField (setField (setField (setField (setField l.pte 53 14 (frame / 4096)) 4 4 1) 8 8 1) 13 12 1) 59 54 gen
    let s2 := s1.keepFrame l
    { s2 with ptes := Table.set s2.ptes l.key (setField (setField w 6 6 0) 7 7 0) }

/-- Map a page in the tables below `tab`, adding the tables that are missing (R218–R220). -/
def State.mapIn (f : Nat) (leaf : Word) : List Nat → Nat → Nat → State → Option State
  | [], _, _, s => some s
  | sh :: rest, tab, va, s =>
    let k := tab / 8 + va / 2 ^ sh % 512
    if 2 ^ 39 ≤ tab then none
    else
    match rest with
    | [] => some (s.setPte k leaf)
    | _ :: _ =>
      let e := Table.get 0 s.ptes k
      if field e 3 0 = 15 ∧ field e 4 4 = 1 then State.mapIn f leaf rest (field e 53 14 * 4096) va s
      else
        match s.newFrame f 4096 with
        | none => none
        | some (t, s1) =>
          State.mapIn f leaf rest t va (s1.setPte k (BitVec.ofNat 64 (31 + t / 4096 * 2 ^ 14)))

/-- Map a writable 4 KiB page of a function at a virtual address of a space, with its generation (R218–R220): a zeroed frame in SPACE 0; in
SPACE 1 the host page that the host gives it (DESIGN CHOICE, log entry 18). None where memory is exhausted. -/
def State.mapPage (s : State) (f space va gen : Nat) : Option State :=
  let key := f * 2 + rootSpace space
  let rooted : Option (Nat × State) := match Table.find s.roots key with
    | some r => some (r, s)
    | none => (s.newFrame f 4096).map fun (a, u) => (a, { u with roots := Table.set u.roots key a })
  rooted.bind fun r =>
    let framed : Option (Nat × State) := if space = 1 then some (Config.hostPage f (va / 4096) % 2 ^ 40, r.2)
      else (r.2.newFrame f 4096).map fun (a, u) => (a / 4096, u)
    framed.bind fun p =>
      State.mapIn f (BitVec.ofNat 64 (16 + 32 + p.1 * 2 ^ 14 + gen % 64 * 2 ^ 54)) [48, 39, 30, 21, 12] r.1 va p.2

/-- A table that holds no entry goes back (DESIGN CHOICE, log entry 18). -/
def State.dropTable (s : State) (tab : Nat) : State :=
  { s with ptes := s.ptes.filter fun e => !(decide (tab / 8 ≤ e.1) && decide (e.1 < tab / 8 + 512)), frames := s.frames.erase (tab, 4096) }

/-- The tables from `tab` down without those that hold no entry, which go back where the model handed out their frames; and whether `tab`
itself has gone (DESIGN CHOICE, log entry 18). -/
def State.prune : List Nat → Nat → State → State × Bool
  | [], _, s => (s, false)
  | _ :: rest, tab, s =>
    let s1 := (tableEntries s.ptes tab).foldl (fun u e =>
      if field e.2 3 0 = 15 ∧ field e.2 4 4 = 1 ∧ rest ≠ [] then
        match State.prune rest (field e.2 53 14 * 4096) u with
        | (v, true) => v.setPte (tab / 8 + e.1) 0
        | (v, false) => v
      else u) s
    if ((tableEntries s1.ptes tab).all fun e => decide (e.2 = 0)) && s1.frames.contains (tab, 4096) then (s1.dropTable tab, true)
    else (s1, false)

/-- The tables of a function that hold no entry any more go back (DESIGN CHOICE, log entry 18). -/
def State.pruneTables (s : State) (f : Nat) : State :=
  [0, 1].foldl (fun u space =>
    match Table.find u.roots (f * 2 + space) with
    | none => u
    | some r =>
      match State.prune [48, 39, 30, 21, 12] r u with
      | (v, true) => { v with roots := Table.del v.roots (f * 2 + space) }
      | (v, false) => v) s

/-- Whether the zeroing pass of another function covers a location (R95). -/
def State.underPass (s : State) (f flat : Nat) : Bool :=
  (s.parts.filter fun p => decide (p.2.state = 3) && decide (p.1 ≠ f)).any fun p =>
    ((s.leaves p.1 0).any fun l =>
      l.2.framed && decide (l.2.flat 0 l.1 ≤ flat) && decide (flat < l.2.flat 0 l.1 + l.2.size))
      || p.2.areas.any fun a => decide (a.1 ≤ flat) && decide (flat < a.1 + a.2)

/-- The channels that level-1 partitions own, as bits (R83). -/
def State.ownedChannels (s : State) : Nat :=
  (s.parts.foldl (fun (m : BitVec 512) p => if p.1 < 16 ∧ p.2.state ≠ 0 then m ||| p.2.mask else m) 0).toNat / 2 ^ 256

/-- Why the frame that holds a location does not serve an access of a function: past the 512 GiB of HBM (R3), lost with its channel pair (R446), under the zeroing
pass of another partition (R95), or in a channel that no partition owns (R83; DEDUCED, log entry 51). -/
def State.frameFault (s : State) (f flat : Nat) : Option Nat :=
  if 2 ^ 39 ≤ flat then some 0x22
  else if s.lost flat then some 0x23
  else if s.underPass f flat then some 0x12
  else if s.ownedChannels = 2 ^ 256 - 1 then none
  else if s.ownedChannels.testBit (channelAt flat) then none
  else some 0x22

/-- The task numbered `tid` among contexts. -/
def findTask (tid : Nat) : Table Ctx → Option Task
  | [] => none
  | (_, c) :: cs =>
    match c.task with
    | some t => if t.tid = tid then some t else findTask tid cs
    | none => findTask tid cs

/-- The task numbered `tid`, on a context or in a retirement-tracker entry (R169, R170). -/
def State.taskOf (s : State) (tid : Nat) : Option Task :=
  match findTask tid s.ctxs with
  | some t => some t
  | none => (s.retire.find? fun r => decide (r.task.tid = tid)).map (·.task)

/-- The function of a task, 0 where it is gone. -/
def State.funcOf (s : State) (tid : Nat) : Nat := match s.taskOf tid with | some t => t.func | none => 0

/-- Whether the function of a task is being released, or is gone (R93): nothing is begun for it any more. -/
def State.haltedFor (s : State) (tid : Nat) : Bool := decide (2 ≤ (s.part (s.funcOf tid)).state)

/-- Whether a task's lease covers bytes of a space (R224): SPACE 7 and 8 are compared in SPACE 0. Bytes that lie in two ranges, and wholly in
neither, are not covered (DESIGN CHOICE, log entry 55). -/
def Task.leased (t : Task) (space va n : Nat) : Bool :=
  t.ranges.any fun r => decide (r.1 = rootSpace space) && decide (r.2.1 ≤ va) && decide (va + n ≤ r.2.1 + r.2.2)

/-- What a translated access meets: a location, zeros (a page without a frame, R225, R226), or a late fault (R229). -/
inductive Place where
  | at (flat : Nat)
  | zeros
  | late (code : Nat)
  deriving DecidableEq, Repr

/-- Whether an address lies in a locked range of a context without a locked entry for its page (R223). -/
def unlockedIn (locks : List Lock) (space va : Nat) : Bool :=
  locks.any fun k => decide (rootSpace k.space = rootSpace space) && decide (k.addr ≤ va) && decide (va < k.addr + k.len)
    && !k.pages.any fun p => decide (p.1 ≤ va) && decide (va < p.1 + p.2)

/-- One access of a task within a 64-byte chunk: lease (0x20), locked entry (0x21), page (0x22), lost frame (0x23), write
protection (0x24) (R224, R223, R352, R446, R450). -/
def State.place (s : State) (t : Task) (ctx space va n : Nat) (write : Bool) : Place :=
  if space = 0 ∨ space = 1 ∨ space = 7 ∨ space = 8 then
    if t.leased space va n then
      match s.leaf t.func space va with
      | none => .late (if unlockedIn (s.ctx ctx).locks space va then 0x21 else 0x22)
      | some l =>
        if unlockedIn (s.ctx ctx).locks space va then .late 0x21
        else if decide (space = 1) && s.hostBad.contains (t.func, l.hostPage va) then .late 0x22
        else if write && !l.wr then .late 0x24
        else if !l.populated then .zeros
        else if space = 1 then .at (l.flat space va)
        else
          match s.frameFault t.func (l.flat space va) with
          | some c => .late c
          | none => .at (l.flat space va)
    else .late 0x20
  else .at (flatOf (coreOf ctx) space va)

/-- The effects of an access of a task on the leaf of its page and the TLBs: first touch, DIRTY and heat (R221, R225, R226); a
read of a page without a frame changes nothing, and a first touch fills no TLB (DESIGN CHOICE, log entry 17). -/
def State.prepare (s : State) (t : Task) (ctx space va : Nat) (write : Bool) : State :=
  if space = 0 ∨ space = 1 ∨ space = 7 ∨ space = 8 then
    match s.leaf t.func space va with
    | none => s
    | some l =>
      if !l.populated then
        if write then s.firstTouch (some t.launch) t.func ((Table.find s.launches t.launch).elim 0 (·.lease)) l else s
      else s.touch (coreOf ctx) t.func space va l write
  else s

/-- Whether an access of a range waits for the answer to a page request (R352). -/
def State.hostWaits (s : State) (func space va n : Nat) : Bool :=
  decide (space = 1) && (List.range ((va % 4096 + n + 4095) / 4096)).any fun i =>
    match s.leaf func 1 (va / 4096 * 4096 + 4096 * i) with
    | some l => s.hostGone.contains (func, l.hostPage (va / 4096 * 4096 + 4096 * i))
    | none => false

/-- Cut a range into the 64-byte aligned chunks it covers (R250). -/
def chunksFrom : Nat → Nat → Nat → List (Nat × Nat)
  | 0, _, _ => []
  | fuel + 1, a, n =>
    if n = 0 then []
    else
      let k := min n (64 - a % 64)
      (a, k) :: chunksFrom fuel (a + k) (n - k)

/-- The 64-byte aligned chunks of a range, in ascending order (R250). -/
def chunks (a n : Nat) : List (Nat × Nat) := chunksFrom (n / 64 + 2) a n

/-- The locations of the bytes of one chunk; none for bytes that read as zeros. -/
def spread (p : Place) (n : Nat) : List (Option Nat) :=
  match p with
  | .at f => (List.range n).map fun i => some (f + i)
  | _ => List.replicate n none

/-- The locations of a range for a task's read, or the first late fault with its virtual address (R229). -/
def State.readPlaces (s : State) (t : Task) (ctx space : Nat) : List (Nat × Nat) → Except (Nat × Nat) (List (Option Nat))
  | [] => .ok []
  | (a, n) :: cs =>
    match s.place t ctx space a n false with
    | .late c => .error (c, a)
    | p =>
      match State.readPlaces s t ctx space cs with
      | .error e => .error e
      | .ok ls => .ok (spread p n ++ ls)

/-- The locations of a range for a task's write, with the effects on its leaves; or the first late fault. -/
def State.writePlaces (t : Task) (ctx space : Nat) : State → List (Nat × Nat) → Except (Nat × Nat) (List Nat × State)
  | s, [] => .ok ([], s)
  | s, (a, n) :: cs =>
    match s.place t ctx space a n true with
    | .late c => .error (c, a)
    | _ =>
      let s1 := s.prepare t ctx space a true
      match s1.place t ctx space a n true with
      | .at f =>
        match State.writePlaces t ctx space s1 cs with
        | .error e => .error e
        | .ok (ls, s2) => .ok ((List.range n).map (f + ·) ++ ls, s2)
      | _ => .error (0x22, a)

/-- The effects of a task's reads on leaves and TLBs (R221). -/
def State.prepareReads (t : Task) (ctx space : Nat) (s : State) (cs : List (Nat × Nat)) : State :=
  cs.foldl (fun u c => u.prepare t ctx space c.1 false) s

/-- The byte at a place: zero where the page has no frame. -/
def State.seePlace (s : State) (v : Viewer) (slot : Nat) (p : Option Nat) : Byte :=
  match p with
  | none => 0
  | some a => s.see v slot a

/-! ### Capabilities -/

/-- SPACE (R207). -/
def Cap.space (c : Cap) : Nat := c.bits.toNat / 2 ^ 116 % 16
/-- PERM as 12 bits; bit i is PERM bit 104 + i (R207, R208). -/
def Cap.perm (c : Cap) : Nat := c.bits.toNat / 2 ^ 104 % 4096
/-- KEY (R207). -/
def Cap.key (c : Cap) : Nat := c.bits.toNat / 2 ^ 96 % 256
/-- LEN (R207). -/
def Cap.len (c : Cap) : Nat := c.bits.toNat / 2 ^ 57 % 2 ^ 39
/-- BASE (R207). -/
def Cap.base (c : Cap) : Nat := c.bits.toNat % 2 ^ 57
/-- Whether the capability holds every permission of a mask. -/
def Cap.holds (c : Cap) (perm : Nat) : Bool := decide (c.perm &&& perm = perm)

/-- The permission bits of R208, counted from bit 104. -/
def pR : Nat := 1
def pW : Nat := 2
def pX : Nat := 4
def pATOM : Nat := 8
def pCPYS : Nat := 16
def pCPYD : Nat := 32
def pRPUT : Nat := 64
def pFLAG : Nat := 128
def pSEAL : Nat := 256
def pDERIVE : Nat := 512
def pCAPST : Nat := 1024
def pGLOB : Nat := 2048

/-- The units of the spare window lent to a handle: `UNIT` on, as many as the slot size asks for (R213, R215). -/
def Handle.units (h : Handle) : List Nat :=
  if h.loan then (List.range ((h.slot + 511) / 512)).map (h.unit + ·) else []

/-- The units of the spare window that bytes touch; a range of no bytes stands at a unit all the same (R245). -/
def spareUnits (addr n : Nat) : List Nat :=
  (List.range (((addr - 0x300000) % 0x8000 + max n 1 + 0x7FFF) / 0x8000)).map ((addr - 0x300000) / 0x8000 + ·)

/-- The units lent to handles of a context, each with the number of its loan (R215, R245). -/
def Ctx.loans (c : Ctx) : List (Nat × Nat) := c.h.flatMap fun p => p.2.units.map fun u => (u, p.2.lent)

/-- Whether bytes of the spare window lie in units lent to handles of the context (R245). -/
def Ctx.lentTo (c : Ctx) (addr n : Nat) : Bool := (spareUnits addr n).all fun u => c.loans.any fun p => decide (p.1 = u)

/-- The units of `size` bytes that a range of an untranslated space touches, by location divided by the size. -/
def unitsOf (core space size addr n : Nat) : List Nat :=
  if n = 0 then []
  else (List.range ((addr + n - 1) / size - addr / size + 1)).map fun i => flatOf core space ((addr / size + i) * size) / size

/-- The owner-tag granules of a range of a core buffer (R201); the spare window is no part of one. -/
def granules (core space addr n : Nat) : List Nat :=
  if space = 3 then unitsOf core 3 4096 addr (min n (0x300000 - addr))
  else if space = 4 ∨ space = 5 then unitsOf core space 4096 addr n
  else []

/-- Whether a granule of a range carries another function's tag (R201). -/
def State.foreign (s : State) (core func space addr n : Nat) : Bool :=
  (granules core space addr n).any fun g =>
    decide (Table.get 0 s.owners g ≠ 0) && decide (Table.get 0 s.owners g ≠ func + 1)

/-- Untagged granules take the tag of the function that writes them (R201). -/
def State.tagGranules (s : State) (core func space addr n : Nat) : State :=
  let take := fun (t : Table Nat) (g : Nat) => if Table.get 0 t g = 0 then Table.set t g (func + 1) else t
  { s with owners := (granules core space addr n).foldl take s.owners }

/-- Whether a line is marked sealed (R205). -/
def State.sealedLine (s : State) (line : Nat) : Bool :=
  match Table.find s.lines line with
  | some (.raw _ _) => true
  | _ => false

/-- The slot and tweak of a line that is sealed for a reader: a plain write over it that the reader sees has cleared its mark
(R205, R361). -/
def State.sealTo (s : State) (v : Viewer) (line : Nat) : Option (Nat × Nat) :=
  match Table.find (s.viewOf v line).lines line with
  | some (.raw slot tweak) => some (slot, tweak)
  | _ => none

/-- A byte of a line as a reader has it raw: ciphertext that is moved unchanged (R205). -/
def State.rawSeen (s : State) (v : Viewer) (a : Nat) : Byte := (s.viewOf v (a / 128)).rawByte a

/-- The issuing context as a reader of its own earlier writes. -/
def State.issuer (s : State) (id : Nat) : Viewer :=
  ⟨id, some (coreOf id), (s.ctx id).iss, 0⟩

/-- Whether a range of L2 or of a W buffer holds a line that is sealed for a context; a sealed object is sealed throughout
(R205). -/
def State.sealedIn (s : State) (id space addr n : Nat) : Bool :=
  if space = 2 ∨ space = 4 then (unitsOf (coreOf id) space 128 addr n).any fun l => (s.sealTo (s.issuer id) l).isSome
  else decide (space = 7) && decide (0 < n)

/-- A failed capability check: code and sr.tval (R210). -/
structure CapFault where
  code : Nat
  tval : Word
  deriving DecidableEq, Repr

/-- Whether an access of SPACE 3 reaches the spare window where it may not (R199, R245): only M-slot accesses and copies may
(`spare`), and only units lent to handles of the context. -/
def State.spareBarred (s : State) (id a size : Nat) (spare : Bool) : Bool :=
  decide (0x300000 < a + max size 1) && !(spare && (s.ctx id).land.lentTo (max a 0x300000) (a + size - max a 0x300000))

/-- cap_check up to the owner tag (R210): tag, space, permission, bounds, alignment, owner. `spaces` are those R199 gives
the engine; `whole` says that the length obeys the 128-byte rule where it applies (R249); `spare` that the engine may use the
spare window (R245). No capability stands behind an instruction fetch, so none checks X. -/
def State.capCheck (s : State) (id : Nat) (c : Cap) (spaces : List Nat) (off : Int) (size perm align : Nat)
    (whole : Bool := true) (spare : Bool := false) : Except CapFault Acc :=
  let a := (c.base + off).toNat
  if !c.tag then .error ⟨0x10, 0⟩
  else if !spaces.contains c.space then .error ⟨0x13, 0⟩
  else if decide (c.space = 3) && s.spareBarred id a size spare then .error ⟨0x13, 0⟩
  else if !c.holds perm then .error ⟨0x12, 0⟩
  else if off < 0 ∨ (c.len : Int) < off + size then .error ⟨0x11, BitVec.ofInt 64 off⟩
  else if a % align ≠ 0 ∨ !whole then .error ⟨0x14, BitVec.ofInt 64 off⟩
  else if s.foreign (coreOf id) (match (s.ctx id).task with | some t => t.func | none => 0) c.space a size then
    .error ⟨0x12, 0⟩
  else .ok ⟨c.space, a, size, c.key⟩

/-- cap_check of an access that would deliver what it reads: no sealed line is delivered (R205, R210). -/
def State.loadCheck (s : State) (id : Nat) (c : Cap) (spaces : List Nat) (off : Int) (size perm align : Nat)
    (spare : Bool := false) : Except CapFault Acc :=
  match s.capCheck id c spaces off size perm align true spare with
  | .error e => .error e
  | .ok a => if s.sealedIn id a.space a.addr size then .error ⟨0x18, 0⟩ else .ok a

end Sys2Proof.Machine
end

