-- ==== Sys2Proof/Machine/Ops.lean ====
section
/-!
DEFINITION. The operations that instructions and steps share: late faults (R403), taking an exception and returning from
one (R402–R412), ending a task (R169–R171, R419), barrier records (R385, R386) and cumulative sets (R366).
-/

namespace Sys2Proof.Machine

/-! ### Barrier records -/

/-- The fields of a barrier record (R385). -/
structure BarRec where
  gen : Nat
  expected : Nat
  arrived : Nat
  pending : Nat
  error : Bool
  aborted : Bool
  remote : Bool
  deriving DecidableEq, Repr

/-- The record in a 128-bit number (R385). -/
def barRec (n : Nat) : BarRec :=
  ⟨n % 2 ^ 32, n / 2 ^ 32 % 2 ^ 24, n / 2 ^ 56 % 2 ^ 24, n / 2 ^ 80 % 2 ^ 24, decide (n / 2 ^ 104 % 2 = 1),
    decide (n / 2 ^ 105 % 2 = 1), decide (n / 2 ^ 106 % 2 = 1)⟩

/-- The 128-bit number of a record (R385). -/
def BarRec.num (b : BarRec) : Nat :=
  b.gen % 2 ^ 32 + b.expected % 2 ^ 24 * 2 ^ 32 + b.arrived % 2 ^ 24 * 2 ^ 56 + b.pending % 2 ^ 24 * 2 ^ 80
    + b.error.toNat * 2 ^ 104 + b.aborted.toNat * 2 ^ 105 + b.remote.toNat * 2 ^ 106

/-- Completion, at the end of every update (R386). -/
def BarRec.settle (b : BarRec) : BarRec :=
  if b.arrived = b.expected ∧ 1 ≤ b.arrived ∧ b.pending = 0 then { b with gen := (b.gen + 1) % 2 ^ 32, arrived := 0 } else b

/-- FLAGS as sr.tval reports them (R385). -/
def BarRec.flags (b : BarRec) : Nat := b.error.toNat + 2 * b.aborted.toNat + 4 * b.remote.toNat

/-- Beats added to PENDING at issue; past 2^24 − 1 only ERROR is set (R252). -/
def BarRec.attach (b : BarRec) (n : Nat) (remote : Bool) : BarRec :=
  if b.pending + n ≤ 2 ^ 24 - 1 then { b with pending := b.pending + n, remote := b.remote || remote }
  else { b with error := true }

/-- Beats that leave PENDING, with ERROR where they failed (R252, R253, R397). -/
def BarRec.leave (b : BarRec) (n : Nat) (err : Bool) : BarRec :=
  { b with pending := b.pending - n, error := b.error || err }.settle

/-! ### Cumulative sets -/

/-- Whether a write is one of the cumulative set of its context at a place in issue order (R366): an earlier M-slot write or
atomic, or a write of an engine that a wait before that place has covered. -/
def Write.joins (w : Write) (ctx iss : Nat) : Bool :=
  decide (w.ctx = ctx) && decide (w.iss < iss) && decide (w.level < 3)
    && match w.cover with | some n => decide (n ≤ iss) | none => false

/-- The writes that a context observed before a place in issue order, through an acquire or through a read of at least a scope
(R366). -/
def Ctx.observedAt (c : Ctx) (iss scope : Nat) : List Nat :=
  (c.obs.filter fun o => decide (scope ≤ o.2.1) && decide (o.2.2 < iss)).map (·.1)

/-- The writes that must be visible before a release of a context at a scope (R366): its own earlier writes, and those it
observed, be they of a task that has ended on it (R170, R356). -/
def State.cumulative (s : State) (id iss scope : Nat) : List Nat :=
  ((s.writes.filter fun w => w.joins id iss).map (·.id)) ++ (s.ctx id).observedAt iss scope

/-- Whether a write is visible at a scope (R358). -/
def State.visibleAt (s : State) (scope i : Nat) : Bool :=
  s.writes.all fun w => !decide (w.id = i) || decide (levelOf scope ≤ w.level)

/-- A context observes writes by an access at a place in issue order: each with the cumulative set of the release that made it
(R366). -/
def Ctx.observe (c : Ctx) (ws : List Write) (scope iss : Nat) : Ctx :=
  { c with obs := c.obs ++ (ws.flatMap fun w => (w.id :: w.rel).map fun i => (i, scope, iss)) }

/-- Whether a wait of a context is an acquire that comes before a place in issue order (R364). -/
def Wait.acquires (w : Wait) (iss : Nat) : Bool :=
  match w with
  | .fwait _ _ _ n _ => decide (n < iss)
  | .bwait _ _ _ n _ => decide (n < iss)
  | _ => false

/-- The waits of a context, in the order in which they end. -/
def Ctx.waits (c : Ctx) : List Wait := c.wait.toList ++ c.more

/-- Whether an earlier acquire of the context is still to be performed (R364): ALD, a plain returning atomic, GJOIN, FWAIT,
BWAIT. -/
def State.acquirePending (s : State) (ctx iss : Nat) : Bool :=
  (s.atoms.any fun a => decide (a.ctx = ctx) && decide (a.iss < iss) &&
    (decide (a.op = .ald) || decide (a.op = .gjoin) || decide (a.op = .gcreate) || (decide (a.use = 0) && a.dest.isSome)))
    || (s.ctx ctx).waits.any (·.acquires iss)

/-- Whether a .SPC atomic has locked an 8-byte word of some locations (R372). -/
def State.spcLocked (s : State) (locs : List Nat) : Bool :=
  s.atoms.any fun a => match a.got with
    | some g => locs.any fun l => g.2.contains (l / 8)
    | none => false

/-- Who performs an atomic of a context at a scope (R363): it reads the latest write it sees there. -/
def atomViewer (ctx scope : Nat) : Viewer := ⟨0, some (coreOf ctx), 0, levelOf scope⟩

/-- What an atomic step at a scope finds (R363): the latest write that its context sees, and those before it in the coherence order, have
reached that scope; one that it does not see need not have, and both may then read the same value. -/
def State.forceFor (s : State) (ctx scope : Nat) (locs : List Nat) : State := s.forceSeen (atomViewer ctx 0) (levelOf scope) locs

/-- A barrier record as an atomic step at a scope finds it (R360, R363). -/
def State.recAt (s : State) (ctx scope : Nat) (a : Acc) (locs : List Nat) : BarRec :=
  barRec (leNat ((s.forceFor ctx scope locs).seeAll (atomViewer ctx scope) a.key locs))

/-- The writes that the record at some locations carries: the cumulative sets of its arrivals and the beats attached to it, as far
as they are still to become visible (R386). -/
def State.carried (s : State) (ctx : Nat) (locs : List Nat) : List Nat :=
  (s.observed ⟨0, some (coreOf ctx), 0, 1⟩ locs).flatMap (·.rel)

/-- Write a barrier record in one atomic step at a scope (R363, R386): the new record takes the place of the latest one, and
carries the cumulative sets of the arrivals before it. -/
def State.recWrite (s : State) (tid ctx iss scope : Nat) (a : Acc) (locs : List Nat) (rel : List Nat)
    (f : BarRec → BarRec) : State :=
  s.writeAt tid ctx iss scope a.key (locs.zip (leBytes 16 (f (s.recAt ctx scope a locs)).num)) (s.carried ctx locs ++ rel)

/-- An engine's update of a record, at CHIP, with the writes it adds to what the record carries (R252, R386, R397); where its page
is gone nothing is updated. -/
def State.updateBar (s : State) (tid ctx iss : Nat) (a : Acc) (rel : List Nat) (f : BarRec → BarRec) : State :=
  match s.taskOf tid with
  | none => s
  | some t =>
    match State.writePlaces t ctx a.space s [(a.addr, 16)] with
    | .error _ => s
    | .ok (ls, s1) => (s1.recWrite tid ctx iss 2 a ls rel f).tagGranules (coreOf ctx) t.func a.space a.addr 16

/-- The bytes of HBM that writes hold which a write to some locations at CHIP must push out before it (R360). -/
def State.pushed (s : State) (locs : List Nat) : List Write :=
  (mustMove 3 (placed s.writes) locs).filter fun w => w.cells.any fun c => decide (c.1 < 2 ^ 60)

/-- Whether there are such: each takes its own tokens as it moves (R87). -/
def State.pushes (s : State) (locs : List Nat) : Bool := !(s.pushed locs).isEmpty

/-- Whether an engine's update of a record must wait: writes before it into HBM have still to take their tokens (R87), or it would complete
the record, and what the record carries is not yet visible at the scope of the last BARRIVE of its generation (R365, R386). -/
def State.barWaits (s : State) (tid ctx : Nat) (a : Acc) (f : BarRec → BarRec) : Bool :=
  match s.taskOf tid with
  | none => false
  | some t =>
    match s.readPlaces t ctx a.space [(a.addr, 16)] with
    | .error _ => false
    | .ok ps =>
      let locs := ps.filterMap fun x => x
      let old := s.recAt ctx 2 a locs
      s.pushes locs || decide ((f old).gen ≠ old.gen)
        && !(s.carried ctx locs).all (s.visibleAt (Table.get 2 s.lastArrive (locs.headD 0)))

/-- The record an engine's update would leave alone: PENDING past 2^24 − 1 leaves the operation unattached (R252). -/
def State.barFull (s : State) (ctx : Nat) (a : Acc) (locs : List Nat) (n : Nat) : Bool :=
  decide (2 ^ 24 - 1 < (s.recAt ctx 2 a locs).pending + n)

/-! ### Late faults -/

/-- The context that runs a task. -/
def ctxOfTid (tid : Nat) : Table Ctx → Option Nat
  | [] => none
  | (i, c) :: cs =>
    match c.task with
    | some t => if t.tid = tid then some i else ctxOfTid tid cs
    | none => ctxOfTid tid cs

/-- Whether a task is switched out of its context, or is switched in and waits for its array (R149, R417). -/
def State.isOut (s : State) (ctx tid : Nat) : Bool :=
  (decide ((s.ctx ctx).preempt = .out) || decide ((s.ctx ctx).preempt = .entering)) && (match (s.ctx ctx).task with | some t => decide (t.tid = tid) | none => false)

/-- The .SPC atomics of a task issued after an access that has met a late fault are cancelled: the word is as it was, and no value is
returned (R372). -/
def State.cancelAfter (s : State) (tid iss : Nat) : State :=
  { s with atoms := s.atoms.filter fun a => !(decide (a.tid = tid) && decide (a.use = 5) && decide (iss < a.iss)) }

/-- Record a late fault against a task (R403): a context keeps the one issued earlier; a task that has ended at TAIL
takes it as its pending fault (R419). (DEDUCED, log entry 39.) -/
def State.addLate (s0 : State) (tid : Nat) (l : Late) : State :=
  let s := s0.cancelAfter tid l.iss
  match ctxOfTid tid s.ctxs with
  | some i =>
    let c := s.ctx i
    match c.late with
    | some o => if o.iss ≤ l.iss then s else s.setCtx i { c with late := some l }
    | none => s.setCtx i { c with late := some l }
  | none =>
    { s with retire := s.retire.map fun r =>
        if r.task.tid = tid ∧ r.tail ∧ r.code = 0 then { r with code := l.code, tval := l.tval, pend := true } else r }

/-- A part of an access that has met a late fault meets an earlier one: the access keeps the earlier (R238). -/
def State.addEarlier (s : State) (tid : Nat) (l : Late) : State :=
  match ctxOfTid tid s.ctxs with
  | some i => if (s.ctx i).late.any fun o => decide (o.iss = l.iss) then s.setCtx i { s.ctx i with late := some l } else s.addLate tid l
  | none => s.addLate tid l

/-- Log an event of a partition (R401). -/
def State.event (s : State) (f code what : Nat) : State :=
  let p := s.part f
  s.setPart f { p with events := p.events ++ [(code, what)] }

/-! ### Ending a task -/

/-- A core's retirement tracker holds 64 entries (R169). -/
def State.trackerFull (s : State) (core : Nat) : Bool :=
  decide (64 ≤ (s.retire.filter fun r => decide (r.core = core)).length)

/-- The number that stands for a location in the arrival latch (R387). -/
def Acc.where (a : Acc) : Nat := a.space * 2 ^ 57 + a.addr

/-- Whether the arrival latch's entry for an address is one for a group's record, be it by another address of it (R165, R387). -/
def Ctx.latches (c : Ctx) (g : Group) (addr : Nat) : Bool :=
  decide (addr = g.acc.where) || decide (Table.find c.arriveAt addr = some g.addr)

/-- A context leaves a group slot (R166, R167, R390): the member goes, an empty slot drains, and the update of the record
is queued at CHIP, with ERROR first where the task ended on a fault; `locs` are its locations where a GLEAVE has translated
them. -/
def State.leaveGroup (s : State) (id tid iss : Nat) (pc : Word) (fault : Bool) (locs : List Nat) (slot : Nat) : State :=
  match Table.find s.groups slot with
  | none => s
  | some g =>
    let c := s.ctx id
    let ms := g.members.filter fun m => decide (m ≠ (id, tid))
    let own := fun (p : Nat × Nat) => c.latches g p.1
    let latched := match c.arrive.reverse.find? own with
      | some p => p.2
      | none => 2 ^ 32
    let a : Atom := ⟨s.fresh, tid, id, iss, pc, g.acc, .gleave, BitVec.ofNat 64 latched, if fault then 1 else 0, 0, 2, none,
      false, s.time, locs, none, s.cur.src⟩
    { s with groups := Table.set s.groups slot { g with members := ms, draining := ms.isEmpty },
             atoms := s.atoms ++ [a], fresh := s.fresh + 1,
             ctxs := Table.set s.ctxs id
               { c with groups := c.groups.filter fun x => decide (x ≠ slot)
                        arrive := c.arrive.filter fun p => !own p } }

/-- A context gives up the array (R163, R312): after a fault the operations not yet begun are discarded, and an XHDR has
no register left to write. -/
def State.leaveArray (s : State) (id tid : Nat) (fault : Bool) : State :=
  let n := coreOf id
  let k := s.core n
  s.setCore n { k with
    owner := if k.owner = some id then none else k.owner
    waiters := k.waiters.filter fun w => decide (w ≠ id)
    queue := k.queue.filter fun e => decide (e.tid ≠ tid) || !fault && (match e.op with | .hdr _ => false | _ => true)
    undo := k.undo.filter fun u => decide (u.tid ≠ tid) }

/-- A context's bit leaves every release mask (R108). -/
def State.unrelease (s : State) (id : Nat) : State :=
  { s with keys := s.keys.map fun p => (p.1, { p.2 with release := p.2.release.filter fun x => decide (x ≠ id) }) }

/-- What stays of a context that is FREE: a debugger stays attached; its issue order goes on, and what it has observed (R170, R356, R366). -/
def Ctx.clear (c : Ctx) : Ctx := { dbg := c.dbg, iss := c.iss, obs := c.obs }

/-- The task on a context ends (R169–R171): it leaves its groups, gives up the array and its key releases, its
handles and their loans go (R216), it passes to
a retirement-tracker entry with its record, and the context is FREE. -/
def State.retireTask (s : State) (id code : Nat) (fpc tval : Word) (pend mchk tail : Bool) : State :=
  let c := s.ctx id
  match c.task with
  | none => s
  | some t =>
    let s1 := c.groups.foldl (fun u g => u.leaveGroup id t.tid c.iss c.pc (decide (code ≠ 0)) [] g) s
    let s2 := State.unrelease (s1.leaveArray id t.tid (!tail)) id
    let left := if t.persist then (c.hi - c.lo).toNat else 0
    let r : Retire := ⟨coreOf id, id % 4, t, code, fpc, tval, pend, mchk, left, tail, s.cumulative id c.iss 2⟩
    { s2 with retire := s2.retire ++ [r], ctxs := Table.set s2.ctxs id c.clear,
              loads := s2.loads.filter fun l => decide (l.tid ≠ t.tid)
              divs := s2.divs.filter fun d => decide (d.tid ≠ t.tid) }

/-! ### Taking an exception -/

/-- The layout of sr.cause (R405). -/
def causeWord (t : Trap) : Word :=
  BitVec.ofNat 64 (t.code + t.ds.toNat * 2 ^ 8 + t.fb.toNat * 2 ^ 9 + t.pf.toNat * 2 ^ 10 + t.late.toNat * 2 ^ 11)

/-- The handler address that the task's trap table gives a code (R406, R407). -/
def State.handler (s : State) (c : Ctx) (code : Nat) : Option Word :=
  match c.task with
  | none => none
  | some t =>
    match Table.find s.insts t.inst with
    | none => none
    | some i =>
      match i.traps.find? fun p => decide (p.1 = code) with
      | none => none
      | some p => some (BitVec.ofNat 64 (i.base + i.entries.getD p.2 0))

/-- Whether an interlocked result of a context is outstanding (R162, R408). -/
def State.outstanding (s : State) (id : Nat) : Bool :=
  let tid := match (s.ctx id).task with | some t => t.tid | none => 0
  (s.loads.any fun l => decide (l.tid = tid)) || (s.divs.any fun d => decide (d.tid = tid))
    || (s.atoms.any fun a => decide (a.tid = tid) && a.dest.isSome)

/-- The latch record of a pending result, counted from step `now` (R411). -/
def latchOf (now : Nat) (r : Res) : Option Latch :=
  if r.val.exposed then some ⟨r.due - now + 1, r.val⟩ else none

/-- The results of a context that are not latched land at the boundary (R162, R408). -/
def Ctx.landRest (c : Ctx) : Ctx :=
  { Ctx.applyAll (c.pend.filter fun r => !r.val.exposed) c with pend := [] }

/-- Whether a wait is one that a frame saves (R383). -/
def Wait.kept (w : Wait) : Bool :=
  match w with
  | .fwait _ _ _ _ _ => true
  | .bwait _ _ _ _ _ => true
  | _ => false

/-- The wait that a frame saves (R383, R410): FWAIT and BWAIT; IDLE ends with the cause that is taken (R430). -/
def keptWait (ws : List Wait) : Option Wait := ws.find? Wait.kept

/-- The frame of a trap or of a switch-out (R410, R411): return PC, registers, pending-fault record, latch records, mask
stack and the wait in progress. -/
def Ctx.frameFor (c : Ctx) (pc cause tval tval2 : Word) : Frame :=
  ⟨pc, cause, tval, tval2, c.late, c.pend.filterMap (latchOf c.step), c.landRest.stack, keptWait c.waits, c.fb, c.after, c.delay,
    (c.waits.filter Wait.kept).drop 1⟩

/-- Trap entry (R408): the undelivered late fault, the latch records, the mask stack and the wait go into the frame, the
registers are written, and handler mode begins at the handler's address. -/
def Ctx.enter (c : Ctx) (t : Trap) (handler : Word) : Ctx :=
  { c.landRest with
    frame := some (c.frameFor t.ret (causeWord t) t.tval t.tval2)
    late := none, stack := [], wait := none, more := [], trapReq := none, after := none, drains := []
    cause := causeWord t, tval := t.tval, tval2 := t.tval2
    pc := handler, br := none, delay := none, fb := none }

/-- A context takes an exception (R402, R407–R409): to its handler, once every interlocked result has come in; without
an entry in the trap table, or in handler mode, the task ends with the code, a machine check marked as one (R419). Where it must wait for results or for room
in the retirement tracker, the exception stays noted and TRAP_ENTRY completes it. -/
def State.takeTrap (s : State) (id : Nat) (t : Trap) : State :=
  let c := s.ctx id
  match (if c.frame.isSome then none else s.handler c t.code) with
  | some a =>
    if s.outstanding id then s.setCtx id { c with trapReq := some t } else s.setCtx id (c.enter t a)
  | none =>
    if s.trackerFull (coreOf id) then s.setCtx id { c with trapReq := some t }
    else s.retireTask id t.code t.fpc t.tval t.pf (decide (t.code = 0x60)) false

/-- A precise fault of the next bundle (R402): return PC and FPC are the bundle; in the delay bundle of a taken transfer
DS is set and sr.tval2 holds the target (R123). -/
def Ctx.precise (c : Ctx) (code : Nat) (tval tval2 : Word) (late : Bool) : Trap :=
  match c.delay with
  | some b =>
    if b.taken then ⟨code, true, false, false, late, tval, b.target, c.pc, c.pc⟩
    else ⟨code, false, false, false, late, tval, tval2, c.pc, c.pc⟩
  | none => ⟨code, false, false, false, late, tval, tval2, c.pc, c.pc⟩

/-- The instruction raises a precise fault: its bundle has no effect and the context takes the exception (R120, R402). -/
def State.trap (s : State) (code : Nat) (tval tval2 : Word) : State :=
  { s.takeTrap s.cur.id ((s.ctx s.cur.id).precise code tval tval2 false) with cur := { s.cur with verdict := .trapped } }

/-- The header bit of the issuing slot, as sr.tval2 reports it (R121, R183, R210). -/
def State.slotBit (s : State) : Word := BitVec.ofNat 64 s.cur.bit

/-- The instruction raises a precise fault for which the manual states sr.tval and no sr.tval2: that one is free (DESIGN CHOICE, log
entry 23). -/
def State.trapOpen (s : State) (code : Nat) (tval : Word) : State :=
  State.trap { s with choice := s.choice + 1 } code tval (Config.freeWord s.choice)

/-- The instruction raises a precise fault for which the manual states neither sr.tval nor sr.tval2: both are free (DESIGN CHOICE, log
entry 23). -/
def State.trapBare (s : State) (code : Nat) : State :=
  State.trap { s with choice := s.choice + 2 } code (Config.freeWord s.choice) (Config.freeWord (s.choice + 1))

/-- The instruction raises poison, 0x28 (R196, R229): V in bit 6, register number below. -/
def State.trapPoison (s : State) (v : Bool) (n : Nat) : State :=
  s.trapOpen 0x28 (BitVec.ofNat 64 (v.toNat * 64 + n))

/-- The instruction raises a failed capability check (R210). -/
def State.trapCap (s : State) (e : CapFault) : State := s.trap e.code e.tval s.slotBit

/-- A lane of a gather or scatter fails its check: sr.tval holds its offset (R238). -/
def State.trapLane (s : State) (code : Nat) (off : Word) : State := s.trap code off s.slotBit

/-- The latch records of a frame become pending results again, counted from the first step after return (R412). -/
def relatch (step : Nat) (ls : List Latch) : List Res := ls.map fun l => ⟨step + l.steps - 1, l.val⟩

/-- The waits that a frame restores (R383, R412). -/
def Frame.waits (f : Frame) : List Wait := f.wait.toList ++ f.more

/-- Where execution goes on from a frame (R412): mask stack and wait restored, latch records counting from the next step,
the saved PC; where it is that of a delay bundle, its transfer is still to be made (R123). A wait of ERET's delay bundle, and a 0x58 that
came of one, hold or meet the first returned bundle too (R383, R389; DEDUCED, log entry 45). -/
def Ctx.resume (c : Ctx) (f : Frame) : Ctx :=
  { c with
    stack := f.stack, wait := (c.waits ++ f.waits).head?, more := (c.waits ++ f.waits).tail, pc := f.pc, fb := f.fb
    after := c.after.or f.after
    pend := relatch c.step f.latches ++ c.pend
    br := none
    delay := if field f.cause 8 8 = 1 then some ⟨true, f.tval2, (f.branch.map (·.pc)).getD f.pc, false⟩ else f.branch }

/-- A pending-fault record is delivered before any returned bundle issues (R404, R412, R413): PF and LATE are set and the
return PC is the saved PC. -/
def State.deliverPending (s : State) (id : Nat) (l : Late) : State :=
  s.takeTrap id { (s.ctx id).precise l.code l.tval l.tval2 true with pf := true }

/-- A late fault whose fault point the next bundle is, is taken there (R403). -/
def State.dueLate (s : State) (id : Nat) (l : Late) : State :=
  State.takeTrap (s.setCtx id { s.ctx id with late := none }) id ((s.ctx id).precise l.code l.tval l.tval2 true)

/-- A BWAIT that has ended with ERROR or ABORTED set raises 0x58, reason 7, before the next bundle issues, which the saved PC and FPC give
(R389, R419; DEDUCED, log entry 37). -/
def State.barrierFault (s : State) (id : Nat) (flags : Word) : State :=
  State.takeTrap (State.setCtx { s with choice := s.choice + 1 } id { s.ctx id with after := none }) id
    ⟨0x58, false, false, false, false, flags, Config.freeWord s.choice, (s.ctx id).pc, (s.ctx id).pc⟩

/-- Whether a context is to return from its handler: ERET and its delay bundle have taken effect, every result of the handler has landed, and
an ASC or a TLOCK of that bundle is over; a FWAIT or BWAIT of it holds the next bundle, the first returned one (R383, R412, R425; DEDUCED,
log entry 45). -/
def State.returning (s : State) (id : Nat) : Bool :=
  let c := s.ctx id
  c.ret && c.pend.isEmpty && c.steal.isNone && c.trapReq.isNone && c.waits.all Wait.kept && !s.outstanding id

/-- Whether a context is to be pre-empted: the firmware has asked for it, or the grace period of a request has passed (R413, R432). -/
def State.preempting (s : State) (id : Nat) : Bool :=
  let c := s.ctx id
  decide (c.preempt = .requested) || decide (c.preempt = .none) && c.prq.any fun t => decide (t ≤ s.time)

/-- The return sequence after ERET and its delay bundle (R412, R425): handler mode ends, the frame is restored, and a pending-fault record is
delivered, or kept for the switch frame of a pre-emption that comes first (R404, R425). -/
def State.returnFrom (s : State) (id : Nat) : State :=
  let c := s.ctx id
  match c.frame with
  | none => s
  | some f =>
    let s1 := s.setCtx id { Ctx.resume { c with frame := none, ret := false, delay := none } f with ret := false }
    match f.pf with
    | none => s1
    | some l => if s.preempting id then s1.setCtx id { s1.ctx id with late := some l } else s1.deliverPending id l

/-- Whether a context may take a timer or an interrupt at its next boundary: not between a branch bundle and its delay bundle, not while a
return or another exception is in progress, not before the answer to a STEAL (R123, R195, R404). -/
def Ctx.atBoundary (c : Ctx) : Bool := c.delay.isNone && !c.ret && c.trapReq.isNone && c.steal.isNone

/-- Whether a context may be pre-empted at its next boundary: not between a branch bundle and its delay bundle; after ERET's, once it has
returned (R404, R425). -/
def Ctx.preemptible (c : Ctx) : Bool := c.atBoundary

/-- Whether a context is in a debug stop: before its next bundle, once a return in progress has been made (R431; DEDUCED, log entry 45). -/
def Ctx.stopped (c : Ctx) : Bool := c.dbgStop.isSome && !c.ret

/-- Whether a fault waits for a context's next bundle, whatever that is: a 0x58 of a BWAIT (R389), or a late fault whose fault point it is
(R451). Neither waits for a delay bundle before it, nor while a wait or a return is in progress. -/
def Ctx.faultDue (c : Ctx) : Bool :=
  !c.ret && c.waits.isEmpty && ((c.after.isSome && c.delay.isNone) || c.late.any (·.next))

/-- The timer is due (R428). -/
def Ctx.timerDue (c : Ctx) (time : Nat) : Bool := decide (c.tcmp ≠ 0) && decide (c.tcmp.toNat ≤ time)
/-- An interrupt is due (R428). -/
def Ctx.intDue (c : Ctx) : Bool := decide (c.ipend &&& c.ien ≠ 0)

/-- Whether the wait of a context ends only with its own operation: an ASC or a TLOCK in progress (R242, R376). -/
def Ctx.midOperation (c : Ctx) : Bool :=
  c.waits.any fun w =>
    match w with
    | .asc => true
    | .tlock _ _ _ _ => true
    | _ => false

/-- A timer or interrupt cause of a context that can be taken (R428): its code has an entry, outside handler mode. -/
def State.asyncReady (s : State) (id : Nat) : Bool :=
  let c := s.ctx id
  c.frame.isNone && ((c.timerDue s.time && (s.handler c 0x4A).isSome) || (c.intDue && (s.handler c 0x49).isSome))

/-- Whether a timer or interrupt can be taken now (R404, R407, R409, R428): a boundary of a running task, no pre-emption first,
no handler, no debug stop; an IDLE ends in the cycle before (R430). (DEDUCED, log entry 45.) -/
def State.asyncBoundary (s : State) (id : Nat) : Bool :=
  let c := s.ctx id
  c.task.isSome && decide (c.preempt = .none) && !s.preempting id && c.atBoundary && !c.midOperation && c.frame.isNone
    && !c.stopped && decide (c.wait ≠ some .idle)

/-- Whether a cause that comes before the faults of the next bundle is ready at a context's boundary (R404): a pre-emption, a timer, an
interrupt. -/
def State.yields (s : State) (id : Nat) : Bool :=
  (s.preempting id && (s.ctx id).preemptible) || (s.asyncBoundary id && s.asyncReady id)

/-! ### Rejections -/

/-- The rejections, or losses, that a FENCE at a scope reports, the earliest in issue order (R343, R349). -/
def State.firstReject (s : State) (tid scope : Nat) (lost : Bool) : Option Reject :=
  (s.rejects.filter fun r => decide (r.tid = tid) && decide (r.scope ≤ scope) && decide (r.lost = lost)).foldl
    (fun b r => match b with
      | none => some r
      | some x => if r.iss < x.iss ∨ (r.iss = x.iss ∧ r.op < x.op) then some r else some x) none

end Sys2Proof.Machine
end

