-- ==== Sys2Proof/Machine/Budget.lean ====
section
/-!
DEFINITION. Token and issue budgets of partitions (R87–R89): charging a request to a partition and its parent, borrowing
from idle siblings, and suspension.
-/

namespace Sys2Proof.Machine

/-- The two kinds of token (R87). -/
inductive Token where
  | memory | fabric
  deriving DecidableEq, Repr

/-- Tokens left in this period. -/
def Part.left (p : Part) : Token → Nat
  | .memory => p.mleft
  | .fabric => p.fleft
/-- Debt for a kind. -/
def Part.debt (p : Part) : Token → Nat
  | .memory => p.mdebt
  | .fabric => p.fdebt
/-- The budget in effect. -/
def Part.budget (p : Part) : Token → Nat
  | .memory => p.mtok
  | .fabric => p.ftok
/-- The last cycle in which an own request waited for a kind. -/
def Part.waited (p : Part) : Token → Option Nat
  | .memory => p.mwait
  | .fabric => p.fwait
/-- Set the tokens left. -/
def Part.setLeft (p : Part) (k : Token) (n : Nat) : Part :=
  match k with
  | .memory => { p with mleft := n }
  | .fabric => { p with fleft := n }
/-- Add to the debt. -/
def Part.owe (p : Part) (k : Token) (n : Nat) : Part :=
  match k with
  | .memory => { p with mdebt := p.mdebt + n }
  | .fabric => { p with fdebt := p.fdebt + n }
/-- The debt that the last refill left. -/
def Part.carry (p : Part) : Token → Nat
  | .memory => p.mcarry
  | .fabric => p.fcarry
/-- What each request of the current cycle has lacked. -/
def Part.wants (p : Part) : Token → List (Nat × Nat)
  | .memory => p.mwant
  | .fabric => p.fwant
/-- The tokens that the requests of the current cycle have lacked, all together. -/
def Part.want (p : Part) (k : Token) : Nat := ((p.wants k).map (·.2)).sum
/-- Set what requests lack. -/
def Part.setWants (p : Part) (k : Token) (n : List (Nat × Nat)) : Part :=
  match k with
  | .memory => { p with mwant := n }
  | .fabric => { p with fwant := n }
/-- Whether a zeroing pass waits for memory tokens: while it does, its partition is not idle (R437). -/
def Part.passing (p : Part) (k : Token) : Bool := decide (k = .memory) && decide (p.state = 3) && decide (0 < p.zeroLeft)

/-- Whether a partition is idle for a kind: none of its own requests has waited during the last 1,024 cycles (R88). -/
def State.idleFor (s : State) (f : Nat) (k : Token) : Bool :=
  if (s.part f).passing k then false
  else
    match (s.part f).waited k with
    | none => true
    | some w => decide (1024 ≤ s.time - w)

/-- The siblings of a function that exist, ascending (R84, R88, R91). -/
def State.siblings (s : State) (f : Nat) : List Nat :=
  if (s.part f).level = 1 then
    ((List.range 8).map fun c => 16 + 8 * (s.part f).parent + c).filter fun g =>
      decide (g ≠ f) && decide ((s.part g).state ≠ 0) && decide ((s.part g).level = 1)
  else (List.range 16).filter fun g => decide (g ≠ f) && decide ((s.part g).state ≠ 0)

/-- Take up to `n` tokens from lenders in order, each down to a quarter of its budget (R88): how many, and the state. -/
def State.lendFrom (s : State) (k : Token) : Nat → List Nat → Nat × State
  | _, [] => (0, s)
  | n, f :: fs =>
    let p := s.part f
    let lent := min n (p.left k - p.budget k / 4)
    let r := State.lendFrom (s.setPart f (p.setLeft k (p.left k - lent))) k (n - lent) fs
    (lent + r.1, r.2)

/-- A partition borrows what its requests of the cycle have lacked, as far as idle siblings lend it (R88): a debt that the last
refill left forbids it, and level-1 partitions lend no memory tokens. -/
def State.borrow (s : State) (f : Nat) (k : Token) : State :=
  let p := s.part f
  let s0 := s.setPart f (p.setWants k [])
  if p.want k = 0 ∨ p.carry k ≠ 0 ∨ (k = .memory ∧ p.level = 0) then s0
  else
    let r := s0.lendFrom k (p.want k) ((s0.siblings f).filter fun g => s0.idleFor g k)
    r.2.setPart f (((r.2.part f).setLeft k ((r.2.part f).left k + r.1)).owe k r.1)

/-- The end of a cycle: every own request has been charged; the borrowers are served in ascending order (R88). (DEDUCED, log
entry 26.) -/
def State.borrowAll (s : State) : State :=
  (s.parts.map (·.1)).foldl (fun u f => (u.borrow f .memory).borrow f .fabric) s

/-- A partition and its parent (R88, R89). -/
def State.chain (s : State) (f : Nat) : List Nat := if (s.part f).level = 1 then [f, (s.part f).parent] else [f]

/-- Charge one token to a partition and to its parent (R88): none where either has none left. -/
def State.take (s : State) (f : Nat) (k : Token) : Option State :=
  if (s.chain f).all fun g => decide (1 ≤ (s.part g).left k) then
    some ((s.chain f).foldl (fun u g => u.setPart g ((u.part g).setLeft k ((u.part g).left k - 1))) s)
  else none

/-- Charge up to `n` tokens, one after another (R87): how many, and the state. -/
def State.takeUpTo (s : State) (f : Nat) (k : Token) : Nat → Nat × State
  | 0 => (0, s)
  | n + 1 =>
    match s.take f k with
    | none => (0, s)
    | some s1 =>
      let r := State.takeUpTo s1 f k n
      (r.1 + 1, r.2)

/-- A request joins those of a partition that wait for a kind, in the current cycle (R88). -/
def Part.waitFor (p : Part) (k : Token) (r time : Nat) : Part :=
  let add := fun (xs : List Nat) => if xs.contains r then xs else xs ++ [r]
  match k with
  | .memory => { p with mwait := some time, mline := add p.mline }
  | .fabric => { p with fwait := some time, fline := add p.fline }

/-- The requests of a partition that wait for a kind. -/
def Part.line (p : Part) : Token → List Nat
  | .memory => p.mline
  | .fabric => p.fline

/-- Request `r` lacks `n` tokens and waits: its own partition is not idle (R88). What it lacks is noted for the partition, and for its parent,
where that has no token left, to be borrowed (R87, R88). -/
def State.tokenWait (s : State) (r f : Nat) (k : Token) (n : Nat) : State :=
  let s1 := s.setPart f ((s.part f).waitFor k r s.time)
  (s1.chain f).foldl (fun u g =>
    let p := u.part g
    if p.left k = 0 then u.setPart g (p.setWants k (Table.set (p.wants k) r n)) else u) s1

/-- A request of a function waits no longer. -/
def State.waitOver (s : State) (r f : Nat) : State :=
  let p := s.part f
  if p.mline.contains r || p.fline.contains r then
    s.setPart f { p with mline := p.mline.filter fun x => decide (x ≠ r), fline := p.fline.filter fun x => decide (x ≠ r) }
  else s

/-- The number of a request that is no numbered operation: the fetch or wait of a context (0), a walk's node (1), a launch or a record (2), the
answer of a port (3), the sweep of a slot (4), the list of a CPYG (5). -/
def requestNo (kind n : Nat) : Nat := 2 ^ 64 + 8 * n + kind

/-- Where the tokens are noted that an operation has paid. -/
def payKey (id : Nat) : Token → Nat
  | .memory => 2 * id
  | .fabric => 2 * id + 1

/-- Operation `id` pays towards `n` tokens, what it has paid before counted (R87): the state, and whether all are paid. -/
def State.payPart (s : State) (id f : Nat) (k : Token) (n : Nat) : State × Bool :=
  let had := Table.get 0 s.paid (payKey id k)
  let r := s.takeUpTo f k (n - had)
  let s1 := if r.1 = 0 then r.2 else { r.2 with paid := Table.set r.2.paid (payKey id k) (had + r.1) }
  if n ≤ had + r.1 then (s1, true) else (s1.tokenWait id f k (n - had - r.1), false)

/-- An operation has its tokens and goes on. -/
def State.spend (s0 : State) (id f : Nat) : State :=
  let s := s0.waitOver id f
  { s with paid := Table.del (Table.del s.paid (payKey id .memory)) (payKey id .fabric) }

/-- Operation `id` pays `n` tokens (R87): the state, and whether all are paid. -/
def State.pay (s : State) (id f : Nat) (k : Token) (n : Nat) : State × Bool :=
  match s.payPart id f k n with
  | (s1, true) => (s1.spend id f, true)
  | r => r

/-- Operation `id` pays tokens of both kinds. -/
def State.payBoth (s : State) (id f m n : Nat) : State × Bool :=
  let a := s.payPart id f .memory m
  let b := a.1.payPart id f .fabric n
  if a.2 && b.2 then (b.1.spend id f, true) else (b.1, false)

/-- The memory tokens for locations: one for each 64 bytes of HBM (R87). -/
def hbmTokens (locs : List Nat) : Nat := (((locs.filter fun a => decide (a < 2 ^ 60)).map (· / 64)).eraseDups).length

/-- The memory tokens of writes that move to memory, each by itself (R87). -/
def writeTokens (ws : List Write) : Nat := (ws.map fun w => hbmTokens (w.cells.map (·.1))).sum

/-- The memory tokens of the buffered writes that a write to some locations at CHIP pushes out before it (R87, R360). -/
def State.pushTokens (s : State) (locs : List Nat) : Nat := writeTokens (mustMove 3 (placed s.writes) locs)

/-- Whether the contexts of a function are SUSPENDED (R89, R149). -/
def State.overBudget (s : State) (f : Nat) : Bool := (s.chain f).any fun g => decide ((s.part g).tbudget ≤ (s.part g).tused)

/-- A granted bundle counts for a partition and its parent (R89). -/
def State.countIssue (s : State) (f : Nat) : State :=
  (s.chain f).foldl (fun u g => u.setPart g { u.part g with tused := (u.part g).tused + 1 }) s

end Sys2Proof.Machine
end

