-- ==== Sys2Proof/Machine/Operands.lean ====
section
/-!
DEFINITION. The operand forms of 06_bundles_and_encodings.md: immediates and displacements, offsets, operand blocks, source
modifiers, lane masks and element access of vector registers.
-/

namespace Sys2Proof.Machine

/-- The 64-bit value of an immediate: sign-extended from its field or from the literal (R134). -/
def immVal {n : Nat} (i : Imm n) : Word :=
  match i with
  | .short x => x.signExtend 64
  | .long l => l.signExtend 64

/-- The byte displacement of an M-A word: DISP7 counts access sizes, the literal counts bytes (R136). -/
def dispVal {n : Nat} (size : Nat) (i : Imm n) : Word :=
  match i with
  | .short x => x.signExtend 64 * BitVec.ofNat 64 size
  | .long l => l.signExtend 64

/-- A literal displacement, 0 where there is none (R136, R142). -/
def litVal (l : Lit) : Word :=
  match l with
  | none => 0
  | some x => x.signExtend 64

/-- The first poisoned register of a list of g register numbers, as sr.tval names it (R196). -/
def Ctx.firstPoison (c : Ctx) : List Nat → Option Nat
  | [] => none
  | n :: ns => if (c.gr n).p then some n else Ctx.firstPoison c ns

/-- The numbers of an operand block (R125). -/
def block (a : Fin 64) (n : Nat) : List Nat := (List.range n).map (a.val + ·)

/-- Register `i` of an operand block. -/
def State.blk (s : State) (a : Fin 64) (i : Nat) : Word := (s.me.gr (a.val + i)).v

/-- The lane that lane `i` of a source reads under a 12-bit modifier (R130). -/
def modLane (m i : Nat) : Nat :=
  let S := 2 ^ (m / 128 % 8)
  let d := m / 2 % 64
  let j := i % S
  match m / 1024 % 4 with
  | 1 => i - j + (j + d) % S
  | 2 => i ^^^ d
  | 3 => i - j + d
  | _ => i

/-- A value of `w`-bit lanes from its list of lanes, lane 0 lowest (R279). -/
def packLanes (w : Nat) : List Nat → Nat
  | [] => 0
  | x :: xs => x % 2 ^ w + 2 ^ w * packLanes w xs

/-- Element `i` of width `w` (R279). -/
def elem (w : Nat) (x : Vec) (i : Nat) : Nat := x.toNat / 2 ^ (w * i) % 2 ^ w

/-- The first `n` elements of width `w`. -/
def elems (w n : Nat) (x : Vec) : List Nat := (List.range n).map (elem w x)

/-- The literal's modifier for VA (0) or VB (1); 0 where there is none (R130). -/
def modOf (l : Lit) (src : Nat) : Nat :=
  match l with
  | none => 0
  | some x => if src = 0 then x.toNat % 4096 else x.toNat / 4096 % 4096

/-- A source register with its modifier applied, in lanes of `w` bits: whole lanes move (R130, R279). -/
def applyMod (w : Nat) (m : Nat) (x : Vec) : Vec :=
  if m = 0 then x
  else BitVec.ofNat 2048 (packLanes w ((List.range (2048 / w)).map fun i => elem w x (modLane m i)))

/-- The bits of a v register that a lane mask selects, in lanes of `w` bits (R159, R280). -/
def laneBits (w : Nat) (m : Mask) : Vec :=
  BitVec.ofNat 2048 (packLanes w ((List.range (2048 / w)).map fun i => if m.getLsbD i then 2 ^ w - 1 else 0))

/-- The lane width of a class-I type code (R279). -/
def laneWI (t : Nat) : Nat := if t % 4 = 3 then 64 else 32
/-- The element width of a class-I type code: 8, 16, 32, 64 (R127, R279). -/
def elemWI (t : Nat) : Nat := 8 * 2 ^ (t % 4)
/-- Whether a class-I type code is signed (R127). -/
def signedI (t : Nat) : Bool := decide (t < 4)
/-- The element width of a class-F type code (R127, R279). -/
def elemWF (t : Nat) : Nat := if t = 3 then 64 else if t = 2 then 32 else 16
/-- The lane width of a class-F type code (R279). -/
def laneWF (t : Nat) : Nat := if t = 3 then 64 else 32
/-- The mantissa width of a class-B code: 2, 3, 4, 5, 6, 8 (R127). -/
def widthB (t : Nat) : Nat := if t = 5 then 8 else t + 2

/-- An element as an integer: two's complement where signed. -/
def toInt (w : Nat) (signed : Bool) (x : Nat) : Int :=
  if signed && decide (2 ^ (w - 1) ≤ x) then (x : Int) - 2 ^ w else x

/-- An integer modulo 2^w. -/
def wrap (w : Nat) (x : Int) : Nat := (x % (2 ^ w : Int)).toNat

end Sys2Proof.Machine
end

