-- ==== Sys2Proof/Machine/Flags.lean ====
section
/-!
DEFINITION. The sticky floating-point flags of sr.fflags (R260, R261).
-/

namespace Sys2Proof.Machine

/-- The flags an operation raises (R260). -/
structure Flags where
  nv : Bool := false
  dz : Bool := false
  of : Bool := false
  uf : Bool := false
  nx : Bool := false
  deriving DecidableEq, Repr

/-- The flags of two operations together. -/
def Flags.or (a b : Flags) : Flags := ⟨a.nv || b.nv, a.dz || b.dz, a.of || b.of, a.uf || b.uf, a.nx || b.nx⟩

/-- All flags of a list. -/
def Flags.all : List Flags → Flags
  | [] => {}
  | f :: fs => f.or (Flags.all fs)

/-- The bits of sr.fflags: NV [4], DZ [3], OF [2], UF [1], NX [0] (R260). -/
def Flags.word (f : Flags) : BitVec 5 :=
  BitVec.ofNat 5 (f.nv.toNat * 16 + f.dz.toNat * 8 + f.of.toNat * 4 + f.uf.toNat * 2 + f.nx.toNat)

/-- Flags are ORed into sr.fflags in the step in which the bundle issues (R261). -/
def Ctx.raise (c : Ctx) (f : Flags) : Ctx := { c with fflags := c.fflags ||| f.word }

end Sys2Proof.Machine
end

