-- ==== Sys2Proof/Machine/LoadStore.lean ====
section
/-!
DEFINITION. The M slot (R228–R247): scalar, vector, mask and capability loads and stores, gather and scatter, translation
locks and circular-buffer handles.
-/

namespace Sys2Proof.Machine

/-- The spaces of M-slot loads and stores (R199). -/
def memSpaces : List Nat := [0, 1, 2, 3, 5]

/-- The offset of an M-A word: g(GI) plus the displacement (R228). -/
def State.offset (s : State) (g : Fin 64) (size : Nat) (i : Imm 7) : Word := s.gv g + dispVal size i

/-- An interlocked load enters the memory engine (R229, R230). -/
def State.issueLoad (s : State) (space key : Nat) (parts : List (Nat × Nat × Nat)) (dest : LoadDest)
    (soft soft0 : Bool) : State :=
  let c := s.me
  { s.setMe { c with iss := c.iss + 1 } with
    loads := s.loads ++ [⟨s.fresh, s.tid, s.cur.id, c.iss, c.pc, space, key, parts, dest, soft, soft0, [], []⟩]
    fresh := s.fresh + 1 }

/-- A late fault of the issuing instruction's own access (R229, R403). -/
def State.lateHere (s : State) (code va iss : Nat) (next : Bool) : State :=
  s.addLate s.tid ⟨code, BitVec.ofNat 64 va, (s.ctx s.cur.id).pc, iss, [], next⟩

/-- The cells of the parts of a store that translate, up to the first that meets a late fault (R229, R238): the state with
the effects on the leaves, the cells, and that fault. -/
def placeParts (t : Task) (id space : Nat) : State → List (Nat × List Byte) → State × List Host.Cell × Option (Nat × Nat)
  | s, [] => (s, [], none)
  | s, (a, bs) :: ps =>
    match State.writePlaces t id space s (chunks a bs.length) with
    | .error e => (s, [], some e)
    | .ok (ls, s1) =>
      let r := placeParts t id space s1 ps
      (r.1, ls.zip bs ++ r.2.1, r.2.2)

/-- The narrowest scope of a plain access through a space (R358). -/
def plainScope (space : Nat) : Nat := if space = 3 ∨ space = 5 then 0 else 1

/-- A store enters the own buffer of the issuing context (R230, R358): the state with the write of `cells`, which belong to the chunks
`parts`. -/
def State.putWrite (s : State) (tid iss space key : Nat) (cells : List Host.Cell) (parts : List (Nat × Nat)) (whole : Bool) : State :=
  let c := s.ctx s.cur.id
  let w : Write :=
    ⟨s.fresh, tid, s.cur.id, iss, c.pc, 0, 0, key, cells, [], c.groups, plainScope space, some 0, s.time, parts, whole⟩
  { s with writes := s.writes ++ [w], fresh := s.fresh + 1 }

/-- A posted store: its data is read at issue and its write enters the own buffer (R230, R358). A late fault is recorded
at once (R229; DEDUCED, log entry 13); `whole` says that nothing is stored then. -/
def State.issueStore (s : State) (space key : Nat) (parts : List (Nat × List Byte)) (whole : Bool) : State :=
  match s.task with
  | none => s.done
  | some t =>
    let c := s.me
    let id := s.cur.id
    let tiles := if space = 5 then parts.map fun p => p.1 / 0x40000 else []
    let s0 := s.setMe { c with iss := c.iss + 1, touched := (c.touched ++ tiles).eraseDups }
    let s1 := parts.foldl (fun u p => u.tagGranules (coreOf id) t.func space p.1 p.2.length) s0
    let r := placeParts t id space s1 parts
    let at0 := parts.flatMap fun p => chunks p.1 p.2.length
    match r.2.2 with
    | some e =>
      if whole then s0.lateHere e.1 e.2 c.iss false
      else (r.1.putWrite t.tid c.iss space key r.2.1 at0 whole).lateHere e.1 e.2 c.iss false
    | none => r.1.putWrite t.tid c.iss space key r.2.1 at0 whole

/-! ### Scalar -/

/-- A scalar load of `size` bytes (R232). -/
def scalarLoad (size : Nat) (signed : Bool) (d : Fin 64) (k : Fin 32) (g : Fin 64) (i : Imm 7) (s : State) : Result :=
  if s.gp g then .next (s.trapPoison false g.val)
  else
    match s.loadCheck s.cur.id (s.me.kr k.val) memSpaces (s.offset g size i).toInt size pR size true with
    | .error e => .next (s.trapCap e)
    | .ok a => .next (s.issueLoad a.space a.key [(0, a.addr, size)] (.g d.val size signed) false false)

/-- A scalar store of the low `size` bytes of g(DATA) (R232, R236). -/
def scalarStore (size : Nat) (d : Fin 64) (k : Fin 32) (g : Fin 64) (i : Imm 7) (s : State) : Result :=
  if s.gp g then .next (s.trapPoison false g.val)
  else if s.gp d then .next (s.trapPoison false d.val)
  else
    match s.capCheck s.cur.id (s.me.kr k.val) memSpaces (s.offset g size i).toInt size pW size true true with
    | .error e => .next (s.trapCap e)
    | .ok a => .next (s.issueStore a.space a.key [(a.addr, leBytes size (s.gv d).toNat)] true)

/-- LD.i8 (R232). -/
def execLdI8 (d : Fin 64) (k : Fin 32) (g : Fin 64) (i : Imm 7) (s : State) : Result := scalarLoad 1 true d k g i s
/-- LD.n8 (R232). -/
def execLdN8 (d : Fin 64) (k : Fin 32) (g : Fin 64) (i : Imm 7) (s : State) : Result := scalarLoad 1 false d k g i s
/-- LD.i16 (R232). -/
def execLdI16 (d : Fin 64) (k : Fin 32) (g : Fin 64) (i : Imm 7) (s : State) : Result := scalarLoad 2 true d k g i s
/-- LD.n16 (R232). -/
def execLdN16 (d : Fin 64) (k : Fin 32) (g : Fin 64) (i : Imm 7) (s : State) : Result := scalarLoad 2 false d k g i s
/-- LD.i32 (R232). -/
def execLdI32 (d : Fin 64) (k : Fin 32) (g : Fin 64) (i : Imm 7) (s : State) : Result := scalarLoad 4 true d k g i s
/-- LD.n32 (R232). -/
def execLdN32 (d : Fin 64) (k : Fin 32) (g : Fin 64) (i : Imm 7) (s : State) : Result := scalarLoad 4 false d k g i s
/-- LD.i64 (R232). -/
def execLdI64 (d : Fin 64) (k : Fin 32) (g : Fin 64) (i : Imm 7) (s : State) : Result := scalarLoad 8 false d k g i s
/-- ST.i8 (R232). -/
def execStI8 (d : Fin 64) (k : Fin 32) (g : Fin 64) (i : Imm 7) (s : State) : Result := scalarStore 1 d k g i s
/-- ST.i16 (R232). -/
def execStI16 (d : Fin 64) (k : Fin 32) (g : Fin 64) (i : Imm 7) (s : State) : Result := scalarStore 2 d k g i s
/-- ST.i32 (R232). -/
def execStI32 (d : Fin 64) (k : Fin 32) (g : Fin 64) (i : Imm 7) (s : State) : Result := scalarStore 4 d k g i s
/-- ST.i64 (R232). -/
def execStI64 (d : Fin 64) (k : Fin 32) (g : Fin 64) (i : Imm 7) (s : State) : Result := scalarStore 8 d k g i s

/-- LDS: as LD.i64, but an access that would fault gives 0 with the poison tag set (R235). -/
def execLds (d : Fin 64) (k : Fin 32) (g : Fin 64) (i : Imm 7) (s : State) : Result :=
  match s.loadCheck s.cur.id (s.me.kr k.val) memSpaces (s.offset g 8 i).toInt 8 pR 8 true with
  | .error _ => .next (s.issueLoad 0 0 [(0, 0, 8)] (.g d.val 8 false) true true)
  | .ok a => .next (s.issueLoad a.space a.key [(0, a.addr, 8)] (.g d.val 8 false) true (s.gp g))

/-! ### Vector -/

/-- The 32-bit lanes that a mask selects (R234). -/
def lanes32 (m : Mask) : List Nat := (List.range 64).filter fun i => m.getLsbD i

/-- The bytes of lane `i` of a vector, in lanes of `n` bytes. -/
def laneBytes (n : Nat) (x : Vec) (i : Nat) : List Byte := leBytes n (elem (8 * n) x i)

/-- VLD: the selected lanes of 256 bytes (R234). -/
def execVld (d : Fin 64) (k : Fin 32) (g : Fin 64) (i : Imm 7) (s : State) : Result :=
  if s.gp g then .next (s.trapPoison false g.val)
  else
    match s.loadCheck s.cur.id (s.me.kr k.val) memSpaces (s.offset g 256 i).toInt 256 pR 64 true with
    | .error e => .next (s.trapCap e)
    | .ok a =>
      .next (s.issueLoad a.space a.key ((lanes32 s.me.top).map fun j => (4 * j, a.addr + 4 * j, 4)) (.v d.val) false false)

/-- VST: the bytes of the selected lanes (R234, R236). -/
def execVst (d : Fin 64) (k : Fin 32) (g : Fin 64) (i : Imm 7) (s : State) : Result :=
  if s.gp g then .next (s.trapPoison false g.val)
  else if (s.me.vr d.val).p then .next (s.trapPoison true d.val)
  else
    match s.capCheck s.cur.id (s.me.kr k.val) memSpaces (s.offset g 256 i).toInt 256 pW 64 true true with
    | .error e => .next (s.trapCap e)
    | .ok a =>
      let x := (s.me.vr d.val).v
      .next (s.issueStore a.space a.key ((lanes32 s.me.top).map fun j => (a.addr + 4 * j, laneBytes 4 x j)) true)

/-- VLDS: as VLD, but an access that would fault gives 0 in the selected lanes with the poison tag set (R235). -/
def execVlds (d : Fin 64) (k : Fin 32) (g : Fin 64) (i : Imm 7) (s : State) : Result :=
  match s.loadCheck s.cur.id (s.me.kr k.val) memSpaces (s.offset g 256 i).toInt 256 pR 64 true with
  | .error _ => .next (s.issueLoad 0 0 ((lanes32 s.me.top).map fun j => (4 * j, 4 * j, 4)) (.v d.val) true true)
  | .ok a =>
    .next (s.issueLoad a.space a.key ((lanes32 s.me.top).map fun j => (4 * j, a.addr + 4 * j, 4)) (.v d.val) true (s.gp g))

/-- The offset of lane `i` of a gather or scatter (R131, R238). -/
def laneOff (base : Word) (x : Vec) (w s c i : Nat) : Word :=
  base + BitVec.ofInt 64 (toInt (8 * 2 ^ w) (decide (s = 1)) (elem (8 * 2 ^ w) x i)) <<< c

/-- The checks of the selected lanes in ascending order; the first failure with the lane's offset (R238). -/
def laneChecks (check : Word → Except CapFault Acc) (off : Nat → Word) :
    List Nat → Except (Nat × Word) (List (Nat × Acc))
  | [] => .ok []
  | i :: is =>
    match check (off i) with
    | .error e => .error (e.code, off i)
    | .ok a =>
      match laneChecks check off is with
      | .error e => .error e
      | .ok r => .ok ((i, a) :: r)

/-- The selected lanes of `n` bytes: 64 of 4 bytes or 32 of 8 (R131). -/
def pickLanes (n : Nat) (m : Mask) : List Nat := (List.range (256 / n)).filter fun i => m.getLsbD i

/-- VLDX (R237, R238). (DEDUCED, log entry 40.) -/
def execVldx (d : Fin 64) (k : Fin 32) (x : Fin 64) (w : Fin 4) (sg : Fin 2) (c : Fin 8) (z : Fin 2) (l : Lit)
    (s : State) : Result :=
  let n := 4 * 2 ^ z.val
  if (s.me.vr x.val).p then .next (s.trapPoison true x.val)
  else
    let off := laneOff (litVal l) (s.me.vr x.val).v w.val sg.val c.val
    let check := fun o : Word => s.loadCheck s.cur.id (s.me.kr k.val) memSpaces o.toInt n pR n true
    match laneChecks check off (pickLanes n s.me.top) with
    | .error e => .next (s.trapLane e.1 e.2)
    | .ok as =>
      let cap := s.me.kr k.val
      .next (s.issueLoad cap.space cap.key (as.map fun p => (n * p.1, p.2.addr, n)) (.v d.val) false false)

/-- VSTX: the selected lanes in ascending order, up to the first that meets a late fault (R237, R238). -/
def execVstx (d : Fin 64) (k : Fin 32) (x : Fin 64) (w : Fin 4) (sg : Fin 2) (c : Fin 8) (z : Fin 2) (l : Lit)
    (s : State) : Result :=
  let n := 4 * 2 ^ z.val
  if (s.me.vr x.val).p then .next (s.trapPoison true x.val)
  else if (s.me.vr d.val).p then .next (s.trapPoison true d.val)
  else
    let off := laneOff (litVal l) (s.me.vr x.val).v w.val sg.val c.val
    let check := fun o : Word => s.capCheck s.cur.id (s.me.kr k.val) memSpaces o.toInt n pW n true true
    match laneChecks check off (pickLanes n s.me.top) with
    | .error e => .next (s.trapLane e.1 e.2)
    | .ok as =>
      let cap := s.me.kr k.val
      let y := (s.me.vr d.val).v
      .next (s.issueStore cap.space cap.key (as.map fun p => (p.2.addr, laneBytes n y p.1)) false)

/-! ### Masks and capabilities -/

/-- VLDM (R239). -/
def execVldm (d : Fin 8) (k : Fin 32) (g : Fin 64) (i : Imm 7) (s : State) : Result :=
  if s.gp g then .next (s.trapPoison false g.val)
  else
    match s.loadCheck s.cur.id (s.me.kr k.val) memSpaces (s.offset g 8 i).toInt 8 pR 8 true with
    | .error e => .next (s.trapCap e)
    | .ok a => .next (s.issueLoad a.space a.key [(0, a.addr, 8)] (.m d.val) false false)

/-- VSTM (R239). -/
def execVstm (d : Fin 8) (k : Fin 32) (g : Fin 64) (i : Imm 7) (s : State) : Result :=
  if s.gp g then .next (s.trapPoison false g.val)
  else
    match s.capCheck s.cur.id (s.me.kr k.val) memSpaces (s.offset g 8 i).toInt 8 pW 8 true true with
    | .error e => .next (s.trapCap e)
    | .ok a => .next (s.issueStore a.space a.key [(a.addr, leBytes 8 (Table.get 0 s.me.m d.val).toNat)] true)

/-- CLD (R240). -/
def execCld (d k : Fin 32) (g : Fin 64) (i : Imm 7) (s : State) : Result :=
  if s.gp g then .next (s.trapPoison false g.val)
  else
    match s.capCheck s.cur.id (s.me.kr k.val) [8] (s.offset g 16 i).toInt 16 pR 16 with
    | .error e => .next (s.trapCap e)
    | .ok a => .next (s.issueLoad a.space a.key [(0, a.addr, 16)] (.k d.val) false false)

/-- CST: 128 bits and the tag in one write (R240, R241). An untagged register stores zeros with the tag clear. -/
def execCst (d k : Fin 32) (g : Fin 64) (i : Imm 7) (s : State) : Result :=
  if s.gp g then .next (s.trapPoison false g.val)
  else
    let kb := s.me.kr k.val
    let x := s.me.kr d.val
    match s.capCheck s.cur.id kb [8] (s.offset g 16 i).toInt 16 (pW + pCAPST) 16 with
    | .error e => .next (s.trapCap e)
    | .ok a =>
      if kb.holds pGLOB && !x.holds pGLOB then .next (s.trap 0x12 0 s.slotBit)
      else
        let c := s.me
        let s0 := s.setMe { c with iss := c.iss + 1 }
        match s.task with
        | none => .next s.done
        | some t =>
          match State.writePlaces t s.cur.id 8 s0 (chunks a.addr 16) with
          | .error e => .next (s0.lateHere e.1 e.2 c.iss false)
          | .ok (ls, s1) =>
            let cells := ls.zip (leBytes 16 x.bits.toNat) ++ [(tagCell (ls.headD 0), BitVec.ofNat 8 x.tag.toNat)]
            .next (s1.putWrite t.tid c.iss 8 a.key cells [(a.addr, 16)] true)

/-! ### Translation locks -/

/-- The pages a range touches, by first address, with their leaves (R242). A page that has no leaf counts 4 KiB. -/
def State.pagesFrom (s : State) (func space : Nat) : Nat → Nat → Nat → List (Nat × Option Leaf)
  | 0, _, _ => []
  | fuel + 1, va, hi =>
    if hi ≤ va then []
    else
      match s.leaf func space va with
      | none => (va / 4096 * 4096, none) :: State.pagesFrom s func space fuel (va / 4096 * 4096 + 4096) hi
      | some l => (va / l.size * l.size, some l) :: State.pagesFrom s func space fuel (va / l.size * l.size + l.size) hi

/-- The pages of a range of `n` bytes. -/
def State.pages (s : State) (func space va n : Nat) : List (Nat × Option Leaf) :=
  s.pagesFrom func space (n / 4096 + 2) va (va + n)

/-- The populated pages among them, with their sizes. -/
def populatedPages (ps : List (Nat × Option Leaf)) : List (Nat × Nat) :=
  ps.filterMap fun p => match p.2 with
    | some l => if l.populated then some (p.1, l.size) else none
    | none => none

/-- The lockable entries that a TLOCK in progress on a context has been promised (R242). -/
def Ctx.promised (c : Ctx) : Nat :=
  (c.waits.map fun w =>
    match w with
    | .tlock _ _ _ ps => ps.length
    | _ => 0).sum

/-- The lockable entries of a core in use, those promised to a TLOCK in progress among them (R222, R223, R242). -/
def State.lockedEntries (s : State) (core : Nat) : Nat :=
  ((List.range 4).map fun j =>
    ((s.ctx (4 * core + j)).locks.map fun k => k.pages.length).sum + (s.ctx (4 * core + j)).promised).sum

/-- TLOCK: the checks and the precise 0x21; otherwise the context is HELD, with an entry promised to each populated page, until
TLOCK_COMPLETE fills them (R242). -/
def execTlock (k : Fin 32) (a b : Fin 64) (s : State) : Result :=
  if s.gp a then .next (s.trapPoison false a.val)
  else if s.gp b then .next (s.trapPoison false b.val)
  else
    let c := s.me.kr k.val
    let off := (s.gv a).toInt
    let len := (s.gv b).toNat
    if !c.tag then .next (s.trap 0x10 0 s.slotBit)
    else if ! [0, 1, 7, 8].contains c.space then .next (s.trap 0x13 0 s.slotBit)
    else if !c.holds pR && !c.holds pW then .next (s.trap 0x12 0 s.slotBit)
    else if off < 0 ∨ (c.len : Int) < off + len then .next (s.trap 0x11 (s.gv a) s.slotBit)
    else
      let ps := populatedPages (s.pages s.func c.space (c.base + off.toNat) len)
      if 32 < s.lockedEntries (coreOf s.cur.id) + ps.length ∨ 4 ≤ s.me.locks.length then .next (s.trap 0x21 (s.gv a) s.me.pc)
      else
        .next (s.setMe { s.me with
          wait := some (.tlock ⟨c.space, c.base + off.toNat, len, c.key⟩ s.me.iss s.me.pc ps), iss := s.me.iss + 1 })

/-- TUNLK: every locked range of the context that overlaps its range goes (R243); a range of an untranslated space, or of no bytes,
overlaps none. -/
def execTunlk (k : Fin 32) (a b : Fin 64) (s : State) : Result :=
  if s.gp a then .next (s.trapPoison false a.val)
  else if s.gp b then .next (s.trapPoison false b.val)
  else
    let c := s.me.kr k.val
    let lo := (c.base : Int) + (s.gv a).toInt
    let hi := lo + (s.gv b).toNat
    if !c.tag then .next (s.trap 0x10 0 s.slotBit)
    else
      .next (s.setMe { s.me with locks := s.me.locks.filter fun x =>
        !([0, 1, 7, 8].contains c.space && decide (rootSpace x.space = rootSpace c.space) && decide (lo < x.addr + x.len)
          && decide ((x.addr : Int) < hi) && decide (lo < hi) && decide (0 < x.len)) })

/-! ### Circular buffers -/

/-- COUNT, where 0 reads as 256 (R213). -/
def Handle.main (h : Handle) : Nat := if h.count = 0 then 256 else h.count
/-- Filled slots (R214). -/
def Handle.filled (h : Handle) : Nat := (h.pcnt + 2 ^ 16 - h.ccnt) % 2 ^ 16
/-- Capacity: main and lent slots (R214). -/
def Handle.cap (h : Handle) : Nat := h.main + (if h.loan then h.nov else 0)
/-- Free slots not reserved by a CPYCB: CAP − F − p (R214, R246). -/
def Handle.room (h : Handle) : Int := (h.cap : Int) - h.filled - h.p

/-- The address of the slot for a count (R214). -/
def Handle.addr (h : Handle) (c : Nat) : Nat :=
  let d := (c + 2 ^ 16 - h.gp) % 2 ^ 16
  if h.loan ∧ d < h.nov then 0x300000 + 0x8000 * h.unit + 64 * h.slot * d
  else
    let j := h.ofs + (if h.loan ∧ d < 2 ^ 15 then h.nov else 0)
    h.base + 64 * h.slot * (((c : Int) - j) % (h.main : Int)).toNat

/-- Slots named by an N8 field: 0 means 256 (R136). -/
def slotsOf (n : BitVec 8) : Nat := if n.toNat = 0 then 256 else n.toNat

/-- Whether a CPYCB of the context that names the handle is in the copy queue (R244). -/
def State.cbBusy (s : State) (id h : Nat) : Bool :=
  s.copies.any fun c => decide (c.ctx = id) && (match c.cb with | some p => decide (p.1 = h) | none => false)

/-- CBSET: configure or query, by bit 63 of g(GB) (R244). -/
def execCbset (h : Fin 16) (a b : Fin 64) (s : State) : Result :=
  let w := s.gv b
  let x := s.me.hr h.val
  if s.gp a && !w.getLsbD 63 then .next (s.trapPoison false a.val)
  else if s.gp b then .next (s.trapPoison false b.val)
  else if w.getLsbD 63 then
    if field w 61 16 ≠ 0 then .next (s.trapOpen 0x11 w)
    else
      let c := ((if w.getLsbD 62 then x.pcnt else x.ccnt) + field w 15 0) % 2 ^ 16
      .next (s.putG 1 a (BitVec.ofNat 64 (x.addr c)) false)
  else
    let base := (s.gv a).toNat
    let slot := field w 17 8
    let n := if field w 7 0 = 0 then 256 else field w 7 0
    if field w 62 18 ≠ 0 ∨ slot = 0 then .next (s.trapOpen 0x11 (s.gv a))
    else if base % 64 ≠ 0 then .next (s.trapOpen 0x14 (s.gv a))
    else if 0x300000 < base + 64 * slot * n then .next (s.trapOpen 0x11 (s.gv a))
    else if s.foreign (coreOf s.cur.id) s.func 3 base (64 * slot * n) then .next (s.trap 0x12 0 s.slotBit)
    else if s.cbBusy s.cur.id h.val then .next s.holdFull
    else .next (s.put 1 (.h h.val { slot := slot, count := field w 7 0, base := base }))

/-- The `n` slots of a handle from its consumer count on, as (address, length). -/
def Handle.oldest (h : Handle) (n : Nat) : List (Nat × Nat) :=
  (List.range n).map fun j => (h.addr ((h.ccnt + j) % 2 ^ 16), 64 * h.slot)

/-- The beats of a context that filled the oldest `n` slots of a handle are covered by a wait: they are in the cumulative set from
then on (R366). -/
def State.coverSlots (s : State) (id : Nat) (h : Handle) (n : Nat) : State :=
  let c := s.ctx id
  { s with writes := s.writes.map fun w =>
      if decide (w.ctx = id) && w.cover.isNone
          && (h.oldest n).any (fun p => w.cells.any fun x =>
            decide (flatOf (coreOf id) 3 p.1 ≤ x.1) && decide (x.1 < flatOf (coreOf id) 3 p.1 + p.2))
      then { w with cover := some c.iss } else w }

/-- CBWAIT.C: holds its context until F ≥ n (R246); it covers the beats that filled those slots (R366). -/
def execCbwaitC (h : Fin 16) (n : BitVec 8) (s : State) : Result :=
  if slotsOf n ≤ (s.me.hr h.val).filled then .next (s.coverSlots s.cur.id (s.me.hr h.val) (slotsOf n)).done
  else .next (s.holdFor (.cbC h.val (slotsOf n)))

/-- CBWAIT.P: holds its context until free − p ≥ n (R246). -/
def execCbwaitP (h : Fin 16) (n : BitVec 8) (s : State) : Result :=
  if (slotsOf n : Int) ≤ (s.me.hr h.val).room then .next s.done
  else .next (s.holdFor (.cbP h.val (slotsOf n)))

/-- CBADV.C: the pending loads of the context hold back later beats into the slots it frees, kept as (location, length) (R247). -/
def execCbadvC (h : Fin 16) (n : BitVec 8) (s : State) : Result :=
  if (s.me.hr h.val).filled < slotsOf n then .next (s.trapOpen 0x11 (BitVec.ofNat 64 (slotsOf n)))
  else
    let slots := ((s.me.hr h.val).oldest (slotsOf n)).map fun p => (flatOf (coreOf s.cur.id) 3 p.1, p.2)
    .next (State.put { s with loads := s.loads.map fun l =>
        if l.ctx = s.cur.id then { l with freed := l.freed ++ slots } else l } 1 (.hAdv h.val true (slotsOf n)))

/-- CBADV.P (R247). -/
def execCbadvP (h : Fin 16) (n : BitVec 8) (s : State) : Result :=
  if (s.me.hr h.val).room < slotsOf n then .next (s.trapOpen 0x11 (BitVec.ofNat 64 (slotsOf n)))
  else .next (s.put 1 (.hAdv h.val false (slotsOf n)))

end Sys2Proof.Machine
end

