-- ==== Sys2Proof/Machine/Scalar.lean ====
section
/-!
DEFINITION. The scalar instructions of the X and Y slots (R172–R182). Each reads its sources at issue; its result lands one
step later with the OR of its sources' poison tags (R158, R174). DIV, DIVN, REM and REMN are interlocked (R178).
-/

namespace Sys2Proof.Machine

/-- 1 where a relation holds, 0 otherwise (R179). -/
def flagWord (b : Bool) : Word := if b then 1 else 0

/-- A two-source scalar operation (R174). -/
def alu2 (f : Word → Word → Word) (d a b : Fin 64) (s : State) : Result :=
  .next (s.putG 1 d (f (s.gv a) (s.gv b)) (s.gp a || s.gp b))

/-- A one-source scalar operation (R174). -/
def alu1 (f : Word → Word) (d a : Fin 64) (s : State) : Result :=
  .next (s.putG 1 d (f (s.gv a)) (s.gp a))

/-- The leading zeros of an `n`-bit number (R180). -/
def leading : Nat → Nat → Nat
  | 0, _ => 0
  | n + 1, x => if x / 2 ^ n % 2 = 1 then 0 else 1 + leading n x

/-- The trailing zeros among `n` bits (R180). -/
def trailing : Nat → Nat → Nat
  | 0, _ => 0
  | n + 1, x => if x % 2 = 1 then 0 else 1 + trailing n (x / 2)

/-- The one bits among `n` bits (R180). -/
def ones : Nat → Nat → Nat
  | 0, _ => 0
  | n + 1, x => x % 2 + ones n (x / 2)

/-- Quotient and remainder: by zero all ones and the dividend; the one signed overflow the dividend and 0; else truncated
toward zero, the remainder with the sign of the dividend (R178). -/
def divide (signed : Bool) (a b : Word) : Word × Word :=
  if b = 0 then (BitVec.allOnes 64, a)
  else if signed then
    if a.toInt = -2 ^ 63 ∧ b.toInt = -1 then (a, 0)
    else (BitVec.ofInt 64 (a.toInt.tdiv b.toInt), BitVec.ofInt 64 (a.toInt.tmod b.toInt))
  else (BitVec.ofNat 64 (a.toNat / b.toNat), BitVec.ofNat 64 (a.toNat % b.toNat))

/-- A divide enters the divider with its result; it lands when DIVIDE_COMPLETE performs it (R160, R178). -/
def startDiv (d a b : Fin 64) (v : Word) (s : State) : Result :=
  .next { s.done with divs := s.divs ++ [⟨s.fresh, s.tid, s.cur.id, d.val, v, s.gp a || s.gp b, s.time + 40⟩], fresh := s.fresh + 1 }

/-- ADD: g(A) + g(B) (R175). -/
def execAdd (d a b : Fin 64) (s : State) : Result :=
  alu2 (fun x y => x + y) d a b s

/-- SUB: g(A) − g(B) (R175). -/
def execSub (d a b : Fin 64) (s : State) : Result :=
  alu2 (fun x y => x - y) d a b s

/-- AND: bitwise (R175). -/
def execAnd (d a b : Fin 64) (s : State) : Result :=
  alu2 (fun x y => x &&& y) d a b s

/-- OR: bitwise (R175). -/
def execOr (d a b : Fin 64) (s : State) : Result :=
  alu2 (fun x y => x ||| y) d a b s

/-- XOR: bitwise (R175). -/
def execXor (d a b : Fin 64) (s : State) : Result :=
  alu2 (fun x y => x ^^^ y) d a b s

/-- SHL: left by g(B)[5:0] (R176). -/
def execShl (d a b : Fin 64) (s : State) : Result :=
  alu2 (fun x y => x <<< (y.toNat % 64)) d a b s

/-- SHR: right by g(B)[5:0], zeros in (R176). -/
def execShr (d a b : Fin 64) (s : State) : Result :=
  alu2 (fun x y => x >>> (y.toNat % 64)) d a b s

/-- SAR: right by g(B)[5:0], bit 63 in (R176). -/
def execSar (d a b : Fin 64) (s : State) : Result :=
  alu2 (fun x y => x.sshiftRight (y.toNat % 64)) d a b s

/-- MUL: the low half of the product (R177). -/
def execMul (d a b : Fin 64) (s : State) : Result :=
  alu2 (fun x y => x * y) d a b s

/-- MULH: the high half of the signed product (R177). -/
def execMulh (d a b : Fin 64) (s : State) : Result :=
  alu2 (fun x y => BitVec.ofInt 64 (x.toInt * y.toInt / 2 ^ 64)) d a b s

/-- MULHN: the high half of the natural product (R177). -/
def execMulhn (d a b : Fin 64) (s : State) : Result :=
  alu2 (fun x y => BitVec.ofNat 64 (x.toNat * y.toNat / 2 ^ 64)) d a b s

/-- CMPEQ (R179). -/
def execCmpeq (d a b : Fin 64) (s : State) : Result :=
  alu2 (fun x y => flagWord (decide (x = y))) d a b s

/-- CMPNE (R179). -/
def execCmpne (d a b : Fin 64) (s : State) : Result :=
  alu2 (fun x y => flagWord (decide (x ≠ y))) d a b s

/-- CMPLT: signed (R179). -/
def execCmplt (d a b : Fin 64) (s : State) : Result :=
  alu2 (fun x y => flagWord (decide (x.toInt < y.toInt))) d a b s

/-- CMPLTN: natural (R179). -/
def execCmpltn (d a b : Fin 64) (s : State) : Result :=
  alu2 (fun x y => flagWord (decide (x.toNat < y.toNat))) d a b s

/-- CMPLE: signed (R179). -/
def execCmple (d a b : Fin 64) (s : State) : Result :=
  alu2 (fun x y => flagWord (decide (x.toInt ≤ y.toInt))) d a b s

/-- CMPLEN: natural (R179). -/
def execCmplen (d a b : Fin 64) (s : State) : Result :=
  alu2 (fun x y => flagWord (decide (x.toNat ≤ y.toNat))) d a b s

/-- MIN: the lesser as signed (R175). -/
def execMin (d a b : Fin 64) (s : State) : Result :=
  alu2 (fun x y => if x.toInt ≤ y.toInt then x else y) d a b s

/-- MAX: the greater as signed (R175). -/
def execMax (d a b : Fin 64) (s : State) : Result :=
  alu2 (fun x y => if x.toInt ≤ y.toInt then y else x) d a b s

/-- MINN: the lesser as natural (R175). -/
def execMinn (d a b : Fin 64) (s : State) : Result :=
  alu2 (fun x y => if x.toNat ≤ y.toNat then x else y) d a b s

/-- MAXN: the greater as natural (R175). -/
def execMaxn (d a b : Fin 64) (s : State) : Result :=
  alu2 (fun x y => if x.toNat ≤ y.toNat then y else x) d a b s

/-- ADDI: g(A) + imm (R175). -/
def execAddi (d a : Fin 64) (i : Imm 12) (s : State) : Result :=
  alu1 (fun x => (fun x y => x + y) x (immVal i)) d a s

/-- ANDI (R175). -/
def execAndi (d a : Fin 64) (i : Imm 12) (s : State) : Result :=
  alu1 (fun x => (fun x y => x &&& y) x (immVal i)) d a s

/-- ORI (R175). -/
def execOri (d a : Fin 64) (i : Imm 12) (s : State) : Result :=
  alu1 (fun x => (fun x y => x ||| y) x (immVal i)) d a s

/-- XORI (R175). -/
def execXori (d a : Fin 64) (i : Imm 12) (s : State) : Result :=
  alu1 (fun x => (fun x y => x ^^^ y) x (immVal i)) d a s

/-- CMPEQI (R179). -/
def execCmpeqi (d a : Fin 64) (i : Imm 12) (s : State) : Result :=
  alu1 (fun x => (fun x y => flagWord (decide (x = y))) x (immVal i)) d a s

/-- CMPLTI: signed (R179). -/
def execCmplti (d a : Fin 64) (i : Imm 12) (s : State) : Result :=
  alu1 (fun x => (fun x y => flagWord (decide (x.toInt < y.toInt))) x (immVal i)) d a s

/-- SHLI: left by the count (R176). -/
def execShli (d a c : Fin 64) (s : State) : Result :=
  alu1 (fun x => x <<< c.val) d a s

/-- SHRI: right by the count, zeros in (R176). -/
def execShri (d a c : Fin 64) (s : State) : Result :=
  alu1 (fun x => x >>> c.val) d a s

/-- SARI: right by the count, bit 63 in (R176). -/
def execSari (d a c : Fin 64) (s : State) : Result :=
  alu1 (fun x => x.sshiftRight c.val) d a s

/-- CLZ: leading zeros, 64 for 0 (R180). -/
def execClz (d a : Fin 64) (s : State) : Result :=
  alu1 (fun x => BitVec.ofNat 64 (leading 64 x.toNat)) d a s

/-- CTZ: trailing zeros, 64 for 0 (R180). -/
def execCtz (d a : Fin 64) (s : State) : Result :=
  alu1 (fun x => BitVec.ofNat 64 (trailing 64 x.toNat)) d a s

/-- POPC: one bits (R180). -/
def execPopc (d a : Fin 64) (s : State) : Result :=
  alu1 (fun x => BitVec.ofNat 64 (ones 64 x.toNat)) d a s

/-- SEXT: the low w bits sign-extended; the field holds w − 1 (R181). -/
def execSext (d a w : Fin 64) (s : State) : Result :=
  alu1 (fun x => BitVec.ofInt 64 (toInt (w.val + 1) true (x.toNat % 2 ^ (w.val + 1)))) d a s

/-- ZEXT: the low w bits zero-extended; the field holds w − 1 (R181). -/
def execZext (d a w : Fin 64) (s : State) : Result :=
  alu1 (fun x => BitVec.ofNat 64 (x.toNat % 2 ^ (w.val + 1))) d a s

/-- EXTR: bits [hi:lo] zero-extended (R181). -/
def execExtr (d a h o : Fin 64) (s : State) : Result :=
  alu1 (fun x => BitVec.ofNat 64 (x.toNat / 2 ^ o.val % 2 ^ (h.val + 1 - o.val))) d a s

/-- INSHI: the literal above the low half of g(A) (R182). -/
def execInshi (d a : Fin 64) (i : BitVec 32) (s : State) : Result :=
  alu1 (fun x => i ++ x.extractLsb' 0 32) d a s

/-- SEL: g(A) if g(C) ≠ 0, else g(B); poison of any of the three (R179). -/
def execSel (d a b c : Fin 64) (s : State) : Result :=
  .next (s.putG 1 d (if s.gv c ≠ 0 then s.gv a else s.gv b) (s.gp a || s.gp b || s.gp c))

/-- DIV: the signed quotient (R178). -/
def execDiv (d a b : Fin 64) (s : State) : Result :=
  startDiv d a b ((divide true (s.gv a) (s.gv b)).1) s

/-- DIVN: the natural quotient (R178). -/
def execDivn (d a b : Fin 64) (s : State) : Result :=
  startDiv d a b ((divide false (s.gv a) (s.gv b)).1) s

/-- REM: the signed remainder (R178). -/
def execRem (d a b : Fin 64) (s : State) : Result :=
  startDiv d a b ((divide true (s.gv a) (s.gv b)).2) s

/-- REMN: the natural remainder (R178). -/
def execRemn (d a b : Fin 64) (s : State) : Result :=
  startDiv d a b ((divide false (s.gv a) (s.gv b)).2) s

end Sys2Proof.Machine
end

