-- ==== Sys2Proof/Machine/Capability.lean ====
section
/-!
DEFINITION. The capability instructions of the X and Y slots (R183–R188). Results have latency 1; faults are precise.
-/

namespace Sys2Proof.Machine

/-- A capability with a new base and length, its other fields kept (R184). A base of exactly 2^57, which an empty range may have, does not fit its
57 bits and is taken as 0, which the spec does not say (DESIGN CHOICE, log entry 55). -/
def Cap.narrow (c : Cap) (base len : Nat) : Cap :=
  ⟨BitVec.ofNat 128 (c.bits.toNat / 2 ^ 96 * 2 ^ 96 + len * 2 ^ 57 + base % 2 ^ 57), true⟩

/-- A capability with PERM bits cleared where the mask has 0 (R185). -/
def Cap.maskPerm (c : Cap) (m : Nat) : Cap :=
  ⟨BitVec.ofNat 128 (c.bits.toNat / 2 ^ 116 * 2 ^ 116 + (c.perm &&& m) * 2 ^ 104 + c.bits.toNat % 2 ^ 104), true⟩

/-- A capability instruction raises poison: sr.tval2 holds the slot's header bit (R183, R196). -/
def State.trapPoisonK (s : State) (n : Nat) : State := s.trap 0x28 (BitVec.ofNat 64 n) s.slotBit

/-- CNARROW: a capability over a sub-range (R184). -/
def execCnarrow (d a : Fin 32) (b c : Fin 64) (s : State) : Result :=
  let k := s.me.kr a.val
  let off := (s.gv b).toInt
  let len := (s.gv c).toNat
  if s.gp b then .next (s.trapPoisonK b.val)
  else if s.gp c then .next (s.trapPoisonK c.val)
  else if !k.tag then .next (s.trap 0x10 0 s.slotBit)
  else if !k.holds pDERIVE then .next (s.trap 0x12 0 s.slotBit)
  else if off < 0 ∨ (k.len : Int) < off + len then .next (s.trap 0x11 (s.gv b) s.slotBit)
  else if k.space = 8 ∧ (off % 16 ≠ 0 ∨ len % 16 ≠ 0) then .next (s.trap 0x14 (s.gv b) s.slotBit)
  else if (2 ^ 57 : Int) < k.base + off + len then .next (s.trap 0x11 (s.gv b) s.slotBit)
  else .next (s.put 1 (.k d.val (k.narrow (k.base + off.toNat) len)))

/-- CPERM: permissions cleared, never set (R185). -/
def execCperm (d a : Fin 32) (m : BitVec 12) (s : State) : Result :=
  let k := s.me.kr a.val
  if !k.tag then .next (s.trap 0x10 0 s.slotBit)
  else if !k.holds pDERIVE then .next (s.trap 0x12 0 s.slotBit)
  else .next (s.put 1 (.k d.val (k.maskPerm m.toNat)))

/-- The field of a capability that CGET's selector names (R186). -/
def Cap.pick (k : Cap) (sel : Nat) : Nat :=
  match sel with
  | 0 => k.base
  | 1 => k.len
  | 2 => k.perm
  | 3 => k.key
  | 4 => k.space
  | _ => k.tag.toNat

/-- CGET: one field, zero-extended; the poison tag is cleared (R174, R186). -/
def execCget (d : Fin 64) (a : Fin 32) (sel : BitVec 12) (s : State) : Result :=
  .next (s.putG 1 d (BitVec.ofNat 64 ((s.me.kr a.val).pick sel.toNat)) false)

/-- CMOV: all 128 bits and the tag (R187). -/
def execCmov (d a : Fin 32) (s : State) : Result := .next (s.put 1 (.k d.val (s.me.kr a.val)))

/-- CCLR: the tag is cleared, and with it the bits (R183, R187). -/
def execCclr (d : Fin 32) (s : State) : Result := .next (s.put 1 (.k d.val {}))

/-- The outcome code of CCHK: tag, then bounds (R188). -/
def Cap.check (k : Cap) (off : Int) (size : Nat) : Word :=
  if !k.tag then 0x10 else if off < 0 ∨ (k.len : Int) < off + size then 0x11 else 0

/-- CCHK: the tag and bounds checks of an access, as a value (R188). -/
def execCchk (d : Fin 64) (a : Fin 32) (b c : Fin 64) (s : State) : Result :=
  .next (s.putG 1 d ((s.me.kr a.val).check (s.gv b).toInt (s.gv c).toNat) (s.gp b || s.gp c))

end Sys2Proof.Machine
end

