-- ==== Sys2Proof/Machine/Fetch.lean ====
section
/-!
DEFINITION. Fetching (R117–R119, R123, R189): code is read through the SPACE 0 tables, and under the memory key, of the function
that the task's image is loaded for (DEDUCED, log entry 14), one 64-byte line at a time.
-/

namespace Sys2Proof.Machine

/-- The function whose memory holds the code of a task: that of its loaded image, where there is one (DEDUCED, log entry 14). -/
def State.codeFunc (s : State) (t : Task) : Nat := (Table.find s.insts t.inst).elim t.func (·.func)

/-- The location of a code address; none where it cannot be fetched. -/
def State.codePlace (s : State) (func : Nat) (va : Nat) : Option Place :=
  match s.leaf func 0 va with
  | none => none
  | some l =>
    if !l.populated then some .zeros
    else if (s.frameFault func (l.flat 0 va)).isSome then none
    else some (.at (l.flat 0 va))

/-- A code byte at a place, decrypted under the function's memory key (R100, R203). -/
def State.codeByte (s : State) (func : Nat) (p : Option Nat) : Byte := s.seePlace chipViewer (1 + func) p

/-- The bytes from `va` to the end of its 64-byte line (R119). -/
def State.codeLine (s : State) (func va : Nat) : Option (List Byte) :=
  match s.codePlace func va with
  | none => none
  | some p => some ((spread p (64 - va % 64)).map (s.codeByte func))

/-- What fetching at an address gives: a decoded bundle, a fetch fault 0x03, or a decoding fault (R121). -/
inductive Fetched where
  | bundle (b : Bundle)
  | missing
  | bad (f : DecodeFault)
  deriving DecidableEq, Repr

/-- Fetch and decode the bundle at an address (R119, R121). -/
def State.fetch (s : State) (func : Nat) (delay : Bool) (va : Nat) : Fetched :=
  match s.codeLine func va with
  | none => .missing
  | some [] => .missing
  | some (h :: rest) =>
    match decodeBundle delay h rest with
    | .ok b => .bundle b
    | .error f => .bad f

/-- The length of slot words and literals, as far as the line gives their flags (R119, R189). -/
def slotsLen : List Nat → List Byte → Nat
  | [], _ => 0
  | _ :: bs, p :: q :: r :: s :: rest =>
    if (word32 p q r s).toNat < 2 ^ 31 then 4 + slotsLen bs rest else 8 + slotsLen bs (rest.drop 4)
  | _ :: bs, _ => 4 + slotsLen bs []

/-- The length of the bundle at an address, from its header and the literal flags of its slot words, whether or not it
would fault (R189); none where it cannot be fetched. -/
def State.bundleLen (s : State) (func va : Nat) : Option Nat :=
  match s.codeLine func va with
  | none => none
  | some [] => none
  | some (h :: rest) =>
    some (1 + slotsLen (headerBits h) rest)

end Sys2Proof.Machine
end

