-- ==== Sys2Proof/Machine/Control.lean ====
section
/-!
DEFINITION. The C-slot instructions that steer a task's own stream (R189–R197), iteration coordinates (R56, R57) and the
cluster's range arbiter (R78, R79).
-/

namespace Sys2Proof.Machine

/-- A control transfer is noted; it takes effect after its delay bundle (R122). -/
def State.branch (s : State) (taken : Bool) (target : Word) : State :=
  s.setMe { s.me with br := some ⟨taken, target, s.me.pc, false⟩ }

/-- The target of a C-B form: displacement from the branch bundle's header (R189). -/
def State.target (s : State) (d : Imm 18) : Word := s.me.pc + immVal d

/-- A conditional branch: poison is checked first (R190, R193). -/
def condBranch (test : Word → Bool) (g : Fin 64) (d : Imm 18) (s : State) : Result :=
  if s.gp g then .next (s.trapPoison false g.val) else .next (s.branch (test (s.gv g)) (s.target d))

/-- BR: always taken (R190). -/
def execBr (d : Imm 18) (s : State) : Result := .next (s.branch true (s.target d))
/-- BEQZ (R190). -/
def execBeqz (g : Fin 64) (d : Imm 18) (s : State) : Result := condBranch (fun x => decide (x = 0)) g d s
/-- BNEZ (R190). -/
def execBnez (g : Fin 64) (d : Imm 18) (s : State) : Result := condBranch (fun x => decide (x ≠ 0)) g d s
/-- BLTZ (R190). -/
def execBltz (g : Fin 64) (d : Imm 18) (s : State) : Result := condBranch (fun x => decide (x.toInt < 0)) g d s
/-- BGEZ (R190). -/
def execBgez (g : Fin 64) (d : Imm 18) (s : State) : Result := condBranch (fun x => decide (0 ≤ x.toInt)) g d s
/-- BGTZ (R190). -/
def execBgtz (g : Fin 64) (d : Imm 18) (s : State) : Result := condBranch (fun x => decide (0 < x.toInt)) g d s
/-- BLEZ (R190). -/
def execBlez (g : Fin 64) (d : Imm 18) (s : State) : Result := condBranch (fun x => decide (x.toInt ≤ 0)) g d s
/-- BMZ: taken when all 64 bits of the top of the mask stack are zero (R191). -/
def execBmz (d : Imm 18) (s : State) : Result := .next (s.branch (decide (s.me.top = 0)) (s.target d))

/-- The address after the branch bundle. -/
def State.after (s : State) : Word := s.me.pc + BitVec.ofNat 64 s.cur.len

/-- Whether the bytes of the next bundle have been fetched: it begins in the line of the issuing bundle, or in one that has come (R155,
R189). -/
def State.delayCame (s : State) : Bool :=
  decide (s.after.toNat / 64 = s.me.pc.toNat / 64) || s.me.lines.contains (s.after.toNat / 64)

/-- A transfer with a link: the address after the delay bundle, whose bytes must be fetched first: the bundle is HELD until they have come
(R189). A fetch that fails is precise at the branch bundle. -/
def linkBranch (d : Fin 64) (target : Word) (s : State) : Result :=
  match s.bundleLen (s.task.elim 0 s.codeFunc) s.after.toNat with
  | none => .next (s.trap 0x03 s.after s.me.pc)
  | some n =>
    if s.delayCame then .next ((s.branch true target).putG 1 d (s.after + BitVec.ofNat 64 n) false) else .next s.holdFull

/-- BL: always taken, with the link (R190). -/
def execBl (g : Fin 64) (d : Imm 18) (s : State) : Result := linkBranch g (s.target d) s
/-- JR: to the value of g(A) (R192, R193). -/
def execJr (a : Fin 64) (s : State) : Result :=
  if s.gp a then .next (s.trapPoison false a.val) else .next (s.branch true (s.gv a))
/-- JLR: to the value g(A) held at issue, with the link (R192, R193). A poisoned g(A) comes before a delay bundle that cannot be fetched, which
the spec does not order (DESIGN CHOICE, log entry 46). -/
def execJlr (d a : Fin 64) (s : State) : Result :=
  if s.gp a then .next (s.trapPoison false a.val) else linkBranch d (s.gv a) s

/-- The code and sr.tval that a TAIL leaves (R409, R419): a pending-fault record of the handler's frame, an undelivered late fault, or the
earliest loss or rejection that no fence has reported (R343, R349, R403). -/
def State.tailFault (s : State) (id : Nat) : Option (Nat × Word) :=
  let c := s.ctx id
  match (c.frame.bind (·.pf)).or c.late, s.firstReject s.tid 7 true, s.firstReject s.tid 7 false with
  | some l, _, _ => some (l.code, l.tval)
  | none, some x, _ => some (0x31, BitVec.ofNat 64 x.hoff)
  | none, none, some x => some (0x30, BitVec.ofNat 64 x.hoff)
  | none, none, none => none

/-- TAIL: the task ends (R169, R197), with the fault that it has still to report. It is HELD while the retirement tracker is full. -/
def execTail (s : State) : Result :=
  let c := s.ctx s.cur.id
  if s.trackerFull (coreOf s.cur.id) then .next s.holdFull
  else
    match s.tailFault s.cur.id with
    | some l => .next { s.retireTask s.cur.id l.1 c.pc l.2 true false true with cur := { s.cur with verdict := .ended } }
    | none => .next { s.retireTask s.cur.id 0 c.pc 0 false false true with cur := { s.cur with verdict := .ended } }

/-! ### Iterations -/

/-- The values a dimension takes (R56): max(0, ceil((HI − LO) / STEP)). -/
def Dim.count (d : Dim) : Nat := (-((d.lo - d.hi).fdiv d.step)).toNat

/-- The number of iterations: the product over the dimensions in use (R56). -/
def iterations (ds : List Dim) : Nat := ds.foldl (fun n d => n * d.count) 1

/-- The position along each dimension of a serial number, the innermost ORDER slot first (R57). -/
def positions (ds : List Dim) : List Nat → Nat → List (Nat × Nat)
  | [], _ => []
  | o :: os, n =>
    let c := (ds[o]?).elim 1 Dim.count
    (o, n % c) :: positions ds os (n / c)

/-- The value of g(d + 1) for a serial number: sext(LO + k × STEP, 33) shifted left (R57); 0 for a dimension not in use. -/
def coordinate (ds : List Dim) (order : List Nat) (serial d : Nat) : Word :=
  match ds[d]?, (positions ds order.reverse serial).find? fun p => decide (p.1 = d) with
  | some x, some p => (BitVec.ofInt 33 (x.lo + p.2 * x.step)).signExtend 64 <<< x.shift
  | _, _ => 0

/-- NEXT: the next serial of the task's range (R57, R79, R194). -/
def execNext (d : Fin 64) (s : State) : Result :=
  let c := s.me
  match c.task with
  | none => .next (s.putG 1 d 0 false)
  | some t =>
    if c.lo.toNat < c.hi.toNat then
      let n := c.lo.toNat
      let s1 := s.setMe { c with lo := c.lo + 1, task := some { t with iters := t.iters + 1 } }
      let s2 := s1.puts 1 [.g 1 (coordinate t.dims t.order n 0) false, .g 2 (coordinate t.dims t.order n 1) false,
        .g 3 (coordinate t.dims t.order n 2) false, .g 4 (coordinate t.dims t.order n 3) false, .g 6 c.lo false]
      .next (s2.putG 1 d 1 false)
    else .next (s.putG 1 d 0 false)

/-- The serials left to a context's task. -/
def Ctx.left (c : Ctx) : Nat := c.hi.toNat - c.lo.toNat

/-- The victim of a STEAL (R78): of the same launch, in the same cluster, not switched out, with at least two serials left;
the largest count, then the lowest core and context. -/
def pickVictim (launch cluster : Nat) : Table Ctx → Option (Nat × Nat) → Option (Nat × Nat)
  | [], best => best
  | (i, c) :: cs, best =>
    match c.task with
    | none => pickVictim launch cluster cs best
    | some t =>
      let ok := decide (t.launch = launch) && t.persist && decide (clusterOf (coreOf i) = cluster)
        && decide (c.preempt ≠ .out) && decide (2 ≤ c.left)
      match best with
      | none => pickVictim launch cluster cs (if ok then some (i, c.left) else none)
      | some b => pickVictim launch cluster cs (if ok && decide (b.2 < c.left) then some (i, c.left) else some b)

/-- STEAL: succeeds only for a persistent task with an empty range (R195). The cluster's range arbiter performs it after
every NEXT of the cycle (R79): the request is noted, with a result that waits for the answer at the end of the cycle. -/
def execSteal (d : Fin 64) (s : State) : Result :=
  match s.me.task with
  | none => .next (s.putG 1 d 0 false)
  | some t =>
    if t.persist ∧ s.me.lo = s.me.hi then
      .next (s.setMe { s.me with
        steal := some d.val, pend := s.me.pend ++ (if d.val = 0 then [] else [⟨s.me.step + 1, .flag d.val⟩]) })
    else .next (s.putG 1 d 0 false)

/-- The flag of a context's STEAL becomes the result that its place among those of its bundle gives it (R120, R195). -/
def Ctx.answered (c : Ctx) (w : Word) : Ctx :=
  { c with steal := none
           pend := c.pend.map fun r => match r.val with
             | .flag n => ⟨r.due, .g n w false⟩
             | _ => r }

/-- The range arbiter answers one STEAL (R78, R195): the victim keeps the lower half, rounded up. -/
def State.answerSteal (s : State) (id : Nat) : State :=
  let c := s.ctx id
  match c.steal, c.task with
  | some _, some t =>
    match pickVictim t.launch (clusterOf (coreOf id)) s.ctxs none with
    | none => s.setCtx id (c.answered 0)
    | some (v, r) =>
      let x := s.ctx v
      let mid := x.lo + BitVec.ofNat 64 ((r + 1) / 2)
      let s1 := s.setCtx id { c.answered 1 with lo := mid, hi := x.hi }
      s1.setCtx v { x with hi := mid }
  | _, _ => s.setCtx id { c with steal := none }

/-- CHK of a g register (R196). -/
def execChkG (a : Fin 64) (s : State) : Result :=
  if s.gp a then .next (s.trapPoison false a.val) else .next s.done
/-- CHK of a v register (R196). -/
def execChkV (a : Fin 64) (s : State) : Result :=
  if (s.me.vr a.val).p then .next (s.trapPoison true a.val) else .next s.done

/-- The empty bundle (R118). -/
def execNop (s : State) : Result := .next s.done
/-- A hint has no effect on level 1 (R145). -/
def execHint (_k : SlotKind) (_o : Fin 16) (_p : BitVec 24) (_l : Lit) (s : State) : Result := .next s.done

end Sys2Proof.Machine
end

