-- ==== Sys2Proof/Machine/System.lean ====
section
/-!
DEFINITION. The system and trap instructions of the C slot (R420–R433): TRAP, ERET, special registers, the feature list,
IDLE, DBRK, PRACK and MCRD.
-/

namespace Sys2Proof.Machine

/-- TRAP: the return PC is where execution would have continued; in the delay bundle of a taken transfer its target, with
DS clear, and a fetch fault there after the return is still one at the target of that transfer (R123, R424). -/
def execTrap (i : BitVec 12) (s : State) : Result :=
  let c := s.ctx s.cur.id
  let ret := match c.delay with
    | some b => if b.taken then b.target else s.after
    | none => s.after
  let off := match c.delay with
    | some b => if b.taken then some b.pc else none
    | none => none
  .next { (s.setCtx s.cur.id { c with fb := off, delay := none }).takeTrap s.cur.id
      ⟨0x50, false, false, false, false, i.setWidth 64, 0, ret, c.pc⟩ with
    cur := { s.cur with verdict := .trapped } }

/-- ERET: outside handler mode it raises 0x01 with its slot word; in handler mode the return follows its delay bundle
(R425). -/
def execEret (s : State) : Result :=
  if s.me.frame.isNone then .next (s.trap 0x01 0x10000000 s.slotBit)
  else .next (s.setMe { s.me with br := some ⟨false, 0, s.me.pc, true⟩ })

/-- The set bits of a 256-bit mask, lowest first. -/
def bitsOf (m : BitVec 256) : List Nat := (List.range 256).filter fun i => m.getLsbD i

/-- The wheel positions of a skein (R374): logical position j names the j-th lowest position of the partition's mask. -/
def State.wheelPositions (s : State) (t : Task) : List Nat :=
  match Table.find s.insts t.inst with
  | none => []
  | some i =>
    let ps := bitsOf (s.part t.l1).wheel
    (i.wheel.filter fun e => decide (e.2 = t.skein)).filterMap fun e => ps[e.1]?

/-- The current wheel position (R373). -/
def wheelPos (time : Nat) : Nat := time / 4 % 256

/-- The first position at or after the current one, wrapping (R375). -/
def nextPosition (pos : Nat) (ps : List Nat) : Nat :=
  match ps.filter fun p => decide (pos ≤ p) with
  | [] => ps.foldl min 256 % 256
  | qs => qs.foldl min 256 % 256

/-- sr.wheel (R375). -/
def State.wheelWord (s : State) (t : Task) : Word :=
  let ps := s.wheelPositions t
  BitVec.ofNat 64 (s.time / 1024 % 2 ^ 39 * 2 ^ 25 + wheelPos s.time * 2 ^ 17 + ps.length * 2 ^ 8
    + (if ps.isEmpty then 0 else nextPosition (wheelPos s.time) ps))

/-- sr.ctx (R152). -/
def ctxWord (id : Nat) : Word := BitVec.ofNat 64 (clusterOf (coreOf id) * 2 ^ 16 + coreOf id * 2 ^ 8 + id % 4)
/-- sr.part (R152). -/
def Task.partWord (t : Task) : Word := BitVec.ofNat 64 (t.func * 2 ^ 8 + t.expl.toNat * 2 ^ 7 + t.child * 2 ^ 4 + t.l1)

/-- The value of a special register (R421, R422). -/
def State.special (s : State) (n : Nat) : Word :=
  let c := s.me
  match n with
  | 0x000 => c.pc
  | 0x001 => c.cause
  | 0x002 => c.tval
  | 0x003 => c.tval2
  | 0x004 => c.mpc
  | 0x005 => c.fflags.setWidth 64
  | 0x006 => c.lo
  | 0x007 => c.hi
  | 0x008 => ctxWord s.cur.id
  | 0x009 => (match c.task with | some t => t.partWord | none => 0)
  | 0x00A => BitVec.ofNat 64 s.time
  | 0x00B => BitVec.ofNat 64 c.stack.length
  | 0x00C => (match c.task with | some t => s.wheelWord t | none => 0)
  | 0x00D => c.tcmp
  | 0x00E => c.ien.setWidth 64
  | 0x00F => c.ipend.setWidth 64
  | 0x010 => flagWord c.prq.isSome
  | n => (c.er (n - 0x20)).setWidth 64

/-- MFSR: the register's value with latency 1 and a clear poison tag (R422). -/
def execMfsr (d : Fin 64) (n : BitVec 12) (s : State) : Result := .next (s.putG 1 d (s.special n.toNat) false)

/-- What MTSR writes (R421, R423): sr.fflags, sr.tcmp, sr.ien, write-1-to-clear sr.ipend, and the peer registers. -/
def State.setSpecial (s : State) (n : Nat) (v : Word) : State :=
  let c := s.me
  match n with
  | 0x005 => s.setMe { c with fflags := v.setWidth 5 }
  | 0x00D => s.setMe { c with tcmp := v }
  | 0x00E => s.setMe { c with ien := v.setWidth 16 }
  | 0x00F => s.setMe { c with ipend := c.ipend &&& ~~~(v.setWidth 16) }
  | n => s.put 1 (.e (n - 0x20) (v.setWidth 13))

/-- MTSR: a poisoned source raises 0x28 (R423). -/
def execMtsr (a : Fin 64) (n : BitVec 12) (s : State) : Result :=
  if s.gp a then .next (s.trapPoison false a.val) else .next (s.setSpecial n.toNat (s.gv a))

/-- The contexts a function owns on a core (R84, R85): a level-1 partition those of its clusters, a child those of its
mask. -/
def Part.ownsCtx (p : Part) (id : Nat) : Bool :=
  if p.level = 0 then p.clusters.getLsbD (clusterOf (coreOf id)) else p.mask.getLsbD id

/-- The cores present in which a function owns a context (R2, R29). -/
def State.coresOf (s : State) (p : Part) : Nat :=
  ((List.range s.coreCount).filter fun n => (List.range 4).any fun j => p.ownsCtx (4 * n + j)).length

/-- The HBM channels of a level-1 partition that are present: a lost pair counts nowhere (R2, R29, R85, R446). -/
def State.channels (s : State) (p : Part) : Nat :=
  ((List.range 256).filter fun i => p.mask.getLsbD (256 + i) && !s.lostPairs.contains (i / 2)).length

/-- The ports that are up, and those of them that run x2 (R29, R348). -/
def State.portCount (s : State) (x2 : Bool) : Nat :=
  ((List.range s.portTotal).filter fun n =>
    let p := Table.get {} s.ports n
    p.up && (!x2 || p.x2)).length

/-- The feature list of the part in hand, as a function reads it, without entry 0: class, identifier, value (R28, R29). -/
def State.features (s : State) (func l1 : Nat) : List (Nat × Nat × Nat) :=
  let ch := 256 - 2 * s.lostPairs.length
  [(1, 1, 1), (1, 2, 1), (2, 1, s.coreCount), (2, 2, s.clusterCount), (2, 3, 4), (3, 1, ch), (3, 2, 2048 * ch), (3, 3, 16384),
   (4, 1, s.portCount false), (4, 2, s.portCount true), (5, 1, 0xFFF), (6, 1, 0x17C), (6, 2, 8), (7, 1, 256),
   (8, 1, s.coresOf (s.part func)), (8, 2, s.channels (s.part l1))]

/-- Entry `i` of the feature list, 0 at or beyond the count (R28). -/
def State.feature (s : State) (func l1 i : Nat) : Word :=
  let fs := s.features func l1
  let e := if i = 0 then some (1, 0, fs.length + 1) else fs[i - 1]?
  match e with
  | none => 0
  | some (c, d, v) => BitVec.ofNat 64 (c * 2 ^ 56 + d * 2 ^ 48 + v)

/-- FEATQ (R426). -/
def execFeatq (d a : Fin 64) (i : BitVec 12) (s : State) : Result :=
  let l1 := match s.task with | some t => t.l1 | none => 0
  .next (s.putG 1 d (s.feature s.func l1 (s.gv a + i.signExtend 64).toNat) (s.gp a))

/-- IDLE: holds the next bundle until a cause can be taken; no effect in handler mode or with a request open (R430). -/
def execIdle (s : State) : Result :=
  if s.me.frame.isSome || s.me.prq.isSome then .next s.done else .next (s.setMe { s.me with wait := some .idle })

/-- DBRK: with a debugger attached the context enters a debug stop before its next bundle (R431). -/
def execDbrk (i : BitVec 12) (s : State) : Result :=
  if s.me.dbg then .next (s.setMe { s.me with dbgStop := some i }) else .next s.done

/-- PRACK: with a request open the pre-emption is accepted at the boundary after its bundle (R432). -/
def execPrack (s : State) : Result :=
  if s.me.prq.isSome then .next (s.setMe { s.me with preempt := .requested }) else .next s.done

/-- MCRD: word `w` of a record of the partition's machine-check log, counted from the oldest held; 0 beyond (R433, R448).
The result is interlocked. -/
def execMcrd (d a : Fin 64) (w : BitVec 12) (s : State) : Result :=
  let l1 := match s.task with | some t => t.l1 | none => 0
  let v := match (s.part l1).mclog[(s.gv a).toNat]? with
    | none => 0
    | some r => BitVec.ofNat 64 (r.toNat / 2 ^ (64 * w.toNat))
  .next { s.done with
    loads := s.loads ++ [⟨s.fresh, s.tid, s.cur.id, s.me.iss, s.me.pc, 0, 0, [], .word d.val v (s.gp a), false, false, [], []⟩]
    fresh := s.fresh + 1 }

end Sys2Proof.Machine
end

