-- ==== Sys2Proof/Machine/Sync.lean ====
section
/-!
DEFINITION. The synchronisation instructions and atomics of the A slot (R381–R395): flags, barrier records, groups, fences,
atomics and the slot wheel. They enter the atomic unit at issue; ATOMIC_PERFORM and ASC_PERFORM perform them.
-/

namespace Sys2Proof.Machine

/-- The spaces of atomics, flags and barrier records (R199). -/
def atomSpaces : List Nat := [0, 1, 2, 3]

/-- The atomic unit takes 16 operations of a context (R155, R414). -/
def State.atomsFull (s : State) : Bool := decide (16 ≤ (s.atoms.filter fun a => decide (a.ctx = s.cur.id)).length)

/-- An operation enters the atomic unit, or its bundle is HELD for want of room; `locs` are its locations where it has been translated. A
.SPC atomic behind an access that has met a late fault is cancelled at once (R372). -/
def State.issueAtomAt (s : State) (a : Acc) (op : AtomOp) (x y : Word) (use scope : Nat) (dest : Option Nat)
    (asc : Bool) (locs : List Nat) : State :=
  let c := s.me
  if s.atomsFull then s.holdFull
  else if use = 5 ∧ c.late.isSome = true then s.setMe { c with iss := c.iss + 1 }
  else
    { s.setMe { c with iss := c.iss + 1, wait := if asc then some .asc else c.wait } with
      atoms := s.atoms ++
        [⟨s.fresh, s.tid, s.cur.id, c.iss, c.pc, a, op, x, y, use, scope, dest, asc, s.time, locs, none, s.cur.src⟩]
      fresh := s.fresh + 1 }

/-- An operation enters the atomic unit. -/
def State.issueAtom (s : State) (a : Acc) (op : AtomOp) (x y : Word) (use scope : Nat) (dest : Option Nat)
    (asc : Bool) : State := s.issueAtomAt a op x y use scope dest asc []

/-- The checks of an A-G instruction: poison of its block, then its capability (R381). -/
def blockCheck (k : Fin 32) (a : Fin 64) (n size perm : Nat) (s : State) (go : Acc → Result) : Result :=
  match s.me.firstPoison (block a n) with
  | some r => .next (s.trapPoison false r)
  | none =>
    match s.loadCheck s.cur.id (s.me.kr k.val) atomSpaces (s.blk a 0).toInt size perm size with
    | .error e => .next (s.trapCap e)
    | .ok x => go x

/-- FADD: a release that adds to a counting flag (R384). -/
def execFadd (k : Fin 32) (a : Fin 64) (sc : Fin 8) (s : State) : Result :=
  blockCheck k a 2 8 pFLAG s fun x => .next (s.issueAtom x .fadd (s.blk a 1) 0 0 sc.val none false)

/-- Whether an atomic that a context issued before `iss` names bytes of a range and is still to be performed. -/
def State.atomBefore (s : State) (ctx iss space addr n : Nat) : Bool :=
  s.atoms.any fun a => decide (a.ctx = ctx) && decide (a.iss < iss) && decide (rootSpace' a.a.space = rootSpace' space)
    && decide (a.a.addr < addr + n) && decide (addr < a.a.addr + a.a.size)

/-- The bytes that a wait of a context reads, and the writes it observes; or a late fault (R384, R388, R451). -/
def State.waitRead (s : State) (t : Task) (id : Nat) (a : Acc) (iss : Nat) : Except (Nat × Nat) (Nat × List Write) :=
  match s.readPlaces t id a.space [(a.addr, a.size)] with
  | .error e => .error e
  | .ok ls =>
    let v : Viewer := ⟨id, some (coreOf id), iss, 0⟩
    .ok (leNat (ls.map (s.seePlace v a.key)), s.observed v (ls.filterMap fun x => x))

/-- A wait whose access meets a late fault does not hold: the next bundle is the fault point (R451). -/
def State.waitLate (s : State) (id tid : Nat) (e : Nat × Nat) (iss : Nat) (pc : Word) : State :=
  State.addLate (s.setCtx id { s.ctx id with wait := none }) tid ⟨e.1, BitVec.ofNat 64 e.2, pc, iss, [], true⟩

/-- Whether a wait's read may be performed (R352, R362, R364, R372): no atomic of the context on its bytes and no acquire before it is
pending, no page request, no locked word. -/
def State.waitFree (s : State) (t : Task) (id : Nat) (a : Acc) (iss : Nat) : Bool :=
  !s.atomBefore id iss a.space a.addr a.size && !s.hostWaits t.func a.space a.addr a.size
    && !s.acquirePending id iss
    && match s.readPlaces t id a.space [(a.addr, a.size)] with
      | .ok ls => !s.spcLocked (ls.filterMap fun x => x)
      | .error _ => true

/-- The read that ends a wait takes a memory token where its bytes lie in HBM (R87; DEDUCED, log entry 26): the state, and whether it has
one. -/
def State.waitPay (s : State) (t : Task) (id : Nat) (a : Acc) : State × Bool :=
  match s.readPlaces t id a.space [(a.addr, a.size)] with
  | .error _ => (s, true)
  | .ok ls =>
    if hbmTokens (ls.filterMap fun x => x) = 0 then (s, true)
    else
      match s.take t.func .memory with
      | some u => (u.waitOver (requestNo 0 id) t.func, true)
      | none => (s.tokenWait (requestNo 0 id) t.func .memory 1, false)

/-- The read of a FWAIT (R384): at or above the value, it is performed as an acquire (R364) and the wait is over; a late fault ends the
wait too (R451). -/
def State.tryFlag (s : State) (t : Task) (id : Nat) (a : Acc) (v : Word) (iss : Nat) (pc : Word) : State :=
  match s.waitRead t id a iss with
  | .error e => s.waitLate id t.tid e iss pc
  | .ok (x, ws) =>
    if v.toNat ≤ x then
      match s.waitPay t id a with
      | (s1, false) => s1
      | (s1, true) =>
        State.setCtx (State.prepareReads t id a.space s1 [(a.addr, a.size)]) id
          ({ s.ctx id with wait := none }.observe ws 5 iss)
    else s

/-- FWAIT: holds the next bundle until the flag reaches the value; one whose value is 0 completes at once, unless its read must wait
(R383, R384). -/
def execFwait (k : Fin 32) (a : Fin 64) (sc : Fin 8) (s : State) : Result :=
  blockCheck k a 2 8 pFLAG s fun x =>
    let s1 := s.setMe { s.me with wait := some (.fwait x (s.blk a 1) sc.val s.me.iss s.me.pc), iss := s.me.iss + 1 }
    match s.task with
    | none => .next s1
    | some t =>
      if s.blk a 1 = 0 ∧ s.waitFree t s.cur.id x s.me.iss = true then .next (s1.tryFlag t s.cur.id x 0 s.me.iss s.me.pc)
      else .next s1

/-- A barrier or group case, 0x58 with its reason (R168, R389). -/
def State.trapGroup (s : State) (reason : Nat) : State := s.trapOpen 0x58 (BitVec.ofNat 64 reason)

/-- BINIT (R388); a count above 2^24 − 1 raises 0x58, reason 5 (R389). -/
def execBinit (k : Fin 32) (a : Fin 64) (sc : Fin 8) (s : State) : Result :=
  blockCheck k a 2 16 pATOM s fun x =>
    if 2 ^ 24 ≤ (s.blk a 1).toNat then .next (s.trapGroup 5)
    else .next (s.issueAtom x .binit (s.blk a 1) 0 0 sc.val none false)

/-- BARRIVE (R388). -/
def execBarrive (k : Fin 32) (a : Fin 64) (sc : Fin 8) (s : State) : Result :=
  blockCheck k a 1 16 pATOM s fun x => .next (s.issueAtom x .barrive 0 0 0 sc.val none false)

/-- Whether a BARRIVE of the context to a record is still to be performed: its latch entry is to come. -/
def State.arriving (s : State) (tid : Nat) (x : Acc) : Bool :=
  s.atoms.any fun a => decide (a.tid = tid) && decide (a.op = .barrive) && decide (a.a.where = x.where)

/-- BWAIT: holds the next bundle until GEN has changed or ABORTED is set (R383, R388); without a latch entry for the record
it raises 0x58, reason 6 (R389). It is HELD while the context's own BARRIVE is still to fill the entry (DEDUCED, log entry 22). -/
def execBwait (k : Fin 32) (a : Fin 64) (sc : Fin 8) (s : State) : Result :=
  blockCheck k a 1 16 pATOM s fun x =>
    if s.arriving s.tid x then .next s.holdFull
    else
      match s.me.arrive.find? fun p => decide (p.1 = x.where) with
      | none => .next (s.trapGroup 6)
      | some p => .next (s.setMe { s.me with wait := some (.bwait x p.2 sc.val s.me.iss s.me.pc), iss := s.me.iss + 1 })

/-- BABORT (R388). -/
def execBabort (k : Fin 32) (a : Fin 64) (sc : Fin 8) (s : State) : Result :=
  blockCheck k a 1 16 pATOM s fun x => .next (s.issueAtom x .babort 0 0 0 sc.val none false)

/-! ### Groups -/

/-- The group slots of a level-1 partition: 64 for each cluster it owns (R165). -/
def State.groupSlots (s : State) (l1 : Nat) : Nat :=
  64 * ((List.range nClusters).filter fun i => (s.part l1).clusters.getLsbD i).length

/-- The group slot bound to a record, by location (R165). -/
def groupAt (l1 addr : Nat) : Table Group → Option (Nat × Group)
  | [] => none
  | (i, g) :: gs => if g.l1 = l1 ∧ g.addr = addr then some (i, g) else groupAt l1 addr gs

/-- The group slot that an unbound record takes: one that is bound to no record (R165, R166). -/
def freeSlot (gs : Table Group) : Nat := gs.foldr (fun p n => max n (p.1 + 1)) 0

/-- The group slot that an instruction names by its record: by location, or, where the record has none, the slot that the context
is a member of under that address (R165, R451). -/
def State.groupFor (s : State) (t : Task) (x : Acc) (loc : Option Nat) : Option (Nat × Group) :=
  match loc with
  | some f => groupAt t.l1 f s.groups
  | none => s.groups.find? fun p => p.2.members.contains (s.cur.id, t.tid) && decide (p.2.acc.where = x.where)

/-- Why a GJOIN is refused (R168): already a member, a fifth membership, no slot free. (DEDUCED, log entry 41.) -/
def State.joinReason (s : State) (t : Task) (g : Option (Nat × Group)) : Option Nat :=
  match g with
  | some p =>
    if p.2.members.contains (s.cur.id, t.tid) then some 3 else if 4 ≤ s.me.groups.length then some 2 else none
  | none =>
    if s.groupSlots t.l1 ≤ (s.groups.filter fun p => decide (p.2.l1 = t.l1)).length then some 1
    else if 4 ≤ s.me.groups.length then some 2 else none

/-- A record's access meets a late fault: nothing else comes about, and the fault waits for the next fault point (R451). -/
def State.lateRecord (s : State) (e : Nat × Nat) : State :=
  State.lateHere (s.setMe { s.me with iss := s.me.iss + 1 }) e.1 e.2 s.me.iss false

/-- The context becomes a member of group slot `i`, whose record a queued operation updates (R166, R390). -/
def State.joinGroup (s : State) (t : Task) (x : Acc) (locs : List Nat) (i : Nat) (g : Option Group) : State :=
  let s1 := s.issueAtomAt x (if g.isSome then .gjoin else .gcreate) 0 0 0 2 none false locs
  let s2 := s1.setMe { s1.me with groups := s1.me.groups ++ [i] }
  let g1 : Group := g.getD ⟨t.l1, locs.headD 0, x, [], false⟩
  { s2 with groups := Table.set s2.groups i { g1 with members := g1.members ++ [(s.cur.id, t.tid)] } }

/-- GJOIN (R166, R168, R390, R451): the precise checks, then the access; the membership changes at issue, the record in the atomic
unit. A record bound to a DRAINING slot holds the context. -/
def execGjoin (k : Fin 32) (a : Fin 64) (s : State) : Result :=
  blockCheck k a 1 16 pATOM s fun x =>
    match s.task with
    | none => .next s.done
    | some t =>
      if s.hostWaits t.func x.space x.addr 16 || s.atomsFull then .next s.holdFull
      else
        match State.writePlaces t s.cur.id x.space s [(x.addr, 16)] with
        | .error e =>
          match s.joinReason t (s.groupFor t x none) with
          | some r => .next (s.trapGroup r)
          | none => .next (s.lateRecord e)
        | .ok (ls, s1) =>
          let g := s.groupFor t x ls.head?
          if g.any fun p => p.2.draining then .next s.holdFull
          else
            match s.joinReason t g, g with
            | some r, _ => .next (s.trapGroup r)
            | none, some p => .next (s1.joinGroup t x ls p.1 (some p.2))
            | none, none => .next (s1.joinGroup t x ls (freeSlot s1.groups) none)

/-- GLEAVE (R166, R168, R390, R451). -/
def execGleave (k : Fin 32) (a : Fin 64) (s : State) : Result :=
  blockCheck k a 1 16 pATOM s fun x =>
    match s.task with
    | none => .next s.done
    | some t =>
      if s.hostWaits t.func x.space x.addr 16 || s.atomsFull then .next s.holdFull
      else
        let member := fun (g : Option (Nat × Group)) => g.any fun p => p.2.members.contains (s.cur.id, t.tid)
        match State.writePlaces t s.cur.id x.space s [(x.addr, 16)] with
        | .error e =>
          if member (s.groupFor t x none) then .next (s.lateRecord e) else .next (s.trapGroup 4)
        | .ok (ls, s1) =>
          match s.groupFor t x ls.head? with
          | none => .next (s.trapGroup 4)
          | some p =>
            if member (some p) then
              let c := s.me
              .next ((s1.setMe { c with iss := c.iss + 1 }).leaveGroup s.cur.id t.tid c.iss c.pc false ls p.1)
            else .next (s.trapGroup 4)

/-! ### Fences -/

/-- Whether everything a FENCE at a scope waits for has come about (R370). -/
def State.fenceReady (s : State) (id scope : Nat) : Bool :=
  (s.cumulative id (s.ctx id).iss (min scope 2)).all (s.visibleAt scope)
    && !(s.atoms.any fun a => decide (a.ctx = id))
    && !(s.copies.any fun c => decide (c.ctx = id))
    && !((s.core (coreOf id)).queue.any fun e => decide (e.ctx = id))
    && !(s.outs.any fun o => decide (o.op.ctx = id) && decide (o.op.scope ≤ scope))

/-- A late fault reported at a context's next bundle, a fault point (R402, R403). -/
def State.lateAt (s : State) (id code : Nat) (tval tval2 : Word) : State :=
  s.takeTrap id ((s.ctx id).precise code tval tval2 true)

/-- The rejections, or losses, that a FENCE at a scope has not reported (R343, R349, R391). -/
def State.rejectsBut (s : State) (tid scope : Nat) (lost : Bool) : List Reject :=
  s.rejects.filter fun x => !(decide (x.tid = tid) && decide (x.scope ≤ scope) && decide (x.lost = lost))

/-- The fault that a complete FENCE delivers: the late fault, then 0x31, then 0x30 (R391); what it reports is cleared. -/
def State.fenceFault (s : State) (id tid scope : Nat) : Option State :=
  match (s.ctx id).late with
  | some l => some (State.lateAt (s.setCtx id { s.ctx id with late := none }) id l.code l.tval l.tval2)
  | none =>
    match s.firstReject tid scope true, s.firstReject tid scope false with
    | some r, _ =>
      some (State.lateAt { s with rejects := s.rejectsBut tid scope true } id 0x31 (BitVec.ofNat 64 r.hoff)
        (BitVec.ofNat 64 r.rank))
    | none, some r =>
      some (State.lateAt { s with rejects := s.rejectsBut tid scope false } id 0x30 (BitVec.ofNat 64 r.hoff)
        (BitVec.ofNat 64 r.rank))
    | none, none => none

/-- FENCE: completes as R370 states, or holds its context; then it is a fault point (R391). -/
def execFence (sc : Fin 8) (s : State) : Result :=
  let id := s.cur.id
  if !s.fenceReady id sc.val then .next (s.holdFor (.fence sc.val))
  else
    match s.fenceFault id s.tid sc.val with
    | some s1 => .next { s1 with cur := { s.cur with verdict := .trapped } }
    | none => .next (s.coverWrites id s.me.iss).done

/-- Whether every earlier operation of the queues named in QSET has been performed (R371, R372). -/
def State.queuesDone (s : State) (id q : Nat) : Bool :=
  (decide (q % 2 = 0) || !(s.copies.any fun c => decide (c.ctx = id)))
    && (decide (q / 2 % 2 = 0) || !((s.core (coreOf id)).queue.any fun e => decide (e.ctx = id)))
    && (decide (q / 4 % 2 = 0) || (s.ctx id).land.pend.isEmpty)
    && ((List.range 16).all fun i => decide (q / 2 ^ (3 + i) % 2 = 0)
        || !(s.outs.any fun o => decide (o.op.ctx = id) && decide (o.op.peer = i)))
    && !(s.atoms.any fun a => decide (a.ctx = id) && decide (a.use = 4))

/-- A QFENCE has waited for the beats of the copy queue, or the XACCs of the matrix queue, that it names: they are in the
cumulative set from then on (R366, R371). -/
def State.coverQueues (s : State) (ctx iss q : Nat) : State :=
  { s with writes := s.writes.map fun w =>
      let named := if w.inTile then decide (q / 2 % 2 = 1) else decide (q % 2 = 1)
      if w.ctx = ctx ∧ w.iss < iss ∧ w.cover = none ∧ named then { w with cover := some iss } else w }

/-- QFENCE: completes as R371 states, or holds its context (R392). -/
def execQfence (q : BitVec 19) (s : State) : Result :=
  if s.queuesDone s.cur.id q.toNat then .next (s.coverQueues s.cur.id s.me.iss q.toNat).done
  else .next (s.holdFor (.qfence q.toNat))

/-! ### Atomics -/

/-- cap_check of an atomic (R210, R393): one that reads its location delivers no sealed line (R205); AST and ASC.ST only write.
(DEDUCED, log entry 40.) -/
def State.atomCheck (s : State) (c : Cap) (off : Int) (n perm : Nat) (op : AtomOp) : Except CapFault Acc :=
  if op = .ast then s.capCheck s.cur.id c atomSpaces off n perm n else s.loadCheck s.cur.id c atomSpaces off n perm n

/-- An atomic in format A-AT (R393, R394): poison of the operand registers in field order, then cap_check. -/
def atomic (op : AtomOp) (perm : Nat) (reads : List Nat) (dest : Option Nat) (x y : Word) (k : Fin 32) (a : Fin 64)
    (use scope : Nat) (z : Fin 2) (asc : Bool) (l : Lit) (s : State) : Result :=
  let n := if z.val = 1 then 4 else 8
  match s.me.firstPoison reads with
  | some r => .next (s.trapPoison false r)
  | none =>
    match s.atomCheck (s.me.kr k.val) (s.gv a + litVal l).toInt n perm op with
    | .error e => .next (s.trapCap e)
    | .ok p => .next (s.issueAtom p op x y use scope dest asc)

/-- A returning atomic writes gd, unless its USE is .COM (R394). -/
def returns (d : Fin 64) (use : Fin 8) : Option Nat := if use.val = 2 then none else some d.val

/-- ALD: an acquire (R393). -/
def execAld (d : Fin 64) (k : Fin 32) (a : Fin 64) (sc : Fin 8) (z : Fin 2) (l : Lit) (s : State) : Result :=
  atomic .ald pR [a.val] (some d.val) 0 0 k a 0 sc.val z false l s
/-- AST: a release (R393). -/
def execAst (d : Fin 64) (k : Fin 32) (a : Fin 64) (sc : Fin 8) (z : Fin 2) (l : Lit) (s : State) : Result :=
  atomic .ast pW [d.val, a.val] none (s.gv d) 0 k a 0 sc.val z false l s
/-- AADD (R393). -/
def execAadd (d : Fin 64) (k : Fin 32) (a : Fin 64) (u sc : Fin 8) (z : Fin 2) (l : Lit) (s : State) : Result :=
  atomic .add pATOM [d.val, a.val] (returns d u) (s.gv d) 0 k a u.val sc.val z false l s
/-- AAND (R393). -/
def execAand (d : Fin 64) (k : Fin 32) (a : Fin 64) (u sc : Fin 8) (z : Fin 2) (l : Lit) (s : State) : Result :=
  atomic .and pATOM [d.val, a.val] (returns d u) (s.gv d) 0 k a u.val sc.val z false l s
/-- AOR (R393). -/
def execAor (d : Fin 64) (k : Fin 32) (a : Fin 64) (u sc : Fin 8) (z : Fin 2) (l : Lit) (s : State) : Result :=
  atomic .or pATOM [d.val, a.val] (returns d u) (s.gv d) 0 k a u.val sc.val z false l s
/-- AXOR (R393). -/
def execAxor (d : Fin 64) (k : Fin 32) (a : Fin 64) (u sc : Fin 8) (z : Fin 2) (l : Lit) (s : State) : Result :=
  atomic .xor pATOM [d.val, a.val] (returns d u) (s.gv d) 0 k a u.val sc.val z false l s
/-- AMIN: signed (R393). -/
def execAmin (d : Fin 64) (k : Fin 32) (a : Fin 64) (u sc : Fin 8) (z : Fin 2) (l : Lit) (s : State) : Result :=
  atomic .min pATOM [d.val, a.val] (returns d u) (s.gv d) 0 k a u.val sc.val z false l s
/-- AMAX: signed (R393). -/
def execAmax (d : Fin 64) (k : Fin 32) (a : Fin 64) (u sc : Fin 8) (z : Fin 2) (l : Lit) (s : State) : Result :=
  atomic .max pATOM [d.val, a.val] (returns d u) (s.gv d) 0 k a u.val sc.val z false l s
/-- AMINN: natural (R393). -/
def execAminn (d : Fin 64) (k : Fin 32) (a : Fin 64) (u sc : Fin 8) (z : Fin 2) (l : Lit) (s : State) : Result :=
  atomic .minn pATOM [d.val, a.val] (returns d u) (s.gv d) 0 k a u.val sc.val z false l s
/-- AMAXN: natural (R393). -/
def execAmaxn (d : Fin 64) (k : Fin 32) (a : Fin 64) (u sc : Fin 8) (z : Fin 2) (l : Lit) (s : State) : Result :=
  atomic .maxn pATOM [d.val, a.val] (returns d u) (s.gv d) 0 k a u.val sc.val z false l s
/-- AXCHG (R393). -/
def execAxchg (d : Fin 64) (k : Fin 32) (a : Fin 64) (u sc : Fin 8) (z : Fin 2) (l : Lit) (s : State) : Result :=
  atomic .xchg pATOM [d.val, a.val] (returns d u) (s.gv d) 0 k a u.val sc.val z false l s
/-- AMAXRS: read and reset (R393, R378). -/
def execAmaxrs (d : Fin 64) (k : Fin 32) (a : Fin 64) (u sc : Fin 8) (z : Fin 2) (l : Lit) (s : State) : Result :=
  atomic .maxrs pATOM [d.val, a.val] (returns d u) (s.gv d) 0 k a u.val sc.val z false l s
/-- ACAS: the new value comes from g(GD + 1) (R142, R393). -/
def execAcas (d : Fin 64) (k : Fin 32) (a : Fin 64) (u sc : Fin 8) (z : Fin 2) (l : Lit) (s : State) : Result :=
  atomic .cas pATOM [d.val, a.val, d.val + 1] (returns d u) (s.gv d) (s.me.gr (d.val + 1)).v k a u.val sc.val z false l s

/-- An ASC (R376, R395): a task whose skein holds no wheel position raises 0x12; the context holds until it is performed. -/
def ascOp (op : AtomOp) (reads : List Nat) (dest : Option Nat) (x y : Word) (k : Fin 32) (a : Fin 64) (z : Fin 2) (l : Lit)
    (s : State) : Result :=
  let n := if z.val = 1 then 4 else 8
  match s.me.firstPoison reads with
  | some r => .next (s.trapPoison false r)
  | none =>
    match s.atomCheck (s.me.kr k.val) (s.gv a + litVal l).toInt n pATOM op with
    | .error e => .next (s.trapCap e)
    | .ok p =>
      if (s.task.elim [] s.wheelPositions).isEmpty then .next (s.trapOpen 0x12 0)
      else .next (s.issueAtom p op x y 0 2 dest true)

/-- ASC.ADD (R395). -/
def execAscAdd (d : Fin 64) (k : Fin 32) (a : Fin 64) (z : Fin 2) (l : Lit) (s : State) : Result :=
  ascOp .add [d.val, a.val] (some d.val) (s.gv d) 0 k a z l s
/-- ASC.XCHG (R395). -/
def execAscXchg (d : Fin 64) (k : Fin 32) (a : Fin 64) (z : Fin 2) (l : Lit) (s : State) : Result :=
  ascOp .xchg [d.val, a.val] (some d.val) (s.gv d) 0 k a z l s
/-- ASC.CAS (R395). -/
def execAscCas (d : Fin 64) (k : Fin 32) (a : Fin 64) (z : Fin 2) (l : Lit) (s : State) : Result :=
  ascOp .cas [d.val, a.val, d.val + 1] (some d.val) (s.gv d) (s.me.gr (d.val + 1)).v k a z l s
/-- ASC.LD: returns the value and writes nothing (R395). -/
def execAscLd (d : Fin 64) (k : Fin 32) (a : Fin 64) (z : Fin 2) (l : Lit) (s : State) : Result :=
  ascOp .ald [a.val] (some d.val) 0 0 k a z l s
/-- ASC.ST: writes g(GD) and returns nothing (R395). -/
def execAscSt (d : Fin 64) (k : Fin 32) (a : Fin 64) (z : Fin 2) (l : Lit) (s : State) : Result :=
  ascOp .ast [d.val, a.val] none (s.gv d) 0 k a z l s
/-- ASC.MAX: signed maximum (R395). -/
def execAscMax (d : Fin 64) (k : Fin 32) (a : Fin 64) (z : Fin 2) (l : Lit) (s : State) : Result :=
  ascOp .max [d.val, a.val] (some d.val) (s.gv d) 0 k a z l s

end Sys2Proof.Machine
end

