-- ==== Sys2Proof/Machine/Copy.lean ====
section
/-!
DEFINITION. The copies of the A slot (R248–R253, R217): their checks at issue and the beats they are cut into. COPY_BEAT
performs them.
-/

namespace Sys2Proof.Machine

/-- The spaces of a copy's source (R199). -/
def copySources : List Nat := [0, 1, 2, 3, 5, 7]
/-- The spaces of a copy's destination (R199). -/
def copyTargets : List Nat := [0, 1, 2, 3, 4, 7]

/-- One row of a copy: source offset, destination offset, length (R251). -/
structure Row where
  src : Word
  dst : Word
  len : Nat
  deriving DecidableEq, Repr

/-- Whether some line of a source range is sealed, and whether some line is not (R205, R249). -/
def State.sealMix (s : State) (id space addr n : Nat) : Bool × Bool :=
  if space = 7 then (true, false)
  else if space = 2 then
    let marks := (unitsOf (coreOf id) space 128 addr n).map fun l => (s.sealTo (s.issuer id) l).isSome
    (marks.any (·), marks.isEmpty || marks.any (!·))
  else (false, true)

/-- Whether either side of a copy is SPACE 7 (R205, R211). -/
def touches7 (ks kd : Cap) : Bool := decide (ks.space = 7) || decide (kd.space = 7)

/-- The checks of a row's source, the sealed step last (R205, R210, R249). -/
def State.checkSource (s : State) (ks kd : Cap) (r : Row) : Except CapFault Acc :=
  let id := s.cur.id
  let mix := s.sealMix id ks.space ((ks.base : Int) + r.src.toInt).toNat r.len
  let al := if touches7 ks kd then 128 else 1
  match s.capCheck id ks copySources r.src.toInt r.len (if mix.1 then pCPYS + pSEAL else pCPYS) al
      (decide (r.len % al = 0)) true with
  | .error e => .error e
  | .ok a =>
    if mix.1 && !(if ks.space = 7 then decide (kd.space = 4) || decide (kd.space = 2)
        else decide (kd.space = 4) || decide (kd.space = 7)) then .error ⟨0x18, 0⟩
    else if mix.2 && decide (kd.space = 7) && decide (ks.space ≠ 1) then .error ⟨0x18, 0⟩
    else .ok a

/-- The checks of a row's destination (R249). -/
def State.checkTarget (s : State) (ks kd : Cap) (r : Row) : Except CapFault Acc :=
  s.capCheck s.cur.id kd copyTargets r.dst.toInt r.len pCPYD (if touches7 ks kd then 128 else 1) true true

/-- Check a list, first failure first. -/
def checkAll {α β : Type} (f : α → Except CapFault β) : List α → Except CapFault (List β)
  | [] => .ok []
  | x :: xs =>
    match f x with
    | .error e => .error e
    | .ok y =>
      match checkAll f xs with
      | .error e => .error e
      | .ok ys => .ok (y :: ys)

/-- The checks of CPY, CPYS and CPYCB: every row's source before any destination (R249, R251). -/
def State.checkRows (s : State) (ks kd : Cap) (rows : List Row) : Except CapFault (List (Acc × Acc)) :=
  match checkAll (s.checkSource ks kd) rows with
  | .error e => .error e
  | .ok ss =>
    match checkAll (s.checkTarget ks kd) rows with
    | .error e => .error e
    | .ok ds => .ok (ss.zip ds)

/-- A failed check of a list row, with the offset that failed in sr.tval (R217). -/
def CapFault.atRow (e : CapFault) (off : Word) : CapFault := ⟨e.code, off⟩

/-- The checks of CPYG: each row as its own copy, in index order (R217). -/
def State.checkEach (s : State) (ks kd : Cap) (rows : List Row) : Except CapFault (List (Acc × Acc)) :=
  checkAll (fun r =>
    match s.checkSource ks kd r with
    | .error e => .error (e.atRow r.src)
    | .ok a =>
      match s.checkTarget ks kd r with
      | .error e => .error (e.atRow r.dst)
      | .ok b => .ok (a, b)) rows

/-- The beats of a checked row: the 64-byte aligned chunks of its destination, ascending (R250). -/
def rowBeats (p : Acc × Acc) : List Beat :=
  (chunks p.2.addr p.2.size).map fun c => ⟨p.1.addr + (c.1 - p.2.addr), c.1, c.2⟩

/-- The barrier record that a BA form names, checked by cap_check with ATOM (R143, R248): the register `b` and the offset
register that follows the block. -/
def State.barAcc (s : State) (b : Option (Fin 32)) (off : Word) : Except CapFault (Option Acc) :=
  match b with
  | none => .ok none
  | some k =>
    match s.loadCheck s.cur.id (s.me.kr k.val) atomSpaces off.toInt 16 pATOM 16 with
    | .error e => .error e
    | .ok a => .ok (some a)

/-- Whether an own store to given locations is not yet performed at its scope (R231, R358, R367). -/
def State.ownStore (s : State) (ctx iss : Nat) (locs : List Nat) : Bool :=
  s.writes.any fun w => decide (w.ctx = ctx) && decide (w.iss < iss) && w.cover.isSome && decide (w.level < levelOf w.scope)
    && overlaps w.cells locs

/-- Attach `n` beats to a record at issue (R252, R397): the state, and the record where the operation is attached. A late
fault of the record's access is noted and the operation goes unattached; own stores to the record go before it; none
while an own load or atomic of the record is still to be performed, an acquire is pending (R364), a page request is (R352), or a write before
it into HBM has its tokens to take (R87). The record's
granules take the function's tag (R201). -/
def State.attachBar (s : State) (b : Option Acc) (n : Nat) (remote : Bool) : Option (State × Option Acc) :=
  match b, s.task with
  | some a, some t =>
    match State.writePlaces t s.cur.id a.space s [(a.addr, 16)] with
    | .error e => some (s.lateHere e.1 e.2 s.me.iss false, none)
    | .ok (ls, s1) =>
      if (s.loads.any fun l => l.before s.cur.id s.me.iss a.space a.addr 16) || s.atomBefore s.cur.id s.me.iss a.space a.addr 16
          || s.acquirePending s.cur.id s.me.iss || s.hostWaits t.func a.space a.addr 16 || s.spcLocked ls then none
      else
        let s2 := (ownBefore s.cur.id s1.writes.reverse ls).reverse.foldl State.placeWrite s1
        if s2.pushes ls then none else
        some ((s2.recWrite t.tid s.cur.id s.me.iss 2 a ls [] (·.attach n remote)).tagGranules (coreOf s.cur.id) t.func a.space a.addr 16,
          if s2.barFull s.cur.id a ls n then none else some a)
  | _, _ => some (s, none)

/-- The copy queue of the context is full (R170, R249). -/
def State.copyQueueFull (s : State) : Bool := decide (16 ≤ (s.copies.filter fun c => decide (c.ctx = s.cur.id)).length)

/-- A checked copy enters its context's queue, attached where BA asks for it (R249, R252). -/
def State.issueCopy (s : State) (ks kd : Cap) (rows : List (Acc × Acc)) (b : Option (Fin 32)) (boff : Word)
    (cb : Option (Nat × Nat)) : Result :=
  match s.barAcc b boff with
  | .error e => .next (s.trapCap e)
  | .ok bar =>
    if s.copyQueueFull then .next s.holdFull
    else
      let beats := (rows.map rowBeats).flatten
      match s.attachBar bar beats.length false with
      | none => .next s.holdFull
      | some (s1, att) =>
        let c := s1.me
        let pend := match cb with
          | some (h, k) => c.pend ++ [⟨c.step + 1, .hRes h k⟩]
          | none => c.pend
        .next { s1.setMe { c with iss := c.iss + 1, pend := pend } with
          copies := s1.copies ++ [⟨s1.fresh, s1.tid, s1.cur.id, c.iss, c.pc, ks.space, ks.key, kd.space, kd.key, beats, att,
            cb, c.groups, 0, c.loans, s.cur.src⟩]
          fresh := s1.fresh + 1 }

/-- The registers a block form reads, the barrier offset with BA (R143, R248). -/
def blockRegs (a : Fin 64) (n : Nat) (b : Option (Fin 32)) : List Nat := block a (if b.isSome then n + 1 else n)

/-- CPY (R248–R251). -/
def execCpy (ks kd : Fin 32) (a : Fin 64) (b : Option (Fin 32)) (s : State) : Result :=
  match s.me.firstPoison (blockRegs a 3 b) with
  | some r => .next (s.trapPoison false r)
  | none =>
    match s.checkRows (s.me.kr ks.val) (s.me.kr kd.val) [⟨s.blk a 0, s.blk a 1, (s.blk a 2).toNat⟩] with
    | .error e => .next (s.trapCap e)
    | .ok rows => s.issueCopy (s.me.kr ks.val) (s.me.kr kd.val) rows b (s.blk a 3) none

/-- The rows of a strided block (R251, R397): strides are signed, offsets wrap at 2^64. -/
def State.stridedRows (s : State) (a : Fin 64) : List Row :=
  (List.range (s.blk a 5).toNat).map fun i =>
    ⟨s.blk a 0 + BitVec.ofNat 64 i * s.blk a 3, s.blk a 1 + BitVec.ofNat 64 i * s.blk a 4, (s.blk a 2).toNat⟩

/-- CPYS (R251). -/
def execCpys (ks kd : Fin 32) (a : Fin 64) (b : Option (Fin 32)) (s : State) : Result :=
  match s.me.firstPoison (blockRegs a 6 b) with
  | some r => .next (s.trapPoison false r)
  | none =>
    match s.checkRows (s.me.kr ks.val) (s.me.kr kd.val) (s.stridedRows a) with
    | .error e => .next (s.trapCap e)
    | .ok rows => s.issueCopy (s.me.kr ks.val) (s.me.kr kd.val) rows b (s.blk a 6) none

/-- Whether a copy runs on the core's engine: one of its sides is a core buffer (R249). -/
def coreEngine (sspace dspace : Nat) : Bool := [3, 4, 5].contains sspace || [3, 4, 5].contains dspace

/-- What an engine reads for a context: its own engine sees the core's buffered writes from the CORE level on, the cluster's
those from the CLUSTER level on (R249, R357, R359; DEDUCED, log entry 13). -/
def engineViewer (ctx : Nat) (core : Bool) : Viewer := ⟨0, some (coreOf ctx), 0, if core then 1 else 2⟩

/-- The address of a failing list word: the first whose page fails (R217). -/
def State.listFault (s : State) (t : Task) (space va : Nat) : Nat → Option (Nat × Nat)
  | 0 => none
  | n + 1 =>
    match s.place t s.cur.id space va 4 false with
    | .late c => some (c, va)
    | _ => State.listFault s t space (va + 4) n

/-- What an instruction has paid is spent, unless its bundle is HELD and it comes to issue again (R87). -/
def spent (r : Result) (id f : Nat) : Result :=
  match r with
  | .next u => if u.cur.verdict = .held then .next u else .next (u.spend id f)
  | x => x

/-- The rows of a CPYG from its index list of bytes (R217). -/
def State.gatherRows (s : State) (a : Fin 64) (list : List Byte) : List Row :=
  (List.range (s.blk a 4).toNat).map fun i =>
    ⟨s.blk a 0 + s.blk a 2 * BitVec.ofNat 64 (leNat ((list.drop (4 * i)).take 4)), s.blk a 1 + s.blk a 2 * BitVec.ofNat 64 i,
      (s.blk a 2).toNat⟩

/-- CPYG: the whole index list is read at issue, under the destination's capability, and every row is checked before any
moves (R217, R251). R199 has no column for that read: it takes that of a copy's source (DESIGN CHOICE, log entry 55). The copy engine reads
it: once no page request, acquire or own store to it is pending and it has its tokens, with its effects on the TLBs (R87, R221, R352, R364,
R367). -/
def execCpyg (ks kd : Fin 32) (a : Fin 64) (b : Option (Fin 32)) (s : State) : Result :=
  match s.me.firstPoison (blockRegs a 5 b) with
  | some r => .next (s.trapPoison false r)
  | none =>
    let src := s.me.kr ks.val
    let dst := s.me.kr kd.val
    let n := (s.blk a 4).toNat
    match s.loadCheck s.cur.id dst copySources (s.blk a 3).toInt (4 * n) pR 4 true, s.task with
    | .error e, _ => .next (s.trapCap e)
    | .ok _, none => .next s.done
    | .ok l, some t =>
      if s.hostWaits t.func l.space l.addr (4 * n) || s.acquirePending s.cur.id s.me.iss then .next s.holdFull
      else
        match s.listFault t l.space l.addr n with
        | some f => .next (s.trap f.1 (BitVec.ofNat 64 f.2) s.me.pc)
        | none =>
          match s.readPlaces t s.cur.id l.space (chunks l.addr (4 * n)) with
          | .error f => .next (s.trap f.1 (BitVec.ofNat 64 f.2) s.me.pc)
          | .ok ps =>
            let locs := ps.filterMap fun x => x
            if s.ownStore s.cur.id s.me.iss locs || s.spcLocked locs then .next s.holdFull
            else
              let bytes := ps.map (s.seePlace (engineViewer s.cur.id (coreEngine src.space dst.space)) l.key)
              match s.payPart (requestNo 5 t.tid) t.func .memory (hbmTokens locs) with
              | (s1, false) => .next s1.holdFull
              | (s1, true) =>
                match s1.checkEach src dst (s.gatherRows a bytes) with
                | .error e => .next ((s1.spend (requestNo 5 t.tid) t.func).trapCap e)
                | .ok rows =>
                  spent ((State.prepareReads t s.cur.id l.space s1 (chunks l.addr (4 * n))).issueCopy src dst rows b (s.blk a 5) none)
                    (requestNo 5 t.tid) t.func

/-- What stands for the destination of a CPYCB: the A buffer with its spare window (R251). -/
def ringCap : Cap :=
  ⟨BitVec.ofNat 128 (3 * 2 ^ 116 + pCPYD * 2 ^ 104 + 0x400000 * 2 ^ 57), true⟩

/-- The rows of a CPYCB: one for each slot from count `c0` on (R251). A length of 0 takes its checks with one empty row. -/
def ringRows (h : Handle) (src : Word) (len k c0 : Nat) : List Row :=
  if k = 0 then [⟨src, BitVec.ofNat 64 (h.addr (c0 % 2 ^ 16)), 0⟩]
  else (List.range k).map fun j =>
    ⟨src + BitVec.ofNat 64 (64 * h.slot * j), BitVec.ofNat 64 (h.addr ((c0 + j) % 2 ^ 16)),
      min (64 * h.slot) (len - j * (64 * h.slot))⟩

/-- The checks of a CPYCB: its source as one range, then every slot (R249, R251). -/
def State.checkRing (s : State) (ks : Cap) (len : Nat) (rows : List Row) : Except CapFault (List (Acc × Acc)) :=
  match s.checkSource ks ringCap ⟨(rows.headD ⟨0, 0, 0⟩).src, 0, len⟩ with
  | .error e => .error e
  | .ok a =>
    match checkAll (s.checkTarget ks ringCap) rows with
    | .error e => .error e
    | .ok ds =>
      .ok ((ds.zip rows).map fun p =>
        (⟨a.space, a.addr + (p.2.src - (rows.headD ⟨0, 0, 0⟩).src).toNat, p.2.len, a.key⟩, p.1))

/-- CPYCB: its slots are reserved at issue; without room it holds its context as a circular-buffer wait (R246, R251). -/
def execCpycb (ks : Fin 32) (h : Fin 16) (a : Fin 64) (b : Option (Fin 32)) (s : State) : Result :=
  match s.me.firstPoison (blockRegs a 2 b) with
  | some r => .next (s.trapPoison false r)
  | none =>
    let w := s.me.hr h.val
    let len := (s.blk a 1).toNat
    let k := (len + 64 * w.slot - 1) / (64 * w.slot)
    if w.slot = 0 ∨ w.main < k then .next (s.trapOpen 0x11 (s.blk a 1))
    else if w.room < k then .next (s.holdFor (.cbP h.val k))
    else
      match s.checkRing (s.me.kr ks.val) len (ringRows w (s.blk a 0) len k (w.pcnt + w.p)) with
      | .error e => .next (s.trapCap e)
      | .ok rows => s.issueCopy (s.me.kr ks.val) ringCap rows b (s.blk a 2) (some (h.val, k))

end Sys2Proof.Machine
end

