-- ==== Sys2Proof/Machine/Num.lean ====
section
/-!
DEFINITION. Binary floating point (R256–R262, R285–R288): values as exact dyadic numbers, one rounding, and the operations
on elements with the flags they raise.
-/

namespace Sys2Proof.Machine

/-- A binary interchange format: exponent and fraction widths (R256). -/
structure Fmt where
  ebits : Nat
  fbits : Nat
  deriving DecidableEq, Repr

/-- The format of a class-F type code: f16, bf16, f32, f64 (R127, R256). -/
def fmtOf (t : Nat) : Fmt :=
  match t with
  | 0 => ⟨5, 10⟩
  | 1 => ⟨8, 7⟩
  | 2 => ⟨8, 23⟩
  | _ => ⟨11, 52⟩

/-- The exponent of the last place of subnormal numbers. -/
def Fmt.qmin (f : Fmt) : Int := 2 - (2 ^ (f.ebits - 1) : Nat) - (f.fbits : Int)
/-- The sign bit. -/
def Fmt.signBit (f : Fmt) : Nat := 2 ^ (f.ebits + f.fbits)
/-- +∞. -/
def Fmt.inf (f : Fmt) : Nat := (2 ^ f.ebits - 1) * 2 ^ f.fbits
/-- The default NaN (R256). -/
def Fmt.nan (f : Fmt) : Nat := f.inf + 2 ^ (f.fbits - 1)

/-- A floating-point value: a NaN, signalling or quiet; an infinity; or ± m × 2^e (R256–R258). -/
inductive Fp where
  | nan (signalling : Bool)
  | inf (neg : Bool)
  | fin (neg : Bool) (m : Nat) (e : Int)
  deriving DecidableEq, Repr

/-- The value of an element (R256): subnormals at their exact value (R257). -/
def Fmt.value (f : Fmt) (x : Nat) : Fp :=
  let neg := decide (x / f.signBit % 2 = 1)
  let be := x / 2 ^ f.fbits % 2 ^ f.ebits
  let fr := x % 2 ^ f.fbits
  if be = 2 ^ f.ebits - 1 then
    if fr = 0 then .inf neg else .nan (decide (fr < 2 ^ (f.fbits - 1)))
  else if be = 0 then .fin neg fr f.qmin
  else .fin neg (2 ^ f.fbits + fr) (f.qmin + (be : Int) - 1)

/-- An element result: its bits and its flags. -/
abbrev Elem := Nat × Flags

/-- The bits with a sign. -/
def Fmt.signed (f : Fmt) (neg : Bool) (x : Nat) : Nat := if neg then f.signBit + x else x

/-- The number of bits of a number. -/
def bitLen (n : Nat) : Nat := if n = 0 then 0 else Nat.log2 n + 1

/-- Round ± m × 2^e to nearest, ties to even; `sticky` says that the exact magnitude lies above m × 2^e, by less than one
unit of it (R257). Flags as R259 has them. -/
def Fmt.round (f : Fmt) (neg : Bool) (m : Nat) (e : Int) (sticky : Bool) : Elem :=
  if m = 0 ∧ !sticky then (f.signed neg 0, {})
  else
    let q : Int := max (e + (bitLen m : Int) - ((f.fbits : Int) + 1)) f.qmin
    let r : Nat × Bool :=
      if q ≤ e then (m * 2 ^ (e - q).toNat, sticky)
      else
        let sh := (q - e).toNat
        if bitLen m + 1 < sh then (0, true)
        else
          let t := m / 2 ^ sh
          let rem := m % 2 ^ sh
          let half := 2 ^ (sh - 1)
          let up := decide (half < rem) || (decide (rem = half) && (sticky || decide (t % 2 = 1)))
          (t + up.toNat, decide (rem ≠ 0) || sticky)
    if r.1 = 0 then (f.signed neg 0, { nx := r.2 })
    else if (f.inf : Int) ≤ (q - f.qmin) * 2 ^ f.fbits + r.1 then (f.signed neg f.inf, { of := true, nx := true })
    else
      let bits := ((q - f.qmin) * 2 ^ f.fbits + r.1).toNat
      (f.signed neg bits, { uf := decide (bits < 2 ^ f.fbits) && r.2, nx := r.2 })

/-- The default NaN, with NV where the operation is invalid or an operand is signalling (R258, R259). -/
def Fmt.nanOut (f : Fmt) (nv : Bool) : Elem := (f.nan, { nv := nv })

/-- Whether a value is a NaN. -/
def Fp.isNan : Fp → Bool
  | .nan _ => true
  | _ => false
/-- Whether a value is a signalling NaN. -/
def Fp.isSig : Fp → Bool
  | .nan s => s
  | _ => false
/-- The value with the opposite sign. -/
def Fp.neg : Fp → Fp
  | .nan s => .nan s
  | .inf n => .inf (!n)
  | .fin n m e => .fin (!n) m e

/-- The signed mantissa of ± m × 2^e at a lower exponent `lo`. -/
def scaledTo (neg : Bool) (m : Nat) (e lo : Int) : Int :=
  let x : Int := (m * 2 ^ (e - lo).toNat : Nat)
  if neg then -x else x

/-- The exact sum of two finite values, rounded once; a zero sum takes the common sign, else + (R257). -/
def Fmt.addFin (f : Fmt) (n1 : Bool) (m1 : Nat) (e1 : Int) (n2 : Bool) (m2 : Nat) (e2 : Int) : Elem :=
  let lo := min e1 e2
  let x := scaledTo n1 m1 e1 lo + scaledTo n2 m2 e2 lo
  if x = 0 then (f.signed (n1 && n2) 0, {}) else f.round (decide (x < 0)) x.natAbs lo false

/-- Addition (R257, R258). -/
def Fmt.add (f : Fmt) (a b : Fp) : Elem :=
  match a, b with
  | .inf n, .inf k => if n = k then (f.signed n f.inf, {}) else f.nanOut true
  | .inf n, .fin _ _ _ => (f.signed n f.inf, {})
  | .fin _ _ _, .inf n => (f.signed n f.inf, {})
  | .fin n1 m1 e1, .fin n2 m2 e2 => f.addFin n1 m1 e1 n2 m2 e2
  | a, b => f.nanOut (a.isSig || b.isSig)

/-- Multiplication (R257, R258). -/
def Fmt.mul (f : Fmt) (a b : Fp) : Elem :=
  match a, b with
  | .inf n, .inf k => (f.signed (n != k) f.inf, {})
  | .inf n, .fin k m _ => if m = 0 then f.nanOut true else (f.signed (n != k) f.inf, {})
  | .fin k m _, .inf n => if m = 0 then f.nanOut true else (f.signed (n != k) f.inf, {})
  | .fin n1 m1 e1, .fin n2 m2 e2 => f.round (n1 != n2) (m1 * m2) (e1 + e2) false
  | a, b => f.nanOut (a.isSig || b.isSig)

/-- The exact product as a value: a NaN where it is invalid; none where an operand is a NaN. -/
def Fp.times (a b : Fp) : Option Fp :=
  match a, b with
  | .inf n, .inf k => some (.inf (n != k))
  | .inf n, .fin k m _ => some (if m = 0 then .nan true else .inf (n != k))
  | .fin k m _, .inf n => some (if m = 0 then .nan true else .inf (n != k))
  | .fin n1 m1 e1, .fin n2 m2 e2 => some (.fin (n1 != n2) (m1 * m2) (e1 + e2))
  | _, _ => none

/-- a × b + d, rounded once; 0 × ∞ is invalid whatever the addend (R257, R258). -/
def Fmt.fma (f : Fmt) (a b d : Fp) : Elem :=
  match a.times b with
  | none => f.nanOut (a.isSig || b.isSig || d.isSig)
  | some p => f.add p d

/-- The order of two values that are not NaN: −0 is less than +0 where `zeros` asks for it (R285, R288). -/
def Fp.less (zeros : Bool) (a b : Fp) : Bool :=
  match a, b with
  | .inf n, .inf k => n && !k
  | .inf n, .fin _ _ _ => n
  | .fin _ _ _, .inf k => !k
  | .fin n1 m1 e1, .fin n2 m2 e2 =>
    let lo := min e1 e2
    let x := scaledTo n1 m1 e1 lo
    let y := scaledTo n2 m2 e2 lo
    decide (x < y) || (zeros && decide (x = y) && n1 && !n2)
  | _, _ => false

/-- VMIN and VMAX of elements (R285). -/
def Fmt.pick (f : Fmt) (greater : Bool) (x y : Nat) : Elem :=
  let a := f.value x
  let b := f.value y
  if a.isNan || b.isNan then f.nanOut (a.isSig || b.isSig)
  else if (if greater then a.less true b else b.less true a) then (y, {}) else (x, {})

/-- The floor of the square root, from bit `k` down. -/
def isqrtFrom : Nat → Nat → Nat → Nat
  | 0, _, r => r
  | k + 1, n, r =>
    let t := r + 2 ^ k
    isqrtFrom k n (if t * t ≤ n then t else r)

/-- The floor of the square root. -/
def isqrt (n : Nat) : Nat := isqrtFrom (bitLen n / 2 + 1) n 0

/-- 1 / a (R286). -/
def Fmt.rcp (f : Fmt) (a : Fp) : Elem :=
  match a with
  | .nan s => f.nanOut s
  | .inf n => (f.signed n 0, {})
  | .fin n m e =>
    if m = 0 then (f.signed n f.inf, { dz := true })
    else
      let k := bitLen m + f.fbits + 4
      f.round n (2 ^ k / m) (-(k : Int) - e) (decide (2 ^ k % m ≠ 0))

/-- 1 / √a (R286). -/
def Fmt.rsq (f : Fmt) (a : Fp) : Elem :=
  match a with
  | .nan s => f.nanOut s
  | .inf n => if n then f.nanOut true else (0, {})
  | .fin n m e =>
    if m = 0 then (f.signed n f.inf, { dz := true })
    else if n then f.nanOut true
    else
      let m' := if e % 2 = 0 then m else 2 * m
      let e' := if e % 2 = 0 then e else e - 1
      let k := bitLen m' + f.fbits + 4
      let r := isqrt (2 ^ (2 * k) / m')
      f.round false r (-(k : Int) - e' / 2) (decide (r * r * m' ≠ 2 ^ (2 * k)))

/-! VEXP2 and VLOG2 round an exact result that is irrational unless the operand is an integer, or a power of two: it is
bracketed in fixed point far beyond any type's precision (DEDUCED, log entry 12). -/

/-- The fraction bits of the fixed point. -/
def fixW : Nat := 640

/-- ln 2 = Σ 1 / (k × 2^k), in fixed point. -/
def ln2Sum : Nat → Nat
  | 0 => 0
  | k + 1 => 2 ^ fixW / ((k + 1) * 2 ^ (k + 1)) + ln2Sum k
/-- ln 2 in fixed point. -/
def ln2Fix : Nat := ln2Sum fixW

/-- The terms of e^y = Σ y^k / k!, from term `k` on. -/
def expSum : Nat → Nat → Nat → Nat → Nat
  | 0, _, _, _ => 0
  | n + 1, k, term, y => term + expSum n (k + 1) (term * y / 2 ^ fixW / (k + 1)) y

/-- 2^x for a fixed-point fraction, in fixed point. -/
def exp2Fix (x : Nat) : Nat := expSum 160 0 (2 ^ fixW) (x * ln2Fix / 2 ^ fixW)

/-- The terms of Σ y^(2j+1) / (2j+1). -/
def atanhSum : Nat → Nat → Nat → Nat → Nat
  | 0, _, _, _ => 0
  | n + 1, j, p, y2 => p / (2 * j + 1) + atanhSum n (j + 1) (p * y2 / 2 ^ fixW) y2

/-- log2 of a fixed-point number from 1 to 2: 2 atanh((x − 1) / (x + 1)) / ln 2. -/
def log2Fix (x : Nat) : Nat :=
  let y := (x - 2 ^ fixW) * 2 ^ fixW / (x + 2 ^ fixW)
  2 * atanhSum 240 0 y (y * y / 2 ^ fixW) * 2 ^ fixW / ln2Fix

/-- Bits of the fixed point that are kept for rounding. -/
def keepW : Nat := 576

/-- 2^a (R286). -/
def Fmt.exp2 (f : Fmt) (a : Fp) : Elem :=
  match a with
  | .nan s => f.nanOut s
  | .inf n => if n then (0, {}) else (f.inf, {})
  | .fin n m e =>
    if m = 0 ∨ 0 ≤ e ∨ (-e).toNat < bitLen m ∧ m % 2 ^ (-e).toNat = 0 then
      let i : Int := if 0 ≤ e then (if 64 < e then 2 ^ 64 else (m * 2 ^ e.toNat : Nat)) else (m / 2 ^ (-e).toNat : Nat)
      f.round false 1 (if n then -i else i) false
    else
      let d := (-e).toNat
      let x : Int := if n then -(m : Int) else m
      let i := x / (2 ^ d : Nat)
      let fr := (x % (2 ^ d : Nat)).toNat
      f.round false (exp2Fix (fr * 2 ^ fixW / 2 ^ d) / 2 ^ (fixW - keepW)) (i - keepW) true

/-- log2 a (R286). -/
def Fmt.log2 (f : Fmt) (a : Fp) : Elem :=
  match a with
  | .nan s => f.nanOut s
  | .inf n => if n then f.nanOut true else (f.inf, {})
  | .fin n m e =>
    if m = 0 then (f.signed true f.inf, { dz := true })
    else if n then f.nanOut true
    else
      let k : Int := e + Nat.log2 m
      if m = 2 ^ Nat.log2 m then f.round (decide (k < 0)) k.natAbs 0 false
      else
        let v : Int := k * (2 ^ fixW : Nat) + log2Fix (m * 2 ^ fixW / 2 ^ Nat.log2 m)
        f.round (decide (v < 0)) (v.natAbs / 2 ^ (fixW - keepW)) (-(keepW : Int)) true

/-- a × 2^n, rounded once (R287). -/
def Fmt.scalb (f : Fmt) (x : Nat) (n : Int) : Elem :=
  match f.value x with
  | .nan s => f.nanOut s
  | .inf _ => (x, {})
  | .fin neg m e => if m = 0 then (x, {}) else f.round neg m (e + n) false

/-- The nearest integer to ± m × 2^e, ties to even, and whether rounding changed the value (R262, R266). -/
def nearestInt (neg : Bool) (m : Nat) (e : Int) : Int × Bool :=
  let r : Nat × Bool :=
    if 0 ≤ e then (m * 2 ^ e.toNat, false)
    else
      let sh := (-e).toNat
      if bitLen m + 1 < sh then (0, decide (m ≠ 0))
      else
        let t := m / 2 ^ sh
        let rem := m % 2 ^ sh
        let half := 2 ^ (sh - 1)
        let up := decide (half < rem) || (decide (rem = half) && decide (t % 2 = 1))
        (t + up.toNat, decide (rem ≠ 0))
  (if neg then -(r.1 : Int) else r.1, r.2)

/-- The least and greatest value of an integer type (R254). -/
def intRange (w : Nat) (signed : Bool) : Int × Int :=
  if signed then (-(2 ^ (w - 1) : Nat), (2 ^ (w - 1) : Nat) - 1) else (0, (2 ^ w : Nat) - 1)

/-- Float to integer (R262). -/
def toIntElem (w : Nat) (signed : Bool) (a : Fp) : Elem :=
  let r := intRange w signed
  match a with
  | .nan _ => (0, { nv := true })
  | .inf n => (wrap w (if n then r.1 else r.2), { nv := true })
  | .fin n m e =>
    let q := nearestInt n m e
    if q.1 < r.1 then (wrap w r.1, { nv := true })
    else if r.2 < q.1 then (wrap w r.2, { nv := true })
    else (wrap w q.1, { nx := q.2 })

/-- Float to float (R262). -/
def Fmt.convert (f : Fmt) (a : Fp) : Elem :=
  match a with
  | .nan s => f.nanOut s
  | .inf n => (f.signed n f.inf, {})
  | .fin n m e => f.round n m e false

/-- Integer to float (R262). -/
def Fmt.ofInt (f : Fmt) (x : Int) : Elem := f.round (decide (x < 0)) x.natAbs 0 false

/-- The mantissa of a block element under an exponent byte (R264, R266). -/
def packElem (w E : Nat) (a : Fp) : Elem :=
  if E = 0 ∨ E = 255 then (0, {})
  else
    let r := intRange w true
    match a with
    | .nan _ => (0, { nv := true })
    | .inf n => (wrap w (if n then r.1 else r.2), { nv := true })
    | .fin n m e =>
      let q := nearestInt n m (e - ((E : Int) - 127 - ((w : Int) - 1)))
      if q.1 < r.1 then (wrap w r.1, { nv := true })
      else if r.2 < q.1 then (wrap w r.2, { nv := true })
      else (wrap w q.1, { nx := q.2 })

/-- The least integer e with m × 2^x < 2^e, for m > 0 (R272, R296). -/
def leastExp (m : Nat) (x : Int) : Int := x + bitLen m

/-- trunc0(± m × 2^e). -/
def trunc0 (neg : Bool) (m : Nat) (e : Int) : Int :=
  let t : Nat := if 0 ≤ e then m * 2 ^ e.toNat else if bitLen m < (-e).toNat then 0 else m / 2 ^ (-e).toNat
  if neg then -(t : Int) else t

/-- Slice p of an element under exponent e, or none where the lane is flagged (R273). -/
def sliceOf (p : Nat) (e : Int) (a : Fp) : Option Int :=
  match a with
  | .fin n m x =>
    if m = 0 then some 0
    else if e < leastExp m x then none
    else some (trunc0 n m (x - e + 7 * p) - 128 * trunc0 n m (x - e + 7 * ((p : Int) - 1)))
  | _ => none

end Sys2Proof.Machine
end

