-- ==== Sys2Proof/Machine/Vector.lean ====
section
/-!
DEFINITION. The vector instructions of the P and Q slots (R279–R300); VRCMB stands with the matrix array. Sources are read
at issue; a result lands in the selected lanes at its latency (R158, R159); flags are raised at issue (R261).
-/

namespace Sys2Proof.Machine

/-- The source VA of an instruction after its modifier, in lanes of `lw` bits (R130). -/
def State.va (s : State) (lw : Nat) (x : Lit) (a : Fin 64) : Vec := applyMod lw (modOf x 0) (s.me.vr a.val).v
/-- The source VB after its modifier. -/
def State.vb (s : State) (lw : Nat) (x : Lit) (b : Fin 64) : Vec := applyMod lw (modOf x 1) (s.me.vr b.val).v
/-- The poison tag of a v register. -/
def State.vp (s : State) (a : Fin 64) : Bool := (s.me.vr a.val).p

/-- A vector result: `tag` is the OR of the sources' tags; an element left unwritten keeps the old tag in (R282). -/
def State.putV (s : State) (lat : Nat) (d : Fin 64) (val sel : Vec) (tag : Bool) (f : Flags) : State :=
  let p := tag || (decide (sel ≠ BitVec.allOnes 2048) && s.vp d)
  let c := s.me.raise f
  s.setMe { c with pend := c.pend ++ [⟨c.step + lat, .v d.val val sel p⟩] }

/-- A mask result (R281). -/
def State.putM (s : State) (lat : Nat) (d : Fin 8) (val sel : Mask) (f : Flags) : State :=
  let c := s.me.raise f
  s.setMe { c with pend := c.pend ++ [⟨c.step + lat, .m d.val val sel⟩] }

/-- The element results of `f` in the lanes that a mask selects: elements of `ew` bits in lanes of `lw` (R279, R280). -/
def elemResults (ew lw : Nat) (m : Mask) (f : Nat → Elem) : List Elem :=
  (List.range (2048 / ew)).map fun j => if m.getLsbD (j * ew / lw) then f j else (0, {})

/-- The flags of element results: lanes not selected raise none (R259). -/
def flagsOf (es : List Elem) : Flags := Flags.all (es.map (·.2))

/-- An element-wise instruction under a mask (R280, R282). -/
def State.lanewise (s : State) (lat : Nat) (d : Fin 64) (ew lw : Nat) (m : Mask) (tag : Bool) (f : Nat → Elem) : State :=
  let es := elemResults ew lw m f
  s.putV lat d (BitVec.ofNat 2048 (packLanes ew (es.map (·.1)))) (laneBits lw m) tag (flagsOf es)

/-- A class-F instruction of two sources (R285). -/
def vecF2 (lat : Nat) (op : Fmt → Nat → Nat → Elem) (d a b : Fin 64) (m t : Fin 8) (x : Lit) (s : State) : Result :=
  let ew := elemWF t.val
  let lw := laneWF t.val
  let p := s.va lw x a
  let q := s.vb lw x b
  .next (s.lanewise lat d ew lw (s.me.mask m.val) (s.vp a || s.vp b)
    fun j => op (fmtOf t.val) (elem ew p j) (elem ew q j))

/-- A class-F multiply-add with the destination as addend (R285). -/
def vecF3 (op : Fmt → Nat → Nat → Nat → Elem) (d a b : Fin 64) (m t : Fin 8) (x : Lit) (s : State) : Result :=
  let ew := elemWF t.val
  let lw := laneWF t.val
  let p := s.va lw x a
  let q := s.vb lw x b
  let r := (s.me.vr d.val).v
  .next (s.lanewise 4 d ew lw (s.me.mask m.val) (s.vp a || s.vp b || s.vp d)
    fun j => op (fmtOf t.val) (elem ew p j) (elem ew q j) (elem ew r j))

/-- A class-F instruction of one source (R286). -/
def vecF1 (lat : Nat) (op : Fmt → Fp → Elem) (d a : Fin 64) (m t : Fin 8) (x : Lit) (s : State) : Result :=
  let ew := elemWF t.val
  let lw := laneWF t.val
  let p := s.va lw x a
  .next (s.lanewise lat d ew lw (s.me.mask m.val) (s.vp a) fun j => op (fmtOf t.val) ((fmtOf t.val).value (elem ew p j)))

/-- A class-I instruction of two sources (R289). -/
def vecI2 (lat : Nat) (op : Nat → Bool → Nat → Nat → Nat) (d a b : Fin 64) (m t : Fin 8) (x : Lit) (s : State) : Result :=
  let ew := elemWI t.val
  let lw := laneWI t.val
  let p := s.va lw x a
  let q := s.vb lw x b
  .next (s.lanewise lat d ew lw (s.me.mask m.val) (s.vp a || s.vp b)
    fun j => (op ew (signedI t.val) (elem ew p j) (elem ew q j), {}))

/-- The first poisoned of v registers, as an instruction with an m destination raises it (R282). -/
def State.vecPoison (s : State) : List (Fin 64) → Option Nat
  | [] => none
  | r :: rs => if s.vp r then some r.val else State.vecPoison s rs

/-- A compare into md: bit i is set when the relation holds for every element of lane i (R288, R290). -/
def vecCmp (ew lw : Nat) (rel : Nat → Nat → Bool × Flags) (d : Fin 8) (a b : Fin 64) (m : Fin 8) (x : Lit)
    (s : State) : Result :=
  match s.vecPoison [a, b] with
  | some r => .next (s.trapPoison true r)
  | none =>
    let p := s.va lw x a
    let q := s.vb lw x b
    let k := s.me.mask m.val
    let k' := if lw = 64 then k &&& 0xFFFFFFFF else k
    let rs := (List.range (2048 / ew)).map fun j =>
      if k'.getLsbD (j * ew / lw) then rel (elem ew p j) (elem ew q j) else (true, {})
    let bits := (List.range (2048 / lw)).map fun i =>
      if ((rs.drop (i * (lw / ew))).take (lw / ew)).all (·.1) then 1 else 0
    .next (s.putM 2 d (BitVec.ofNat 64 (packLanes 1 bits)) k' (Flags.all (rs.map (·.2))))

/-- A floating-point relation: false with a NaN; a signalling one sets NV (R288). -/
def relF (f : Fmt) (r : Fp → Fp → Bool) (x y : Nat) : Bool × Flags :=
  let a := f.value x
  let b := f.value y
  if a.isNan || b.isNan then (false, { nv := a.isSig || b.isSig }) else (r a b, {})

/-- A class-F compare (R288). -/
def vecCmpF (r : Fp → Fp → Bool) (d : Fin 8) (a b : Fin 64) (m t : Fin 8) (x : Lit) (s : State) : Result :=
  vecCmp (elemWF t.val) (laneWF t.val) (relF (fmtOf t.val) r) d a b m x s

/-- A class-I compare (R290). -/
def vecCmpI (r : Int → Int → Bool) (d : Fin 8) (a b : Fin 64) (m t : Fin 8) (x : Lit) (s : State) : Result :=
  let w := elemWI t.val
  vecCmp w (laneWI t.val) (fun u v => (r (toInt w (signedI t.val) u) (toInt w (signedI t.val) v), {})) d a b m x s

/-- One level of the reduction tree (R295). -/
def pairUp (f : Nat → Nat → Elem) : List Elem → List Elem
  | x :: y :: rest =>
    let r := f x.1 y.1
    (r.1, (x.2.or y.2).or r.2) :: pairUp f rest
  | xs => xs

/-- The tree over 2^n elements (R295). -/
def treeOf (f : Nat → Nat → Elem) : Nat → List Elem → List Elem
  | 0, xs => xs
  | n + 1, xs => treeOf f n (pairUp f xs)

/-- A reduction into element 0 of vd (R295). -/
def vecReduce (ew lw : Nat) (f : Nat → Nat → Elem) (ident : Nat) (d a : Fin 64) (m : Fin 8) (x : Lit) (s : State) : Result :=
  let p := s.va lw x a
  let k := s.me.mask m.val
  let xs : List Elem := (List.range (2048 / ew)).map fun j => (if k.getLsbD (j * ew / lw) then elem ew p j else ident, {})
  let r := (treeOf f 8 xs).headD (0, {})
  .next (s.putV 4 d (BitVec.ofNat 2048 r.1) (BitVec.ofNat 2048 (2 ^ ew - 1)) (s.vp a) r.2)

/-! ### Floating point -/

/-- VADD, class F: a + b (R285). -/
def execVaddF (d a b : Fin 64) (m t : Fin 8) (x : Lit) (s : State) : Result :=
  vecF2 2 (fun f u v => f.add (f.value u) (f.value v)) d a b m t x s

/-- VSUB, class F: a − b (R285). -/
def execVsubF (d a b : Fin 64) (m t : Fin 8) (x : Lit) (s : State) : Result :=
  vecF2 2 (fun f u v => f.add (f.value u) (f.value v).neg) d a b m t x s

/-- VMUL, class F: a × b (R285). -/
def execVmulF (d a b : Fin 64) (m t : Fin 8) (x : Lit) (s : State) : Result :=
  vecF2 4 (fun f u v => f.mul (f.value u) (f.value v)) d a b m t x s

/-- VFMA: a × b + d (R285). -/
def execVfma (d a b : Fin 64) (m t : Fin 8) (x : Lit) (s : State) : Result :=
  vecF3 (fun f u v w => f.fma (f.value u) (f.value v) (f.value w)) d a b m t x s

/-- VFNMA: d − a × b (R285). -/
def execVfnma (d a b : Fin 64) (m t : Fin 8) (x : Lit) (s : State) : Result :=
  vecF3 (fun f u v w => f.fma (f.value u).neg (f.value v) (f.value w)) d a b m t x s

/-- VMIN, class F (R285). -/
def execVminF (d a b : Fin 64) (m t : Fin 8) (x : Lit) (s : State) : Result :=
  vecF2 2 (fun f u v => f.pick false u v) d a b m t x s

/-- VMAX, class F (R285). -/
def execVmaxF (d a b : Fin 64) (m t : Fin 8) (x : Lit) (s : State) : Result :=
  vecF2 2 (fun f u v => f.pick true u v) d a b m t x s

/-- A change of sign: exact, and no NaN passes (R286). -/
def signOp (f : Fmt) (neg : Bool → Bool) (a : Fp) : Elem :=
  match a with
  | .nan s => f.nanOut s
  | .inf n => (f.signed (neg n) f.inf, {})
  | .fin n m e => f.round (neg n) m e false

/-- VABS (R286). -/
def execVabs (d a : Fin 64) (m t : Fin 8) (x : Lit) (s : State) : Result :=
  vecF1 2 (fun f u => signOp f (fun _ => false) u) d a m t x s

/-- VNEG (R286). -/
def execVneg (d a : Fin 64) (m t : Fin 8) (x : Lit) (s : State) : Result :=
  vecF1 2 (fun f u => signOp f (fun n => !n) u) d a m t x s

/-- VRCP: 1 / a (R286). -/
def execVrcp (d a : Fin 64) (m t : Fin 8) (x : Lit) (s : State) : Result :=
  vecF1 4 Fmt.rcp d a m t x s

/-- VRSQ: 1 / √a (R286). -/
def execVrsq (d a : Fin 64) (m t : Fin 8) (x : Lit) (s : State) : Result :=
  vecF1 4 Fmt.rsq d a m t x s

/-- VEXP2: 2^a (R286). -/
def execVexp2 (d a : Fin 64) (m t : Fin 8) (x : Lit) (s : State) : Result :=
  vecF1 4 Fmt.exp2 d a m t x s

/-- VLOG2: log2 a (R286). -/
def execVlog2 (d a : Fin 64) (m t : Fin 8) (x : Lit) (s : State) : Result :=
  vecF1 4 Fmt.log2 d a m t x s

/-- VCMPEQ, class F: −0 and +0 compare equal (R288). -/
def execVcmpEqF (d : Fin 8) (a b : Fin 64) (m t : Fin 8) (x : Lit) (s : State) : Result :=
  vecCmpF (fun u v => !u.less false v && !v.less false u) d a b m t x s

/-- VCMPLT, class F (R288). -/
def execVcmpLtF (d : Fin 8) (a b : Fin 64) (m t : Fin 8) (x : Lit) (s : State) : Result :=
  vecCmpF (fun u v => u.less false v) d a b m t x s

/-- VCMPLE, class F (R288). -/
def execVcmpLeF (d : Fin 8) (a b : Fin 64) (m t : Fin 8) (x : Lit) (s : State) : Result :=
  vecCmpF (fun u v => !v.less false u) d a b m t x s

/-- VSCALB: a × 2^n, n from i32 lane i of VB, or i64 lane i for f64 (R287). -/
def execVscalb (d a b : Fin 64) (m t : Fin 8) (x : Lit) (s : State) : Result :=
  let ew := elemWF t.val
  let lw := laneWF t.val
  let p := s.va lw x a
  let q := s.vb lw x b
  .next (s.lanewise 2 d ew lw (s.me.mask m.val) (s.vp a || s.vp b)
    fun j => (fmtOf t.val).scalb (elem ew p j) (toInt lw true (elem lw q (j * ew / lw))))

/-! ### Integers -/

/-- VADD, class I: (a + b) mod 2^w (R289). -/
def execVaddI (d a b : Fin 64) (m t : Fin 8) (x : Lit) (s : State) : Result :=
  vecI2 2 (fun w _ u v => wrap w (u + v)) d a b m t x s

/-- VSUB, class I: (a − b) mod 2^w (R289). -/
def execVsubI (d a b : Fin 64) (m t : Fin 8) (x : Lit) (s : State) : Result :=
  vecI2 2 (fun w _ u v => wrap w ((u : Int) - v)) d a b m t x s

/-- VMUL, class I: (a × b) mod 2^w (R289). -/
def execVmulI (d a b : Fin 64) (m t : Fin 8) (x : Lit) (s : State) : Result :=
  vecI2 4 (fun w _ u v => u * v % 2 ^ w) d a b m t x s

/-- VMAD: (a × b + d) mod 2^w (R289). -/
def execVmad (d a b : Fin 64) (m t : Fin 8) (x : Lit) (s : State) : Result :=
  let ew := elemWI t.val
  let lw := laneWI t.val
  let p := s.va lw x a
  let q := s.vb lw x b
  let r := (s.me.vr d.val).v
  .next (s.lanewise 4 d ew lw (s.me.mask m.val) (s.vp a || s.vp b || s.vp d)
    fun j => ((elem ew p j * elem ew q j + elem ew r j) % 2 ^ ew, {}))

/-- An exact result clamped to the range of its type (R255, R289). -/
def clamp (w : Nat) (sg : Bool) (x : Int) : Nat :=
  let r := intRange w sg
  wrap w (if x < r.1 then r.1 else if r.2 < x then r.2 else x)

/-- VADDS (R289). -/
def execVadds (d a b : Fin 64) (m t : Fin 8) (x : Lit) (s : State) : Result :=
  vecI2 2 (fun w g u v => clamp w g (toInt w g u + toInt w g v)) d a b m t x s

/-- VSUBS (R289). -/
def execVsubs (d a b : Fin 64) (m t : Fin 8) (x : Lit) (s : State) : Result :=
  vecI2 2 (fun w g u v => clamp w g (toInt w g u - toInt w g v)) d a b m t x s

/-- VMIN, class I (R289). -/
def execVminI (d a b : Fin 64) (m t : Fin 8) (x : Lit) (s : State) : Result :=
  vecI2 2 (fun w g u v => if toInt w g u ≤ toInt w g v then u else v) d a b m t x s

/-- VMAX, class I (R289). -/
def execVmaxI (d a b : Fin 64) (m t : Fin 8) (x : Lit) (s : State) : Result :=
  vecI2 2 (fun w g u v => if toInt w g u ≤ toInt w g v then v else u) d a b m t x s

/-- VAND (R289). -/
def execVand (d a b : Fin 64) (m t : Fin 8) (x : Lit) (s : State) : Result :=
  vecI2 2 (fun _ _ u v => u &&& v) d a b m t x s

/-- VOR (R289). -/
def execVor (d a b : Fin 64) (m t : Fin 8) (x : Lit) (s : State) : Result :=
  vecI2 2 (fun _ _ u v => u ||| v) d a b m t x s

/-- VXOR (R289). -/
def execVxor (d a b : Fin 64) (m t : Fin 8) (x : Lit) (s : State) : Result :=
  vecI2 2 (fun _ _ u v => u ^^^ v) d a b m t x s

/-- VSHL: a << (b mod w) (R289). -/
def execVshl (d a b : Fin 64) (m t : Fin 8) (x : Lit) (s : State) : Result :=
  vecI2 2 (fun w _ u v => u * 2 ^ (v % w) % 2 ^ w) d a b m t x s

/-- VSHR: arithmetic for i types, logical for n types (R289). -/
def execVshr (d a b : Fin 64) (m t : Fin 8) (x : Lit) (s : State) : Result :=
  vecI2 2 (fun w g u v => wrap w ((toInt w g u).fdiv ((2 ^ (v % w) : Nat) : Int))) d a b m t x s

/-- VCLZ (R289). -/
def execVclz (d a : Fin 64) (m t : Fin 8) (x : Lit) (s : State) : Result :=
  let ew := elemWI t.val
  let lw := laneWI t.val
  let p := s.va lw x a
  .next (s.lanewise 2 d ew lw (s.me.mask m.val) (s.vp a) fun j => (leading ew (elem ew p j), {}))

/-- VCMPEQ, class I (R290). -/
def execVcmpEqI (d : Fin 8) (a b : Fin 64) (m t : Fin 8) (x : Lit) (s : State) : Result :=
  vecCmpI (fun u v => decide (u = v)) d a b m t x s

/-- VCMPLT, class I (R290). -/
def execVcmpLtI (d : Fin 8) (a b : Fin 64) (m t : Fin 8) (x : Lit) (s : State) : Result :=
  vecCmpI (fun u v => decide (u < v)) d a b m t x s

/-- VCMPLE, class I (R290). -/
def execVcmpLeI (d : Fin 8) (a b : Fin 64) (m t : Fin 8) (x : Lit) (s : State) : Result :=
  vecCmpI (fun u v => decide (u ≤ v)) d a b m t x s

/-! ### Moves, broadcasts and lane access -/

/-- VMOV (R291). -/
def execVmov (d a : Fin 64) (m t : Fin 8) (x : Lit) (s : State) : Result :=
  let lw := laneWI t.val
  let p := s.va lw x a
  .next (s.lanewise 2 d lw lw (s.me.mask m.val) (s.vp a) fun j => (elem lw p j, {}))

/-- VSEL: lane i of VA where the mask bit is 1, else of VB; every lane is written (R291). -/
def execVsel (d a b : Fin 64) (m t : Fin 8) (x : Lit) (s : State) : Result :=
  let lw := laneWI t.val
  let p := s.va lw x a
  let q := s.vb lw x b
  let k := s.me.mask m.val
  .next (s.lanewise 2 d lw lw (BitVec.allOnes 64) (s.vp a || s.vp b)
    fun j => (if k.getLsbD j then elem lw p j else elem lw q j, {}))

/-- VIOTA: element j takes j mod 2^w (R291). -/
def execViota (d : Fin 64) (m t : Fin 8) (s : State) : Result :=
  let ew := elemWI t.val
  .next (s.lanewise 2 d ew (laneWI t.val) (s.me.mask m.val) false fun j => (j % 2 ^ ew, {}))

/-- VBCST: every selected element takes g(A)[w−1:0] (R292). -/
def execVbcst (d a : Fin 64) (m t : Fin 8) (s : State) : Result :=
  let ew := elemWI t.val
  .next (s.lanewise 2 d ew (laneWI t.val) (s.me.mask m.val) (s.gp a) fun _ => ((s.gv a).toNat % 2 ^ ew, {}))

/-- VEXT: lane LN of VA, extended by the type's signedness (R292). -/
def execVext (d a n : Fin 64) (t : Fin 8) (x : Lit) (s : State) : Result :=
  let lw := laneWI t.val
  .next (s.putG 2 d (BitVec.ofInt 64 (toInt lw (signedI t.val) (elem lw (s.va lw x a) n.val))) (s.vp a))

/-- VINS: lane LN of vd takes g(A)[lane width − 1 : 0]; no mask applies (R292). -/
def execVins (d a n : Fin 64) (t : Fin 8) (s : State) : Result :=
  let lw := laneWI t.val
  .next (s.putV 2 d (BitVec.ofNat 2048 ((s.gv a).toNat % 2 ^ lw * 2 ^ (lw * n.val)))
    (BitVec.ofNat 2048 ((2 ^ lw - 1) * 2 ^ (lw * n.val))) (s.gp a) {})

/-! ### The mask stack -/

/-- MSKPSH (R293). -/
def execMskpsh (a : Fin 8) (s : State) : Result :=
  if 16 ≤ s.me.stack.length then .next (s.trapBare 0x59)
  else .next (s.put 1 (.stack ((s.me.top &&& s.me.mask a.val) :: s.me.stack)))

/-- MSKINV (R293). -/
def execMskinv (s : State) : Result :=
  match s.me.stack with
  | [] => .next (s.trapBare 0x59)
  | t :: rest =>
    let b := match rest with
      | [] => BitVec.allOnes 64
      | u :: _ => u
    .next (s.put 1 (.stack ((b &&& ~~~t) :: rest)))

/-- MSKPOP (R293). -/
def execMskpop (s : State) : Result :=
  match s.me.stack with
  | [] => .next (s.trapBare 0x59)
  | _ :: rest => .next (s.put 1 (.stack rest))

/-- MSKAND (R293). -/
def execMskand (d a b : Fin 8) (s : State) : Result :=
  .next (s.putM 1 d (s.me.mask a.val &&& s.me.mask b.val) (BitVec.allOnes 64) {})
/-- MSKOR (R293). -/
def execMskor (d a b : Fin 8) (s : State) : Result :=
  .next (s.putM 1 d (s.me.mask a.val ||| s.me.mask b.val) (BitVec.allOnes 64) {})
/-- MSKMOV (R293). -/
def execMskmov (d a : Fin 8) (s : State) : Result := .next (s.putM 1 d (s.me.mask a.val) (BitVec.allOnes 64) {})

/-! ### Reductions and conversions -/

/-- VRSUM, class F: the identity is −0 (R295). -/
def execVrsumF (d a : Fin 64) (m t : Fin 8) (x : Lit) (s : State) : Result :=
  let f := fmtOf t.val
  vecReduce (elemWF t.val) (laneWF t.val) (fun u v => f.add (f.value u) (f.value v)) (f.signed true 0) d a m x s

/-- VRMAX, class F: the identity is −∞ (R295). -/
def execVrmaxF (d a : Fin 64) (m t : Fin 8) (x : Lit) (s : State) : Result :=
  let f := fmtOf t.val
  vecReduce (elemWF t.val) (laneWF t.val) (fun u v => f.pick true u v) (f.signed true f.inf) d a m x s

/-- VRSUM, class I (R295). -/
def execVrsumI (d a : Fin 64) (m t : Fin 8) (x : Lit) (s : State) : Result :=
  let w := elemWI t.val
  vecReduce w (laneWI t.val) (fun u v => ((u + v) % 2 ^ w, {})) 0 d a m x s

/-- VRMAX, class I: the identity is the least value of the type (R295). -/
def execVrmaxI (d a : Fin 64) (m t : Fin 8) (x : Lit) (s : State) : Result :=
  let w := elemWI t.val
  let g := signedI t.val
  vecReduce w (laneWI t.val) (fun u v => (if toInt w g u ≤ toInt w g v then v else u, {})) (wrap w (intRange w g).1) d a m x s

/-- The greatest of some exponents. -/
def maxInt : List Int → Option Int
  | [] => none
  | x :: xs =>
    match maxInt xs with
    | none => some x
    | some y => some (max x y)

/-- VAMAX: the least e with max |a| < 2^e over the selected finite elements, in bits [31:0] of vd (R296). -/
def execVamax (d a : Fin 64) (m t : Fin 8) (x : Lit) (s : State) : Result :=
  let ew := elemWF t.val
  let lw := laneWF t.val
  let p := s.va lw x a
  let k := s.me.mask m.val
  let es := (List.range (2048 / ew)).filterMap fun j =>
    if k.getLsbD (j * ew / lw) then
      match (fmtOf t.val).value (elem ew p j) with
      | .fin _ u e => if u = 0 then none else some (leastExp u e)
      | _ => none
    else none
  .next (s.putV 4 d (BitVec.ofNat 2048 (wrap 32 ((maxInt es).getD 0))) (BitVec.ofNat 2048 (2 ^ 32 - 1)) (s.vp a) {})

/-- One element converted under R262: classes (1 for F), types, the source bits. -/
def convertElem (dc sc dt st : Nat) (x : Nat) : Elem :=
  if sc = 1 then
    let v := (fmtOf st).value x
    if dc = 1 then (fmtOf dt).convert v else toIntElem (elemWI dt) (signedI dt) v
  else
    let i := toInt (elemWI st) (signedI st) x
    if dc = 1 then (fmtOf dt).ofInt i else (wrap (elemWI dt) i, {})

/-- The element and lane widths of a type in a class (R279). -/
def elemWOf (c t : Nat) : Nat := if c = 1 then elemWF t else elemWI t
def laneWOf (c t : Nat) : Nat := if c = 1 then laneWF t else laneWI t

/-- VCVT: the first min(Ns, Nd) elements (R297). -/
def execVcvt (d a : Fin 64) (y z : Fin 2) (st m t : Fin 8) (x : Lit) (s : State) : Result :=
  let ew := elemWOf y.val t.val
  let sw := elemWOf z.val st.val
  let lw := laneWOf y.val t.val
  let p := s.va (laneWOf z.val st.val) x a
  let n := min (2048 / ew) (2048 / sw)
  let es := (elemResults ew lw (s.me.mask m.val)
    fun j => if j < n then convertElem y.val z.val t.val st.val (elem sw p j) else (0, {}))
  .next (s.putV 4 d (BitVec.ofNat 2048 (packLanes ew (es.map (·.1))))
    (laneBits lw (s.me.mask m.val) &&& BitVec.ofNat 2048 (2 ^ (n * ew) - 1)) (s.vp a) (flagsOf es))

/-- VPACK: two BMw blocks under the exponents E0, E1 at position P (R298). -/
def execVpack (d a b : Fin 64) (m t : Fin 8) (x : Lit) (s : State) : Result :=
  let w := widthB t.val
  let p := s.va 32 x a
  let q := s.vb 32 x b
  let k := s.me.mask m.val
  let base := 64 * w * (elem 32 q 2 % 16)
  let on := fun i : Nat => k.getLsbD i && decide (base + w * i + w ≤ 2048)
  let es : List Elem := (List.range 64).map fun i =>
    if k.getLsbD i then packElem w (elem 32 q (i / 32) % 256) ((fmtOf 2).value (elem 32 p i)) else (0, {})
  let sel := (List.range 64).map fun i => if on i then 2 ^ w - 1 else 0
  .next (s.putV 4 d (BitVec.ofNat 2048 (packLanes w (es.map (·.1)) * 2 ^ base))
    (BitVec.ofNat 2048 (packLanes w sel * 2 ^ base)) (s.vp a || s.vp b) (flagsOf es))

/-- VUNPK: mantissas widened to i32 lanes (R299). -/
def execVunpk (d a b : Fin 64) (m t : Fin 8) (x : Lit) (s : State) : Result :=
  let w := widthB t.val
  let p := s.va 32 x a
  let base := 64 * w * (elem 32 (s.vb 32 x b) 0 % 16)
  .next (s.lanewise 4 d 32 32 (s.me.mask m.val) (s.vp a || s.vp b) fun i =>
    (if base + w * i + w ≤ 2048 then wrap 32 (toInt w true (p.toNat / 2 ^ (base + w * i) % 2 ^ w)) else 0, {}))

/-- VSPLIT: slice p of each selected element, as bytes, and the mask of flagged lanes (R300). -/
def execVsplit (d a b : Fin 64) (x : BitVec 32) (s : State) : Result :=
  match s.vecPoison [a, b] with
  | some r => .next (s.trapPoison true r)
  | none =>
    let p := x.toNat % 8 + 1
    let t := if x.getLsbD 3 then 2 else 3
    let ew := elemWF t
    let n := 2048 / ew
    let k := s.me.top
    let r := (List.range n).map fun i =>
      sliceOf p (toInt 32 true (elem 32 (s.me.vr b.val).v i)) ((fmtOf t).value (elem ew (s.me.vr a.val).v i))
    let bytes := r.map fun o => wrap 8 (o.getD 0)
    let sel := (List.range n).map fun i => if k.getLsbD i then 255 else 0
    let flagged := r.map fun o => if o.isNone then 1 else 0
    let s1 := s.putV 8 d (BitVec.ofNat 2048 (packLanes 8 bytes)) (BitVec.ofNat 2048 (packLanes 8 sel)) false {}
    .next (s1.putM 8 ⟨x.toNat / 16 % 8, by omega⟩ (BitVec.ofNat 64 (packLanes 1 flagged))
      (k &&& BitVec.ofNat 64 (2 ^ n - 1)) {})

end Sys2Proof.Machine
end

