-- ==== Sys2Proof/Machine/Matrix.lean ====
section
/-!
DEFINITION. The Z slot (R302–R330) and VRCMB (R276, R301): the checks at issue against issue-time counts and modes, and the
entries of the matrix queue. MatrixPerform.lean performs them.
-/

namespace Sys2Proof.Machine

/-- The context's core. -/
def State.myCore (s : State) : Core := s.core (coreOf s.cur.id)
/-- Replace the context's core. -/
def State.setMyCore (s : State) (k : Core) : State := s.setCore (coreOf s.cur.id) k

/-- sr.mpc.LOST (R310). -/
def Ctx.lost (c : Ctx) : Bool := c.mpc.getLsbD 14

/-- A structural matrix fault: OP in [6:0] and the reason in [15:8] (R305). -/
def State.trapMode (s : State) (op reason : Nat) : State := s.trapOpen 0x42 (BitVec.ofNat 64 (op + reason * 256))

/-- Whether the context owns the array. -/
def State.ownsArray (s : State) : Bool := decide (s.myCore.owner = some s.cur.id)

/-- The steps that every owner's instruction starts with: discarded while LOST is set (R330); then ownership, 0x40; then
poison, 0x28, with v and g registers (R304, R305). -/
def matrixCheck (vs gs : List (Fin 64)) (s : State) (go : Result) : Result :=
  if s.me.lost then .next s.done
  else if !s.ownsArray then .next (s.trapBare 0x40)
  else
    match s.vecPoison vs, s.me.firstPoison (gs.map (·.val)) with
    | some r, _ => .next (s.trapPoison true r)
    | none, some r => .next (s.trapPoison false r)
    | none, none => go

/-- The tile an entry writes or marks (R416). -/
def XOp.tile : XOp → Option Nat
  | .acc t _ _ _ _ _ => some t
  | .zero t _ _ _ => some t
  | .sete t _ => some t
  | .clrf t => some t
  | .mark t _ _ _ => some t
  | _ => none

/-- An entry joins the core's queue of 32; a full queue holds the context (R306). `f` is the issue-time effect (R303). -/
def State.enqueue (s : State) (op : XOp) (f : Core → Core) : Result :=
  let k := s.myCore
  if 32 ≤ k.queue.length then .next s.holdFull
  else
    let c := s.me
    .next (State.setMe (s.setMyCore { f k with queue := (f k).queue ++ [⟨s.tid, s.cur.id, c.iss, op⟩] })
      { c with iss := c.iss + 1, touched := (c.touched ++ op.tile.toList).eraseDups })

/-- The first address of a tile (R202). -/
def tileBase (t : Nat) : Nat := 0x40000 * t
/-- The address of row `m` of a tile in the C buffer. -/
def rowBase (t m : Nat) : Nat := tileBase t + 1024 * m

/-- Whether a granule of a tile carries another function's tag (R153). -/
def State.tileForeign (s : State) (t : Nat) : Bool := s.foreign (coreOf s.cur.id) s.func 5 (tileBase t) 0x40000

/-- The issue-time mode of a tile (R303). -/
def Core.modeOf (k : Core) (t : Nat) : TileMode := Table.get {} k.mode t
/-- The performed header of a tile. -/
def Core.header (k : Core) (t : Nat) : TileHdr := Table.get {} k.hdr t

/-- The zeroed array of R302: its configuration stays, CFGD is clear. -/
def Core.zeroArray (k : Core) : Core :=
  { k with active := [], shadow := [], fifo := [], banks := [], scales := [], np := 0, ns := 0, cfgd := false }

/-- The array that a context acquires: every part of it zero (R302, R312). -/
def Core.freshArray (k : Core) : Core := { k.zeroArray with wa := 0, wb := 0, sl := false, s1 := 0 }

/-- Whether a matrix operation that a context issued before `iss` is still to be performed. -/
def State.matrixBefore (s : State) (id iss : Nat) : Bool :=
  (s.core (coreOf id)).queue.any fun e => decide (e.ctx = id) && decide (e.iss < iss)

/-- What sr.mpc holds is kept for the XMPCs and XRESs of a context that are to read it, before a later instruction changes it (R325). -/
def State.keepMpc (s : State) (id : Nat) : State :=
  { s with loads := s.loads.map fun l =>
      if l.ctx = id ∧ s.matrixBefore id l.iss = false then
        match l.dest with
        | .xmpc d none lost => { l with dest := .xmpc d (some (s.ctx id).mpc) lost }
        | .xres d none => { l with dest := .xres d (some (s.ctx id).mpc) }
        | _ => l
      else l }

/-- The XMPCs of a context that wait for matrix operations before them are to read LOST as an XRES after them finds it (R325). -/
def State.keepLost (s : State) (id : Nat) : State :=
  { s with loads := s.loads.map fun l =>
      if l.ctx = id then
        match l.dest with
        | .xmpc d none lost => { l with dest := .xmpc d none (lost || (s.ctx id).mpc.getLsbD 14) }
        | _ => l
      else l }

/-- sr.mpc with LOST clear (R325). -/
def clearLost (w : Word) : Word := w &&& ~~~(BitVec.ofNat 64 0x4000)

/-- XACQ (R163, R312): a free array, drained of an ended owner's operations and not waited for, is acquired at issue;
otherwise the context waits its turn. -/
def execXacq (s : State) : Result :=
  let k := s.myCore
  let id := s.cur.id
  if k.owner = some id then .next s.done
  else if k.owner.isNone && k.queue.isEmpty && k.waiters.isEmpty then
    .next (State.setMe ((s.keepMpc id).setMyCore { k.freshArray with owner := some id }) { s.me with mpc := 0 })
  else
    let w := if (s.ctx id).wait = some .xacq then k.waiters else (k.waiters.filter fun x => decide (x ≠ id)) ++ [id]
    .next (State.holdFor (s.setMyCore { k with waiters := w }) .xacq)

/-- Whether a matrix operation that the context issued before is still to be performed (R313, R324). -/
def State.matrixBusy (s : State) (id : Nat) : Bool := (s.core (coreOf id)).queue.any fun e => decide (e.ctx = id)

/-- XREL (R313). -/
def execXrel (s : State) : Result :=
  if !s.ownsArray then .next s.done
  else if s.matrixBusy s.cur.id then .next (s.holdFor .xrel)
  else .next (State.setMe ((s.keepMpc s.cur.id).setMyCore { s.myCore.zeroArray with owner := none })
    { s.me with mpc := clearLost s.me.mpc })

/-- An XWAIT of a context covers its earlier XACCs: its task's reads include them (R327), and their writes are in its cumulative set
(R366). -/
def State.coverXaccs (s : State) (core ctx tid iss : Nat) : State :=
  let k := s.core core
  { s.setCore core { k with undo := k.undo.filter fun u => decide (u.tid ≠ tid) || decide (iss ≤ u.iss) } with
    writes := s.writes.map fun w =>
      if w.ctx = ctx ∧ w.iss < iss ∧ w.cover = none ∧ w.inTile then { w with cover := some iss } else w }

/-- XWAIT (R324). -/
def execXwait (s : State) : Result :=
  if s.matrixBusy s.cur.id then .next (s.holdFor .xwait)
  else .next (s.coverXaccs (coreOf s.cur.id) s.cur.id s.tid s.me.iss).done

/-- XCFG in both forms: widths as class-B codes (R314). -/
def configure (wa wb : Nat) (sl : Bool) (s1 : Nat) (s : State) : Result :=
  matrixCheck [] [] s <|
    if s.myCore.np + s.myCore.ns ≠ 0 then .next (s.trapMode 0x00 1)
    else s.enqueue .cfg fun k => { k with wa := wa, wb := wb, sl := sl, s1 := s1, cfgd := true }

/-- XCFG bmA, bmB (R314). -/
def execXcfg (a b : Fin 8) (s : State) : Result := configure a.val b.val false 0 s
/-- XCFG.SL (R314). -/
def execXcfgSl (n : Fin 8) (s : State) : Result := configure 5 5 true n.val s

/-- XPUSH.A (R315): c rows of 32 × wa bytes from the A buffer. -/
def execXpushA (k : Fin 32) (a b : Fin 64) (s : State) : Result :=
  matrixCheck [] [a, b] s <|
    let co := s.myCore
    let d := s.gv b
    let c := field d 2 0 + 1
    let rb := 32 * widthB co.wa
    if !co.cfgd then .next (s.trapMode 0x03 1)
    else
      match checkAll (fun j : Nat => s.capCheck s.cur.id (s.me.kr k.val) [3] ((s.gv a).toInt + j * field d 31 8) rb pR 32)
          (List.range c) with
      | .error e => .next (s.trapCap e)
      | .ok rows =>
        if 8 < co.np + c then .next (s.trapMode 0x03 2)
        else if field d 7 3 ≠ 0 ∨ field d 63 32 ≠ 0 then .next (s.trapMode 0x03 4)
        else s.enqueue (.pushA (rows.map (·.addr)) rb) fun x => { x with np := x.np + c }

/-- The sealed lines of a W-buffer range, with slot and tweak (R316). -/
def State.sealedLines (s : State) (id addr n : Nat) : List (Nat × Nat × Nat) :=
  (unitsOf (coreOf id) 4 128 addr n).filterMap fun l => (s.sealTo (s.issuer id) l).map fun x => (l, x)

/-- Whether a slot's key is released to a context (R107). -/
def State.released (s : State) (id slot : Nat) : Bool := (Table.get {} s.keys slot).release.contains id

/-- XPUSH.W (R316): the keys of sealed lines are looked up at issue. -/
def execXpushW (k : Fin 32) (a b : Fin 64) (s : State) : Result :=
  matrixCheck [] [a, b] s <|
    let co := s.myCore
    let d := s.gv b
    let pm := field d 15 8
    let len := 4 * widthB co.wb * ones 8 pm
    let cap := s.me.kr k.val
    let lines := s.sealedLines s.cur.id (cap.base + (s.gv a).toInt).toNat len
    if !co.cfgd then .next (s.trapMode 0x04 1)
    else
      match s.capCheck s.cur.id cap [4] (s.gv a).toInt len (if lines.isEmpty then pR else pR + pSEAL) 4 with
      | .error e => .next (s.trapCap e)
      | .ok x =>
        if field d 63 16 ≠ 0 then .next (s.trapMode 0x04 4)
        else if lines.any fun l => !s.released s.cur.id l.2.1 then .next (s.trapBare 0x19)
        else
          let keys := lines.foldl (fun t l => Table.set t l.1 (s.sealKey l.2.1 l.2.2 l.1)) []
          s.enqueue (.pushW x.addr (field d 7 0) pm (widthB co.wb) keys) fun y => y

/-- XFLIP (R317). -/
def execXflip (s : State) : Result :=
  matrixCheck [] [] s <| if !s.myCore.cfgd then .next (s.trapMode 0x05 1) else s.enqueue .flip fun k => k

/-- XSHIFT (R319). -/
def execXshift (s : State) : Result :=
  matrixCheck [] [] s <|
    let k := s.myCore
    if !k.cfgd then .next (s.trapMode 0x06 1)
    else if k.np = 0 ∨ k.ns = 2 then .next (s.trapMode 0x06 2)
    else s.enqueue (.shift (widthB k.wa)) fun x => { x with np := x.np - 1, ns := x.ns + 1 }

/-- XSCL: the register is read at issue (R318). -/
def execXscl (r : Fin 64) (g : Fin 8) (s : State) : Result :=
  matrixCheck [r] [] s <|
    if !s.myCore.cfgd then .next (s.trapMode 0x07 1) else s.enqueue (.scl g.val (s.me.vr r.val).v) fun k => k

/-- Whether a tile's issue-time mode differs from the configuration (R320). -/
def Core.modeDiffers (k : Core) (t : Nat) : Bool :=
  let m := k.modeOf t
  decide (m.sl ≠ k.sl) || decide (m.wa ≠ k.wa) || decide (m.wb ≠ k.wb)

/-- XACC (R320). -/
def execXacc (t : Fin 8) (a b : Fin 64) (s : State) : Result :=
  matrixCheck [] [a, b] s <|
    let k := s.myCore
    let d := s.gv b
    if !k.cfgd then .next (s.trapMode 0x08 1)
    else if s.tileForeign t.val then .next (s.trapOpen 0x12 0)
    else if k.ns = 0 then .next (s.trapMode 0x08 2)
    else if k.modeDiffers t.val then .next (s.trapMode 0x08 3)
    else if field d 15 14 ≠ 0 ∨ field d 63 48 ≠ 0 then .next (s.trapMode 0x08 4)
    else if k.sl && decide ((k.s1 + 1) * (k.s1 + 2) / 2 ≤ field d 13 8) then .next (s.trapMode 0x08 5)
    else s.enqueue (.acc t.val (field d 7 0) (field d 13 8) (field d 47 16) k.sl (s.gv a)) fun x => { x with ns := x.ns - 1 }

/-- XZERO (R321): the tile's issue-time mode becomes the configuration. -/
def execXzero (t : Fin 8) (s : State) : Result :=
  matrixCheck [] [] s <|
    let k := s.myCore
    if !k.cfgd then .next (s.trapMode 0x0A 1)
    else if s.tileForeign t.val then .next (s.trapOpen 0x12 0)
    else s.enqueue (.zero t.val k.wa k.wb k.sl) fun x => { x with mode := Table.set x.mode t.val ⟨x.wa, x.wb, x.sl⟩ }

/-- XSETE (R321). -/
def execXsete (t : Fin 8) (a : Fin 64) (s : State) : Result :=
  matrixCheck [] [a] s <|
    if s.tileForeign t.val then .next (s.trapOpen 0x12 0)
    else if field (s.gv a) 63 10 ≠ 0 then .next (s.trapMode 0x0F 4)
    else s.enqueue (.sete t.val (field (s.gv a) 9 0)) fun k => k

/-- XCLRF (R321). -/
def execXclrf (t : Fin 8) (s : State) : Result :=
  matrixCheck [] [] s <|
    if s.tileForeign t.val then .next (s.trapOpen 0x12 0) else s.enqueue (.clrf t.val) fun k => k

/-- XMARK (R321). -/
def execXmark (t : Fin 8) (a b : Fin 64) (m : Fin 2) (s : State) : Result :=
  matrixCheck [] [a, b] s <|
    if s.tileForeign t.val then .next (s.trapOpen 0x12 0)
    else if field (s.gv a) 63 2 ≠ 0 then .next (s.trapMode 0x11 4)
    else s.enqueue (.mark t.val (decide (m.val = 1)) (field (s.gv a) 1 0) (s.gv b)) fun k => k

/-! ### Reading tiles -/

/-- The 256 elements of a tile row, as a reader sees them (R202, R327, R361). -/
def State.tileRow (s : State) (v : Viewer) (core t m : Nat) : List Int :=
  (List.range 256).map fun n =>
    toInt 32 true (leNat (s.seeAll v 0 ((List.range 4).map fun j => flatC core + rowBase t m + 4 * n + j)))

/-- The XACCs of a task, issued before `iss`, that no XWAIT has covered, with what they found (R327). -/
def State.uncovered (s : State) (core tid iss : Nat) : List Undo :=
  (s.core core).undo.filter fun u => decide (u.tid = tid) && decide (u.iss < iss)

/-- A byte of a tile as the context that issued XACCs into it reads it (R327): its own store still to be performed, or the element as
some prefix of the uncovered XACCs left it, the prefix free for each element. -/
def State.tileByte (s : State) (v : Viewer) (core : Nat) (units : List Nat) (a : Nat) : Byte :=
  let us := s.uncovered core (match (s.ctx v.ctx).task with | some t => t.tid | none => 0) v.iss
  if s.writes.any fun w => decide (w.ctx = v.ctx) && decide (w.iss < v.iss) && decide (w.level = 0) && (cellAt a w.cells).isSome
  then s.see v 0 a
  else
    match (us.drop (pick s.choice units (a / 4) (us.length + 1))).findSome? fun u => cellAt a u.cells with
    | some b => b
    | none => s.see v 0 a

/-- The elements of a tile row as that context reads them (R327). -/
def State.tileElems (s : State) (v : Viewer) (core : Nat) (units : List Nat) (t m : Nat) : List Int :=
  (List.range 256).map fun n =>
    toInt 32 true (leNat ((List.range 4).map fun j => s.tileByte v core units (flatC core + rowBase t m + 4 * n + j)))

/-- The elements of a row of some tiles, as units of a read. -/
def rowUnits (core m : Nat) (tiles : List Nat) : List Nat :=
  tiles.flatMap fun t => (List.range 256).map fun n => (flatC core + rowBase t m + 4 * n) / 4

/-- ± m × 2^e rounded toward zero to f32, largest finite beyond, as an XDRAIN gives it (R271). -/
def truncF32 (neg : Bool) (m : Nat) (e : Int) : Nat :=
  if m = 0 then 0
  else
    let f := fmtOf 2
    let q : Int := max (e + (bitLen m : Int) - 24) f.qmin
    let t := if q ≤ e then m * 2 ^ (e - q).toNat else m / 2 ^ (q - e).toNat
    let bits := (q - f.qmin) * 2 ^ 23 + t
    f.signed neg (if (f.inf : Int) ≤ bits then f.inf - 1 else bits.toNat)

/-- The exponent of a tile's elements in block mode (R268). -/
def TileHdr.exponent (h : TileHdr) : Int :=
  (h.et : Int) - 254 - (widthB h.wa - 1) - (widthB h.wb - 1) - 8

/-- The value of an XDRAIN of row m (R271, R323). -/
def drainValue (h : TileHdr) (row : List Int) (m q eo mode : Nat) : Vec :=
  let bad := fun n : Nat => h.rows.getLsbD m || h.cols.getLsbD n
  let x := h.exponent
  if mode = 0 then BitVec.ofNat 2048 (packLanes 32 ((List.range 64).map fun i => wrap 32 (row.getD (64 * q + i) 0)))
  else if mode = 1 then
    BitVec.ofNat 2048 (packLanes 32 ((List.range 64).map fun i =>
      let c := row.getD (64 * q + i) 0
      if bad (64 * q + i) then (fmtOf 2).nan else truncF32 (decide (c < 0)) c.natAbs x))
  else
    let w := widthB (mode - 2)
    BitVec.ofNat 2048 (packLanes w ((List.range 256).map fun n =>
      let c := row.getD n 0
      if bad n ∨ eo = 0 ∨ eo = 255 then 0
      else clamp w true (trunc0 (decide (c < 0)) c.natAbs (x - ((eo : Int) - 127 - ((w : Int) - 1))))))

/-- XDRAIN (R323): held until every earlier matrix operation, and acquire (R364), of the context has been performed; its result lands 8 steps
later in every lane, with a clear poison tag. XDRAIN_PERFORM reads the row again (DEDUCED, log entry 24). -/
def execXdrain (t : Fin 8) (a b : Fin 64) (m : Fin 8) (s : State) : Result :=
  matrixCheck [] [a] s <|
    let k := s.myCore
    let d := s.gv a
    if s.tileForeign t.val then .next (s.trapOpen 0x12 0)
    else if (decide (1 ≤ m.val) && (k.modeOf t.val).sl) ∨ (2 ≤ m.val ∧ field d 9 8 ≠ 0) then .next (s.trapMode 0x09 3)
    else if field d 15 10 ≠ 0 ∨ field d 63 24 ≠ 0 then .next (s.trapMode 0x09 4)
    else if s.matrixBusy s.cur.id || s.acquirePending s.cur.id s.me.iss then .next s.holdFull
    else
      let v : Viewer := ⟨s.cur.id, some (coreOf s.cur.id), s.me.iss, 0⟩
      let row := s.tileRow v (coreOf s.cur.id) t.val (field d 7 0)
      let val := drainValue (k.header t.val) row (field d 7 0) (field d 9 8) (field d 23 16) m.val
      let due := s.me.step + 8
      match s.enqueue (.drain t.val (field d 7 0) (field d 9 8) (field d 23 16) m.val b.val due) (fun x => x) with
      | .next s1 =>
        if s1.cur.verdict = .effect then
          let s2 := s1.put 8 (.v b.val val (BitVec.allOnes 2048) false)
          .next (s2.setMe { s2.me with drains := s2.me.drains ++ [s.me.iss] })
        else .next s1
      | r => r

/-! ### Readout of headers and progress -/

/-- XHDR (R306, R322): its interlocked result comes in its turn of the queue. -/
def execXhdr (t : Fin 8) (a b : Fin 64) (m : Fin 8) (s : State) : Result :=
  if !s.ownsArray then .next (s.trapBare 0x40)
  else if s.gp b && decide (m.val ≠ 0) then .next (s.trapPoison false b.val)
  else if s.tileForeign t.val then .next (s.trapOpen 0x12 0)
  else if m.val ≠ 0 ∧ field (s.gv b) 63 2 ≠ 0 then .next (s.trapMode 0x0E 4)
  else if 32 ≤ s.myCore.queue.length then .next s.holdFull
  else
    let s1 := s.issueLoad 5 0 [] (.xhdr a.val t.val m.val (field (s.gv b) 1 0)) false false
    let k := s1.myCore
    .next (s1.setMyCore { k with queue := k.queue ++ [⟨s.tid, s.cur.id, s.me.iss, .hdr s.fresh⟩] })

/-- XMPC (R325). -/
def execXmpc (r : Fin 64) (s : State) : Result := .next (s.issueLoad 5 0 [] (.xmpc r.val none false) false false)
/-- XRES (R325): LOST is clear for the instructions that follow; an XMPC before it still reads what was there. -/
def execXres (r : Fin 64) (s : State) : Result :=
  let s1 := ((s.keepMpc s.cur.id).keepLost s.cur.id).setMe { s.me with mpc := clearLost s.me.mpc }
  .next (s1.issueLoad 5 0 [] (.xres r.val none) false false)

/-! ### Recombination -/

/-- The value of R276 for one element, rounded once; a marked row or column gives the default NaN without a flag. -/
def recombine (f : Fmt) (marked : Bool) (e : Int) (ts : List Int) : Elem :=
  if marked then (f.nan, {})
  else
    let n := ts.length
    let v : Int := (ts.mapIdx fun i x => x * ((2 ^ (7 * (n - 1 - i)) : Nat) : Int)).sum
    f.round (decide (v < 0)) v.natAbs (e - 7 * ((n : Int) + 1)) false

/-- VRCMB (R276, R301): reads one row of the diagonal tiles, each element with some prefix of the uncovered
XACCs (R327), once no acquire before it is pending (R364). -/
def execVrcmb (d a g : Fin 64) (x : BitVec 32) (s : State) : Result :=
  let sc := x.toNat % 8 + 1
  let t0 := x.toNat / 8 % 8
  let t := if x.getLsbD 6 then 2 else 3
  let ew := elemWF t
  let k := s.myCore
  let tiles := (List.range sc).map (t0 + ·)
  if tiles.any s.tileForeign then .next (s.trapOpen 0x12 0)
  else if tiles.any fun i => !(k.modeOf i).sl then .next (s.trapMode 0x25 3)
  else if s.acquirePending s.cur.id s.me.iss then .next s.holdFull
  else
    let m := field (s.gv g) 7 0
    let n0 := field (s.gv g) 15 8
    let ei := toInt 32 true (field (s.gv g) 63 32)
    let v : Viewer := ⟨s.cur.id, some (coreOf s.cur.id), s.me.iss, 0⟩
    let units := rowUnits (coreOf s.cur.id) m tiles
    let rows := tiles.map fun i => s.tileElems v (coreOf s.cur.id) units i m
    let on := fun i : Nat => s.me.top.getLsbD i && decide (n0 + i ≤ 255)
    let es : List Elem := (List.range (2048 / ew)).map fun i =>
      if on i then
        recombine (fmtOf t) (tiles.any fun j => (k.header j).rows.getLsbD m || (k.header j).cols.getLsbD (n0 + i))
          (ei + toInt 32 true (elem 32 (s.me.vr a.val).v i)) (rows.map fun r => r.getD (n0 + i) 0)
      else (0, {})
    let sel := packLanes ew ((List.range (2048 / ew)).map fun i => if on i then 2 ^ ew - 1 else 0)
    let s1 := { s with choice := if (s.uncovered (coreOf s.cur.id) s.tid s.me.iss).isEmpty then s.choice else s.choice + units.length }
    .next (s1.putV 8 d (BitVec.ofNat 2048 (packLanes ew (es.map (·.1)))) (BitVec.ofNat 2048 sel) (s.vp a || s.gp g) (flagsOf es))

end Sys2Proof.Machine
end

