-- ==== Sys2Proof/Machine/MatrixPerform.lean ====
section
/-!
DEFINITION. The steps of a core's matrix queue (R306, R315–R323): each performs the oldest entry when it is of its kind, and
otherwise leaves the state as it is. XREL_COMPLETE and XWAIT_COMPLETE end waits on the array.
-/

namespace Sys2Proof.Machine

/-- Whether an entry of the queue must wait: an acquire before it is pending (R364), or an XMPC or XRES before it is still to read
what the entries before that one left (R325). -/
def State.entryWaits (s : State) (e : XEntry) : Bool :=
  s.acquirePending e.ctx e.iss || s.loads.any fun l => decide (l.ctx = e.ctx) && decide (l.iss < e.iss) && match l.dest with
    | .xmpc _ none _ => true
    | .xres _ none => true
    | _ => false

/-- Perform the oldest entry of a core's queue (R306): `f` gives the state after it, from the state without it, or none where
the entry is of another kind or must wait. None is begun for a function that is being released: it is discarded with its task (R93, R328). -/
def atHead (core : Nat) (s : State) (f : XEntry → State → Option State) : Result :=
  if s.coreCount ≤ core then .fault .noSuchUnit
  else
    match (s.core core).queue with
    | [] => .next s
    | e :: q =>
      if s.entryWaits e || s.haltedFor e.tid then .next s
      else
      match f e (s.setCore core { s.core core with queue := q }) with
      | none => .next s
      | some s1 => .next s1

/-- The locations of a range of a core buffer. -/
def bufPlaces (core space addr n : Nat) : List Nat := (List.range n).map fun i => flatOf core space (addr + i)

/-- What an entry of the queue reads a buffer as: the core's writes and memory (R202, R326). -/
def arrayViewer (core : Nat) : Viewer := ⟨0, some core, 0, 1⟩

/-- The `w`-bit two's-complement elements of a bit string (R263, R265). -/
def mantissas (w n x : Nat) : List Int := (List.range n).map fun i => toInt w true (x / 2 ^ (w * i) % 2 ^ w)

/-- The rows that an XPUSH.A reads (R315). -/
def State.pushedRows (s : State) (core rb : Nat) (rows : List Nat) : List (List Int) :=
  rows.map fun a => mantissas (rb / 32) 256 (leNat (s.seeAll (arrayViewer core) 0 (bufPlaces core 3 a rb)))

/-- XPUSH.A is performed: the FIFO receives its rows (R315), once the task's own earlier stores to those bytes have been
performed (R326) and no word of them is locked (R372). -/
def execXpushAPerform (core : Nat) (s : State) : Result :=
  atHead core s fun e s1 =>
    match e.op with
    | .pushA rows rb =>
      if rows.any fun a => s1.ownStore e.ctx e.iss (bufPlaces core 3 a rb) || s1.spcLocked (bufPlaces core 3 a rb) then none
      else
        let k := s1.core core
        some (s1.setCore core { k with fifo := k.fifo ++ s1.pushedRows core rb rows })
    | _ => none

/-- A byte of the W buffer as XPUSH.W delivers it: a sealed line is decrypted with the key looked up at issue and the tweak it records
(R316). A line that was not sealed at issue has no key: it yields its ciphertext (R107; DEDUCED, log entry 50). -/
def State.weightByte (s : State) (core : Nat) (keys : Table Nat) (flat : Nat) : Byte :=
  let u := s.viewOf (arrayViewer core) (flat / 128)
  match Table.find u.lines (flat / 128) with
  | some (.raw _ tweak) =>
    match Table.find keys (flat / 128) with
    | some k => blockByte (Config.xtsDec k tweak (flat / 16 % 8) (memBlock u.mem flat)) flat
    | none => u.mem.read flat
  | _ => u.peek 0 flat

/-- The mantissas of column cells that an XPUSH.W loads, in row order: absent blocks are zero (R316). -/
def columnCells (wb pm : Nat) (bytes : List Byte) : Nat → Nat → List Int
  | 0, _ => []
  | k + 1, p =>
    if pm / 2 ^ (7 - k) % 2 = 1 then
      mantissas wb 32 (leNat ((bytes.drop p).take (4 * wb))) ++ columnCells wb pm bytes k (p + 4 * wb)
    else List.replicate 32 0 ++ columnCells wb pm bytes k p

/-- A plane with column `n` replaced; cell (k, n) has key 256k + n. -/
def setColumn (n : Nat) (cells : List Int) (plane : Table Int) : Table Int :=
  (cells.mapIdx fun k x => (256 * k + n, x)).foldl (fun t p => Table.set t p.1 p.2) plane

/-- XPUSH.W is performed: column n of the shadow plane (R316). -/
def execXpushWPerform (core : Nat) (s : State) : Result :=
  atHead core s fun e s1 =>
    match e.op with
    | .pushW off n pm wb keys =>
      let locs := bufPlaces core 4 off (4 * wb * ones 8 pm)
      if s1.ownStore e.ctx e.iss locs then none
      else
        let k := s1.core core
        let cells := columnCells wb pm (locs.map (s1.weightByte core keys)) 8 0
        some (s1.setCore core { k with shadow := setColumn n cells k.shadow })
    | _ => none

/-- XFLIP is performed: the planes change places (R317). -/
def execXflipPerform (core : Nat) (s : State) : Result :=
  atHead core s fun e s1 =>
    match e.op with
    | .flip => let k := s1.core core; some (s1.setCore core { k with active := k.shadow, shadow := k.active })
    | _ => none

/-- XSCL is performed: eb[SEG][n] takes byte n of the register, for every n (R318). -/
def execXsclPerform (core : Nat) (s : State) : Result :=
  atHead core s fun e s1 =>
    match e.op with
    | .scl seg v =>
      let k := s1.core core
      some (s1.setCore core
        { k with scales := (List.range 256).foldl (fun t n => Table.set t (256 * seg + n) (elem 8 v n)) k.scales })
    | _ => none

/-- The exact partials of a row: P[s][n] at place 256s + n (R267, R319). -/
def partials (plane : Table Int) (a : List Int) : List Int :=
  (List.range 8).flatMap fun s => (List.range 256).map fun n =>
    ((List.range 32).map fun i => a.getD (32 * s + i) 0 * Table.get 0 plane (256 * (32 * s + i) + n)).sum

/-- XSHIFT is performed: the oldest FIFO row's beats into the free bank (R319). -/
def execXshiftPerform (core : Nat) (s : State) : Result :=
  atHead core s fun e s1 =>
    match e.op with
    | .shift _ =>
      let k := s1.core core
      match k.fifo with
      | [] => none
      | a :: rest => some (s1.setCore core { k with fifo := rest, banks := k.banks ++ [partials k.active a] })
    | _ => none

/-- An integer clamped to 32 bits (R269). -/
def satur32 (x : Int) : Int := max (-(2 ^ 31)) (min x (2 ^ 31 - 1))

/-- The contribution of one segment in block mode (R269). -/
def contribution (et ea eb : Nat) (p : Int) : Int :=
  if ea = 0 ∨ ea = 255 ∨ eb = 0 ∨ eb = 255 then 0
  else trunc0 (decide (p < 0)) p.natAbs (8 - ((et : Int) - (ea + eb)))

/-- The element and saturation of an XACC (R269, R270): `cs` are the contributions of the segments. -/
def accumulate (c : Int) (cs : List Int) : Int × Bool :=
  let sum := c + (cs.map satur32).sum
  (satur32 sum, decide (satur32 sum ≠ sum) || cs.any fun x => decide (satur32 x ≠ x))

/-- The byte `s` of the A-side exponents of an XACC (R269). -/
def exponentA (ea : Word) (s : Nat) : Nat := field ea (8 * s + 7) (8 * s)

/-- A tile row after an XACC: elements and saturation (R269, R270). -/
def accRow (h : TileHdr) (sl : Bool) (ea : Word) (scales : Table Nat) (bank row : List Int) : List (Int × Bool) :=
  (List.range 256).map fun n =>
    let c := row.getD n 0
    if sl then accumulate c [((List.range 8).map fun s => bank.getD (256 * s + n) 0).sum]
    else accumulate c ((List.range 8).map fun s =>
      contribution h.et (exponentA ea s) (Table.get 0 scales (256 * s + n)) (bank.getD (256 * s + n) 0))

/-- The marks an XACC sets in block mode (R269): the row where some ea is 255, the columns where some eb is. -/
def accMarks (h : TileHdr) (m : Nat) (ea : Word) (scales : Table Nat) : TileHdr :=
  { h with
    rows := if (List.range 8).any fun s => decide (exponentA ea s = 255) then h.rows ||| (1#256 <<< m) else h.rows
    cols := h.cols ||| BitVec.ofNat 256 (packLanes 1 ((List.range 256).map fun n =>
      if (List.range 8).any fun s => decide (Table.get 0 scales (256 * s + n) = 255) then 1 else 0)) }

/-- The locations of a tile row. -/
def rowPlaces (core t m : Nat) : List Nat := (List.range 1024).map fun i => flatC core + rowBase t m + i

/-- Change the context that runs a task, if one does. -/
def State.withTask (s : State) (tid : Nat) (f : Ctx → Ctx) : State :=
  match ctxOfTid tid s.ctxs with
  | some i => s.setCtx i (f (s.ctx i))
  | none => s

/-- sr.mpc after an XACC (R310); LOST stays. -/
def mpcWord (old : Word) (row pair kstep : Nat) : Word :=
  (old &&& BitVec.ofNat 64 0x4000) ||| BitVec.ofNat 64 (kstep * 2 ^ 16 + 2 ^ 15 + pair * 2 ^ 8 + row)

/-- Log a saturation of the task's partition once (R269, R401). -/
def State.logSat (s : State) (tid core : Nat) (sat : Bool) : State :=
  if sat then s.event (match s.taskOf tid with | some t => t.l1 | none => 0) 0x41 core else s

/-- Keep what an XACC finds in its row, until an XWAIT of its task (R327); for other tasks the row's older state goes. -/
def State.noteRow (s : State) (core : Nat) (e : XEntry) (row : List Nat) : State :=
  let k := s.core core
  let old := row.map fun a => (a, s.see (arrayViewer core) 0 a)
  s.setCore core { k with
    undo := (k.undo.map fun u => if u.tid = e.tid then u else { u with cells := u.cells.filter fun c => !row.contains c.1 })
      ++ [⟨e.tid, e.iss, old⟩] }

/-- XACC is performed: the oldest bank into row ROW of the tile, a write at CORE (R379), then sr.mpc (R269, R270, R320), once the task's own earlier
stores to the row have been performed (R326). -/
def execXaccPerform (core : Nat) (s : State) : Result :=
  atHead core s fun e s1 =>
    match e.op with
    | .acc t m pair kstep sl ea =>
      let k := s1.core core
      match k.banks with
      | [] => none
      | bank :: rest =>
        if s1.ownStore e.ctx e.iss (rowPlaces core t m) then none
        else
          let h := k.header t
          let out := accRow h sl ea k.scales bank (s1.tileRow (arrayViewer core) core t m)
          let sat := out.any (·.2)
          let h1 := if sl then h else accMarks h m ea k.scales
          let s2 := s1.setCore core
            { k with banks := rest, hdr := Table.set k.hdr t { h1 with ovf := h.ovf || sat } }
          let s3 := (s2.noteRow core e (rowPlaces core t m)).writeEngine e.tid e.ctx e.iss 0 0
            ((rowPlaces core t m).zip (out.flatMap fun x => leBytes 4 (wrap 32 x.1)))
          let s4 := s3.tagGranules core (s.funcOf e.tid) 5 (rowBase t m) 1024
          some ((s4.withTask e.tid fun c => { c with mpc := mpcWord c.mpc m pair kstep }).logSat e.tid core sat)
    | _ => none

/-- Replace the value of a pending v result (R323). -/
def setPending (due n : Nat) (v : Vec) (rs : List Res) : List Res :=
  rs.map fun r =>
    match r.val with
    | .v n' _ sel q => if r.due = due ∧ n' = n then ⟨due, .v n v sel q⟩ else r
    | _ => r

/-- XDRAIN is performed: it reads its row, and the value is the one that lands (R271, R323). A result that trap entry has moved into a latch
record stays as its issue read it (R408; DEDUCED, log entry 24). -/
def execXdrainPerform (core : Nat) (s : State) : Result :=
  atHead core s fun e s1 =>
    match e.op with
    | .drain t m q eo mode vd due =>
      if s1.ownStore e.ctx e.iss (rowPlaces core t m) then none
      else
        let v := drainValue ((s1.core core).header t) (s1.tileRow (arrayViewer core) core t m) m q eo mode
        some (s1.withTask e.tid fun c =>
          if c.drains.contains e.iss then { c with pend := setPending due vd v c.pend, drains := c.drains.filter fun n => decide (n ≠ e.iss) }
          else c)
    | _ => none

/-- XZERO is performed: every element zero, marks and OVF clear, the mode of the configuration; Et stays (R321). -/
def execXzeroPerform (core : Nat) (s : State) : Result :=
  atHead core s fun e s1 =>
    match e.op with
    | .zero t wa wb sl =>
      let k := s1.core core
      let s2 := s1.setCore core { k with
        hdr := Table.set k.hdr t ⟨(k.header t).et, wa, wb, sl, false, 0, 0⟩
        undo := k.undo.map fun u => { u with cells := u.cells.filter fun c => decide (c.1 < flatC core + tileBase t) || decide (flatC core + tileBase t + 0x40000 ≤ c.1) } }
      some ((s2.writeChip 0 (cellsAt (flatC core + tileBase t) (List.replicate 0x40000 0))).tagGranules core
        (s.funcOf e.tid) 5 (tileBase t) 0x40000)
    | _ => none

/-- XSETE is performed: the tile's exponent (R321). -/
def execXsetePerform (core : Nat) (s : State) : Result :=
  atHead core s fun e s1 =>
    match e.op with
    | .sete t et =>
      let k := s1.core core
      some (s1.setCore core { k with hdr := Table.set k.hdr t { k.header t with et := et } })
    | _ => none

/-- XCLRF is performed: marks and OVF clear (R321). -/
def execXclrfPerform (core : Nat) (s : State) : Result :=
  atHead core s fun e s1 =>
    match e.op with
    | .clrf t =>
      let k := s1.core core
      some (s1.setCore core { k with hdr := Table.set k.hdr t { k.header t with ovf := false, rows := 0, cols := 0 } })
    | _ => none

/-- A mark word put into 256 marks: bit b of word i belongs to index 64i + b (R309). -/
def markBits (i : Nat) (w : Word) : BitVec 256 := w.setWidth 256 <<< (64 * i)

/-- XMARK is performed: one mark word of rows or columns is ORed (R321). -/
def execXmarkPerform (core : Nat) (s : State) : Result :=
  atHead core s fun e s1 =>
    match e.op with
    | .mark t col i w =>
      let k := s1.core core
      let h := k.header t
      let h1 := if col then { h with cols := h.cols ||| markBits i w } else { h with rows := h.rows ||| markBits i w }
      some (s1.setCore core { k with hdr := Table.set k.hdr t h1 })
    | _ => none

/-- XCFG is performed: planes and column scales zeroised, sr.mpc cleared (R310, R314). -/
def execXcfgPerform (core : Nat) (s : State) : Result :=
  atHead core s fun e s1 =>
    match e.op with
    | .cfg =>
      let k := s1.core core
      some ((s1.setCore core { k with active := [], shadow := [], scales := [] }).withTask e.tid fun c => { c with mpc := 0 })
    | _ => none

/-! ### Ownership -/

/-- A context becomes the owner of its core's array (R302, R312): the array state is zero. A task that owned it when it was
switched out finds its configuration again, and LOST set (R330); another has sr.mpc cleared (R310). -/
def State.acquire (s : State) (id : Nat) : State :=
  let c := s.ctx id
  let k := (s.core (coreOf id)).freshArray
  match c.owned with
  | some g =>
    (s.setCore (coreOf id) { k with owner := some id, wa := g.wa, wb := g.wb, sl := g.sl, s1 := g.s1, cfgd := g.cfgd }).setCtx
      id { c with owned := none, mpc := c.mpc ||| BitVec.ofNat 64 0x4000 }
  | none =>
    ((s.keepMpc id).setCore (coreOf id) { k with owner := some id }).setCtx id
      { c with mpc := 0, wait := if c.wait = some .xacq then none else c.wait }

/-- Whether a context still waits for its array: in XACQ, or switched back in (R163). -/
def Ctx.wantsArray (c : Ctx) : Bool := decide (c.wait = some .xacq) || c.owned.isSome

/-- XREL_COMPLETE: the waiting owner's queue has drained; the array state is zeroised and ownership ends (R313). -/
def execXrelComplete (id : Nat) (s : State) : Result :=
  let c := s.ctx id
  match c.wait with
  | some .xrel =>
    if s.matrixBusy id then .next s
    else
      .next (((s.keepMpc id).setCore (coreOf id) { (s.core (coreOf id)).zeroArray with owner := none }).setCtx id
        { c with wait := none, mpc := clearLost c.mpc })
  | _ => .next s

/-- XWAIT_COMPLETE: every matrix operation that the context issued before has been performed (R324). -/
def execXwaitComplete (id : Nat) (s : State) : Result :=
  let c := s.ctx id
  match c.wait, c.task with
  | some .xwait, some t =>
    if s.matrixBusy id then .next s else .next (State.setCtx (s.coverXaccs (coreOf id) id t.tid c.iss) id { c with wait := none })
  | _, _ => .next s

end Sys2Proof.Machine
end

