-- ==== Sys2Proof/Machine/Engine.lean ====
section
/-!
DEFINITION. The steps of the memory engines: results that land, loads and divides that return (R158, R230), writes that move
outward (R360), copy beats (R250–R253), the ends of circular-buffer and TLOCK waits, and the deadlock escape (R164, R215).
-/

namespace Sys2Proof.Machine

/-! ### Results -/

/-- Whether a context takes no step before something else: it is switched out or in a debug stop (R431), an exception waits to be taken, a
STEAL to be answered, or a pre-emption, a timer, an interrupt or a fault of the next bundle comes first. Its results that are due at the step it
has not taken become latch records (R411, R434). -/
def State.frozen (s : State) (id : Nat) : Bool :=
  let c := s.ctx id
  decide (c.preempt = .out) || decide (c.preempt = .entering) || c.stopped || c.trapReq.isSome || c.steal.isSome || c.faultDue || s.yields id

/-- RESULT_LAND: every exposed result due by the context's current step is in its register (R158, R159), unless something comes before
that step (R162, R408). -/
def execResultLand (id : Nat) (s : State) : Result := if s.frozen id then .next s else .next (s.setCtx id (s.ctx id).land)

/-- Change a context if it still runs a task. -/
def State.ifRuns (s : State) (id tid : Nat) (f : Ctx → Ctx) : State :=
  match (s.ctx id).task with
  | some t => if t.tid = tid then s.setCtx id (f (s.ctx id)) else s
  | none => s

/-- DIVIDE_COMPLETE: an interlocked divide result is written (R160, R178). -/
def execDivideComplete (n : Nat) (s : State) : Result :=
  match s.divs.find? fun d => decide (d.id = n) with
  | none => .next s
  | some d =>
    .next (State.ifRuns { s with divs := s.divs.filter fun x => decide (x.id ≠ n) } d.ctx d.tid fun c =>
      c.comeFrom d.id (.g d.dest d.val d.p))

/-! ### Loads -/

/-- The registers an interlocked load writes. -/
def LoadDest.regs : LoadDest → List Reg
  | .g n _ _ => [.g n]
  | .v n => [.v n]
  | .m n => [.m n]
  | .k n => [.k n]
  | .xhdr n _ _ _ => [.g n]
  | .xmpc n _ _ => [.g n]
  | .xres n _ => [.g n, .g (n + 1), .g (n + 2)]
  | .word n _ _ => [.g n]

/-- The locations of a load's parts with their byte offsets in the register; or the first late fault (R229, R238). -/
def State.partPlaces (s : State) (t : Task) (ctx space : Nat) :
    List (Nat × Nat × Nat) → Except (Nat × Nat) (List (Nat × Option Nat))
  | [] => .ok []
  | (o, a, n) :: ps =>
    match s.readPlaces t ctx space (chunks a n) with
    | .error e => .error e
    | .ok ls =>
      match State.partPlaces s t ctx space ps with
      | .error e => .error e
      | .ok r => .ok ((ls.mapIdx fun i l => (o + i, l)) ++ r)

/-- The locations among places. -/
def located (ps : List (Nat × Option Nat)) : List Nat := ps.filterMap (·.2)

/-- What a load of `bytes`, each with its offset in the register, writes to `dest` (R232–R240). -/
def LoadDest.value (dest : LoadDest) (bytes : List (Nat × Byte)) (tag poison : Bool) : Payload :=
  let num := bytes.foldl (fun x p => x + p.2.toNat * 256 ^ p.1) 0
  match dest with
  | .g n size signed => .g n (BitVec.ofInt 64 (toInt (8 * size) signed num)) poison
  | .v n => .v n (BitVec.ofNat 2048 num) (BitVec.ofNat 2048 (bytes.foldl (fun x p => x + 255 * 256 ^ p.1) 0)) poison
  | .m n => .m n (BitVec.ofNat 64 num) (BitVec.allOnes 64)
  | .k n => .k n ⟨BitVec.ofNat 128 num, tag⟩
  | .xhdr n _ _ _ => .g n 0 false
  | .xmpc n _ _ => .g n 0 false
  | .xres n _ => .g n 0 false
  | .word n w p => .g n w p

/-- The control word of a tile (R308). -/
def TileHdr.word (h : TileHdr) : Word :=
  BitVec.ofNat 64 (h.et + h.wa * 2 ^ 10 + h.wb * 2 ^ 13 + h.sl.toNat * 2 ^ 16 + h.ovf.toNat * 2 ^ 17
    + (decide (h.rows ≠ 0)).toNat * 2 ^ 18 + (decide (h.cols ≠ 0)).toNat * 2 ^ 19)

/-- What XHDR reads (R322). -/
def TileHdr.read (h : TileHdr) (mode i : Nat) : Word :=
  if mode = 0 then h.word else (if mode = 1 then h.rows else h.cols).extractLsb' (64 * i) 64

/-- What XRES writes from sr.mpc (R325): pair, k-step and next row, or zeros. -/
def resumePoint (mpc : Word) : Word × Word × Word :=
  if field mpc 15 15 = 1 then
    (BitVec.ofNat 64 (field mpc 13 8), BitVec.ofNat 64 (field mpc 47 16), BitVec.ofNat 64 (field mpc 7 0 + 1))
  else (0, 0, 0)

/-- The queue of a core without the XHDR that heads it, where that is load `n` (R306, R322). -/
def Core.popHdr (k : Core) (n : Nat) : Option Core :=
  match k.queue with
  | e :: q => if e.op = .hdr n then some { k with queue := q } else none
  | [] => none

/-- The readout of headers and progress (R322, R325): XHDR in its turn of the queue; XMPC and XRES once every earlier matrix
operation of the context has been performed. -/
def State.returnReadout (s : State) (l : Load) : Option State :=
  let n := coreOf l.ctx
  match l.dest with
  | .xhdr d t mode i =>
    match (s.core n).popHdr l.id with
    | none => none
    | some k => some ((s.setCore n k).ifRuns l.ctx l.tid fun c => c.comeFrom l.id (.g d ((k.header t).read mode i) false))
  | .xmpc d got lost =>
    if s.matrixBefore l.ctx l.iss then none
    else some (s.ifRuns l.ctx l.tid fun c =>
      c.comeFrom l.id (.g d (got.getD c.mpc ||| if lost then BitVec.ofNat 64 0x4000 else 0) false))
  | .xres d got =>
    if s.matrixBefore l.ctx l.iss then none
    else
      some (s.ifRuns l.ctx l.tid fun c =>
        let r := resumePoint (got.getD c.mpc)
        ((c.comeFrom l.id (.g d r.1 false)).comeFrom l.id (.g (d + 1) r.2.1 false)).comeFrom l.id (.g (d + 2) r.2.2 false))
  | .word d w p => some (s.ifRuns l.ctx l.tid fun c => c.comeFrom l.id (.g d w p))
  | _ => none

/-- The locations of a pending load of a task, as they translate now. -/
def State.loadSpots (s : State) (l : Load) : List Nat :=
  match s.taskOf l.tid with
  | none => []
  | some t =>
    match s.partPlaces t l.ctx l.space l.parts with
    | .ok ps => located ps
    | .error _ => []

/-- The locations of an atomic as they translate now. -/
def State.atomSpots (s : State) (a : Atom) : List Nat :=
  if a.locs.isEmpty then
    match s.taskOf a.tid with
    | none => []
    | some t =>
      match s.readPlaces t a.ctx a.a.space [(a.a.addr, a.a.size)] with
      | .ok ls => ls.filterMap fun x => x
      | .error _ => []
  else a.locs

/-- Two lists of locations have one in common. -/
def meet (as bs : List Nat) : Bool := as.any fun x => bs.contains x

/-- Whether an earlier load or atomic of the context names one of a load's locations, by whatever address (R361, R362). -/
def State.spotBefore (s : State) (l : Load) (spots : List Nat) : Bool :=
  (s.loads.any fun x => decide (x.ctx = l.ctx) && decide (x.iss < l.iss) && meet (s.loadSpots x) spots)
    || s.atoms.any fun a => decide (a.ctx = l.ctx) && decide (a.iss < l.iss) && meet (s.atomSpots a) spots

/-- Whether a load may be performed now: no acquire before it is pending (R364), no earlier load or atomic of the context that names
one of its bytes (R361, R362), no page request (R352), and no word of it is locked (R372). -/
def State.loadFree (s : State) (l : Load) : Bool :=
  !s.acquirePending l.ctx l.iss
    && (l.parts.all fun p =>
      !(s.loads.any fun x => x.before l.ctx l.iss l.space p.2.1 p.2.2) && !s.atomBefore l.ctx l.iss l.space p.2.1 p.2.2
        && !s.hostWaits (s.funcOf l.tid) l.space p.2.1 p.2.2)
    && !s.spotBefore l (s.loadSpots l) && !s.spcLocked (s.loadSpots l)

/-- The destination of a load that LDS or VLDS gives up: 0 and poison in the lanes it would write (R235). -/
def Load.givenUp (l : Load) : Payload :=
  l.dest.value ((l.parts.map fun p => (List.range p.2.2).map fun i => (p.1 + i, (0 : Byte))).flatten) false true

/-- Who a load reads as: its context, with its own earlier writes (R359). -/
def Load.viewer (l : Load) : Viewer := ⟨l.ctx, some (coreOf l.ctx), l.iss, 0⟩

/-- The byte a load gets in a 64-byte chunk: as it is, or as it was before some of the copy beats that have overwritten the chunk
while the load could be performed; the choice is free for each chunk (R9, R200). -/
def State.chunkByte (s : State) (l : Load) (units : List Nat) (a : Nat) : Byte :=
  match (l.old.drop (pick s.choice units (a / 64) (l.old.length + 1))).findSome? (cellAt a) with
  | some b => b
  | none => s.see l.viewer l.key a

/-- The byte a load gets (R230, R361): in the C buffer with the prefixes of R327, elsewhere with the beats of R200. -/
def State.loadByte (s : State) (l : Load) (units : List Nat) (a : Nat) : Byte :=
  if l.space = 5 then s.tileByte l.viewer (coreOf l.ctx) units a else s.chunkByte l units a

/-- The units of a load, each of which may show its own state: the elements of a tile (R327), or 64-byte chunks (R200). -/
def Load.units (l : Load) (spots : List Nat) : List Nat := (spots.map (· / (if l.space = 5 then 4 else 64))).eraseDups

/-- Whether the load has more than one state to show. -/
def State.freeRead (s : State) (l : Load) : Bool :=
  if l.space = 5 then !(s.uncovered (coreOf l.ctx) l.tid l.iss).isEmpty else !l.old.isEmpty

/-- A load returns (R229, R230, R361): its data, its late fault, or its soft 0; or it waits for tokens (R87). -/
def State.returnLoad (s : State) (l : Load) (t : Task) : State :=
  let s0 := { s with loads := s.loads.filter fun x => decide (x.id ≠ l.id) }
  if l.soft0 then s0.ifRuns l.ctx l.tid fun c => c.comeFrom l.id l.givenUp
  else
    match s.partPlaces t l.ctx l.space l.parts with
    | .error e =>
      if l.soft then s0.ifRuns l.ctx l.tid fun c => c.comeFrom l.id l.givenUp
      else s0.addLate l.tid ⟨e.1, BitVec.ofNat 64 e.2, l.pc, l.iss, l.dest.regs, false⟩
    | .ok ps =>
      match s.pay l.id t.func .memory (hbmTokens (located ps)) with
      | (s1, false) => s1
      | (s1, true) =>
        let units := l.units (located ps)
        let bytes := ps.map fun p => (p.1, match p.2 with | some a => s.loadByte l units a | none => 0)
        let tag := match located ps with
          | a :: _ => decide (s.see l.viewer l.key (tagCell a) ≠ 0)
          | [] => false
        let s2 := State.prepareReads t l.ctx l.space
          { s1 with loads := s1.loads.filter fun x => decide (x.id ≠ l.id)
                    choice := if s.freeRead l then s1.choice + units.length else s1.choice }
          (l.parts.flatMap fun p => chunks p.2.1 p.2.2)
        s2.ifRuns l.ctx l.tid fun c =>
          (c.comeFrom l.id (l.dest.value bytes tag false)).observe (s.observed l.viewer (located ps)) (plainScope l.space) l.iss

/-- LOAD_RETURN: an interlocked load's data returns, or the load resolves as a late fault (R229, R230). -/
def execLoadReturn (n : Nat) (s : State) : Result :=
  match s.loads.find? fun l => decide (l.id = n) with
  | none => .next s
  | some l =>
    match l.dest with
    | .xhdr _ _ _ _ | .xmpc _ _ _ | .xres _ _ | .word _ _ _ =>
      (match State.returnReadout { s with loads := s.loads.filter fun x => decide (x.id ≠ n) } l with
        | none => .next s
        | some s1 => .next s1)
    | _ =>
      match s.taskOf l.tid with
      | none => .next s
      | some t => if s.loadFree l then .next (s.returnLoad l t) else .next s

/-! ### Writes -/

/-- Whether a write may leave the private buffer (R360, R364): no earlier own write, load or atomic at its addresses is
still before it, and no acquire before it is pending. -/
def State.mayLeave (s : State) (w : Write) : Bool :=
  !s.acquirePending w.ctx w.iss
    && !(s.writes.any fun u => decide (u.ctx = w.ctx) && decide (u.level = 0) && decide (u.iss < w.iss)
          && overlaps u.cells (w.cells.map (·.1)))
    && !(s.loads.any fun l => decide (l.ctx = w.ctx) && decide (l.iss < w.iss) && overlaps w.cells (s.loadSpots l))
    && !(s.atoms.any fun a => decide (a.ctx = w.ctx) && decide (a.iss < w.iss) && overlaps w.cells (s.atomSpots a))
    && !s.spcLocked (w.cells.map (·.1))

/-- Whether a placed write may move to the next level: every write before it in the coherence order of its addresses has
(R360). -/
def State.mayMove (s : State) (w : Write) : Bool :=
  !s.spcLocked (w.cells.map (·.1)) && !(s.writes.any fun u => decide (1 ≤ u.level) && decide (u.level ≤ w.level) && decide (u.stamp < w.stamp)
      && overlaps u.cells (w.cells.map (·.1)))

/-- Whether a write into host memory waits for the answer to a page request (R352). -/
def State.writeWaits (s : State) (w : Write) : Bool :=
  w.cells.any fun c => decide (flatHost ≤ c.1) && decide (c.1 < 2 ^ 62)
    && s.hostGone.contains (s.funcOf w.tid, (c.1 - flatHost) / 4096)

/-- Whether a write can move on now, for all but tokens (R360, R365). -/
def State.canMove (s : State) (w : Write) : Bool :=
  if w.level = 0 then s.mayLeave w
  else if w.level = 1 then s.mayMove w
  else decide (w.level = 2) && s.mayMove w && !s.writeWaits w

/-- The bytes of a tile that a store writes are no longer what an uncovered XACC found (R326, R327). -/
def State.forgetTile (s : State) (w : Write) : State :=
  if w.inTile then
    s.setCore (coreOf w.ctx) { s.core (coreOf w.ctx) with
      undo := (s.core (coreOf w.ctx)).undo.map fun u => { u with cells := u.cells.filter fun c => !overlaps w.cells [c.1] } }
  else s

/-- WRITE_PROPAGATE: a write moves from its level to the next wider one (R360); into HBM it takes memory tokens (R87). -/
def execWritePropagate (n : Nat) (s : State) : Result :=
  match s.writes.find? fun w => decide (w.id = n) with
  | none => .next s
  | some w =>
    if s.canMove w = false then .next s
    else if w.level = 0 then .next ((s.placeWrite w).forgetTile w)
    else if w.level = 1 then .next (s.moveTo 2 w)
    else
      match s.pay w.id (s.funcOf w.tid) .memory (hbmTokens (w.cells.map (·.1))) with
      | (s1, false) => .next s1
      | (s1, true) => .next (s1.moveTo 3 w).sweepWrites

/-! ### Copies -/

/-- The tweak of a SPACE 7 line at an address, under a slot (R204): its line number within the object. -/
def State.sealTweak (s : State) (slot addr : Nat) : Nat :=
  addr / 128 % 2 ^ (bitLen ((Table.get {} s.keys slot).olines - 1))

/-- What the engine of a copy reads (R249, R359). -/
def Copy.viewer (c : Copy) : Viewer := engineViewer c.ctx (coreEngine c.sspace c.dspace)

/-- The scope of a copy beat (R358). -/
def beatScope (dspace : Nat) : Nat := if dspace = 3 ∨ dspace = 4 then 0 else if dspace = 2 then 1 else 2

/-- The key of a beat's write: sealed lines move as raw ciphertext with their slot and tweak (R205). A beat from L2 to the W buffer that lies in
two lines goes by the mark of its first byte (DESIGN CHOICE, log entry 55). -/
def State.beatKey (s : State) (c : Copy) (b : Beat) (src : List (Option Nat)) : Nat :=
  let mark := match src with
    | some a :: _ => s.sealTo c.viewer (a / 128)
    | _ => none
  if c.sspace = 7 then rawKey c.skey (s.sealTweak c.skey b.src)
  else if c.sspace = 1 ∧ c.dspace = 7 then rawKey c.dkey (s.sealTweak c.dkey b.dst)
  else
    match decide (c.sspace = 2), mark with
    | true, some (slot, tweak) => rawKey slot tweak
    | _, _ => c.dkey

/-- The bytes of a beat's source (R203, R205): raw ciphertext of a sealed line, else what the engine reads. -/
def State.beatBytes (s : State) (c : Copy) (src : List (Option Nat)) : List Byte :=
  src.map fun p =>
    match p with
    | none => 0
    | some a =>
      if c.sspace = 7 ∨ (c.sspace = 2 ∧ (s.sealTo c.viewer (a / 128)).isSome = true) then s.rawSeen c.viewer a
      else s.see c.viewer c.skey a

/-- Whether a range of the spare window is no longer lent to the copy: a unit of it has gone back since the copy was issued, be it that
it has been lent again (R216, R245). -/
def State.spareGone (s : State) (c : Copy) (space addr n : Nat) : Bool :=
  decide (space = 3) && decide (0 < n) && decide (0x300000 < addr + n)
    && !(spareUnits (max addr 0x300000) (addr + n - max addr 0x300000)).all fun u =>
      c.loans.any fun p => decide (p.1 = u) && (s.ctx c.ctx).land.loans.contains p

/-- The late fault that a beat meets, the source's first (R229, R253): code and address. -/
def State.beatFault (s : State) (t : Task) (c : Copy) (b : Beat) : Option (Nat × Nat) :=
  if s.spareGone c c.sspace b.src b.len then some (0x13, b.src)
  else
    match s.readPlaces t c.ctx c.sspace (chunks b.src b.len) with
    | .error e => some e
    | .ok _ =>
      if s.spareGone c c.dspace b.dst b.len then some (0x13, b.dst)
      else
        match s.place t c.ctx c.dspace b.dst b.len true with
        | .late e => some (e, b.dst)
        | _ => none

/-- A CPYCB lets go of its slots: PCNT advances by its k and p falls by k (R251). -/
def State.endRing (s : State) (c : Copy) : State :=
  match c.cb with
  | none => s
  | some (h, k) =>
    s.ifRuns c.ctx c.tid fun x =>
      let w := x.landOwn.hr h
      { x.landOwn with h := Table.set x.landOwn.h h { w with pcnt := (w.pcnt + k) % 2 ^ 16, p := w.p - k } }

/-- Update the attached record, where there is one, with the write of the beat that it then carries (R252, R253, R386). -/
def State.copyBar (s : State) (c : Copy) (rel : List Nat) (n : Nat) (err : Bool) : State :=
  match c.bar with
  | none => s
  | some a => s.updateBar c.tid c.ctx c.iss a rel (·.leave n err)

/-- Whether the update of the attached record must wait for what the record carries (R386). -/
def State.copyBarWaits (s : State) (c : Copy) (n : Nat) (err : Bool) : Bool :=
  match c.bar with
  | none => false
  | some a => s.barWaits c.tid c.ctx a (·.leave n err)

/-- Take a copy out of its queue. -/
def State.dropCopy (s : State) (id : Nat) : State := { s with copies := s.copies.filter fun x => decide (x.id ≠ id) }

/-- A beat that meets a late fault stops its copy (R253). -/
def State.stopCopy (s : State) (c : Copy) (code addr : Nat) : State :=
  ((((s.dropCopy c.id).endRing c).copyBar c [] c.beats.length true).addLate c.tid
    ⟨code, BitVec.ofNat 64 addr, c.pc, c.iss, [], false⟩)

/-- Whether a copy's next beat may be performed: it heads its context's queue, the context is not switched out, no acquire before
it is pending, and its function is not being released (R93, R249, R364, R413). -/
def State.copyFree (s : State) (c : Copy) : Bool :=
  (match s.copies.find? fun x => decide (x.ctx = c.ctx) with | some x => decide (x.id = c.id) | none => false)
    && !s.isOut c.ctx c.tid && !s.acquirePending c.ctx c.iss && !s.haltedFor c.tid
    && (c.beats.take 1).all fun b => !s.hostWaits (s.funcOf c.tid) c.sspace b.src b.len && !s.hostWaits (s.funcOf c.tid) c.dspace b.dst b.len

/-- Whether a load issued before a CBADV.C that freed bytes of a beat's destination is still to read its data (R247). -/
def State.slotInUse (s : State) (c : Copy) (b : Beat) : Bool :=
  let a := flatOf (coreOf c.ctx) 3 b.dst
  decide (c.dspace = 3) && s.loads.any fun l => l.freed.any fun f => decide (f.1 < a + b.len) && decide (a < f.1 + f.2)

/-- The loads that could be performed keep what a beat is about to overwrite: each may still show it (R200). -/
def State.keepOld (s : State) (dst : List Nat) : State :=
  { s with loads := s.loads.map fun l =>
      let hit := dst.filter fun a => (s.loadSpots l).contains a
      if !hit.isEmpty && s.loadFree l then { l with old := l.old ++ [hit.map fun a => (a, s.see l.viewer l.key a)] } else l }

/-- Where a beat is performed (R358, R386): at its own scope; at CHIP where its record is to complete with it, which publishes what
the record carries. -/
def State.beatLevel (s : State) (c : Copy) : Nat :=
  match c.bar, s.taskOf c.tid with
  | some a, some t =>
    match s.readPlaces t c.ctx a.space [(a.addr, 16)] with
    | .error _ => beatScope c.dspace
    | .ok ps =>
      let locs := ps.filterMap fun x => x
      let old := s.recAt c.ctx 2 a locs
      if (old.leave 1 false).gen ≠ old.gen then max (beatScope c.dspace) (Table.get 2 s.lastArrive (locs.headD 0))
      else beatScope c.dspace
  | _, _ => beatScope c.dspace

/-- The other half of the line that a 64-byte unit lies in. -/
def halfMate (u : Nat) : Nat := u + 1 - 2 * (u % 2)

/-- The halves of sealed lines that stand alone in L2, once a beat with a key has written its unit there (R115, R205): over another line, or an
unsealed one, the unit stands alone; over its own line it completes it. -/
def State.halved (s : State) (v : Viewer) (key a : Nat) : List Nat :=
  if key < 256 || !inL2 a then s.halves
  else
    match s.sealTo v (a / 128) with
    | some (slot, tweak) =>
      if rawKey slot tweak = key then s.halves.filter fun h => decide (h ≠ halfMate (a / 64))
      else a / 64 :: s.halves.filter fun h => decide (h / 2 ≠ a / 128)
    | none => a / 64 :: s.halves.filter fun h => decide (h / 2 ≠ a / 128)

/-- One beat: its source is read and its destination written in one step, at its scope; PENDING falls by 1 (R250, R252, R358).
(DEDUCED, log entry 13.) -/
def State.doBeat (s : State) (t : Task) (c : Copy) (b : Beat) (rest : List Beat) (src : List (Option Nat)) : State :=
  let w := State.prepareReads t c.ctx c.sspace s (chunks b.src b.len)
  match State.writePlaces t c.ctx c.dspace w [(b.dst, b.len)] with
  | .error e => s.stopCopy c e.1 e.2
  | .ok (dst, s1) =>
    match s1.pay c.id t.func .memory (hbmTokens (src.filterMap fun x => x) + hbmTokens dst) with
    | (s2, false) => s2
    | (s2, true) =>
      let s3 := (s2.keepOld dst).writeEngine c.tid c.ctx c.iss (s.beatLevel c) (s.beatKey c b src)
        (dst.zip (s.beatBytes c src))
      let s4 := State.tagGranules { s3 with halves := s2.halved c.viewer (s.beatKey c b src) (dst.headD 0) } (coreOf c.ctx) t.func c.dspace b.dst b.len
      let s5 := s4.copyBar c [s3.fresh - 1] 1 false
      if rest.isEmpty then (s5.dropCopy c.id).endRing c
      else { s5 with copies := s5.copies.map fun x => if x.id = c.id then { x with beats := rest, done := x.done + 1 } else x }

/-- Whether a beat must wait: for own stores to its source (R231), for loads of a slot it fills (R247), for a locked word (R372), for
what its record carries (R386), for writes before it into HBM that have their tokens to take (R87). -/
def State.beatWaits (s : State) (t : Task) (c : Copy) (b : Beat) (src : List Nat) : Bool :=
  s.ownStore c.ctx c.iss src || s.slotInUse c b || s.copyBarWaits c 1 false || s.spcLocked src
    || match s.readPlaces t c.ctx c.dspace [(b.dst, b.len)] with
        | .ok ps => s.spcLocked (ps.filterMap fun x => x) || (decide (s.beatLevel c = 2) && s.pushes (ps.filterMap fun x => x))
        | .error _ => false

/-- COPY_BEAT: the copy at the head of its queue performs its next beat, or stops on a late fault (R250–R253). A copy without
beats is done. -/
def execCopyBeat (n : Nat) (s : State) : Result :=
  match s.copies.find? fun c => decide (c.id = n) with
  | none => .next s
  | some c =>
    match s.taskOf c.tid with
    | none => .next s
    | some t =>
      if !s.copyFree c then .next s
      else
        match c.beats with
        | [] => .next ((s.dropCopy c.id).endRing c)
        | b :: rest =>
          match s.beatFault t c b with
          | some e => if s.copyBarWaits c c.beats.length true then .next s else .next (s.stopCopy c e.1 e.2)
          | none =>
            match s.readPlaces t c.ctx c.sspace (chunks b.src b.len) with
            | .error e => .next (s.stopCopy c e.1 e.2)
            | .ok src =>
              if s.beatWaits t c b (src.filterMap fun x => x) then .next s else .next (s.doBeat t c b rest src)

/-! ### Waits of the memory engine -/

/-- CBWAIT_COMPLETE: a circular-buffer wait finds enough filled or free slots (R246, R251); CBWAIT.C covers the beats that filled
them (R366). -/
def execCbwaitComplete (id : Nat) (s : State) : Result :=
  let c := s.ctx id
  match c.wait with
  | some (.cbC h n) =>
    if n ≤ (c.land.hr h).filled then .next (State.setCtx (s.coverSlots id (c.land.hr h) n) id { c with wait := none })
    else .next s
  | some (.cbP h n) => if (n : Int) ≤ (c.land.hr h).room then .next (s.setCtx id { c with wait := none }) else .next s
  | _ => .next s

/-- The part of a range that lies in a page. -/
def inPage (a : Acc) (page size : Nat) : Nat × Nat := (max a.addr page, min (a.addr + a.size) (page + size) - max a.addr page)

/-- The first address of some bytes of a SPACE 1 page whose host page's request has been refused (R242, R352). -/
def State.badHost (s : State) (func : Nat) (l : Leaf) (va n : Nat) : Option Nat :=
  ((List.range ((va % 4096 + n + 4095) / 4096)).map fun i => max va (va / 4096 * 4096 + 4096 * i)).find? fun a =>
    s.hostBad.contains (func, l.hostPage a)

/-- Why a page of a TLOCK range cannot be locked (R242): outside the lease 0x20, without a translation 0x22. -/
def State.lockFault (s : State) (t : Task) (a : Acc) (p : Nat × Option Leaf) : Option (Nat × Nat) :=
  let r := inPage a p.1 (match p.2 with | some l => l.size | none => 4096)
  if !t.leased a.space r.1 r.2 then some (0x20, r.1)
  else
    match p.2 with
    | none => some (0x22, r.1)
    | some l => if a.space = 1 then (s.badHost t.func l r.1 r.2).map fun va => (0x22, va) else none

/-- The populated pages that a TLOCK locks: those it has been promised entries for, and others, populated since its issue, as far as the
core's lockable entries go (R222, R242; DEDUCED, log entry 17). -/
def State.lockNow (s : State) (core : Nat) (promised now : List (Nat × Nat)) : List (Nat × Nat) :=
  now.filter promised.contains ++ (now.filter fun p => !promised.contains p).take (32 - s.lockedEntries core)

/-- TLOCK_COMPLETE: the populated pages of the range are filled and locked and the range recorded, or nothing is locked and
a late fault is noted (R242); the fills are those of reads (R221). -/
def execTlockComplete (id : Nat) (s : State) : Result :=
  let c := s.ctx id
  match c.wait, c.task with
  | some (.tlock a iss pc promised), some t =>
    if s.hostWaits t.func a.space a.addr a.size then .next s else
    let ps := s.pages t.func a.space a.addr a.size
    match ps.filterMap (s.lockFault t a) with
    | e :: _ =>
      .next (State.addLate (s.setCtx id { c with wait := none }) t.tid ⟨e.1, BitVec.ofNat 64 e.2, pc, iss, [], false⟩)
    | [] =>
      let pages := s.lockNow (coreOf id) promised (populatedPages ps)
      .next (State.setCtx (State.prepareReads t id a.space s pages) id
        { c with wait := none, locks := c.locks ++ [⟨a.space, a.addr, a.size, pages⟩] })
  | _, _ => .next s

/-! ### The deadlock escape -/

/-- The handle a context waits on (R246). -/
def Ctx.ringWait (c : Ctx) : Option Nat :=
  match c.wait with
  | some (.cbC h _) => some h
  | some (.cbP h _) => some h
  | _ => none

/-- How a context counts in the escape's condition (R164): the handle of its wait, or 16 for an XACQ wait behind an owner that
waits on one; none where it is not blocked. (DEDUCED, log entry 27.) -/
def State.blockedOn (s : State) (id : Nat) : Option Nat :=
  match (s.ctx id).ringWait with
  | some h => some h
  | none =>
    if (s.ctx id).wantsArray then
      match (s.core (coreOf id)).owner with
      | some o => if (s.ctx o).ringWait.isSome then some 16 else none
      | none => none
    else none

/-- The occupied, switched-in contexts of a core. -/
def State.residents (s : State) (core : Nat) : List Nat :=
  ((List.range 4).map (4 * core + ·)).filter fun i => (s.ctx i).task.isSome && decide ((s.ctx i).preempt ≠ .out)

/-- Whether a ring is full: F = CAP (R215). -/
def Handle.full (h : Handle) : Bool := decide (0 < h.slot) && decide (h.cap ≤ h.filled)

/-- The condition of the escape (R164). -/
def State.deadlocked (s : State) (core : Nat) : Bool :=
  let ids := s.residents core
  !ids.isEmpty && (ids.all fun i => (s.blockedOn i).isSome)
    && (ids.any fun i => match (s.ctx i).ringWait with | some h => ((s.ctx i).land.hr h).full | none => false)
    && ids.all fun i => match (s.ctx i).task with | some t => !s.overBudget t.func | none => true

/-- The eligible rings (R215): full, without a loan, as (size, context, handle). -/
def State.lendable (s : State) (core : Nat) : List (Nat × Nat × Nat) :=
  (s.residents core).flatMap fun i => (List.range 16).filterMap fun h =>
    let w := (s.ctx i).land.hr h
    if w.full && !w.loan then some (w.main * w.slot, i, h) else none

/-- The least of a list of rings by size, the earlier of equals. -/
def leastRing : List (Nat × Nat × Nat) → Option (Nat × Nat × Nat)
  | [] => none
  | r :: rs =>
    match leastRing rs with
    | none => some r
    | some q => if q.1 < r.1 then some q else some r

/-- The units of a cluster's spare pool that are lent (R215). -/
def State.lentUnits (s : State) (cluster : Nat) : List Nat :=
  (s.ctxs.filter fun p => decide (clusterOf (coreOf p.1) = cluster)).flatMap fun p =>
    p.2.land.h.flatMap fun q => q.2.units

/-- The lowest run of `u` free units among 32 (R215). -/
def freeRun (lent : List Nat) (u : Nat) : Option Nat :=
  (List.range 32).find? fun a => decide (a + u ≤ 32) && (List.range u).all fun i => !lent.contains (a + i)

/-- Units a loan takes (R215). -/
def Handle.need (h : Handle) : Nat := (h.slot + 511) / 512

/-- The handle with loan number `n` from unit `u` (R215). -/
def Handle.lend (h : Handle) (u n : Nat) : Handle :=
  { h with gp := h.pcnt, nov := min (512 * h.need / h.slot) 256, unit := u, loan := true, lent := n }

/-- Every counted context of a deadlocked core ends with 0x39 (R215, R419), once the retirement tracker has room for all of them: until then the
escape waits (R169; DEDUCED, log entry 27). -/
def State.endDeadlock (s : State) (core : Nat) : State :=
  let ids := s.residents core
  if 64 < (s.retire.filter fun r => decide (r.core = core)).length + ids.length then s
  else
    ids.foldl (fun u i => u.retireTask i 0x39 (s.ctx i).pc (BitVec.ofNat 64 ((s.blockedOn i).getD 16)) false false false)
      (s.setCore core { s.core core with escape := 0 })

/-- The escape of a deadlocked core: a loan, logged as 0x38; or the end of every counted context with 0x39 (R215, R216,
R419). -/
def State.escape (s : State) (core : Nat) : State :=
  match leastRing (s.lendable core) with
  | none => s.endDeadlock core
  | some (_, i, h) =>
    let w := (s.ctx i).land.hr h
    match freeRun (s.lentUnits (clusterOf core)) w.need with
    | none => s.endDeadlock core
    | some u =>
      let c := (s.ctx i).landOwn
      let s0 := s.setCore core { s.core core with escape := 0 }
      (State.setCtx { s0 with fresh := s.fresh + 1 } i { c with h := Table.set c.h h (w.lend u s.fresh) }).event
        (match c.task with | some t => t.l1 | none => 0) 0x38 (i * 16 + h)

/-- Whether a core's escape is due (R164, R215). -/
def State.escapeDue (s : State) (core : Nat) : Bool := decide (256 ≤ (s.core core).escape) && s.deadlocked core

/-- CB_ESCAPE: once the condition has held for 256 cycles; the cluster's pool serves the lowest core first (R164, R215). -/
def execCbEscape (core : Nat) (s : State) : Result :=
  if s.coreCount ≤ core then .fault .noSuchUnit
  else if s.escapeDue core && !((List.range (core % 8)).any fun i => s.escapeDue (core / 8 * 8 + i)) then .next (s.escape core)
  else .next s

end Sys2Proof.Machine
end

