-- ==== Sys2Proof/Machine/Atomics.lean ====
section
/-!
DEFINITION. The steps of the atomic unit and of the waits it ends: atomics, flag adds and barrier-record updates (R363–R366,
R384–R395), held merges (R372), the slot wheel (R376), FWAIT, BWAIT, FENCE and QFENCE, and the drain of groups (R166).
-/

namespace Sys2Proof.Machine

/-- The new value of an `n`-bit location (R393); none where nothing is written. Record updates stand in `AtomOp.record`. -/
def AtomOp.update (op : AtomOp) (n old x y : Nat) : Option Nat :=
  match op with
  | .ast => some x
  | .add => some ((old + x) % 2 ^ n)
  | .fadd => some ((old + x) % 2 ^ n)
  | .and => some (old &&& x)
  | .or => some (old ||| x)
  | .xor => some (old ^^^ x)
  | .min => some (if toInt n true old ≤ toInt n true x then old else x)
  | .max => some (if toInt n true old ≤ toInt n true x then x else old)
  | .minn => some (if old ≤ x then old else x)
  | .maxn => some (if old ≤ x then x else old)
  | .xchg => some x
  | .cas => some (if old = x then y else old)
  | .maxrs => some x
  | _ => none

/-- The returned value: sign-extended, for AMINN and AMAXN zero-extended (R393). -/
def AtomOp.returned (op : AtomOp) (n old : Nat) : Word :=
  match op with
  | .minn => BitVec.ofNat 64 old
  | .maxn => BitVec.ofNat 64 old
  | _ => BitVec.ofInt 64 (toInt n true old)

/-- The operations that are releases (R365, R388, R390). -/
def AtomOp.isRelease : AtomOp → Bool
  | .ast | .fadd | .binit | .barrive | .babort | .gleave => true
  | _ => false

/-- The operations that act on a barrier record. -/
def AtomOp.isRecord : AtomOp → Bool
  | .binit | .barrive | .babort | .gcreate | .gjoin | .gleave => true
  | _ => false

/-- A barrier arrival (R388): nothing once ABORTED; past 2^24 − 1 it stays there with ERROR; then completion is tested. -/
def BarRec.arrive (b : BarRec) : BarRec :=
  if b.aborted then b
  else if b.arrived = 2 ^ 24 - 1 then BarRec.settle { b with error := true }
  else BarRec.settle { b with arrived := b.arrived + 1 }

/-- BINIT of a record (R388): of one bound to a group, or with beats pending, only ERROR is set. -/
def BarRec.init (b : BarRec) (bound : Bool) (count : Nat) : BarRec :=
  if bound || decide (b.pending ≠ 0) then { b with error := true }.settle
  else { b with expected := count, arrived := 0, error := false, aborted := false, remote := false }

/-- A member leaves (R167, R390): ERROR first where it ended on a fault; its own arrival of this generation goes with it. -/
def BarRec.depart (b : BarRec) (latched : Nat) (fault : Bool) : BarRec :=
  { b with error := b.error || fault, expected := b.expected - 1
           arrived := if latched = b.gen then b.arrived - 1 else b.arrived }.settle

/-- The new record of an operation (R388, R390). -/
def AtomOp.record (op : AtomOp) (bound : Bool) (x y : Nat) (b : BarRec) : BarRec :=
  match op with
  | .binit => b.init bound x
  | .barrive => b.arrive
  | .babort => { b with aborted := true }.settle
  | .gcreate => { b with expected := 1, arrived := 0, pending := 0, error := false, aborted := false, remote := false }
  | .gjoin => BarRec.settle { b with expected := b.expected + 1 }
  | .gleave => b.depart x (decide (y = 1))
  | _ => b

/-- Put an entry into the arrival latch of 4: the entry of the record, a free one, or the oldest is replaced (R387). -/
def latchArrival (addr gen : Nat) (ls : List (Nat × Nat)) : List (Nat × Nat) :=
  let rest := ls.filter fun p => decide (p.1 ≠ addr)
  (if 4 ≤ rest.length then rest.drop 1 else rest) ++ [(addr, gen)]

/-- Two atomics on one location, by whatever addresses. -/
def State.meets (s : State) (a b : Atom) : Bool :=
  decide (rootSpace' a.a.space = rootSpace' b.a.space) && decide (b.a.addr < a.a.addr + a.a.size)
    && decide (a.a.addr < b.a.addr + b.a.size)
    || meet (s.atomSpots a) (s.atomSpots b)

/-- Whether an earlier atomic of the context stands before this one (R372): .COM atomics of one operation do not; .UNP, .COM
and .QNT wait only for those on their own location. -/
def State.standsBefore (s : State) (a b : Atom) : Bool :=
  decide (b.ctx = a.ctx) && decide (b.iss < a.iss)
    && (if a.use = 1 ∨ a.use = 4 then s.meets a b
        else if a.use = 2 then s.meets a b && !(decide (b.use = 2) && decide (a.op = b.op))
        else true)

/-- The updates of a record by group instructions (R390). -/
def AtomOp.isGroup : AtomOp → Bool
  | .gcreate | .gjoin | .gleave => true
  | _ => false

/-- Whether a group instruction that came before another on the same record is still to update it: memberships changed in that order
(R166, R390). -/
def State.groupBefore (s : State) (a : Atom) : Bool :=
  a.op.isGroup && s.atoms.any fun b => b.op.isGroup && decide (b.id < a.id) && s.meets a b

/-- The operations that bear a USE (R129, R372): those in format A-AT. -/
def AtomOp.bearsUse : AtomOp → Bool
  | .fadd | .binit | .barrive | .babort | .gcreate | .gjoin | .gleave => false
  | _ => true

/-- The scope of a local atomic: GROUP and POD are as CHIP (R382). -/
def Atom.reach (a : Atom) : Nat := min a.scope 2

/-- Where an atomic is performed (R353, R363, R376): one in host memory at the host's controller, which sees what is visible at
CHIP. -/
def Atom.where (a : Atom) : Nat := if a.asc ∨ a.a.space = 1 then 2 else a.reach

/-- Whether a copy may still raise a late fault: one of its sides is translated, or it uses units of the spare pool (R229, R245, R253). -/
def Copy.mayFault (c : Copy) : Bool := [0, 1, 7, 8].contains c.sspace || [0, 1, 7, 8].contains c.dspace || !c.loans.isEmpty

/-- Whether a remote operation may still raise one: a local read to come, or a pull, which fails where both copies are lost (R345, R397). -/
def Out.mayFault (o : Out) : Bool :=
  decide (o.op.kind = .pull) || decide (o.op.kind ≠ .semadd) && decide (o.stage ≠ .sent) && [0, 1, 7, 8].contains o.op.lspace

/-- Whether an access that a context issued before `iss` may still raise a late fault (R372): a load of a translated space, unless it gives
up softly (R235), an atomic whose page has not been translated, a copy, a remote operation. -/
def State.lateToCome (s : State) (ctx iss : Nat) : Bool :=
  (s.loads.any fun l => decide (l.ctx = ctx) && decide (l.iss < iss) && [0, 1, 7, 8].contains l.space && !l.parts.isEmpty && !l.soft)
    || (s.atoms.any fun b => decide (b.ctx = ctx) && decide (b.iss < iss) && b.locs.isEmpty
          && [0, 1, 7, 8].contains b.a.space)
    || (s.copies.any fun c => decide (c.ctx = ctx) && decide (c.iss < iss) && c.mayFault)
    || s.outs.any fun o => decide (o.op.ctx = ctx) && decide (o.op.iss < iss) && o.mayFault

/-- Whether another atomic has locked one of an atomic's 8-byte words (R372). -/
def State.lockedBy (s : State) (a : Atom) : Bool :=
  State.spcLocked { s with atoms := s.atoms.filter fun b => decide (b.id ≠ a.id) } (s.atomSpots a)

/-- Whether an atomic may read its location (R363–R365, R372): its context is not switched out, no page request and no acquire before
it is pending, no earlier access of the context to the location is still to be performed, no earlier atomic stands before it, no other
has locked the location, and for a release its cumulative set is visible, for a record update that of the arrivals before it too
(R386). -/
def State.atomOpen (s : State) (a : Atom) : Bool :=
  !s.isOut a.ctx a.tid && !s.hostWaits (s.funcOf a.tid) a.a.space a.a.addr a.a.size
    && !s.acquirePending a.ctx a.iss
    && !(s.loads.any fun l => decide (l.ctx = a.ctx) && decide (l.iss < a.iss) &&
          (meet (s.loadSpots l) (s.atomSpots a) || l.before a.ctx a.iss a.a.space a.a.addr a.a.size))
    && !(s.writes.any fun w => decide (w.ctx = a.ctx) && decide (w.iss < a.iss)
          && decide (w.level < levelOf w.scope) && overlaps w.cells (s.atomSpots a))
    && !(s.atoms.any fun b => s.standsBefore a b)
    && !s.groupBefore a
    && !s.lockedBy a
    && (!a.op.isRelease || (s.cumulative a.ctx a.iss a.reach).all (s.visibleAt a.reach))
    && (!a.op.isRecord || (s.carried a.ctx (s.atomSpots a)).all (s.visibleAt a.where))

/-- Whether an atomic may be performed: what is open to it may be read, and no earlier access of its context may still raise a late
fault (R372). -/
def State.atomFree (s : State) (a : Atom) : Bool :=
  s.atomOpen a && !(a.op.bearsUse && s.lateToCome a.ctx a.iss)

/-- Take an atomic out of the unit; an ASC no longer holds its context. -/
def State.dropAtom (s : State) (a : Atom) : State :=
  let s1 := { s with atoms := s.atoms.filter fun x => decide (x.id ≠ a.id) }
  if a.asc then s1.ifRuns a.ctx a.tid fun c => { c with wait := if c.wait = some .asc then none else c.wait } else s1

/-- A late fault of an atomic: register and location unchanged, the fault noted (R394, R451). -/
def State.atomLate (s : State) (a : Atom) (code va : Nat) : State :=
  (s.dropAtom a).addLate a.tid ⟨code, BitVec.ofNat 64 va, a.pc, a.iss, a.dest.toList.map Reg.g, false⟩

/-- The scope with which an atomic observes (R364, R366): an acquire carries every scope, .NOR observes nothing. -/
def Atom.observes (a : Atom) : Option Nat :=
  if a.op = .ald ∧ !a.asc ∨ a.op = .gjoin ∨ a.op = .gcreate then some 5
  else if a.dest.isSome then
    if a.asc then some 2 else if a.use = 0 then some 5 else if a.use = 3 then none else some a.scope
  else none

/-- Whether an atomic reads what is visible at its scope: one that writes, an ASC, one in host memory. Another reads what its core sees
(R361, R363). -/
def Atom.atScope (a : Atom) (write : Bool) : Bool := write || a.asc || decide (a.a.space = 1)

/-- The latest write that an atomic sees at its location, with those before it, has reached its scope as it is performed there (R360,
R363). -/
def State.settleFor (s : State) (a : Atom) (locs : List Nat) (write : Bool) : State :=
  if a.atScope write then s.forceFor a.ctx a.where locs else s

/-- The leave of a group that its context has issued after a BARRIVE of its record, the first of them (R387, R390). -/
def State.leaveAfter (s : State) (a : Atom) : Option Atom :=
  s.atoms.find? fun b => decide (b.op = .gleave) && decide (b.tid = a.tid) && decide (a.id < b.id) && s.meets a b

/-- A leave that follows a BARRIVE of its context takes the arrival's generation with it (R390). -/
def State.noteArrival (s : State) (a : Atom) (gen : Nat) : State :=
  match s.leaveAfter a with
  | none => s
  | some x => { s with atoms := s.atoms.map fun b => if b.id = x.id then { b with x := BitVec.ofNat 64 gen } else b }

/-- A BARRIVE fills the arrival latch (R387), unless the context has left the group since (R390). -/
def Ctx.latch (c : Ctx) (addr loc gen : Nat) : Ctx :=
  { c with arrive := latchArrival addr gen c.arrive, arriveAt := Table.set c.arriveAt addr loc }

/-- An atomic is performed at its scope at these locations (R363): it reads the latest write it sees there, writes, returns
the old value, and observes what it read. A BARRIVE is from now on the last of its generation (R386); its generation goes into the arrival
latch, or with a leave that has been issued since (R387, R390). -/
def State.doAtom (s0 : State) (a : Atom) (locs : List Nat) (write : Bool) : State :=
  let s := s0.settleFor a locs write
  let v : Viewer := atomViewer a.ctx (if a.atScope write then a.where else 0)
  let n := 8 * a.a.size
  let old := leNat (s.seeAll v a.a.key locs)
  let seen := s.observed v locs
  let rel := if a.op.isRelease then s.cumulative a.ctx a.iss a.reach else []
  let s1 := s.dropAtom a
  let s2 :=
    if a.op.isRecord then
      let bound := (groupAt (match s.taskOf a.tid with | some t => t.l1 | none => 0) (locs.headD 0) s.groups).isSome
      let u := s1.recWrite a.tid a.ctx a.iss a.where a.a locs rel (a.op.record bound a.x.toNat a.y.toNat)
      if a.op = .barrive then
        State.noteArrival { u with lastArrive := Table.set u.lastArrive (locs.headD 0) a.where } a (barRec old).gen
      else u
    else
      match (if write then a.op.update n old (a.x.toNat % 2 ^ n) (a.y.toNat % 2 ^ n) else none) with
      | none => s1
      | some x => s1.writeAt a.tid a.ctx a.iss a.where a.a.key (locs.zip (leBytes a.a.size x)) rel
  let s3 := s2.tagGranules (coreOf a.ctx) (s.funcOf a.tid) a.a.space a.a.addr (if write then a.a.size else 0)
  s3.ifRuns a.ctx a.tid fun c =>
    let c1 := match a.dest with
      | some d => c.comeFrom a.id (.g d (a.op.returned n old) false)
      | none => c
    let c2 := if a.op = .barrive ∧ s.leaveAfter a = none then c1.latch a.a.where (locs.headD 0) (barRec old).gen else c1
    match a.observes with
    | some sc => c2.observe seen sc a.iss
    | none => c2

/-- Whether an operation writes its location: all but ALD and ASC.LD (R393, R395, R450). -/
def AtomOp.writes : AtomOp → Bool
  | .ald => false
  | _ => true

/-- The memory tokens of an atomic (R87): for what it reads, and for what it writes where that goes to HBM at once. -/
def Atom.tokens (a : Atom) (locs : List Nat) : Nat :=
  (if a.op = .ast then 0 else hbmTokens locs) + (if a.op.writes && decide (a.where = 2) then hbmTokens locs else 0)

/-- With those for the buffered writes that it pushes out to HBM before it (R87, R360; DEDUCED, log entry 26). -/
def State.atomTokens (s : State) (a : Atom) (locs : List Nat) : Nat :=
  a.tokens locs
    + if a.where ≠ 2 then 0
      else if a.op.writes then s.pushTokens locs
      else if a.atScope false then writeTokens (s.seenFirst (atomViewer a.ctx 0) 3 locs)
      else 0

/-- An atomic whose location is known pays its tokens and is performed (R87, R363). -/
def State.payAtom (s : State) (a : Atom) (f : Nat) (locs : List Nat) : State :=
  match s.pay a.id f .memory (s.atomTokens a locs) with
  | (s1, false) => s1
  | (s1, true) => s1.doAtom a locs a.op.writes

/-- Note the locations that an atomic has translated: it raises no late fault any more (R372). -/
def State.fixAtom (s : State) (a : Atom) (locs : List Nat) : State :=
  { s with atoms := s.atoms.map fun b => if b.id = a.id then { b with locs := locs } else b }

/-- An atomic translates, or meets a late fault (R224, R394, R450); a page without a frame reads as zeros (R225). -/
def State.translateAtom (s : State) (a : Atom) (t : Task) : State :=
  if a.op.writes then
    match State.writePlaces t a.ctx a.a.space s [(a.a.addr, a.a.size)] with
    | .error e => s.atomLate a e.1 e.2
    | .ok (ls, s1) => s1.fixAtom a ls
  else
    match s.readPlaces t a.ctx a.a.space [(a.a.addr, a.a.size)] with
    | .error e => s.atomLate a e.1 e.2
    | .ok ls =>
      let s1 := State.prepareReads t a.ctx a.a.space s [(a.a.addr, a.a.size)]
      let spots := ls.filterMap fun x => x
      if spots.isEmpty then
        if s.atomFree a || a.asc then
          (s1.dropAtom a).ifRuns a.ctx a.tid fun c => match a.dest with | some d => c.comeFrom a.id (.g d 0 false) | none => c
        else s
      else s1.fixAtom a spots

/-- Whether the host page of an atomic that has translated has been refused since (R352). -/
def State.atomRefused (s : State) (a : Atom) : Bool :=
  decide (a.a.space = 1) && a.locs.any fun l => s.hostBad.contains (s.funcOf a.tid, (l - flatHost) / 4096)

/-- A ready atomic is performed: it translates where it has not yet, and does its work (R224, R363, R394, R450); one whose host page has been
refused takes 0x22 (R352). -/
def State.perform (s : State) (a : Atom) : State :=
  match s.taskOf a.tid with
  | none => s.dropAtom a
  | some t =>
    if a.locs.isEmpty then
      let s1 := s.translateAtom a t
      match s1.atoms.find? fun b => decide (b.id = a.id) with
      | none => s1
      | some b => if b.locs.isEmpty then s1 else s1.payAtom b t.func b.locs
    else if s.atomRefused a then s.atomLate a 0x22 a.a.addr
    else s.payAtom a t.func a.locs

/-- The 8-byte words of some locations. -/
def wordsOf (locs : List Nat) : List Nat := (locs.map (· / 8)).eraseDups

/-- Whether no earlier access of the context names an 8-byte word that an atomic would lock. -/
def State.mayLock (s : State) (a : Atom) : Bool :=
  !(s.loads.any fun l => decide (l.ctx = a.ctx) && decide (l.iss < a.iss) && meet (wordsOf (s.loadSpots l)) (wordsOf a.locs))
    && !(s.writes.any fun w => decide (w.ctx = a.ctx) && decide (w.iss < a.iss) && decide (w.level < 3)
          && meet (wordsOf (w.cells.map (·.1))) (wordsOf a.locs))
    && !(s.atoms.any fun b => decide (b.ctx = a.ctx) && decide (b.iss < a.iss) && meet (wordsOf (s.atomSpots b)) (wordsOf a.locs))

/-- A .SPC atomic reads early: the 8-byte words of its location are locked (R372); chosen again before the earlier accesses have
resolved, it gives the words back. -/
def State.readEarly (s : State) (a : Atom) : State :=
  { s with atoms := s.atoms.map fun b =>
      if b.id = a.id then
        { b with got := if a.got.isSome then none
                        else some (leNat (s.seeAll (atomViewer a.ctx a.where) a.a.key a.locs), wordsOf a.locs) }
      else b }

/-- ATOMIC_PERFORM: an atomic, flag add or record update is performed in one step at its scope (R363, R386); one that must still wait
translates (R372), and a .SPC atomic reads early. An ASC waits for the wheel. -/
def execAtomicPerform (n : Nat) (s : State) : Result :=
  match s.atoms.find? fun a => decide (a.id = n) with
  | none => .next s
  | some a =>
    if a.asc then .next s
    else if s.atomFree a then .next (s.perform a)
    else
      match s.taskOf a.tid with
      | none => .next (s.dropAtom a)
      | some t =>
        if s.isOut a.ctx a.tid || s.acquirePending a.ctx a.iss || s.hostWaits t.func a.a.space a.a.addr a.a.size then .next s
        else if a.locs.isEmpty then .next (s.translateAtom a t)
        else if a.use = 5 ∧ (a.got.isSome || s.atomOpen a && s.mayLock a) = true then .next (s.readEarly a)
        else .next s

/-- The later .QNT atomics of a context that merge with one: the same operation and location (R372). -/
def State.merged (s : State) (a : Atom) : List Atom :=
  s.atoms.filter fun b => decide (b.ctx = a.ctx) && decide (a.iss < b.iss) && decide (b.use = 4) && decide (b.op = a.op)
    && decide (b.a = a.a)

/-- QNT_FLUSH: a held .QNT atomic is performed, with those it merged: each member gets the value of its turn in issue order
(R372). One of a function that is being released stays held, and goes with its task (R93). -/
def execQntFlush (n : Nat) (s : State) : Result :=
  match s.atoms.find? fun a => decide (a.id = n) with
  | none => .next s
  | some a =>
    if a.use ≠ 4 ∨ a.asc ∨ !s.atomFree a ∨ s.haltedFor a.tid then .next s
    else .next ((s.merged a).foldl (fun u b => if u.atomFree b then u.perform b else u) (s.perform a))

/-! ### The slot wheel -/

/-- Whether an ASC is eligible (R93, R376): its function is not being released, every earlier access of its context, those of its matrix queue too, is visible at CHIP, every earlier remote operation
is acknowledged. -/
def State.ascEligible (s : State) (a : Atom) : Bool :=
  a.asc && !s.haltedFor a.tid && !s.isOut a.ctx a.tid && !s.hostWaits (s.funcOf a.tid) a.a.space a.a.addr a.a.size
    && !(s.writes.any fun w => decide (w.ctx = a.ctx) && decide (w.iss < a.iss) && decide (w.level < 3))
    && !(s.loads.any fun l => decide (l.ctx = a.ctx) && decide (l.iss < a.iss))
    && !(s.atoms.any fun b => decide (b.ctx = a.ctx) && decide (b.iss < a.iss))
    && !(s.copies.any fun c => decide (c.ctx = a.ctx) && decide (c.iss < a.iss))
    && !((s.core (coreOf a.ctx)).queue.any fun e => decide (e.ctx = a.ctx) && decide (e.iss < a.iss))
    && !s.lockedBy a
    && !(s.outs.any fun o => decide (o.op.ctx = a.ctx) && decide (o.op.iss < a.iss))

/-- How far a core stands after the one served last (R376). -/
def coreTurn (last core : Nat) : Nat := (core + nCores - 1 - last) % nCores

/-- The ASC that the wheel takes at a position (R376): cores in ascending order after the one served last, then the lowest
context. -/
def pickAsc (last : Nat) : List Atom → Option Atom
  | [] => none
  | a :: as =>
    match pickAsc last as with
    | none => some a
    | some b =>
      if coreTurn last (coreOf b.ctx) * 4 + b.ctx % 4 < coreTurn last (coreOf a.ctx) * 4 + a.ctx % 4 then some b else some a

/-- The ASCs that may be performed at the current position. -/
def State.ascReady (s : State) : List Atom :=
  s.atoms.filter fun a => s.ascEligible a
    && match s.taskOf a.tid with
      | some t => (s.wheelPositions t).contains (wheelPos s.time)
      | none => false

/-- ASC_PERFORM: in the first cycle of a position's window the wheel performs one ASC of that position, as an atomic at CHIP
(R376, R377). -/
def execAscPerform (n : Nat) (s : State) : Result :=
  let p := wheelPos s.time
  let last := match Table.find s.served p with
    | some x => x.1
    | none => nCores - 1
  if s.time % 4 ≠ 0 ∨ (Table.find s.served p).any fun x => decide (x.2 = s.time) then .next s
  else
    match pickAsc last s.ascReady with
    | none => .next s
    | some a =>
      if a.id ≠ n then .next s
      else
        let u := s.perform a
        if u.atoms.any fun b => decide (b.id = n) then .next u
        else .next { u with served := Table.set u.served p (coreOf a.ctx, s.time) }

/-! ### Waits -/

/-- FWAIT_COMPLETE: the flag is at or above the value; the wait is performed as an acquire (R364, R384). -/
def execFwaitComplete (id : Nat) (s : State) : Result :=
  let c := s.ctx id
  match c.wait, c.task with
  | some (.fwait a v _ iss pc), some t =>
    if s.waitFree t id a iss then .next (s.tryFlag t id a v iss pc) else .next s
  | _, _ => .next s

/-- BWAIT_COMPLETE: GEN has changed or ABORTED is set; the wait acquires and clears its latch entry (R388). With ERROR or ABORTED set a
0x58 waits for the next bundle, or for the one after the delay bundle (R389). -/
def execBwaitComplete (id : Nat) (s : State) : Result :=
  let c := s.ctx id
  match c.wait, c.task with
  | some (.bwait a gen _ iss pc), some t =>
    if !s.waitFree t id a iss then .next s
    else
      match s.waitRead t id a iss with
      | .error e => .next (s.waitLate id t.tid e iss pc)
      | .ok (x, ws) =>
        let b := barRec x
        if b.gen = gen ∧ !b.aborted then .next s
        else
          match s.waitPay t id a with
          | (s1, false) => .next s1
          | (s1, true) =>
            let c1 := { c with wait := none, arrive := c.arrive.filter fun p => decide (p.1 ≠ a.where) }.observe ws 5 iss
            .next (State.setCtx (State.prepareReads t id a.space s1 [(a.addr, a.size)]) id
              { c1 with after := if b.error || b.aborted then some (BitVec.ofNat 64 b.flags) else c.after })
  | _, _ => .next s

/-- FENCE_COMPLETE: everything the fence covers has come about (R370); a due fault is delivered at its bundle (R391), unless a cause that
comes before it is ready (R404). -/
def execFenceComplete (id : Nat) (s : State) : Result :=
  let c := s.ctx id
  match c.wait, c.task with
  | some (.fence sc), some t =>
    if !s.fenceReady id sc || s.yields id then .next s
    else
      let s1 := s.setCtx id { c with wait := none }
      match s1.fenceFault id t.tid sc with
      | some s2 => .next s2
      | none => .next (s1.coverWrites id c.iss)
  | _, _ => .next s

/-- QFENCE_COMPLETE: every earlier operation of each named queue has been performed (R371). -/
def execQfenceComplete (id : Nat) (s : State) : Result :=
  let c := s.ctx id
  match c.wait with
  | some (.qfence q) =>
    if s.queuesDone id q then .next (State.setCtx (s.coverQueues id c.iss q) id { c with wait := none }) else .next s
  | _ => .next s

/-- Whether an operation that a member issued while a member of a group slot is still to be acknowledged (R166, R167). R166 does not say
where a posted store counts as acknowledged: here once it is in memory (DESIGN CHOICE, log entry 41). -/
def State.groupBusy (s : State) (slot : Nat) : Bool :=
  (s.copies.any fun c => c.groups.contains slot) || (s.outs.any fun o => o.op.groups.contains slot)
    || s.writes.any fun w => w.groups.contains slot && decide (w.level < 3)

/-- GROUP_DRAIN_COMPLETE: a DRAINING slot becomes FREE and its record unbound (R166). -/
def execGroupDrainComplete (l1 slot : Nat) (s : State) : Result :=
  match Table.find s.groups slot with
  | none => .next s
  | some g =>
    if g.l1 ≠ l1 then .next s
    else if g.draining && !s.groupBusy slot && !(s.atoms.any fun a => decide (a.op = .gleave) && decide (a.a = g.acc)) then
      .next { s with groups := Table.del s.groups slot }
    else .next s

end Sys2Proof.Machine
end

