-- ==== Sys2Proof/Machine/Remote.lean ====
section
/-!
DEFINITION. The remote instructions of the A slot (R335–R339, R396–R398): jobs and rank tables, the checks at issue, and
entry into the remote queues.
-/

namespace Sys2Proof.Machine

/-- A job slot of a level-1 partition (R338): four for each. -/
def State.job (s : State) (l1 j : Nat) : Job := Table.get {} s.jobs (4 * l1 + j)

/-- Search the four job slots of a partition from slot 4 − `k` on. -/
def State.findJob (s : State) (l1 : Nat) (p : Job → Bool) : Nat → Option (Nat × Job)
  | 0 => none
  | k + 1 => if (s.job l1 (3 - k)).valid && p (s.job l1 (3 - k)) then some (3 - k, s.job l1 (3 - k)) else s.findJob l1 p k

/-- The job of a task: the first valid slot of its level-1 partition whose FUNC is the task's own function (R338). -/
def State.jobOf (s : State) (t : Task) : Option (Nat × Job) := s.findJob t.l1 (fun j => decide (j.func = t.func)) 4

/-- A rank-table entry (R339). -/
structure RankEntry where
  valid : Bool
  hold : Bool
  grp : Bool
  mvalid : Bool
  mrank : Nat
  ports : Nat
  part : Nat
  pkg : Nat
  deriving DecidableEq, Repr

/-- The fields of a rank-table entry (R339). -/
def rankEntry (w : Word) : RankEntry :=
  ⟨w.getLsbD 63, w.getLsbD 62, w.getLsbD 61, w.getLsbD 60, field w 59 50, field w 49 34, field w 13 10, field w 9 0⟩

/-- The entry of a rank in a job. -/
def Job.rank (j : Job) (r : Nat) : RankEntry := rankEntry (Table.get 0 j.ranks r)
/-- The package's own number: that of the job's own rank (R338, R339). -/
def Job.ownPkg (j : Job) : Nat := (j.rank j.myrank).pkg
/-- Whether a rank lies on the issuer's package (R398). -/
def Job.here (j : Job) (r : Nat) : Bool := decide ((j.rank r).pkg = j.ownPkg)

/-- A segment-table entry (R340): PUT, SEM, FLAG, PULL and MIRROR are bits 96–100, VALID bit 101. -/
structure Segment where
  base : Nat
  len : Nat
  bits : Nat
  deriving DecidableEq, Repr

/-- The fields of a segment-table entry. -/
def segment (w : BitVec 128) : Segment := ⟨w.toNat % 2 ^ 57, w.toNat / 2 ^ 57 % 2 ^ 39, w.toNat / 2 ^ 96 % 64⟩

/-- Permission bits of a segment, counted from bit 96 (R340). -/
def segPUT : Nat := 0
def segSEM : Nat := 1
def segFLAG : Nat := 2
def segPULL : Nat := 3
def segMIRROR : Nat := 4

/-- Whether a segment has a bit. -/
def Segment.has (g : Segment) (b : Nat) : Bool := g.bits.testBit b

/-- The first valid segment that contains a heap offset (R341). -/
def Job.segmentAt (j : Job) (off : Nat) : Option Segment :=
  ((j.segs.map fun p => segment p.2).filter fun g => g.has 5 && decide (g.base ≤ off) && decide (off < g.base + g.len))[0]?

/-- The mirror of a rank for a heap offset, where the segment is mirrored and the rank has one (R344). -/
def Job.mirrorAt (j : Job) (rank hoff : Nat) : Option Nat :=
  let e := j.rank rank
  if e.mvalid && (match j.segmentAt hoff with | some g => g.has segMIRROR | none => false) then some e.mrank else none

/-- The mirror of an operation (R344). -/
def Job.mirrorOf (j : Job) (r : Remote) : Option Nat := j.mirrorAt r.rank r.hoff

/-- RANK and SCOPE of a peer register (R335). -/
def peerRank (e : BitVec 13) : Nat := e.toNat % 1024
def peerScope (e : BitVec 13) : Nat := e.toNat / 1024

/-- Whether a peer register passes (R336). -/
def Job.peerOk (j : Job) (e : BitVec 13) : Bool :=
  decide (peerRank e < j.nranks) && (j.rank (peerRank e)).valid
    && (decide (peerScope e = 2) && j.here (peerRank e)
      || decide (peerScope e = 3) && (j.here (peerRank e) || (j.rank (peerRank e)).grp)
      || decide (peerScope e = 4))

/-- The spaces of a put's source and of a pull's destination, and the heap's (R199, R396). -/
def putSources : List Nat := [0, 2, 3]
def pullTargets : List Nat := [3]
def heapSpaces : List Nat := [6]

/-- A row of a remote instruction as issued: local offset, heap offset, length (R396). -/
structure RemRow where
  loc : Word
  heap : Word
  len : Nat
  deriving DecidableEq, Repr

/-- The local and heap checks of one row (R396). -/
def State.checkRemote (s : State) (kl kh : Cap) (pull : Bool) (r : RemRow) : Except CapFault (Acc × Acc) :=
  match (if pull then s.capCheck s.cur.id kl pullTargets r.loc.toInt r.len pW 1
      else s.loadCheck s.cur.id kl putSources r.loc.toInt r.len pR 1) with
  | .error e => .error e
  | .ok a =>
    match s.capCheck s.cur.id kh heapSpaces r.heap.toInt r.len pRPUT 1 with
    | .error e => .error e
    | .ok h => .ok (a, h)

/-- The check of a flag or semaphore word (R396). -/
def State.checkWord (s : State) (kh : Cap) (off : Word) : Except CapFault Acc :=
  s.capCheck s.cur.id kh heapSpaces off.toInt 8 pRPUT 8

/-- The operations in a remote queue of a context: one for each instruction (R356, R397). -/
def State.remoteQueue (s : State) (ctx e : Nat) : List Nat :=
  ((s.outs.filter fun o => decide (o.op.ctx = ctx) && decide (o.op.peer = e) && decide (o.stage = .queue)).map
    (·.op.batch)).eraseDups

/-- The egress ports that a rank's traffic may use. -/
def portList (ports : Nat) : List Nat := (List.range 16).filter fun i => decide (ports / 2 ^ i % 2 = 1)

/-- Whether the hold queue of an egress port has room: it holds 256 operations (R346). -/
def State.holdRoom (s : State) (port : Nat) : Bool :=
  decide ((((s.outs.filter fun o => decide (o.stage = .hold port)).map (·.op.batch)).eraseDups).length < 256)

/-- The hold queue that an operation to a held rank joins: that of the first of its ports that has room (R346). -/
def State.holdPort (s : State) (r : RankEntry) : Option Nat := (portList r.ports).find? s.holdRoom

/-- Whether the hold queues of a held rank are full: those of all its egress ports (R346). -/
def State.holdFullFor (s : State) (r : RankEntry) : Bool := r.hold && (s.holdPort r).isNone

/-- Whether the hold queues that an operation would join are full: those of its rank, or of its mirror (R344, R346). -/
def State.holdFullAt (s : State) (j : Job) (rank hoff : Nat) : Bool :=
  s.holdFullFor (j.rank rank) || (j.mirrorAt rank hoff).any fun m => s.holdFullFor (j.rank m)

/-- One operation of a remote instruction, before it is numbered. -/
structure RemOp where
  kind : RemKind
  acc : Option Acc
  hoff : Nat
  len : Nat
  flag : Option Nat
  addend : Word
  deriving DecidableEq, Repr

/-- The beats of an operation: those of its heap range, and one for a flag word (R397). -/
def RemOp.beats (o : RemOp) : Nat :=
  match o.kind with
  | .semadd => 0
  | _ => (chunks o.hoff o.len).length + (if o.flag.isSome then 1 else 0)

/-- The operations of an instruction enter the remote queue of `e` in order (R397). -/
def State.enterQueue (s : State) (e : Nat) (pr : BitVec 13) (bar : Option Acc) (ops : List RemOp) : State :=
  let c := s.me
  let batch := s.fresh
  let mk := fun (i : Nat) (o : RemOp) =>
    let a := o.acc.getD ⟨0, 0, 0, 0⟩
    let r : Remote := ⟨batch + 1 + i, s.tid, s.cur.id, c.iss, c.pc, e, peerRank pr, peerScope pr, o.kind, a.space, a.key,
      a.addr, o.hoff, o.len, o.flag, o.addend, bar, batch, c.groups, s.cur.src⟩
    (⟨r, .queue, [], [], false, false, 0, 0, 0, 0⟩ : Out)
  { s.setMe { c with iss := c.iss + 1 } with
    outs := s.outs ++ ops.mapIdx mk, fresh := s.fresh + 1 + ops.length }

/-- Attach and queue checked operations; a full queue holds the context (R155, R346, R397). -/
def State.issueRemote (s : State) (e : Fin 16) (pr : BitVec 13) (j : Job) (b : Option (Fin 32)) (boff : Word)
    (ops : List RemOp) : Result :=
  match s.barAcc b boff with
  | .error f => .next (s.trapCap f)
  | .ok bar =>
    if 16 ≤ (s.remoteQueue s.cur.id e.val).length ∨ ops.any (fun o => s.holdFullAt j (peerRank pr) o.hoff) = true then .next s.holdFull
    else
      match s.attachBar bar ((ops.map RemOp.beats).sum) true with
      | none => .next s.holdFull
      | some (s1, att) => .next (s1.enterQueue e.val pr att ops)

/-- The checks that every remote instruction starts with (R381): poison, then the peer register, 0x32. -/
def remoteCheck (e : Fin 16) (regs : List Nat) (s : State) (go : BitVec 13 → Job → Result) : Result :=
  match s.me.firstPoison regs with
  | some r => .next (s.trapPoison false r)
  | none =>
    let pr := s.me.er e.val
    match s.task.bind s.jobOf with
    | none => .next (s.trap 0x32 (pr.setWidth 64) 7)
    | some (_, j) => if j.peerOk pr then go pr j else .next (s.trap 0x32 (pr.setWidth 64) 7)

/-- The greatest length, or row length, in bytes (R396). -/
def maxLen : Nat := 2 ^ 26

/-- Rows as put operations; the last carries the flag, where there is one (R397). -/
def putOps (rows : List (Acc × Acc)) (flag : Option (Nat × Word)) : List RemOp :=
  rows.mapIdx fun i r =>
    match (if i + 1 = rows.length then flag else none) with
    | some (f, x) => ⟨.putf, some r.1, r.2.addr, r.2.size, some f, x⟩
    | none => ⟨.put, some r.1, r.2.addr, r.2.size, none, 0⟩

/-- RPUT (R396, R397). -/
def execRput (e : Fin 16) (c k : Fin 32) (a : Fin 64) (b : Option (Fin 32)) (s : State) : Result :=
  remoteCheck e (blockRegs a 3 b) s fun pr j =>
    if maxLen < (s.blk a 2).toNat then .next (s.trapOpen 0x11 (s.blk a 1))
    else
      match s.checkRemote (s.me.kr c.val) (s.me.kr k.val) false ⟨s.blk a 0, s.blk a 1, (s.blk a 2).toNat⟩ with
      | .error f => .next (s.trapCap f)
      | .ok r => s.issueRemote e pr j b (s.blk a 3) (putOps [r] none)

/-- RPUTF: the flag word's capability is checked after the row's (R396). -/
def execRputf (e : Fin 16) (c k : Fin 32) (a : Fin 64) (b : Option (Fin 32)) (s : State) : Result :=
  remoteCheck e (blockRegs a 5 b) s fun pr j =>
    if maxLen < (s.blk a 2).toNat then .next (s.trapOpen 0x11 (s.blk a 1))
    else
      match s.checkRemote (s.me.kr c.val) (s.me.kr k.val) false ⟨s.blk a 0, s.blk a 1, (s.blk a 2).toNat⟩ with
      | .error f => .next (s.trapCap f)
      | .ok r =>
        match s.checkWord (s.me.kr k.val) (s.blk a 3) with
        | .error f => .next (s.trapCap f)
        | .ok w => s.issueRemote e pr j b (s.blk a 5) (putOps [r] (some (w.addr, s.blk a 4)))

/-- The rows of an RPUTS block (R396). -/
def State.remRows (s : State) (a : Fin 64) : List RemRow := (s.stridedRows a).map fun r => ⟨r.src, r.dst, r.len⟩

/-- RPUTS: no rows send nothing, and the instruction is performed at issue (R397). -/
def execRputs (e : Fin 16) (c k : Fin 32) (a : Fin 64) (b : Option (Fin 32)) (s : State) : Result :=
  remoteCheck e (blockRegs a 6 b) s fun pr j =>
    if maxLen < (s.blk a 2).toNat ∨ 65535 < (s.blk a 5).toNat then .next (s.trapOpen 0x11 (s.blk a 1))
    else
      match checkAll (s.checkRemote (s.me.kr c.val) (s.me.kr k.val) false) (s.remRows a) with
      | .error f => .next (s.trapCap f)
      | .ok rows => s.issueRemote e pr j b (s.blk a 6) (putOps rows none)

/-- RPUTSF: with no rows a single head with no data, checked as a row of length 0, performs the flag only (R397). -/
def execRputsf (e : Fin 16) (c k : Fin 32) (a : Fin 64) (b : Option (Fin 32)) (s : State) : Result :=
  remoteCheck e (blockRegs a 8 b) s fun pr j =>
    if maxLen < (s.blk a 2).toNat ∨ 65535 < (s.blk a 5).toNat then .next (s.trapOpen 0x11 (s.blk a 1))
    else
      match checkAll (s.checkRemote (s.me.kr c.val) (s.me.kr k.val) false) (s.remRows a) with
      | .error f => .next (s.trapCap f)
      | .ok rows =>
        match s.capCheck s.cur.id (s.me.kr k.val) heapSpaces (s.blk a 1).toInt 0 pRPUT 1,
            s.checkWord (s.me.kr k.val) (s.blk a 6) with
        | .error f, _ => .next (s.trapCap f)
        | .ok _, .error f => .next (s.trapCap f)
        | .ok h, .ok w =>
          let ops :=
            if rows.isEmpty then [⟨.putf, none, h.addr, 0, some w.addr, s.blk a 7⟩]
            else putOps rows (some (w.addr, s.blk a 7))
          s.issueRemote e pr j b (s.blk a 8) ops

/-- RSEMADD: a release; an atomic add at the destination (R396, R397). -/
def execRsemadd (e : Fin 16) (k : Fin 32) (a : Fin 64) (s : State) : Result :=
  remoteCheck e (block a 2) s fun pr j =>
    match s.checkWord (s.me.kr k.val) (s.blk a 0) with
    | .error f => .next (s.trapCap f)
    | .ok w => s.issueRemote e pr j none 0 [⟨.semadd, none, w.addr, 8, none, s.blk a 1⟩]

/-- RPULL: KL names the local destination (R143, R396). -/
def execRpull (e : Fin 16) (c k : Fin 32) (a : Fin 64) (b : Option (Fin 32)) (s : State) : Result :=
  remoteCheck e (blockRegs a 3 b) s fun pr j =>
    if maxLen < (s.blk a 2).toNat then .next (s.trapOpen 0x11 (s.blk a 0))
    else
      match s.checkRemote (s.me.kr c.val) (s.me.kr k.val) true ⟨s.blk a 1, s.blk a 0, (s.blk a 2).toNat⟩ with
      | .error f => .next (s.trapCap f)
      | .ok r => s.issueRemote e pr j b (s.blk a 3) [⟨.pull, some r.1, r.2.addr, r.2.size, none, 0⟩]

end Sys2Proof.Machine
end

