-- ==== Sys2Proof/Machine/Fabric.lean ====
section
/-!
DEFINITION. The pod fabric (15_pod_fabric.md, R367–R369, R397–R399): channel entry, the receiving port, acknowledgements,
rank tables in migration, and links. Other packages are outside the machine: their heads, acknowledgements and data arrive
as steps from the inbox, and what this package answers them is kept in `replies`.
-/

namespace Sys2Proof.Machine

/-! ### Checks of the receiving port -/

/-- Whether the heap pages of a range have valid leaves, writable where bytes are written, and frames that serve the function (R83, R95,
R341 reason 5; DEDUCED, log entry 51). -/
def State.heapMapped (s : State) (j : Job) (off len : Nat) (write : Bool) : Bool :=
  decide (off + len ≤ j.heapLen)
    && (chunks (j.heapBase + off) len).all fun c =>
      match s.leaf j.func 0 c.1 with
      | some l => l.valid && (!write || l.wr) && (!l.populated || (s.frameFault j.func (l.flat 0 c.1)).isNone)
      | none => false

/-- The port's checks of one range, in the order of the reasons (R341); a range of length 0 is checked for 1, 2, 4, 6. -/
def State.portCheck (s : State) (part : Nat) (job : BitVec 16) (off len perm : Nat) (write : Bool) : Except Nat Job :=
  match s.findJob part (fun j => decide (j.job = job)) 4 with
  | none => .error 1
  | some (_, j) =>
    match j.segmentAt off with
    | none => .error 2
    | some g =>
      if 0 < len ∧ g.base + g.len < off + len then .error 3
      else if !g.has perm then .error 4
      else if decide (0 < len) && !s.heapMapped j off len write then .error 5
      else if (s.part j.func).state ≠ 1 then .error 6
      else .ok j

/-- The locations of the bytes of a range of a function's SPACE 0; none where the page has no frame with data, and reads as zeros
(R225, R226, R337). -/
def State.funcPlaces (s : State) (func va len : Nat) : List (Option Nat) :=
  (chunks va len).flatMap fun c =>
    match s.leaf func 0 c.1 with
    | some l => spread (if l.populated && (s.frameFault func (l.flat 0 c.1)).isNone then .at (l.flat 0 c.1) else .zeros) c.2
    | none => List.replicate c.2 none

/-- The locations of a heap range (R337). -/
def State.heapPlaces (s : State) (j : Job) (off len : Nat) : List (Option Nat) := s.funcPlaces j.func (j.heapBase + off) len

/-- A port's write marks the leaf: DIRTY, with write heat where it was clear (R221, R227); a page without a frame is touched first
(R225, R226), and keeps its generation: heap pages are not leased (R337). -/
def State.dirty (s : State) (func va : Nat) : State :=
  match s.leaf func 0 va with
  | some l =>
    if !l.populated then s.firstTouch none func (field l.pte 59 54) l
    else if l.dirty then s
    else s.setPte l.key (setField (setField l.pte 8 8 1) 13 12 (heat (field l.pte 13 12)))
  | none => s

/-- Make ready the pages of a range that a port writes. -/
def State.dirtyAll (s : State) (func va len : Nat) : State := (chunks va len).foldl (fun u c => u.dirty func c.1) s

/-- Bytes at places, as cells; a byte without a place is none. -/
def placeCells (ps : List (Option Nat)) (data : List Byte) : List Host.Cell := (ps.zip data).filterMap fun p => p.1.map fun a => (a, p.2)

/-- Bytes of a put are written in one step, visible at CHIP, under the function's memory key (R337, R369). -/
def State.heapWrite (s : State) (j : Job) (off : Nat) (data : List Byte) : State :=
  let s1 := s.dirtyAll j.func (j.heapBase + off) data.length
  s1.writeChip (1 + j.func) (placeCells (s1.heapPlaces j off data.length) data)

/-- An add at CHIP to a heap word of 8 bytes, a release of `rel` (R365, R369). -/
def State.heapAdd (s : State) (func va scope : Nat) (addend : Word) (tid ctx iss : Nat) (rel : List Nat) : State :=
  let s1 := s.dirtyAll func va 8
  let locs := (s1.funcPlaces func va 8).filterMap fun x => x
  let s2 := s1.forceOut 3 locs
  let old := leNat (s2.seeAll chipViewer (1 + func) locs)
  s2.writeAt tid ctx iss (max scope 2) (1 + func) (locs.zip (leBytes 8 (old + addend.toNat))) rel

/-! ### The reject log -/

/-- The kinds of R399. -/
def RemKind.code : RemKind → Nat
  | .put => 1
  | .putf => 2
  | .semadd => 3
  | .pull => 4

/-- An entry of the reject log (R399). -/
def rejectEntry (time hoff len job srank spkg part kind reason : Nat) (flagr : Bool) : BitVec 256 :=
  BitVec.ofNat 256 (time % 2 ^ 64 * 2 ^ 192 + hoff % 2 ^ 64 * 2 ^ 128 + len % 2 ^ 32 * 2 ^ 96 + job % 2 ^ 16 * 2 ^ 80
    + srank % 1024 * 2 ^ 70 + spkg % 1024 * 2 ^ 60 + part % 16 * 2 ^ 56 + kind * 2 ^ 52 + reason * 2 ^ 48
    + flagr.toNat * 2 ^ 47)

/-- A port; number 16 stands for the package's own receiving port (R398; DEDUCED, log entry 38). One that is fused off is down (R2). -/
def State.port (s : State) (n : Nat) : Port := if s.portTotal ≤ n ∧ n < 16 then { up := false } else Table.get {} s.ports n
/-- Replace a port. -/
def State.setPort (s : State) (n : Nat) (p : Port) : State := { s with ports := Table.set s.ports n p }

/-- Write an entry into a ring of 64 and count it (R342, R399). -/
def Port.log (p : Port) (e : BitVec 256) : Port :=
  let i := p.rejectCount % 64
  { p with rejects := if i < p.rejects.length then p.rejects.set i e else p.rejects ++ [e]
           rejectCount := (p.rejectCount + 1) % 2 ^ 64 }

/-- A rejection is logged at its port (R342, R399). -/
def State.logReject (s : State) (port hoff len job srank spkg part kind reason : Nat) (flagr : Bool) : State :=
  s.setPort port ((s.port port).log (rejectEntry s.time hoff len job srank spkg part kind reason flagr))

/-! ### Operations of this package -/

/-- The operation numbered `n`, if it is there. -/
def State.findOut (s : State) (n : Nat) : Option Out := s.outs.find? fun o => decide (o.op.id = n)

/-- Replace an operation. -/
def State.setOut (s : State) (o : Out) : State :=
  { s with outs := s.outs.map fun x => if x.op.id = o.op.id then o else x }

/-- Take an operation away. -/
def State.dropOut (s : State) (n : Nat) : State := { s with outs := s.outs.filter fun o => decide (o.op.id ≠ n) }

/-- The beats of an operation (R397). -/
def Remote.beats (r : Remote) : Nat :=
  match r.kind with
  | .semadd => 0
  | _ => (chunks r.hoff r.len).length + (if r.flag.isSome then 1 else 0)

/-- The attached beats of an operation leave PENDING (R397). -/
def State.outBar (s : State) (r : Remote) (err : Bool) : State :=
  match r.bar with
  | none => s
  | some a => s.updateBar r.tid r.ctx r.iss a [] (·.leave r.beats err)

/-- Whether the attached record's update must wait for what the record carries (R386). -/
def State.outBarWaits (s : State) (r : Remote) (err : Bool) : Bool :=
  match r.bar with
  | none => false
  | some a => s.barWaits r.tid r.ctx a (·.leave r.beats err)

/-- An operation ends in a rejection or a loss: its beats leave with ERROR, and it waits to be reported (R343, R349). -/
def State.failOut (s : State) (r : Remote) (lost : Bool) : State :=
  let s1 := (s.dropOut r.id).outBar r true
  { s1 with rejects := s1.rejects ++ [⟨r.tid, r.ctx, r.iss, r.scope, r.hoff, r.rank, lost, r.id⟩] }

/-- A pull that fails on both copies stops as a copy does (R253, R345). -/
def State.failPull (s : State) (r : Remote) (code va : Nat) : State :=
  ((s.dropOut r.id).outBar r true).addLate r.tid ⟨code, BitVec.ofNat 64 va, r.pc, r.iss, [], false⟩

/-- The job of an operation's task. -/
def State.jobOfTid (s : State) (tid : Nat) : Option Job := ((s.taskOf tid).bind s.jobOf).map (·.2)

/-- Whether a rank is lost to a job, or unreachable: no egress port may carry its traffic (R339, R349). (DEDUCED, log entry 38.) -/
def Job.gone (j : Job) (r : Nat) : Bool := j.lost.contains r || decide ((j.rank r).ports = 0)

/-- The copies to be sent (R344, R345): puts, flags and adds to every live copy, a pull to one. -/
def Job.legs (j : Job) (r : Remote) : List Leg :=
  let main := if j.gone r.rank then [] else [(⟨false, r.rank, j.here r.rank, (j.rank r.rank).part, .sent⟩ : Leg)]
  let other := match j.mirrorOf r with
    | some m => if j.gone m then [] else [(⟨true, m, j.here m, (j.rank m).part, .sent⟩ : Leg)]
    | none => []
  if r.kind = .pull then (main ++ other).take 1 else main ++ other

/-- The flits of one copy: a head and the data (R333, R334). -/
def Remote.flits (r : Remote) : Nat := if r.kind = .put ∨ r.kind = .putf then 1 + (r.len + 63) / 64 else 1

/-- The first port that is up among those that may carry a rank's traffic. -/
def State.egress (s : State) (j : Job) (r : Nat) : Option Nat :=
  (portList (j.rank r).ports).find? fun p => (s.port p).up

/-- Flits leave through a port, after those that are to be sent again (R348); its counter must stay below 2^48 (R347): none where the link needs
a new key first. -/
def State.sendFlits (s : State) (port n : Nat) : Option State :=
  let p := s.port port
  if p.again = 0 ∧ p.flits + n < 2 ^ 48 then some (s.setPort port { p with flits := p.flits + n }) else none

/-- Every copy to another package leaves through a port; none while it cannot (R334, R347, R348). -/
def State.sendLegs (s : State) (j : Job) (n : Nat) : List Leg → Option State
  | [] => some s
  | l :: ls =>
    if l.here then State.sendLegs s j n ls
    else
      match s.egress j l.rank with
      | none => none
      | some p =>
        match s.sendFlits p n with
        | none => none
        | some s1 => State.sendLegs s1 j n ls

/-- The ranks that an operation goes to (R344): its own and the mirror. -/
def Job.targets (j : Job) (r : Remote) : List Nat := r.rank :: (j.mirrorOf r).toList

/-- The job slot of an operation's task: its partition and its number (R338). -/
def State.jobSlot (s : State) (tid : Nat) : Option (Nat × Nat) := (s.taskOf tid).bind fun t => (s.jobOf t).map fun p => (t.l1, p.1)

/-- Whether two operations go to a common rank of job `j`, which is that of the second: its channel then keeps their order (R338, R339,
R344). -/
def State.clash (s : State) (j : Job) (a b : Remote) : Bool :=
  decide (s.jobSlot a.tid = s.jobSlot b.tid) && meet (j.targets a) (j.targets b)

/-- Whether an operation is held at the egress: one of the ranks that its copies would go to is (R346). -/
def Job.held (j : Job) (legs : List Leg) : Bool := legs.any fun l => (j.rank l.rank).hold

/-- The writes that a remote release waits for (R366): the own ones before it, and those observed before it. -/
def State.releaseNeed (s : State) (r : Remote) : List Nat := s.cumulative r.ctx r.iss r.scope

/-- Whether a remote release may be performed (R365): what it waits for is visible at its scope, and no atomic before it is still to be
performed. Other operations are no releases. -/
def State.releaseReady (s : State) (r : Remote) : Bool :=
  (r.flag.isNone && decide (r.kind ≠ .semadd))
    || !(s.atoms.any fun a => decide (a.ctx = r.ctx) && decide (a.iss < r.iss)) && (s.releaseNeed r).all (s.visibleAt r.scope)

/-- Whether an operation is held at its egress (R346). -/
def Out.kept (o : Out) : Bool :=
  match o.stage with
  | .hold _ => true
  | _ => false

/-- Whether an operation may leave its remote queue, or its hold queue (R93, R346, R355, R364, R365, R368): it heads its remote queue, no
earlier operation of the context to one of its ranks is still short of the channel (or, where it is held, of the hold queue), a held
operation to one of its ranks goes first, its context is not switched out, no acquire before it is pending, its function is not being
released, and where a copy goes to another package the writes of its instruction's release are visible. -/
def State.entryFree (s : State) (j : Job) (o : Out) (legs : List Leg) : Bool :=
  let before := s.outs.takeWhile fun x => decide (x.op.batch ≠ o.op.batch)
  let goes := !j.held legs
  !(before.any fun x => decide (x.op.ctx = o.op.ctx)
      && (decide (x.op.peer = o.op.peer) && decide (x.stage = .queue)
        || decide (x.stage ≠ .sent) && (goes || !x.kept) && s.clash j x.op o.op))
    && !(goes && (if o.kept then before else s.outs).any fun x => x.kept && decide (x.op.batch ≠ o.op.batch) && s.clash j x.op o.op)
    && (o.kept || !s.isOut o.op.ctx o.op.tid)
    && decide ((s.part (s.funcOf o.op.tid)).state < 2)
    && !s.hostWaits (s.funcOf o.op.tid) o.op.lspace o.op.laddr o.op.len && !s.acquirePending o.op.ctx o.op.iss
    && (legs.all (·.here) || (s.outs.filter fun x => decide (x.op.batch = o.op.batch)).all fun x => s.releaseReady x.op)

/-- A row of an instruction on its way into the channel: the operation, its copies, the locations that it reads, and their bytes. -/
structure Row1 where
  out : Out
  legs : List Leg
  spots : List Nat
  data : List Byte
  deriving DecidableEq, Repr

/-- The fabric tokens of a row: one for each flit of each copy to another package (R334). -/
def Row1.flits (r : Row1) : Nat := r.out.op.flits * (r.legs.filter fun l => !l.here).length

/-- The flits of some rows leave through their ports; none while a port cannot take them (R334, R347, R348). -/
def State.sendRows (s : State) (j : Job) : List Row1 → Option State
  | [] => some s
  | r :: rs =>
    match s.sendLegs j r.out.op.flits r.legs with
    | none => none
    | some s1 => State.sendRows s1 j rs

/-- The rows of an instruction enter their channel together with the local bytes they read now, once it has its tokens: one for each 64
bytes of HBM that it reads and for each flit (R87, R334, R367, R368, R397). The heads carry what the job's tables then say (R399). -/
def State.enterChannel (s : State) (j : Job) (n func : Nat) (rows : List Row1) : State :=
  if (s.sendRows j rows).isNone then s
  else
    match s.payBoth n func (rows.map fun r => hbmTokens r.spots).sum (rows.map (·.flits)).sum with
    | (s1, false) => s1
    | (s1, true) =>
      match s1.sendRows j rows with
      | none => s1
      | some s2 => rows.foldl (fun u r => u.setOut { r.out with
          stage := .sent, data := r.data, legs := r.legs, job := j.job.toNat, srank := j.myrank, spkg := j.ownPkg }) s2

/-- An operation that no copy of its rank is left for is dropped (R349); a pull whose mirror is lost too fails with 0x23 (R345). -/
def State.loseOp (s : State) (j : Job) (o : Out) : State :=
  if decide (o.op.kind = .pull) && (j.mirrorOf o.op).isSome then s.failPull o.op 0x23 o.op.laddr else s.failOut o.op true

/-- Whether an operation reads local bytes as it enters its channel. -/
def Remote.reads (r : Remote) : Bool := decide (r.kind = .put) || decide (r.kind = .putf)

/-- The rows of an instruction with the locations that they read, or the first late fault of a row's read (R397). -/
def State.rowPlaces (s : State) (t : Task) (j : Job) : List Out → Except (Nat × Nat) (List (Out × List (Option Nat)))
  | [] => .ok []
  | o :: os =>
    match (if o.op.reads then s.readPlaces t o.op.ctx o.op.lspace (chunks o.op.laddr o.op.len) else .ok []) with
    | .error e => .error e
    | .ok ps =>
      match State.rowPlaces s t j os with
      | .error e => .error e
      | .ok rs => .ok ((o, ps) :: rs)

/-- The first failing byte of a chunk that meets a late fault at `va`; the chunk's own address where no byte fails by itself (R397). -/
def State.failByte (s : State) (t : Task) (ctx space va : Nat) : Nat :=
  (((List.range 64).map (va + ·)).find? fun a => match s.place t ctx space a 1 false with | .late _ => true | _ => false).getD va

/-- A row's read meets a late fault: no head of the instruction is sent, its beats leave with ERROR, and sr.tval holds the address of the
failing byte (R397). -/
def State.dropRows (s : State) (t : Task) (o : Out) (rows : List Out) (e : Nat × Nat) : State :=
  (rows.foldl (fun u x => (u.dropOut x.op.id).outBar x.op true) s).addLate o.op.tid
    ⟨e.1, BitVec.ofNat 64 (s.failByte t o.op.ctx o.op.lspace e.2), o.op.pc, o.op.iss, [], false⟩

/-- The rows of an instruction join the hold queue of a held rank, where one has room (R346). -/
def State.holdRows (s : State) (j : Job) (legs : List Leg) (rows : List Out) : State :=
  match (legs.find? fun l => (j.rank l.rank).hold).bind fun l => s.holdPort (j.rank l.rank) with
  | none => s
  | some p => rows.foldl (fun u x => u.setOut { x with stage := .hold p }) s

/-- REMOTE_CHANNEL_ENTRY: an instruction at the head of a remote queue enters its channel, all its rows together; it joins the hold queue of
a held rank (R346), from which it goes on once the rank is no longer held; it is dropped where no copy of its rank is left (R349), or on a
late fault of a local read (R397). -/
def execRemoteChannelEntry (n : Nat) (s : State) : Result :=
  match s.findOut n with
  | none => .next s
  | some o =>
    let rows := s.outs.filter fun x => decide (x.op.batch = o.op.batch)
    match s.jobOfTid o.op.tid, s.taskOf o.op.tid with
    | some j, some t =>
      let legs := rows.flatMap fun x => j.legs x.op
      if o.stage = .sent ∨ (rows.head?.map (·.op.id)) ≠ some n ∨ !s.entryFree j o legs then .next s
      else
        match rows.filter fun x => (j.legs x.op).isEmpty with
        | x :: xs => .next ((x :: xs).foldl (fun u y => u.loseOp j y) s)
        | [] =>
          if j.held legs then (if o.kept then .next s else .next (s.holdRows j legs rows))
          else
            match s.rowPlaces t j rows with
            | .error e => .next (s.dropRows t o rows e)
            | .ok rs =>
              let spots := rs.flatMap fun r => r.2.filterMap fun x => x
              if s.ownStore o.op.ctx o.op.iss spots || s.spcLocked spots then .next s
              else
                let s1 := (rows.filter (·.op.reads)).foldl
                  (fun u x => State.prepareReads t x.op.ctx x.op.lspace u (chunks x.op.laddr x.op.len)) s
                .next (s1.enterChannel j n t.func (rs.map fun r => ⟨r.1, j.legs r.1.op, r.2.filterMap fun x => x,
                  r.2.map (s.seePlace (engineViewer o.op.ctx (decide (r.1.op.lspace = 3))) r.1.op.lkey)⟩))
    | _, _ => .next (s.failOut o.op true)

/-! ### The receiving port -/

/-- The next copy of an operation that this package's own port is to take (R398). -/
def Out.toTake (o : Out) : Option Leg := o.legs.find? fun l => l.here && decide (l.state = .sent)

/-- Whether an operation heads its channel (R369): no earlier operation of the context to that rank is still to be performed
at the port. -/
def State.headsChannel (s : State) (o : Out) (l : Leg) : Bool :=
  let before := s.outs.takeWhile fun x => decide (x.op.id ≠ o.op.id)
  !(before.any fun x => decide (x.op.ctx = o.op.ctx)
      && x.legs.any fun k => k.here && decide (k.rank = l.rank) && (decide (k.state = .sent) || decide (k.state = .flag)))

/-- Put a copy of an operation into a state. -/
def Out.setLeg (o : Out) (l : Leg) (st : LegState) : Out :=
  { o with legs := o.legs.map fun k => if k = l then { k with state := st } else k }

/-- What the port takes from this package's own channel `n`: the operation and the copy, for the given kind. -/
def State.ownHead (s : State) (n : Nat) (kind : RemKind) : Option (Out × Leg) :=
  match s.findOut n with
  | none => none
  | some o =>
    match o.toTake with
    | some l => if o.stage = .sent ∧ o.op.kind = kind ∧ s.headsChannel o l then some (o, l) else none
    | none => none

/-- The JOB that the head of an operation carries (R399). -/
def Out.jobNo (o : Out) : BitVec 16 := BitVec.ofNat 16 o.job

/-- The port rejects an own operation (R341–R343): logged, and the answer is noted; a rejected row spoils the flag of its
instruction (R397). -/
def State.rejectOwn (s : State) (o : Out) (l : Leg) (len reason : Nat) (flagr : Bool) : State :=
  let hoff := if flagr then o.op.flag.getD 0 else o.op.hoff
  let s1 := s.logReject 16 hoff (if flagr then 8 else len) o.job o.srank o.spkg l.part o.op.kind.code
    reason flagr
  { s1.setOut (o.setLeg l (.rejected reason)) with spoiled := s1.spoiled ++ [(o.spkg, o.op.ctx, o.op.batch)] }

/-- The channel of a head from another package, as a key: its next sequence number is kept there. The partition and the job give the
destination rank, which is the job slot's own (R338, R339). -/
def channelKey (h : Head) : Nat :=
  (((h.job.toNat * 16 + h.part % 16) * 1024 + h.srcPkg % 1024) * 1024 + h.srcRank % 1024) * 512 + h.srcCtx % 512

/-- Whether a head is the next of its channel (R339, R369). -/
def State.inTurn (s : State) (h : Head) : Bool := decide (h.seq = Table.get 0 s.rxSeq (channelKey h))

/-- The flits of a head with its data (R333). -/
def headFlits (h : Head) : Nat := 1 + (h.data.length + 63) / 64

/-- Flits that verify at a port: the receiving counter advances, and the failure count is reset (R347, R348). -/
def State.verified (s : State) (port n : Nat) : State :=
  if port < 16 then s.setPort port { s.port port with fails := 0, rx := (s.port port).rx + n } else s

/-- The function that pays for what a head makes this package's memory and ports do: that of the job slot it names (R88, R334). The spec does not
say who pays for the NACK to a head whose JOB names no job slot: here the level-1 function of PART (DESIGN CHOICE, log entry 26). -/
def State.headFunc (s : State) (h : Head) : Nat :=
  match s.findJob h.part (fun j => decide (j.job = h.job)) 4 with
  | some (_, j) => j.func
  | none => h.part

/-- The flits of a head verify when they come: once, be it that the head then waits for its turn (R348). -/
def State.verifyHead (s : State) (h : Head) : State :=
  if s.seen.contains (channelKey h, h.seq) then { s with seen := s.seen.erase (channelKey h, h.seq) } else s.verified h.port (headFlits h)

/-- The port answers a head and takes the next of its channel; the flits of the answer are still to leave (R334, R369). -/
def State.answer (s : State) (h : Head) (reason : Nat) (data : List Byte) : State :=
  { s.verifyHead h with
    rxSeq := Table.set s.rxSeq (channelKey h) (h.seq + 1)
    replies := s.replies ++ [⟨h.port, h.tag, reason, data, s.headFunc h, 1 + (data.length + 63) / 64⟩] }

/-- The port rejects a head (R341, R342). -/
def State.rejectHead (s : State) (h : Head) (kind : RemKind) (hoff len reason : Nat) (flagr : Bool) : State :=
  let s1 := s.logReject h.port hoff len h.job.toNat h.srcRank h.srcPkg h.part kind.code reason flagr
  State.answer { s1 with spoiled := s1.spoiled ++ [(h.srcPkg, h.srcCtx, h.batch)] } h reason []

/-- Flits that are to be sent again leave under fresh counters, once the link is up and has them (R347, R348). They cost no fabric tokens a second
time, which the spec does not say (DESIGN CHOICE, log entry 26). -/
def Port.flush (p : Port) : Port :=
  if p.up = true ∧ p.flits + p.again < 2 ^ 48 then { p with flits := p.flits + p.again, again := 0 } else p

/-- A reply's flits leave while its port is up, has counter values left, and the function has tokens (R334, R347). -/
def State.sendReply (s : State) (r : Reply) : State × Reply :=
  if r.left = 0 ∨ (s.port r.port).up = false then (s, r)
  else
    match s.sendFlits r.port r.left with
    | none => (s, r)
    | some _ =>
      let k := s.takeUpTo r.func .fabric r.left
      let s1 := k.2.setPort r.port { k.2.port r.port with flits := (k.2.port r.port).flits + k.1 }
      (if k.1 < r.left then s1.tokenWait (requestNo 3 r.tag) r.func .fabric (r.left - k.1) else s1.waitOver (requestNo 3 r.tag) r.func,
        { r with left := r.left - k.1 })

/-- The end of a cycle at the ports: what is to be sent again, and the answers that are still to leave. -/
def State.sendReplies (s : State) : State :=
  let s0 := { s with ports := s.ports.map fun (p : Nat × Port) => (p.1, p.2.flush) }
  let u := s0.replies.foldl (fun (a : State × List Reply) r => let x := a.1.sendReply r; (x.1, a.2 ++ [x.2])) (s0, [])
  { u.1 with replies := u.2 }

/-- The memory tokens for bytes at places (R87). -/
def placeTokens (ps : List (Option Nat)) : Nat := hbmTokens (ps.filterMap fun x => x)

/-- The memory tokens of a write to a heap range: one for each 64 bytes (R87). -/
def heapTokens (off len : Nat) : Nat := (chunks off len).length

/-- The head from another package that an input holds, and its kind. -/
def headOf : Instr → Option (Head × RemKind)
  | .put (.wire h) => some (h, .put)
  | .putf (.wire h) => some (h, .putf)
  | .semadd (.wire h) => some (h, .semadd)
  | .pullreq (.wire h) => some (h, .pull)
  | _ => none

/-- The heap range that a head names. -/
def headRange (h : Head) (k : RemKind) : Nat := if k = .semadd then 8 else h.len

/-- What a head from another package makes this package move between HBM and its ports: the job slot, and the memory tokens (R87); nothing
where it is rejected. -/
def State.headTokens (s : State) (h : Head) (k : RemKind) : Option (Job × Nat) :=
  let perm := match k with
    | .semadd => segSEM
    | .pull => segPULL
    | _ => segPUT
  match s.portCheck h.part h.job h.hoff (headRange h k) perm (decide (k ≠ .pull)) with
  | .ok j => some (j, if k = .semadd then 2 else heapTokens (j.heapBase + h.hoff) h.len)
  | .error _ => none

/-- The number that stands for a head where its tokens are noted: its channel's. -/
def headId (h : Head) : Nat := 2 ^ 80 + channelKey h

/-- A head pays its tokens (R87). -/
def State.payHead (s : State) (h : Head) (k : RemKind) : State × Bool :=
  match s.headTokens h k with
  | none => (s, true)
  | some (j, n) => s.pay (headId h) j.func .memory n

/-- The end of a cycle at the receiving ports: each head that is the next of its channel pays towards its tokens (R87). -/
def State.payInputs (s : State) : State :=
  (s.inbox.filterMap headOf).foldl (fun u x =>
    match u.headTokens x.1 x.2 with
    | none => u
    | some (j, n) => if u.inTurn x.1 then (u.payPart (headId x.1) j.func .memory n).1 else u) s

/-- What stands for an answer while it waits at a port: its operation, copy and reason. -/
def ackKey (op r : Nat) : Nat × Nat := (2 ^ 100 + op, r)
/-- The same for a NACK. -/
def nackKey (op r reason : Nat) : Nat × Nat := (2 ^ 101 + op, r + 2 * reason)

/-- The port by which an answer comes, and what stands for it. -/
def answerKey : Instr → Option (Nat × Nat × Nat)
  | .ack n r => some (n.port, ackKey n.op r)
  | .nack n r reason => some (n.port, nackKey n.op r reason)
  | _ => none

/-- The one flit of an answer verifies when it comes: once, be it that the answer then waits (R347, R348). -/
def State.verifyAnswer (s : State) (port : Nat) (k : Nat × Nat) : State :=
  if s.seen.contains k then { s with seen := s.seen.erase k } else s.verified port 1

/-- What waits at the ports verifies: heads, and answers from other packages (R348). -/
def State.verifyInputs (s : State) : State :=
  let u := (s.inbox.filterMap headOf).foldl (fun u x =>
    if u.seen.contains (channelKey x.1, x.1.seq) then u
    else { u.verified x.1.port (headFlits x.1) with seen := u.seen ++ [(channelKey x.1, x.1.seq)] }) s
  (u.inbox.filterMap answerKey).foldl (fun u k =>
    if u.seen.contains k.2 ∨ 16 ≤ k.1 then u else { u.verified k.1 1 with seen := u.seen ++ [k.2] }) u

/-- Whether a port's access to some locations must wait: a .SPC atomic has locked a word of them (R372), or, for a write, writes before it into
HBM have their tokens to take (R87). -/
def State.portWaits (s : State) (locs : List Nat) (write : Bool) : Bool := s.spcLocked locs || (write && s.pushes locs)

/-- Whether what a head names in the heap makes it wait. -/
def State.headLocked (s : State) (h : Head) (k : RemKind) : Bool :=
  match s.headTokens h k with
  | none => false
  | some (j, _) => s.portWaits ((s.heapPlaces j h.hoff (headRange h k)).filterMap fun x => x) (decide (k ≠ .pull))

/-- Whether an arriving message must wait at the port: a head that is not the next of its channel, whose flag add is still to come
(R369), that has not its tokens (R87), whose range is locked (R372); an answer to an operation whose record is not yet to be updated
(R386). The step leaves it in the inbox. -/
def State.early (s : State) (i : Instr) : Bool :=
  match headOf i with
  | some (h, k) =>
    !s.inTurn h || !(s.payHead h k).2 || s.headLocked h k || s.flags.any fun f => decide (f.src = .wire h)
  | none =>
    match i with
    | .ack n _ => (s.findOut n.op).any fun o => s.outBarWaits o.op false
    | .nack n _ _ => (s.findOut n.op).any fun o => s.outBarWaits o.op true
    | _ => false

/-- PUT: the port checks the operation and writes its data in one step, or rejects it (R341, R369). -/
def execPut (src : PortSrc) (s : State) : Result :=
  match src with
  | .chan n =>
    match s.ownHead n .put with
    | none => .next s
    | some (o, l) =>
      match s.portCheck l.part o.jobNo o.op.hoff o.op.len segPUT true with
      | .error e => .next (s.rejectOwn o l o.op.len e false)
      | .ok d =>
        if s.portWaits ((s.heapPlaces d o.op.hoff o.op.len).filterMap fun x => x) true then .next s
        else
          match s.pay n d.func .memory (heapTokens (d.heapBase + o.op.hoff) o.data.length) with
          | (s1, false) => .next s1
          | (s1, true) => .next ((s1.heapWrite d o.op.hoff o.data).setOut (o.setLeg l .performed))
  | .wire h =>
    if !s.inTurn h then .next s
    else
      match s.portCheck h.part h.job h.hoff h.len segPUT true with
      | .error e => .next (s.rejectHead h .put h.hoff h.len e false)
      | .ok d => .next ((State.heapWrite (s.payHead h .put).1 d h.hoff (h.data.take h.len)).answer h 0 [])

/-- The checks of a PUTF: the data range, then the flag word (R341): the reason and whether it is the flag's. -/
def State.putfCheck (s : State) (part : Nat) (job : BitVec 16) (hoff len flag : Nat) : Except (Nat × Bool) Job :=
  match s.portCheck part job hoff len segPUT true with
  | .error e => .error (e, false)
  | .ok d =>
    match s.portCheck part job flag 8 segFLAG true with
    | .error e => .error (e, true)
    | .ok _ => .ok d

/-- A flag add is noted at the port. -/
def State.noteFlag (s : State) (src : PortSrc) (d : Job) (flag scope : Nat) (addend : Word) (mirror : Bool) : State :=
  { s with flags := s.flags ++ [⟨s.fresh, src, d.func, d.heapBase + flag, addend, scope, mirror⟩], fresh := s.fresh + 1 }

/-- PUTF: the data in one step, the flag add to come in a later one; dropped where a row of the instruction was rejected
(R341, R369, R397). -/
def execPutf (src : PortSrc) (s : State) : Result :=
  match src with
  | .chan n =>
    match s.ownHead n .putf with
    | none => .next s
    | some (o, l) =>
      let flag := o.op.flag.getD 0
      match s.putfCheck l.part o.jobNo o.op.hoff o.op.len flag with
      | .error e => .next (s.rejectOwn o l o.op.len e.1 e.2)
      | .ok d =>
        if s.portWaits ((s.heapPlaces d o.op.hoff o.op.len).filterMap fun x => x) true then .next s
        else
          match s.pay n d.func .memory (heapTokens (d.heapBase + o.op.hoff) o.data.length) with
          | (s0, false) => .next s0
          | (s0, true) =>
            let s1 := s0.heapWrite d o.op.hoff o.data
            if s.spoiled.contains (o.spkg, o.op.ctx, o.op.batch) then .next (s1.setOut (o.setLeg l .performed))
            else .next ((s1.setOut (o.setLeg l .flag)).noteFlag (.chan n) d flag o.op.scope o.op.addend l.mirror)
  | .wire h =>
    if !s.inTurn h || s.flags.any (fun f => decide (f.src = .wire h)) then .next s
    else
      match s.putfCheck h.part h.job h.hoff h.len h.flag with
      | .error e =>
        .next (s.rejectHead h .putf (if e.2 then h.flag else h.hoff) (if e.2 then 8 else h.len) e.1 e.2)
      | .ok d =>
        let s1 := State.heapWrite (s.payHead h .putf).1 d h.hoff (h.data.take h.len)
        if s.spoiled.contains (h.srcPkg, h.srcCtx, h.batch) then .next (s1.answer h 0 [])
        else .next (s1.noteFlag (.wire h) d h.flag h.scope h.addend false)

/-- The locations of 8 bytes of a function's memory. -/
def State.wordPlaces (s : State) (func va : Nat) : List Nat := (s.funcPlaces func va 8).filterMap fun x => x

/-- PUTF_FLAG_ADD: after the bytes, the flag add as a release at the peer register's scope (R365, R366, R369). -/
def execPutfFlagAdd (n : Nat) (s : State) : Result :=
  match s.flags.find? fun f => decide (f.id = n) with
  | none => .next s
  | some f =>
    if s.portWaits (s.wordPlaces f.func f.va) true then .next s
    else
      match s.pay n f.func .memory 2 with
      | (u, false) => .next u
      | (u, true) =>
        let s0 := { u with flags := u.flags.filter fun x => decide (x.id ≠ n) }
        match f.src with
        | .wire h => .next ((s0.heapAdd f.func f.va f.scope f.addend 0 0 0 []).answer h 0 [])
        | .chan m =>
          match s.findOut m with
          | none => .next (s0.heapAdd f.func f.va f.scope f.addend 0 0 0 [])
          | some o =>
            if !s.releaseReady o.op then .next s
            else
              let s1 := s0.heapAdd f.func f.va f.scope f.addend o.op.tid o.op.ctx o.op.iss (s.releaseNeed o.op)
              match o.legs.find? fun l => l.here && decide (l.state = .flag) && decide (l.mirror = f.mirror) with
              | none => .next s1
              | some l => .next (s1.setOut (o.setLeg l .performed))

/-- SEMADD: the port performs the add as an atomic at CHIP (R341, R369); an own one is a release (R365). -/
def execSemadd (src : PortSrc) (s : State) : Result :=
  match src with
  | .chan n =>
    match s.ownHead n .semadd with
    | none => .next s
    | some (o, l) =>
      if !s.releaseReady o.op then .next s
      else
        match s.portCheck l.part o.jobNo o.op.hoff 8 segSEM true with
        | .error e => .next (s.rejectOwn o l 8 e false)
        | .ok d =>
          if s.portWaits (s.wordPlaces d.func (d.heapBase + o.op.hoff)) true then .next s
          else
            match s.pay n d.func .memory 2 with
            | (s1, false) => .next s1
            | (s1, true) =>
              .next ((s1.heapAdd d.func (d.heapBase + o.op.hoff) 2 o.op.addend o.op.tid o.op.ctx o.op.iss
                (s.releaseNeed o.op)).setOut (o.setLeg l .performed))
  | .wire h =>
    if !s.inTurn h then .next s
    else
      match s.portCheck h.part h.job h.hoff 8 segSEM true with
      | .error e => .next (s.rejectHead h .semadd h.hoff 8 e false)
      | .ok d =>
        .next ((State.heapAdd (s.payHead h .semadd).1 d.func (d.heapBase + h.hoff) 2 h.addend 0 0 0 []).answer h 0 [])

/-- The bytes of a heap range, read from memory (R359, R369). -/
def State.heapRead (s : State) (j : Job) (off len : Nat) : List Byte :=
  (s.heapPlaces j off len).map (s.seePlace chipViewer (1 + j.func))

/-- PULLREQ: the port reads the range from memory and sends PULLDATA back, or rejects it (R341, R369). -/
def execPullreq (src : PortSrc) (s : State) : Result :=
  match src with
  | .chan n =>
    match s.ownHead n .pull with
    | none => .next s
    | some (o, l) =>
      match s.portCheck l.part o.jobNo o.op.hoff o.op.len segPULL false with
      | .error e => .next (s.rejectOwn o l o.op.len e false)
      | .ok d =>
        if s.spcLocked ((s.heapPlaces d o.op.hoff o.op.len).filterMap fun x => x) then .next s
        else
          match s.pay n d.func .memory (placeTokens (s.heapPlaces d o.op.hoff o.op.len)) with
          | (s1, false) => .next s1
          | (s1, true) => .next (s1.setOut { o.setLeg l .performed with data := s.heapRead d o.op.hoff o.op.len })
  | .wire h =>
    if !s.inTurn h then .next s
    else
      match s.portCheck h.part h.job h.hoff h.len segPULL false with
      | .error e => .next (s.rejectHead h .pull h.hoff h.len e false)
      | .ok d => .next (State.answer (s.payHead h .pull).1 h 0 (s.heapRead d h.hoff h.len))

/-! ### Answers -/

/-- The next 64-byte beat of a pull: the address, and the bytes (R397). -/
def Out.nextBeat (o : Out) : Option (Nat × List Byte) :=
  match (chunks o.op.laddr o.op.len).find? fun c => decide (o.op.laddr + o.written ≤ c.1) with
  | none => none
  | some c => some (c.1, (o.data.drop o.written).take c.2)

/-- A pull writes its next beat, at CHIP; with the last it is performed (R397), unless its record must wait (R386); a beat waits for a
locked word (R372) and for the answer to a page request (R352). -/
def State.pullBeat (s : State) (o : Out) (t : Task) : State :=
  match o.nextBeat with
  | none => if s.outBarWaits o.op false then s else (s.dropOut o.op.id).outBar o.op false
  | some (a, bs) =>
    match State.writePlaces t o.op.ctx o.op.lspace s (chunks a bs.length) with
    | .error e => s.failPull o.op e.1 e.2
    | .ok (ls, s1) =>
      if s.spcLocked ls || s.hostWaits t.func o.op.lspace a bs.length then s
      else
        ((s1.writeChip o.op.lkey (ls.zip bs)).tagGranules (coreOf o.op.ctx) t.func o.op.lspace a bs.length).setOut
          { o with written := o.written + bs.length }

/-- PULLDATA: the bytes of a pull have come, by a port or from this package's own; then the core's copy engine writes them to the local
range, 64-byte beat by beat, and the pull is performed with the last (R397). A late fault stops it as it stops a copy (R253, R450). The flits that
a port receives verify whatever becomes of the pull (R347, R348). -/
def execPulldata (n : PortOp) (data : List Byte) (s0 : State) : Result :=
  let s := s0.verified n.port (1 + (data.length + 63) / 64)
  match s.findOut n.op with
  | none => .next s
  | some o =>
    match o.legs, s.taskOf o.op.tid with
    | [], _ => .next s
    | _, none => .next (s.dropOut n.op)
    | l :: _, some t =>
      if o.op.kind ≠ .pull ∨ o.stage ≠ .sent then .next s
      else if l.state = .performed then .next (s.pullBeat o t)
      else if l.here then .next s
      else .next (s.setOut { o.setLeg l .performed with data := data })

/-- The copy of an operation that an answer is for. -/
def Out.leg (o : Out) (r : Nat) : Option Leg := o.legs.find? fun l => decide (l.mirror = decide (r = 1))

/-- Take a copy out of an operation. -/
def Out.dropLeg (o : Out) (l : Leg) : Out := { o with legs := o.legs.filter fun k => decide (k.mirror ≠ l.mirror) }

/-- What becomes of an operation once a copy is answered or lost (R344, R349, R397): it stays while a copy is out; then it is
performed, unless one copy was rejected or none was acknowledged. -/
def State.settleOut (s : State) (o : Out) : State :=
  if !o.legs.isEmpty then s.setOut o
  else if o.nack then s.failOut o.op false
  else if o.done then (s.dropOut o.op.id).outBar o.op false
  else s.failOut o.op true

/-- ACK (an answer to an operation that is no longer outstanding is dropped, its flit having verified): a copy of an operation was performed; once every copy has
been answered the operation leaves the outstanding set and its beats leave PENDING (R344, R369, R397). The answer of this package's own port comes after it has performed. -/
def execAck (n : PortOp) (r : Nat) (s0 : State) : Result :=
  let s := s0.verifyAnswer n.port (ackKey n.op r)
  match s.findOut n.op with
  | none => .next s
  | some o =>
    match o.leg r with
    | none => .next s
    | some l =>
      if o.stage ≠ .sent ∨ o.op.kind = .pull ∨ (l.here ∧ l.state ≠ .performed) ∨ s.outBarWaits o.op false = true then .next s
      else .next (s.settleOut { o.dropLeg l with done := true })

/-- NACK: a copy of an operation was rejected; it is recorded against the issuing context, and the beats leave PENDING with
ERROR (R343, R397). -/
def execNack (n : PortOp) (r reason : Nat) (s0 : State) : Result :=
  let s := s0.verifyAnswer n.port (nackKey n.op r reason)
  match s.findOut n.op with
  | none => .next s
  | some o =>
    match o.leg r with
    | none => .next s
    | some l =>
      if o.stage ≠ .sent ∨ (l.here ∧ l.state ≠ .rejected reason) ∨ s.outBarWaits o.op true = true then .next s
      else .next (s.settleOut { o.dropLeg l with nack := true })

/-! ### Migration and loss -/

/-- Replace a job slot. -/
def State.setJob (s : State) (l1 j : Nat) (x : Job) : State := { s with jobs := Table.set s.jobs (4 * l1 + j) x }

/-- Whether an operation belongs to job slot `j` of partition `l1` (R338). -/
def State.inJob (s : State) (l1 j : Nat) (o : Out) : Bool :=
  match s.taskOf o.op.tid with
  | some t => decide (t.l1 = l1) && (match s.jobOf t with | some p => decide (p.1 = j) | none => false)
  | none => false

/-- HOLD_DRAIN_REPORT: every operation, mirror copies among them, that was sent to a held rank before HOLD has been acknowledged
(R346). -/
def execHoldDrainReport (l1 job rank : Nat) (s : State) : Result :=
  let j := s.job l1 job
  if !(j.rank rank).hold || j.reported.contains rank
      || s.outs.any fun o => decide (o.stage = .sent) && (o.legs.any fun l => decide (l.rank = rank)) && s.inJob l1 job o then
    .next s
  else .next (s.setJob l1 job { j with reported := j.reported ++ [rank] })

/-- One operation meets the loss of a rank (R345, R349): copies to it are gone; a pull that has no data yet is to be sent to the mirror;
an operation with no copy left is dropped, be it in its queue or held. -/
def State.loseOut (s : State) (j : Job) (rank : Nat) (o : Out) : State :=
  match o.stage with
  | .sent =>
    if o.legs.all fun l => decide (l.rank ≠ rank) || decide (o.op.kind = .pull) && decide (l.state = .performed) then s
    else if o.op.kind = .pull then
      if (j.legs o.op).isEmpty then s.loseOp j o else s.setOut { o with stage := .queue, legs := [], data := [] }
    else s.settleOut { o with legs := o.legs.filter fun l => decide (l.rank ≠ rank) }
  | _ => if (j.targets o.op).contains rank && (j.legs o.op).isEmpty then s.loseOp j o else s

/-- Every operation of a job meets the loss of a rank (R349). -/
def State.loseRank (s : State) (l1 job : Nat) (j : Job) (rank : Nat) : State :=
  (s.outs.filter (s.inJob l1 job)).foldl (fun u o => u.loseOut j rank o) s

/-- RANK_ENTRY_WRITE: the firmware writes a rank-table entry (R339); with HOLD clear, the held operations go on in issue
order, ahead of any later one (R346); with PORTS 0 the rank is unreachable, and its operations are dropped as those of a lost one (R339,
R349). -/
def execRankEntryWrite (l1 job rank : Nat) (v : BitVec 64) (s : State) : Result :=
  if 16 ≤ l1 ∨ 4 ≤ job ∨ 1024 ≤ rank then .fault .noSuchUnit
  else
    let j := s.job l1 job
    let w := v &&& ~~~(BitVec.ofNat 64 0x3FFFFC000)
    let j1 := { j with
      ranks := Table.set j.ranks rank w
      lost := j.lost.filter fun x => decide (x ≠ rank)
      reported := j.reported.filter fun x => decide (x ≠ rank) }
    let s1 := s.setJob l1 job j1
    if (rankEntry w).ports = 0 then .next (s1.loseRank l1 job j1 rank) else .next s1

/-- RANK_LOST: a rank is lost to a job, and its operations, held ones too, are dropped (R349). -/
def execRankLost (l1 job rank : Nat) (s : State) : Result :=
  if 16 ≤ l1 ∨ 4 ≤ job ∨ 1024 ≤ rank then .fault .noSuchUnit
  else
    let j := s.job l1 job
    let j1 := { j with lost := (j.lost.filter fun x => decide (x ≠ rank)) ++ [rank] }
    .next ((s.setJob l1 job j1).loseRank l1 job j1 rank)

/-- Whether every port of a rank has been down for 2,000,000 cycles (R349). -/
def State.portsDead (s : State) (j : Job) (rank : Nat) : Bool :=
  !(portList (j.rank rank).ports).isEmpty
    && (portList (j.rank rank).ports).all fun p => !(s.port p).up && decide ((s.port p).downAt + 2000000 ≤ s.time)

/-! ### Links -/

/-- FLIT_TAG_FAIL: a flit whose tag does not verify is discarded, and its counter is used up: it comes again under a fresh one; the flits
that this package has sent and the other end has not accepted leave again under fresh counters, below 2^48; the third failure in a row takes the
link down (R347, R348). -/
def execFlitTagFail (f : TagFail) (s : State) : Result :=
  if s.portTotal ≤ f.port then .fault .noSuchUnit
  else
    let p := s.port f.port
    let q := { p with again := p.again + f.resend }
    if 3 ≤ p.fails + 1 ∧ p.up then .next (s.setPort f.port { q with up := false, fails := 3, downAt := s.time })
    else .next (s.setPort f.port { q with fails := min (p.fails + 1) 3, rx := p.rx + 1 }.flush)

/-- LINK_RETURN: a link that was down returns under a new key with its counters at 0 (R348). -/
def execLinkReturn (port : Nat) (s : State) : Result :=
  if s.portTotal ≤ port then .fault .noSuchUnit
  else .next (s.setPort port { s.port port with up := true, fails := 0, flits := 0, rx := 0 })

/-- LINK_REKEY: a new key before the counter reaches 2^48 (R347). -/
def execLinkRekey (port : Nat) (s : State) : Result :=
  if s.portTotal ≤ port then .fault .noSuchUnit else .next (s.setPort port { s.port port with flits := 0, rx := 0 })

end Sys2Proof.Machine
end

