-- ==== Sys2Proof/Machine/Paging.lean ====
section
/-!
DEFINITION. The steps of the translation machinery (R218–R227): heat sweeps, shootdowns, harvests of DIRTY, reclaim of
discarded pages, invalidation of host translations (R352), and the firmware's writes of page tables and job slots.
-/

namespace Sys2Proof.Machine

/-- A frame goes back, zeroed (R94; DESIGN CHOICE, log entry 18). -/
def State.giveBack (s : State) (lo n : Nat) : State :=
  { s.wipe lo n with frames := s.frames.filter fun p => !frameIn lo n p }

/-- The functions that own a cluster (R83, R84, R221): the level-1 partition and every child with a context in it. -/
def State.ownersOf (s : State) (c : Nat) : List Nat :=
  (s.parts.filter fun p => decide (p.2.state ≠ 0) && (List.range 32).any fun i => p.2.ownsCtx (32 * c + i)).map (·.1)

/-- A leaf with its heat faded: each nonzero field falls by 1 (R221). -/
def fade (w : Word) : Word :=
  setField (setField w 13 12 (field w 13 12 - 1)) 11 10 (field w 11 10 - 1)

/-- HEAT_SWEEP: a due pass of a cluster's sweeper fades every leaf of the functions that own it, each once (R221). -/
def execHeatSweep (cluster : Nat) (s : State) : Result :=
  if s.clusterCount ≤ cluster then .fault .noSuchUnit
  else
    let c := s.cluster cluster
    if c.sweeps = 0 then .next s
    else
      let keys := ((s.ownersOf cluster).flatMap fun f => (s.leaves f 0 ++ s.leaves f 1).map (·.2.key)).eraseDups
      let s1 := keys.foldl (fun u k => u.setPte k (fade (Table.get 0 u.ptes k))) s
      .next (s1.setCluster cluster { c with sweeps := c.sweeps - 1 })

/-- Whether a page, with its size, holds an address. -/
def pageHolds (p : Nat × Nat) (va : Nat) : Bool := decide (p.1 ≤ va) && decide (va < p.1 + p.2)

/-- A translation leaves every TLB of the function, of either level (R222). -/
def State.dropTlb (s : State) (f space va : Nat) : State :=
  let keep := fun (e : Nat × Nat × Nat × Nat) => !(decide (e.1 = f) && decide (e.2.1 = rootSpace space) && pageHolds e.2.2 va)
  { s with clusters := s.clusters.map fun c => (c.1, { c.2 with tlb := c.2.tlb.filter keep, clean := c.2.clean.filter keep })
           cores := s.cores.map fun c => (c.1, { c.2 with tlb := c.2.tlb.filter keep, clean := c.2.clean.filter keep }) }

/-- A locked range without the entry of a page. -/
def Lock.dropPage (k : Lock) (space va : Nat) : Lock :=
  if rootSpace k.space = rootSpace space then { k with pages := k.pages.filter fun p => !pageHolds p va } else k

/-- Locked entries of a page are removed, in every context of the function. -/
def State.dropLocked (s : State) (f space va : Nat) : State :=
  { s with ctxs := s.ctxs.map fun c =>
      match c.2.task with
      | some t => if t.func = f then (c.1, { c.2 with locks := c.2.locks.map (·.dropPage space va) }) else c
      | none => c }

/-- Whether a write or an atomic that a task of the function issued and has translated is still to be performed (R222; DEDUCED, log entry 13). -/
def State.translating (s : State) (f : Nat) : Bool :=
  (s.writes.any fun w => decide (w.level < 3) && decide (s.funcOf w.tid = f))
    || s.atoms.any fun a => !a.locs.isEmpty && [0, 1, 7, 8].contains a.a.space && decide (s.funcOf a.tid = f)

/-- SHOOTDOWN: the translation leaves every TLB of the function, once every access that used it has been performed
(R222). -/
def execShootdown (f space va : Nat) (s : State) : Result :=
  if s.translating f then .next s else .next ((s.dropTlb f space va).dropLocked f space va)

/-- DIRTY_HARVEST: DIRTY is fetched and cleared in one step, and a shootdown that spares locked entries follows (R223, R227);
the firmware gets the old bit. -/
def execDirtyHarvest (f va : Nat) (s : State) : Result :=
  if s.translating f then .next s
  else
    match s.leaf f 0 va with
    | none => .next { s with fwStatus := 0 }
    | some l =>
      .next { (s.setPte l.key (setField l.pte 8 8 0)).dropTlb f 0 va with fwStatus := field l.pte 8 8 }

/-- DISCARD_RECLAIM: the firmware takes back the frame of a discarded page by an update that requires DISC = 1, which leaves
the page anonymous (R226; DEDUCED, log entry 28); otherwise it fails. -/
def execDiscardReclaim (f va : Nat) (s : State) : Result :=
  match s.leaf f 0 va with
  | none => .next { s with fwStatus := 1 }
  | some l =>
    if l.disc then
      .next { (s.giveBack (l.flat 0 (va / l.size * l.size)) l.size).setPte l.key
                (setField (setField (setField (setField l.pte 7 7 0) 6 6 1) 4 4 0) 53 14 0) with fwStatus := 0 }
    else .next { s with fwStatus := 1 }

/-- The tenant function of a launch (R74, R436): its tasks' accesses, and so its lease, are translated in that function's tables. -/
def Launch.tenantFunc (l : Launch) : Nat := if l.expl then 16 + 8 * l.l1 + l.child else l.l1

/-- The live launch of a function whose lease covers a host page, by its generation (R72, R352). -/
def State.leaseOn (s : State) (f page : Nat) : Option Nat :=
  (s.launches.find? fun p => decide (p.2.tenantFunc = f) && decide (p.2.lease < 64) && p.2.ranges.any fun r =>
    decide (r.1 = 1) && (s.leaves f 1).any fun l =>
      decide (l.1 < r.2.1 + r.2.2) && decide (r.2.1 < l.1 + l.2.size)
        && decide (l.2.hostPage l.1 ≤ page) && decide (page < l.2.hostPage l.1 + l.2.size / 4096)).map (·.2.lease)

/-- A page request for a host page is raised, unless one is outstanding; its group index carries a generation (R352). -/
def State.ask (s : State) (f page gen : Nat) : State :=
  if s.requests.any fun r => decide (r.1 = f) && decide (r.2.1 = page) then s
  else { s with requests := s.requests ++ [(f, page, gen, (s.part f).epoch)] }

/-- Running accesses request their missing host pages again: every one that a live lease covers (R352). -/
def State.askAgain (s : State) : State :=
  s.hostGone.foldl (fun u e => match u.leaseOn e.1 e.2 with | some g => u.ask e.1 e.2 g | none => u) s

/-- HOST_TRANSLATION_INVALIDATE: the link unit's cached translation of a host page goes; running accesses re-request it
(R352). -/
def execHostTranslationInvalidate (f page : Nat) (s : State) : Result :=
  .next (State.askAgain (if s.hostGone.contains (f, page) then s else { s with hostGone := s.hostGone ++ [(f, page)] }))

/-! ### Registers that the firmware writes -/

/-- Write a field of a job slot (R338). -/
def Job.setField (j : Job) (f : JobField) (v : Nat) : Job :=
  match f with
  | .valid => { j with valid := decide (v % 2 = 1) }
  | .job => { j with job := BitVec.ofNat 16 v }
  | .func => { j with func := v }
  | .nranks => { j with nranks := v }
  | .myrank => { j with myrank := v }
  | .heapBase => { j with heapBase := v % 2 ^ 64 }
  | .heapLen => { j with heapLen := v % 2 ^ 64 }

/-- The fault of `n` bytes at a raw address of service code: 0x15, before any other check (R212); beyond the 512 GiB of HBM (R3) there is
nothing, as for a frame there (DESIGN CHOICE, log entry 52). -/
def rawFault (addr : BitVec 64) (n : Nat) : Option Nat :=
  if addr.toNat / 2 ^ 57 ≠ 0 then some 0x15 else if 2 ^ 39 < addr.toNat + n then some 0x22 else none

/-- REGISTER_WRITE: the firmware writes a page-table entry or root (R218–R220), a job-slot field (R338), a segment-table
entry, whose reserved bits stay 0 (R340), or bytes at a raw address, under the public key slot (R100); an address that faults, of a table as of
raw bytes, is reported and writes nothing (R3, R212); raw bytes and pages wait while an atomic locks a word there (State.mustWait; R372). It can zero a page, whatever its key (R97; DESIGN CHOICE, log entry 52). -/
def execRegisterWrite (r : FwReg) (v : Nat) (s : State) : Result :=
  match r with
  | .pte addr =>
    match rawFault (BitVec.ofNat 64 addr) 8 with
    | some c => .next { s with fwStatus := c }
    | none => .next { s.setPte (addr / 8) (BitVec.ofNat 64 v) with fwStatus := 0 }
  | .root func space =>
    match rawFault (BitVec.ofNat 64 v) 4096 with
    | some c => .next { s with fwStatus := c }
    | none => .next { s with roots := Table.set s.roots (func * 2 + rootSpace space) v, fwStatus := 0 }
  | .jobField l1 job f =>
    if 16 ≤ l1 ∨ 4 ≤ job then .fault .noSuchUnit else .next (s.setJob l1 job ((s.job l1 job).setField f v))
  | .segment l1 job idx =>
    if 16 ≤ l1 ∨ 4 ≤ job ∨ 256 ≤ idx then .fault .noSuchUnit
    else
      let j := s.job l1 job
      .next (s.setJob l1 job { j with segs := Table.set j.segs idx (BitVec.ofNat 128 (v % 2 ^ 102)) })
  | .raw addr n =>
    match rawFault addr n with
    | some c => .next { s with fwStatus := c }
    | none => .next { s.writeChip 0 (cellsAt addr.toNat (leBytes n v)) with fwStatus := 0 }
  | .zeroPage func va =>
    match s.leaf func 0 va with
    | none => .next { s with fwStatus := 1 }
    | some l =>
      if l.framed then
        let lo := l.flat 0 (va / l.size * l.size)
        .next { s.wipe lo l.size with fwStatus := 0 }
      else .next { s with fwStatus := 1 }

end Sys2Proof.Machine
end

