-- ==== Sys2Proof/Machine/SaveArea.lean ====
section
/-!
DEFINITION. What a save area holds in memory (R410, R411, R414, R416): trap and switch frames, latch records and replay entries as the
spec lays them out.
-/

namespace Sys2Proof.Machine

/-! ### Frames -/

/-- The wait in the head of a frame (R410). -/
def waitBits (w : Option Wait) : Nat :=
  match w with
  | some (.fwait a v sc _ _) => v.toNat * 2 ^ 960 + a.addr * 2 ^ 896 + a.space * 2 ^ 410 + sc % 8 * 2 ^ 407 + 2 ^ 405
  | some (.bwait a gen sc _ _) => gen * 2 ^ 960 + a.addr * 2 ^ 896 + a.space * 2 ^ 410 + sc % 8 * 2 ^ 407 + 2 * 2 ^ 405
  | _ => 0

/-- The pending-fault record in the head of a frame (R410). -/
def lateBits (l : Option Late) : Nat :=
  match l with
  | some x => 2 ^ 392 + x.code % 2 ^ 8 * 2 ^ 384 + x.tval2.toNat * 2 ^ 320 + x.tval.toNat * 2 ^ 256
  | none => 0

/-- The 128-byte head of a frame (R410). -/
def Frame.head (f : Frame) : Nat :=
  waitBits f.wait + f.stack.length % 32 * 2 ^ 400 + min f.latches.length 8 * 2 ^ 396 + lateBits f.pf + f.tval2.toNat * 2 ^ 192
    + f.tval.toNat * 2 ^ 128 + f.cause.toNat * 2 ^ 64 + f.pc.toNat

/-- The lanes of 32 bits of which a result writes bits (R411; DEDUCED, log entry 20). -/
def lanesOf32 (sel : Vec) : Nat :=
  ((List.range 64).map fun i => if sel.extractLsb' (32 * i) 32 = 0 then 0 else 2 ^ i).sum

/-- VALUE, LANES, POISON, KIND and REG of a result (R411); one that a latch never holds gives nothing. -/
def Payload.latchBits (p : Payload) : Nat :=
  match p with
  | .g n x q => x.toNat * 2 ^ 128 + 2 ^ 64 + q.toNat * 2 ^ 19 + n % 64
  | .m n x sel => x.toNat * 2 ^ 128 + sel.toNat * 2 ^ 64 + 2 ^ 12 + n % 64
  | .v n x sel q => x.toNat * 2 ^ 128 + lanesOf32 sel * 2 ^ 64 + q.toNat * 2 ^ 19 + 2 * 2 ^ 12 + n % 64
  | _ => 0

/-- A latch record (R411). -/
def Latch.record (l : Latch) : Nat := l.val.latchBits + l.steps % 16 * 2 ^ 15

/-- The 2,432 bytes of a frame (R410): head, mask stack from the bottom up, eight latch records. -/
def Frame.bytes (f : Frame) : List Byte :=
  leBytes 128 f.head ++ (List.range 16).flatMap (fun i => leBytes 8 (f.stack.reverse.getD i 0).toNat)
    ++ (List.range 8).flatMap fun i => leBytes 272 ((f.latches[i]?).elim 0 Latch.record)

/-! ### Replay entries -/

/-- The capability of a barrier record, narrowed to its 16 bytes (R414). -/
def narrowTo (c : CapBits) (a : Acc) : CapBits := BitVec.ofNat 128 (c.toNat / 2 ^ 96 * 2 ^ 96 + 16 * 2 ^ 57 + a.addr)

/-- A replay entry with CAP0 to CAP2 (R414). -/
def Origin.entry (o : Origin) (caps : List CapBits) (kind queue seq done : Nat) : Nat :=
  ((caps.take 3).mapIdx fun i c => c.toNat * 2 ^ (640 + 128 * i)).sum
    + ((o.vals.take 8).mapIdx fun i v => v.toNat * 2 ^ (128 + 64 * i)).sum
    + done % 2 ^ 32 * 2 ^ 96 + o.lit.toNat * 2 ^ 64 + o.word.toNat * 2 ^ 32 + seq % 2 ^ 16 * 2 ^ 16 + queue * 2 ^ 8 + kind

/-- CAP2: the capability of an attached record, which the instruction names last, narrowed to the record (R143, R414). -/
def Origin.record (o : Origin) (bar : Option Acc) : CapBits :=
  match bar, o.caps.getLast? with
  | some a, some c => narrowTo c a
  | _, _ => 0

/-- The capabilities of a copy (R414): source, destination, record; the destination of a CPYCB is its handle's ring. -/
def Copy.caps (c : Copy) : List CapBits :=
  [c.src.caps.getD 0 0, if c.cb.isSome then 0 else c.src.caps.getD 1 0, c.src.record c.bar]

/-- The capabilities of a remote operation (R414): the local side, the heap, the record. -/
def Remote.caps (r : Remote) : List CapBits :=
  if r.kind = .semadd then [0, r.src.caps.getD 0 0, 0] else [r.src.caps.getD 0 0, r.src.caps.getD 1 0, r.src.record r.bar]

/-- The capability of an operation of the atomic unit (R414): a record's is CAP2, narrowed to it; that of a location which is only read is the
source, another the destination (DEDUCED, log entry 25). -/
def Atom.caps (a : Atom) : List CapBits :=
  let k := a.src.caps.getD 0 0
  if a.op.isRecord then [0, 0, narrowTo k a.a] else if a.op = .ald then [k, 0, 0] else [0, k, 0]

/-- KIND of an operation of the atomic unit (R414). -/
def Atom.kind (a : Atom) : Nat := if a.asc then 6 else if a.op = .fadd then 3 else if a.op.isRecord then 4 else 5

/-- The replay entries of a task, queue by queue in the order of each (R414, R415): copies, the remote operations not yet in a channel, the
atomic unit. -/
def State.replays (s : State) (id tid : Nat) : List Nat :=
  ((s.copies.filter fun c => decide (c.ctx = id) && decide (c.tid = tid)).mapIdx fun i c => c.src.entry c.caps 1 0 i c.done)
    ++ (List.range 16).flatMap (fun e => (s.remoteQueue id e).zipIdx.filterMap fun p =>
      (s.outs.find? fun o => decide (o.op.batch = p.1) && decide (o.op.tid = tid)).map fun o =>
        o.op.src.entry o.op.caps 2 (3 + e) p.2 0)
    ++ ((s.atoms.filter fun a => decide (a.ctx = id) && decide (a.tid = tid)).mapIdx fun i a => a.src.entry a.caps a.kind 0x20 i 0)

/-! ### The save area -/

/-- Numbers of 8 bytes each. -/
def wordBytes (xs : List Nat) : List Byte := xs.flatMap (leBytes 8)

/-- The fields of a handle (R213). -/
def Handle.saved (h : Handle) : List Byte :=
  wordBytes [h.pcnt, h.ccnt, h.ofs, h.gp, h.nov, h.unit, h.loan.toNat, h.count, h.slot, h.base, h.p, h.lent]

/-- The registers of a context with their poison and capability tags (R416). -/
def Ctx.savedRegs (c : Ctx) : List Byte :=
  (List.range 64).flatMap (fun n => leBytes 8 (c.gr n).v.toNat ++ leBytes 1 (c.gr n).p.toNat)
    ++ (List.range 64).flatMap (fun n => leBytes 256 (c.vr n).v.toNat ++ leBytes 1 (c.vr n).p.toNat)
    ++ (List.range 8).flatMap (fun n => leBytes 8 (Table.get 0 c.m n).toNat)
    ++ (List.range 32).flatMap (fun n => leBytes 16 (c.kr n).bits.toNat ++ leBytes 1 (c.kr n).tag.toNat)
    ++ (List.range 16).flatMap (fun n => leBytes 2 (c.er n).toNat) ++ (List.range 16).flatMap (fun n => (c.hr n).saved)
    ++ wordBytes [c.lo.toNat, c.hi.toNat, c.fflags.toNat, c.mpc.toNat, c.cause.toNat, c.tval.toNat, c.tval2.toNat]

/-- The array's configuration, the arrival latch, the memberships and the locked ranges of a context (R416). -/
def Ctx.savedState (c : Ctx) : List Byte :=
  wordBytes (match c.owned with | some g => [1, g.wa, g.wb, g.sl.toNat, g.s1, g.cfgd.toNat] | none => List.replicate 6 0)
    ++ (List.range 4).flatMap (fun i => match c.arrive[i]? with
      | some p => leBytes 16 p.1 ++ wordBytes [1, p.2]
      | none => List.replicate 32 0)
    ++ (List.range 4).flatMap (fun i => wordBytes [match c.groups[i]? with | some n => n + 1 | none => 0])
    ++ (List.range 4).flatMap fun i => wordBytes (match c.locks[i]? with | some l => [1, l.space, l.addr, l.len] | none => List.replicate 4 0)

/-- The header of a saved tile with its marks (R308, R309, R416). -/
def TileHdr.saved (h : TileHdr) (n : Nat) : List Byte :=
  wordBytes [n, h.et, h.wa, h.wb, h.sl.toNat, h.ovf.toNat] ++ leBytes 32 h.rows.toNat ++ leBytes 32 h.cols.toNat

/-- The bytes of a save area before the tiles, and those for each tile: its header in a page of its own, then the tile. -/
def areaHead : Nat := 0x10000
def areaTile : Nat := 0x41000

/-- The 4 KiB frames of a save area with some tiles. -/
def areaFrames (tiles : Nat) : Nat := 16 + 65 * tiles

/-- What a save area holds, by offset, but for its bytes that are zero (R410, R414, R416): switch frame, trap frame, replay entries,
registers, the rest of the context, tiles. The spec lays out the frames, latch records and replay entries; the places of the rest are the
model's (DESIGN CHOICE, log entry 25). -/
def State.areaCells (s : State) (id tid : Nat) (c : Ctx) : List Host.Cell :=
  let frame := fun (f : Option Frame) => match f with | some x => x.bytes | none => List.replicate 2432 0
  let head := frame c.saved ++ frame c.frame ++ (((s.replays id tid).take 288).flatMap (leBytes 128))
  ((cellsAt 0 head ++ cellsAt 41728 (c.savedRegs ++ c.savedState)
      ++ (c.tiles.mapIdx fun i t => cellsAt (areaHead + areaTile * i) (t.2.2.saved t.1)).flatten).filter fun x => decide (x.2 ≠ 0))
    ++ (c.tiles.mapIdx fun i t => t.2.1.map fun x => (areaHead + areaTile * i + 0x1000 + x.1, x.2)).flatten

/-- The service firmware allocates a save area for a task that is switched out as `c`, and writes it under the key of the task's function (R416);
none where there are no frames for it. The context keeps what it holds as data too (DESIGN CHOICE, log entry 25). Neither the writing nor the
reading back takes memory tokens, which the spec does not say (DESIGN CHOICE, log entry 26). -/
def State.saveArea (s : State) (id : Nat) (t : Task) (c : Ctx) : Option State :=
  (s.newFrames t.func (areaFrames c.tiles.length)).map fun p =>
    (p.2.memWrite (1 + t.func) ((p.2.areaCells id t.tid c).map fun x => (inFrames p.1 x.1, x.2))).setCtx id { c with area := p.1 }

/-- A save area is given back, zeroed. -/
def State.freeArea (s : State) (id : Nat) : State :=
  ((s.ctx id).area.foldl (fun u a => u.giveBack a 4096) s).setCtx id { s.ctx id with area := [] }

end Sys2Proof.Machine
end

