-- ==== Sys2Proof/Machine/TrapSteps.lean ====
section
/-!
DEFINITION. The steps that interrupt, pre-empt and resume contexts (R402–R418, R428–R432) and those of a debugger (R108, R206,
R431); the release of sealed keys to a context (R107).
-/

namespace Sys2Proof.Machine

/-! ### Key release -/

/-- Whether slot `n` is released to a context's task (R107): a matching policy that lists the code's measurement, an active
slot that is not being moved (R110), an owner that is the task's function or its level-1 parent, and no debugger. -/
def State.mayRelease (s : State) (c : Ctx) (t : Task) (n : Nat) : Bool :=
  let k := Table.get {} s.keys n
  match Table.find s.insts t.inst with
  | none => false
  | some i =>
    !c.dbg && !k.moving && (decide (k.state = 1) || decide (k.state = 2)) && (decide (k.owner = t.func) || decide (k.owner = t.l1))
      && i.policies.any fun p => decide (p.1 = n) && decide (leNat p.2.1 = k.pdigest) && p.2.2.contains i.digest

/-- The monitor sets a context's bit in every release mask that R107 gives it. -/
def State.releaseKeys (s : State) (id : Nat) : State :=
  match (s.ctx id).task with
  | none => s
  | some t =>
    { s with keys := s.keys.map fun p =>
        if 145 ≤ p.1 ∧ s.mayRelease (s.ctx id) t p.1 = true then
          (p.1, { p.2 with release := (p.2.release.filter fun x => decide (x ≠ id)) ++ [id] })
        else p }

/-! ### Traps, timers and interrupts -/

/-- TRAP_ENTRY: an exception that waited for interlocked results, or for room in the retirement tracker, is taken (R408,
R169). -/
def execTrapEntry (id : Nat) (s : State) : Result :=
  let c := s.ctx id
  match c.trapReq with
  | none => .next s
  | some t => .next (State.takeTrap (s.setCtx id { c with trapReq := none }) id t)

/-- An asynchronous cause is taken (R405): return PC in sr.tval. -/
def State.takeAsync (s : State) (id code : Nat) (tval2 : Word) : State :=
  let c := s.ctx id
  s.takeTrap id ⟨code, false, false, false, false, c.pc, tval2, c.pc, c.pc⟩

/-- Whether TIMER can be taken (R428). -/
def State.timerReady (s : State) (id : Nat) : Bool :=
  s.asyncBoundary id && (s.ctx id).timerDue s.time && (s.handler (s.ctx id) 0x4A).isSome

/-- TIMER: the due timer is taken, and TCMP becomes 0 (R428). -/
def execTimer (id : Nat) (s : State) : Result :=
  if s.timerReady id then .next (State.takeAsync (s.setCtx id { s.ctx id with tcmp := 0 }) id 0x4A 0) else .next s

/-- The lowest source posted and enabled. -/
def Ctx.source (c : Ctx) : Option Nat := (List.range 16).find? fun i => (c.ipend &&& c.ien).getLsbD i

/-- INTERRUPT: the lowest due source is taken, its bit cleared; a timer that can be taken comes first (R404, R428). -/
def execInterrupt (id : Nat) (s : State) : Result :=
  let c := s.ctx id
  match c.source with
  | none => .next s
  | some i =>
    if s.asyncBoundary id && (s.handler c 0x49).isSome && !s.timerReady id then
      .next (State.takeAsync (s.setCtx id { c with ipend := c.ipend &&& ~~~(BitVec.ofNat 16 (2 ^ i)) }) id 0x49
        (BitVec.ofNat 64 i))
    else .next s

/-- INTPOST: sources are posted to a context that holds a task of the function, switched out or not; otherwise the write is
dropped and counted, as it is while the function is not READY (R439); an unused bit that is set makes it ignored (R429). -/
def execIntpost (f : Nat) (w : BitVec 64) (s : State) : Result :=
  if 2 ^ 25 ≤ w.toNat then .next s
  else
    let id := w.toNat / 2 ^ 16
    let c := s.ctx id
    match c.task with
    | some t =>
      if t.func = f ∧ (s.part f).state = 1 then .next (s.setCtx id { c with ipend := c.ipend ||| w.setWidth 16 })
      else .next (s.setPart f { s.part f with dropped := (s.part f).dropped + 1 })
    | none => .next (s.setPart f { s.part f with dropped := (s.part f).dropped + 1 })

/-! ### Pre-emption -/

/-- PREEMPT_REQUEST: the firmware asks for the pre-emption of a task (R413). -/
def execPreemptRequest (id : Nat) (s : State) : Result :=
  let c := s.ctx id
  if c.task.isSome ∧ c.preempt = .none then .next (s.setCtx id { c with preempt := .requested }) else .next s

/-- GRACEFUL_PREEMPT_REQUEST: a request with a grace period of 1 to 2^32 − 1 cycles; an IDLE in progress ends (R430, R432). -/
def execGracefulPreemptRequest (id : Nat) (g : BitVec 32) (s : State) : Result :=
  let c := s.ctx id
  if g = 0 ∨ c.task.isNone ∨ c.preempt ≠ .none ∨ c.prq.isSome then .next s
  else
    .next (s.setCtx id { c with prq := some (s.time + g.toNat), wait := if c.wait = some .idle then none else c.wait
                                more := c.more.filter fun w => decide (w ≠ .idle) })

/-- GRACE_EXPIRE: the grace period has passed without a PRACK, and the request becomes an immediate pre-emption (R432). -/
def execGraceExpire (id : Nat) (s : State) : Result :=
  let c := s.ctx id
  match c.prq with
  | none => .next s
  | some t => if t ≤ s.time ∧ c.preempt = .none then .next (s.setCtx id { c with preempt := .requested }) else .next s

/-- The C-buffer range of a tile (R202). -/
def tileAt (core t : Nat) : Nat := flatC core + 0x40000 * t

/-- The stores to some tiles of a core that have been performed, by whichever context, reach memory (R153, R379). -/
def State.settleTiles (s : State) (core : Nat) (ns : List Nat) : State :=
  ns.foldl (fun u n => u.settle (tileAt core n) 0x40000) s

/-- The saved bytes of a tile, from its first byte. -/
def State.tileBytes (s : State) (core t : Nat) : Memory :=
  (s.mem.filter fun c => decide (tileAt core t ≤ c.1) && decide (c.1 < tileAt core t + 0x40000)).map fun c =>
    (c.1 - tileAt core t, c.2)

/-- Put saved bytes and header back over a tile (R153, R417); what the checks take for its mode is the restored header's (R303,
R330). -/
def State.restoreTile (s : State) (core : Nat) (x : Nat × Memory × TileHdr) : State :=
  let b := tileAt core x.1
  let inside := fun a => decide (b ≤ a) && decide (a < b + 0x40000)
  let s1 := s.settle b 0x40000
  let k := s1.core core
  { s1.setCore core { k with
      hdr := Table.set k.hdr x.1 x.2.2, mode := Table.set k.mode x.1 ⟨x.2.2.wa, x.2.2.wb, x.2.2.sl⟩ } with
    mem := Memory.writeCells (s1.mem.filter fun c => !inside c.1) (x.2.1.map fun c => (b + c.1, c.2)) }

/-- Whether every engine has stopped for a context (R413): every load and divide has its result, no .SPC atomic has read early (R372), and
the tiles to be saved hold every store of the task. What the atomic unit has not performed is left to be replayed. -/
def State.quiet (s : State) (id tid : Nat) : Bool :=
  !(s.loads.any fun l => decide (l.tid = tid)) && !(s.divs.any fun d => decide (d.tid = tid))
    && !(s.atoms.any fun a => decide (a.tid = tid) && a.got.isSome)
    && !(s.writes.any fun w => decide (w.tid = tid) && decide (w.level < 3)
          && w.cells.any fun c => decide (flatC (coreOf id) ≤ c.1) && decide (c.1 < flatC (coreOf id) + 0x200000))

/-- Whether a TLOCK is in progress (R242). -/
def Ctx.locking (c : Ctx) : Bool :=
  c.waits.any fun w =>
    match w with
    | .tlock _ _ _ _ => true
    | _ => false

/-- The wait that a switch frame keeps: an ASC still to be performed holds its context after return (R395). -/
def switchWait (ws : List Wait) : Option Wait := ws.find? fun w => decide (w = .asc) || w.kept

/-- An operation that is to be replayed is translated again (R415, R417); an update by a group instruction stays with the record that its
issue found (R451). -/
def Atom.stop (a : Atom) (tid : Nat) : Atom := if a.tid = tid ∧ a.op.isGroup = false then { a with locs := [] } else a

/-- Operations of a task that wait in the hold queue of an egress are not yet in a channel: they go back to the remote queue, to be replayed (R346,
R413). -/
def Out.unhold (o : Out) (tid : Nat) : Out := if o.op.tid = tid ∧ o.kept = true then { o with stage := .queue } else o

/-- PREEMPT: at a boundary, once the collector has every acknowledgement, the switch frame is built and the context saved
(R413, R416): the owner's queue is discarded, its array zeroised and given up (R302, R328), its key releases end (R108) and its
locks end (R223); it waits where no memory is free for the save area. What the replay entries stand for stays in the engines' lists, not to be performed while the task is out (DESIGN CHOICE, log
entry 25). -/
def execPreempt (id : Nat) (s : State) : Result :=
  let c := s.ctx id
  let core := coreOf id
  match c.task with
  | none => .next s
  | some t =>
    if s.preempting id = false ∨ c.preemptible = false ∨ c.locking = true ∨ s.quiet id t.tid = false then .next s
    else
      let k := s.core core
      let fr := { c.frameFor c.pc 0x48 0 0 with wait := switchWait c.waits, more := (c.waits.filter fun w => decide (w = .asc) || w.kept).drop 1 }
      let s0 := s.settleTiles core c.touched
      let owns := decide (k.owner = some id)
      let c1 := { c.landRest with
        saved := some fr
        late := none, stack := [], wait := none, more := [], fb := none, after := none, delay := none, preempt := .out, prq := none, drains := []
        owned := if owns then some ⟨k.wa, k.wb, k.sl, k.s1, k.cfgd⟩ else c.owned
        tiles := c.touched.map fun n => (n, s0.tileBytes core n, k.header n)
        locks := c.locks.map fun (l : Lock) => { l with pages := [] } }
      let k1 : Core :=
        if owns then { k.zeroArray with owner := none, queue := k.queue.filter fun e => decide (e.tid ≠ t.tid) } else k
      let s1 := { s0 with atoms := s0.atoms.map fun (a : Atom) => a.stop t.tid, outs := s0.outs.map fun (o : Out) => o.unhold t.tid }
      match s1.saveArea id t c1 with
      | none => .next s
      | some s2 => .next (State.unrelease (s2.setCore core { k1 with waiters := k1.waiters.filter fun w => decide (w ≠ id) }) id)

/-- Locked ranges with their populated pages filled again, in order, while lockable entries are left. -/
def State.lockAgain (s : State) (func : Nat) : Nat → List Lock → List Lock
  | _, [] => []
  | room, k :: ks =>
    let ps := (populatedPages (s.pages func k.space k.addr k.len)).take room
    { k with pages := ps } :: State.lockAgain s func (room - ps.length) ks

/-- The locked ranges of a context are locked again, as far as the core's 32 lockable entries go; a page that finds none has no
locked entry (R222, R223, R417; DEDUCED, log entry 17). The fills are those of reads (R221). -/
def State.relock (s : State) (id : Nat) : State :=
  let c := s.ctx id
  match c.task with
  | none => s
  | some t =>
    let ls := s.lockAgain t.func (32 - s.lockedEntries (coreOf id)) c.locks
    (ls.foldl (fun u k => State.prepareReads t id k.space u k.pages) s).setCtx id { c with locks := ls }

/-- A context comes back (R417): its ranges are locked again, its key releases evaluated again, and it goes on from its switch frame, whose
pending fault is delivered first (R413). -/
def State.comeBack (s : State) (id : Nat) : State :=
  match (s.ctx id).saved with
  | none => s
  | some f =>
    let s1 := (s.relock id).releaseKeys id
    let s2 := s1.setCtx id (Ctx.resume { s1.ctx id with saved := none, preempt := .none } f)
    match f.pf with
    | none => s2
    | some l => s2.deliverPending id l

/-- Whether the array of a core can be had at once. -/
def Core.arrayFree (k : Core) : Bool := k.owner.isNone && k.queue.isEmpty && k.waiters.isEmpty

/-- SWITCH_IN: on the same context, registers and tiles are restored; a task that owned the array has it again before all else (R330), and
waits for it where it must (R163); then the context comes back (R417). -/
def execSwitchIn (id : Nat) (s : State) : Result :=
  let c := s.ctx id
  if c.saved.isNone ∨ c.preempt ≠ .out then .next s
  else
    let core := coreOf id
    let s1 := (c.tiles.foldl (fun u x => u.restoreTile core x) s).freeArea id
    let s2 := s1.setCtx id { s1.ctx id with tiles := [] }
    if c.owned.isNone then .next (s2.comeBack id)
    else if (s2.core core).arrayFree then .next ((s2.acquire id).comeBack id)
    else
      .next ((s2.setCtx id { s2.ctx id with preempt := .entering }).setCore core
        { s2.core core with waiters := (s2.core core).waiters ++ [id] })

/-- ARRAY_ACQUIRE: with the array free and the last owner's queue drained, the waiter that began first acquires it (R163,
R312); one that was being switched in comes back (R417). A waiter that a trap or a switch-out took away is passed over. -/
def execArrayAcquire (core : Nat) (s : State) : Result :=
  if s.coreCount ≤ core then .fault .noSuchUnit
  else
    let k := s.core core
    if k.owner.isSome || !k.queue.isEmpty then .next s
    else
      match k.waiters.filter fun w => (s.ctx w).wantsArray && decide ((s.ctx w).preempt ≠ .out) with
      | [] => .next s
      | w :: ws =>
        let s1 := State.acquire (s.setCore core { k with waiters := ws }) w
        .next (if (s.ctx w).preempt = .entering then s1.comeBack w else s1)

/-! ### The debugger -/

/-- DEBUG_ATTACH: a debugger attaches; the context's key releases end (R108). -/
def execDebugAttach (id : Nat) (s : State) : Result :=
  .next (State.unrelease (s.setCtx id { s.ctx id with dbg := true }) id)

/-- DEBUG_RESUME: a debug stop ends (R431). -/
def execDebugResume (id : Nat) (s : State) : Result := .next (s.setCtx id { s.ctx id with dbgStop := none })

/-- DEBUG_DETACH: the debugger goes, and no debug stop stays (R431). -/
def execDebugDetach (id : Nat) (s : State) : Result :=
  .next (s.setCtx id { s.ctx id with dbg := false, dbgStop := none })

/-- The level-1 partition that owns a cluster (R83). -/
def State.clusterOwner (s : State) (c : Nat) : Option Nat :=
  (s.parts.find? fun p => decide (p.1 < 16) && decide (p.2.state ≠ 0) && p.2.clusters.getLsbD c).map (·.1)

/-- DEBUG_READ: a byte of a weight plane or of a sealed W line reads zero and logs 0x1A; another byte of the W buffer reads as
it stands (R108, R206). -/
def execDebugRead (id : Nat) (plane : Bool) (off : Nat) (s : State) : Result :=
  let a := flatW (coreOf id) + off % 0x200000
  if plane || s.sealedLine (a / 128) then
    let s1 := { s with hostOut := [0] }
    match s.clusterOwner (clusterOf (coreOf id)) with
    | some f => .next (s1.event f 0x1A id)
    | none => .next s1
  else .next { s with hostOut := [s.see chipViewer 0 a] }

end Sys2Proof.Machine
end

