-- ==== Sys2Proof/Machine/Spindle.lean ====
section
/-!
DEFINITION. Spindle, the launch walker (03_launch_and_placement.md): launch slots, walks of task graphs, leases, placement,
completion records and node summaries.
-/

namespace Sys2Proof.Machine

/-! ### Launch slots -/

/-- Where a slot and its walk are kept (R66). -/
def slotKey (q : SlotRef) : Nat := (q.l1 * 2 + q.die) * 64 + q.n
/-- The slot kept at a key. -/
def slotAt (k : Nat) : SlotRef := ⟨k / 128, k / 64 % 2, k % 64⟩
/-- Whether the part has a slot: 64 for each level-1 partition and die (R66). -/
def slotExists (q : SlotRef) : Bool := decide (q.l1 < 16) && decide (q.die < 2) && decide (q.n < 64)
/-- A launch slot. -/
def State.slot (s : State) (q : SlotRef) : Slot := Table.get {} s.slots (slotKey q)
/-- Replace a launch slot. -/
def State.setSlot (s : State) (q : SlotRef) (x : Slot) : State := { s with slots := Table.set s.slots (slotKey q) x }
/-- The function a slot is assigned to: 0 stands for the level-1 partition's own, 1 + c for its child c (R91). Before the firmware
assigns it, a slot is its level-1 partition's (DESIGN CHOICE, log entry 30). -/
def slotFunc (q : SlotRef) (x : Slot) : Nat := if x.func = 0 then q.l1 else 16 + 8 * q.l1 + (x.func - 1)

/-- Word `i` of a launch slot (R66). -/
def Slot.word (x : Slot) (i : Nat) : Word :=
  BitVec.ofNat 64 (match i with
    | 0 => x.flag
    | 1 => x.thresh
    | 2 => x.step
    | 3 => x.graph
    | 4 => x.start * 2 ^ 48 + x.nodes * 2 ^ 32 + x.en.toNat * 2 ^ 31
    | 5 => x.inst
    | 6 => x.lastStatus * 2 ^ 56 + x.lastNode * 2 ^ 40 + x.enerr
    | 7 => x.walks
    | _ => 0)

/-- The form of an address in a node or slot (R61): SPACE 0, or 0 and 1, and alignment. -/
def addrForm (a align spaces : Nat) : Bool :=
  decide (a / 2 ^ 60 < spaces) && decide (a / 2 ^ 57 % 8 = 0) && decide (a % align = 0)

/-- Why a write that sets EN is refused, 0 where it is accepted (R70). -/
def State.enError (s : State) (q : SlotRef) (x : Slot) : Nat :=
  if !addrForm x.flag 8 1 then 1
  else if !addrForm x.graph 64 1 then 2
  else if x.nodes = 0 ∨ x.nodes ≤ x.start then 3
  else if x.step = 0 then 4
  else
    match Table.find s.insts x.inst with
    | some i => if i.l1 = q.l1 then 0 else 5
    | none => 5

/-- A write of one word of a launch slot (R66, R70). Binding the slot to a loaded image programs it: WALKS counts from there
(DEDUCED, log entry 30). -/
def State.writeSlot (s : State) (q : SlotRef) (w v : Nat) : State :=
  let x := s.slot q
  match w with
  | 0 => if x.en then s else s.setSlot q { x with flag := v }
  | 1 => s.setSlot q { x with thresh := v }
  | 2 => if x.en then s else s.setSlot q { x with step := v }
  | 3 => if x.en then s else s.setSlot q { x with graph := v }
  | 4 =>
    let en := decide (v / 2 ^ 31 % 2 = 1)
    if x.en then s.setSlot q { x with en := en }
    else
      let y := { x with start := v / 2 ^ 48 % 2 ^ 16, nodes := v / 2 ^ 32 % 2 ^ 16, en := en, enerr := 0 }
      if !en then s.setSlot q { y with enerr := x.enerr }
      else
        let e := s.enError q y
        if e = 0 then s.setSlot q y else s.setSlot q { x with enerr := e }
  | 5 => if x.en then s else s.setSlot q { x with inst := v, walks := 0 }
  | _ => s

/-- LAUNCH_SLOT_WRITE: function `f` writes a word of a slot of its own (R66, R70, R91); word 8 stands for the firmware's
assignment of the slot (DESIGN CHOICE, log entry 30). Dropped while the function is not READY (R92, R439), refused with status 2 during the
trial of an update (R113). -/
def execLaunchSlotWrite (f : Nat) (q : SlotRef) (w : Nat) (v : BitVec 64) (s : State) : Result :=
  if !slotExists q then .fault .noSuchUnit
  else if s.monitor.update = .trial then .next { s with fwStatus := 2 }
  else if w = 8 then
    .next (if v.toNat ≤ 8 then { s.setSlot q { s.slot q with func := v.toNat, walks := 0 } with fwStatus := 0 } else { s with fwStatus := 1 })
  else if slotFunc q (s.slot q) ≠ f ∨ (s.part f).state ≠ 1 then .next s
  else .next (s.writeSlot q w v.toNat)

/-! ### Spindle's accesses -/

/-- Whether a leaf can be reached: no lost frame, no refused host page (R352, R446). -/
def State.reachable (s : State) (f space va : Nat) (l : Leaf) : Bool :=
  if space = 1 then !s.hostBad.contains (f, l.hostPage va)
  else !(l.populated && (s.frameFault f (l.flat space va)).isSome)

/-- Bytes that Spindle reads in the tables of a function (R61, R359); none where a page is not mapped (R70). -/
def State.spinRead (s : State) (f space : Nat) : List (Nat × Nat) → Option (List Byte)
  | [] => some []
  | (a, n) :: cs =>
    match s.leaf f space a with
    | none => none
    | some l =>
      if !s.reachable f space a l then none
      else
        match State.spinRead s f space cs with
        | none => none
        | some bs =>
          some (((spread (if l.populated then .at (l.flat space a) else .zeros) n).map (s.seePlace chipViewer (1 + f))) ++ bs)

/-- A natural number of `n` bytes at an address of the form of R61. -/
def State.spinWord (s : State) (f addr n : Nat) : Option Nat :=
  (s.spinRead f (addr / 2 ^ 60) (chunks (addr % 2 ^ 57) n)).map leNat

/-- Spindle writes bytes, visible at CHIP, under the function's memory key; an anonymous page gets a frame, one that the lease of
the launch has reserved where there is one (R225), and keeps the generation of its leaf (R72); a write to a page that is not mapped is lost
(DESIGN CHOICE, log entry 31). -/
def State.spinPut (f space : Nat) (launch : Option Nat) : State → List (Nat × Nat) → List Byte → State
  | s, [], _ => s
  | s, (a, n) :: cs, bs =>
    let s1 := match s.leaf f space a with
      | none => s
      | some l =>
        if !s.reachable f space a l then s
        else
          let u := if l.populated then s.setPte l.key (setField l.pte 8 8 1) else s.firstTouch launch f (field l.pte 59 54) l
          match u.leaf f space a with
          | none => u
          | some m => u.writeChip (1 + f) (cellsAt (m.flat space a) (bs.take n))
    State.spinPut f space launch s1 cs (bs.drop n)

/-- Write a number of `n` bytes at an address of the form of R61. -/
def State.spinWrite (s : State) (f addr n x : Nat) : State :=
  State.spinPut f (addr / 2 ^ 60) none s (chunks (addr % 2 ^ 57) n) (leBytes n x)

/-- The locations that an access of Spindle to some bytes meets; none where a page has no frame or cannot be reached. -/
def State.spinSpots (s : State) (f addr n : Nat) : List Nat :=
  (chunks (addr % 2 ^ 57) n).flatMap fun c =>
    match s.leaf f (addr / 2 ^ 60) c.1 with
    | some l =>
      if s.reachable f (addr / 2 ^ 60) c.1 l && l.populated then (List.range c.2).map (l.flat (addr / 2 ^ 60) c.1 + ·) else []
    | none => []

/-- The memory tokens that an access of Spindle takes (R87): one for each 64 bytes of HBM, and those of the buffered writes that a write pushes
out before it. A read of a page without a frame moves nothing. -/
def State.spinCost (s : State) (f addr n : Nat) (write : Bool) : Nat :=
  (if addr / 2 ^ 60 = 0 then
    hbmTokens ((chunks (addr % 2 ^ 57) n).flatMap fun c =>
      match s.leaf f 0 c.1 with
      | some l => if s.reachable f 0 c.1 l && (write || l.populated) then (List.range c.2).map (c.1 + ·) else []
      | none => [])
  else 0) + if write then s.pushTokens (s.spinSpots f addr n) else 0

/-- An access of Spindle: its address, its bytes, whether it writes. -/
abbrev SpinAcc := Nat × Nat × Bool

/-- Whether an atomic locks a word that Spindle is to access (R372). -/
def State.spinLocked (s : State) (f : Nat) (accs : List SpinAcc) : Bool := accs.any fun a => s.spcLocked (s.spinSpots f a.1 a.2.1)
/-- The memory tokens of some accesses of Spindle (R87). -/
def State.spinTokens (s : State) (f : Nat) (accs : List SpinAcc) : Nat := (accs.map fun a => s.spinCost f a.1 a.2.1 a.2.2).sum

/-- A step of Spindle pays the tokens of its partition that its accesses take, or waits for them (R87; DEDUCED, log entry 26); it waits too
while an atomic locks a word that it accesses (R372). -/
def State.paying (s : State) (r f : Nat) (accs : List SpinAcc) (go : State → Result) : Result :=
  if s.spinLocked f accs then .next s
  else
    match s.pay r f .memory (s.spinTokens f accs) with
    | (u, true) => go u
    | (u, false) => .next u

/-- Whether what the releases order that a read of a word observes can be seen at CHIP: until then an acquire there, or a release that
comes after it, is not performed (R62, R68, R364–R366). -/
def State.spinReady (s : State) (f addr : Nat) : Bool :=
  match s.leaf f (addr / 2 ^ 60) (addr % 2 ^ 57) with
  | none => true
  | some l =>
    ((s.observed chipViewer ((List.range 8).map (l.flat (addr / 2 ^ 60) (addr % 2 ^ 57) + ·))).flatMap (·.rel)).all (s.visibleAt 2)

/-! ### Nodes -/

/-- A node of a graph (R59, R60). -/
structure Node where
  kind : Nat
  low : Nat
  succ0 : Nat
  succ1 : Nat
  err : Nat
  a : Nat
  b : Nat
  c : Nat
  rest : Nat
  work : Nat
  deriving DecidableEq, Repr

/-- The node in 512 bits (R59). -/
def node (x : Nat) : Node :=
  ⟨x % 256, x / 2 ^ 8 % 256, x / 2 ^ 16 % 2 ^ 16, x / 2 ^ 32 % 2 ^ 16, x / 2 ^ 48 % 2 ^ 16, x / 2 ^ 64 % 2 ^ 64,
    x / 2 ^ 128 % 2 ^ 64, x / 2 ^ 192 % 2 ^ 64, x / 2 ^ 256 % 2 ^ 192, x / 2 ^ 448⟩

/-- Whether a successor lies in the graph or is none (R61). -/
def succOk (nodes x : Nat) : Bool := decide (x = 0xFFFF) || decide (x < nodes)

/-- Whether a node is valid in a graph of `nodes` nodes (R59–R61, R81). -/
def Node.ok (d : Node) (nodes : Nat) : Bool :=
  decide (d.low = 0) && decide (d.rest = 0) && succOk nodes d.succ0 && succOk nodes d.succ1 && succOk nodes d.err
    && match d.kind with
      | 1 => decide (d.a / 2 ^ 17 % 2 ^ 15 = 0) && addrForm d.b 64 2 && (decide (d.c = 0) || addrForm d.c 64 2)
      | 2 => decide (1 ≤ d.a) && decide (d.a ≤ 255) && decide (d.b = 0) && decide (d.c = 0) && decide (d.err = 0xFFFF)
      | 3 => addrForm d.a 8 2 && decide (d.b = 0) && decide (d.c = 0)
      | 4 => addrForm d.a 8 2 && decide (d.b < 2 ^ 32) && decide (d.c = 0)
      | 5 => addrForm d.a 8 2 && decide (d.c = 0)
      | _ => false

/-! ### Walks -/

/-- Replace a walk. -/
def State.setWalk (s : State) (w : Walk) : State := { s with walks := Table.set s.walks (slotKey w.slot) w }

/-- A walk with no path and no launch in flight ends and updates its slot (R65, R66). -/
def State.settleWalk (s : State) (key : Nat) : State :=
  match Table.find s.walks key with
  | none => s
  | some w =>
    if w.paths.isEmpty && !(s.launches.any fun p => decide (p.2.walk = key)) then
      let x := s.slot w.slot
      let e := w.failed.getD (0, 0xFFFF)
      { s.setSlot w.slot { x with walks := (x.walks + 1) % 2 ^ 64, lastStatus := e.1, lastNode := e.2 } with
        walks := Table.del s.walks key }
    else s

/-- A path goes on at successors; it ends at 0xFFFF, and an abandoned walk starts no further node (R62, R65). -/
def Walk.follow (w : Walk) (succ : List Nat) : Walk :=
  if w.failed.isSome then w else { w with paths := w.paths ++ succ.filter fun x => decide (x ≠ 0xFFFF) }

/-- A node fails: its path goes on at ERR, or the walk is abandoned (R65), as it is where ERR itself lies outside the graph (DESIGN
CHOICE, log entry 30). -/
def Walk.fail (w : Walk) (n status err : Nat) : Walk :=
  if w.failed.isSome then w
  else if err < w.nodes then { w with paths := w.paths ++ [err] }
  else { w with paths := [], failed := some (status, n) }

/-- The walk itself fails at a node, whatever its ERR (R64). -/
def Walk.abandon (w : Walk) (n status : Nat) : Walk :=
  if w.failed.isSome then w else { w with paths := [], failed := some (status, n) }

/-- Put a walk back and end it if it is done. -/
def State.goOn (s : State) (w : Walk) : State := (s.setWalk w).settleWalk (slotKey w.slot)

/-- The number under which a walk pays for a step at a node; 0xFFFF stands for its start. -/
def walkRequest (q : SlotRef) (n : Nat) : Nat := requestNo 1 (slotKey q * 2 ^ 16 + n)

/-- A walk pays for the node that it has read, and for `more` (R87). -/
def State.visiting (s : State) (w : Walk) (n : Nat) (more : List SpinAcc) (go : State → Result) : Result :=
  s.paying (walkRequest w.slot n) w.func ((w.graph + 64 * n, 64, false) :: more) go

/-- WALK_START: the flag of an enabled slot without a walk has reached THRESH (R67), and what its release orders before it
can be seen (R68). THRESH advances, modulo 2^64 (DESIGN CHOICE, log entry 30), and the walk starts, or ends at once with status 8 where
its image is being unloaded (R69), or is gone (DESIGN CHOICE, log entry 30). -/
def execWalkStart (q : SlotRef) (s : State) : Result :=
  if !slotExists q then .fault .noSuchUnit
  else
    let x := s.slot q
    let f := slotFunc q x
    if !x.en ∨ (Table.find s.walks (slotKey q)).isSome = true ∨ s.quiesced.contains q.die = true ∨ (s.part f).state ≠ 1 then
      .next s
    else
      match s.spinWord f x.flag 8 with
      | some v =>
        if v < x.thresh ∨ s.spinReady f x.flag = false then .next s
        else
          let y := { x with thresh := (x.thresh + x.step) % 2 ^ 64 }
          s.paying (walkRequest q 0xFFFF) f [(x.flag, 8, false)] fun u =>
            if (Table.find s.insts x.inst).all (·.unloading) then
              .next (u.setSlot q { y with walks := (y.walks + 1) % 2 ^ 64, lastStatus := 8, lastNode := 0xFFFF })
            else .next ((u.setSlot q y).setWalk ⟨q, f, x.inst, x.graph, x.nodes, [x.start], 0, none, []⟩)
      | none => .next s

/-- A path reaches a node (R62, R64): the visit limit, at which the walk fails; an address that leaves the form of R61, an unmapped or an
invalid node; or what its kind does. `mine` tells the kinds of the step. A node that cannot be read has no ERR to go on at, and its walk is
abandoned as if ERR were 0xFFFF (DESIGN CHOICE, log entry 30). -/
def visit (q : SlotRef) (n : Nat) (mine : Nat → Bool) (s : State) (go : Walk → Node → Result) : Result :=
  match Table.find s.walks (slotKey q) with
  | none => .next s
  | some w =>
    if w.paths.contains n = false ∨ s.quiesced.contains q.die = true ∨ (s.part w.func).state ≠ 1 then .next s
    else
      let w1 := { w with paths := w.paths.erase n, visits := w.visits + 1 }
      if 2 ^ 24 ≤ w1.visits then .next (s.goOn (w1.abandon n 7))
      else if s.spinLocked w.func [(w.graph + 64 * n, 64, false)] then .next s
      else
      match if w.graph + 64 * n < 2 ^ 57 then (s.spinWord w.func (w.graph + 64 * n) 64).map node else none with
      | none => if mine 0 then .next (s.goOn (w1.fail n 5 0xFFFF)) else .next s
      | some d =>
        if !mine d.kind then .next s
        else if !d.ok w.nodes then s.visiting w1 n [] fun u => .next (u.goOn (w1.fail n 5 d.err))
        else go w1 d

/-- Where Spindle keeps WORK of node `n` (R59). -/
def Walk.workAt (w : Walk) (n : Nat) : Nat := w.graph + 64 * n + 56

/-- JOIN_NODE_VISIT (R62, R63). -/
def execJoinNodeVisit (q : SlotRef) (n : Nat) (s : State) : Result :=
  visit q n (fun k => decide (k = 2)) s fun w d =>
    let x := (d.work + 1) % 2 ^ 64
    s.visiting w n [(w.workAt n, 8, true)] fun u =>
      if x = d.a then .next ((u.spinWrite w.func (w.workAt n) 8 0).goOn (w.follow [d.succ0, d.succ1]))
      else .next ((u.spinWrite w.func (w.workAt n) 8 x).goOn w)

/-- The generation that a lease takes: one that no live lease of the level-1 partition holds (R72), the lowest of them (DESIGN CHOICE,
log entry 30). -/
def State.freeGen (s : State) (l1 : Nat) : Option Nat :=
  (List.range 64).find? fun g => !(s.launches.any fun p => decide (p.2.l1 = l1) && decide (p.2.lease = g))

/-- The host page of a node's word, where it has one (R352). -/
def State.nodePage (s : State) (f addr : Nat) : Option Nat :=
  if addr / 2 ^ 60 = 1 then (s.leaf f 1 (addr % 2 ^ 57)).map fun l => l.hostPage (addr % 2 ^ 57) else none

/-- Whether a walk has still to ask for a host page, or to wait for the answer: one that is missing, or that has been refused to another
(R70, R352). -/
def State.pageDue (s : State) (w : Walk) (p : Nat) : Bool :=
  s.hostGone.contains (w.func, p) || s.hostBad.contains (w.func, p)
    && (!w.asked.contains p || s.requests.any fun r => decide (r.1 = w.func) && decide (r.2.1 = p))

/-- A walk raises a page request with the generation of a lease that covers the page, or else the lowest free one; while all 64 are held it
waits and asks for nothing (R352; DESIGN CHOICE, log entry 30). -/
def State.askFor (s : State) (q : SlotRef) (w : Walk) (p : Nat) : State :=
  match (s.leaseOn w.func p).or (s.freeGen q.l1), Table.find s.walks (slotKey q) with
  | some g, some x => (s.ask w.func p g).setWalk { x with asked := if x.asked.contains p then x.asked else x.asked ++ [p] }
  | _, _ => s

/-- What Spindle meets at the word of a node (R62, R70, R352): it waits for a host page that its walk asks for, or for what the word's
release orders; it fails; or it reads a value. -/
def State.nodeWord (s : State) (q : SlotRef) (w : Walk) (addr : Nat) (fail : Walk → Result) (go : Walk → Nat → Result) : Result :=
  match (s.nodePage w.func addr).filter (s.pageDue w) with
  | some p => .next (s.askFor q w p)
  | none =>
    let w1 := match s.nodePage w.func addr with
      | some p => { w with asked := w.asked.filter fun x => decide (x ≠ p) }
      | none => w
    match s.spinWord w.func addr 8 with
    | none => fail w1
    | some v => if s.spinReady w.func addr then go w1 v else .next s

/-- CONDITIONAL_NODE_VISIT: the condition word is read with acquire semantics at CHIP (R62, R70). -/
def execConditionalNodeVisit (q : SlotRef) (n : Nat) (s : State) : Result :=
  visit q n (fun k => decide (k = 3)) s fun w d =>
    s.nodeWord q w d.a (fun x => s.visiting w n [] fun u => .next (u.goOn (x.fail n 5 d.err))) fun x v =>
      s.visiting w n [(d.a, 8, false)] fun u => .next (u.goOn (x.follow [if v ≠ 0 then d.succ0 else d.succ1]))

/-- WHILE_NODE_VISIT (R62, R70). A WORK above LIMIT counts as at the limit (DESIGN CHOICE, log entry 30). -/
def execWhileNodeVisit (q : SlotRef) (n : Nat) (s : State) : Result :=
  visit q n (fun k => decide (k = 4)) s fun w d =>
    s.nodeWord q w d.a (fun x => s.visiting w n [] fun u => .next (u.goOn (x.fail n 5 d.err))) fun x v =>
      s.visiting w n [(d.a, 8, false), (w.workAt n, 8, true)] fun u =>
        if v = 0 then .next ((u.spinWrite w.func (w.workAt n) 8 0).goOn (x.follow [d.succ0]))
        else if d.work < d.b then .next ((u.spinWrite w.func (w.workAt n) 8 (d.work + 1)).goOn (x.follow [d.succ1]))
        else .next ((u.spinWrite w.func (w.workAt n) 8 0).goOn (x.fail n 6 d.err))

/-- FLAG_NODE_VISIT: WORDB is added with release semantics at CHIP, once all that Spindle has observed can be seen there (R62, R70, R365). -/
def execFlagNodeVisit (q : SlotRef) (n : Nat) (s : State) : Result :=
  visit q n (fun k => decide (k = 5)) s fun w d =>
    s.nodeWord q w d.a (fun x => s.visiting w n [] fun u => .next (u.goOn (x.fail n 5 d.err))) fun x v =>
      s.visiting w n [(d.a, 8, false), (d.a, 8, true)] fun u =>
        .next ((u.spinWrite w.func d.a 8 ((v + d.b) % 2 ^ 64)).goOn (x.follow [d.succ0, d.succ1]))

/-! ### Skeins -/

/-- Bits [lo + n − 1 : lo] of a number. -/
def bitsAt (x lo n : Nat) : Nat := x / 2 ^ lo % 2 ^ n

/-- Dimension `d` of a skein (R54, R55). -/
def skeinDim (x d : Nat) : Dim :=
  ⟨(BitVec.ofNat 32 (bitsAt x (128 + 96 * d) 32)).toInt, (BitVec.ofNat 32 (bitsAt x (160 + 96 * d) 32)).toInt,
    (BitVec.ofNat 32 (bitsAt x (192 + 96 * d) 32)).toInt, bitsAt x (64 + 6 * d) 6⟩

/-- The dimensions in use. -/
def skeinDims (x : Nat) : List Dim := (List.range (bitsAt x 16 4)).map (skeinDim x)
/-- The nesting order: the ORDER slots in use (R54). -/
def skeinOrder (x : Nat) : List Nat := (List.range (bitsAt x 16 4)).map fun j => bitsAt x (20 + 2 * j) 2

/-- Whether every field that must be zero is (R54, R55). The shifts of dimensions that are not in use may be anything: the 96 bits of DIMd
alone are a dimension's fields (DESIGN CHOICE, log entry 30). -/
def skeinReserved (x : Nat) : Bool :=
  decide (x / 2 ^ 896 = 0) && decide (bitsAt x 112 16 = 0) && decide (bitsAt x 92 4 = 0) && decide (bitsAt x 59 5 = 0)
    && decide (bitsAt x 30 2 = 0)
    && (List.range 4).all (fun d => decide (d < bitsAt x 16 4) || decide (bitsAt x (128 + 96 * d) 96 = 0))
    && (List.range 4).all (fun i => decide (i < bitsAt x 88 4) || decide (bitsAt x (512 + 96 * i) 96 = 0))

/-- The ORDER slots are a permutation of the dimensions in use, and later slots are zero (R58). -/
def skeinOrderOk (x : Nat) : Bool :=
  (List.range (bitsAt x 16 4)).all (fun d => (skeinOrder x).contains d)
    && (List.range 4).all fun j => decide (j < bitsAt x 16 4) || decide (bitsAt x (20 + 2 * j) 2 = 0)

/-- Whether the children of a level-1 partition include `c`; one without children has only its implicit child 0 (R58,
R84). -/
def State.childExists (s : State) (l1 c : Nat) : Bool :=
  if (List.range 8).any fun i => decide ((s.part (16 + 8 * l1 + i)).state ≠ 0) then
    decide ((s.part (16 + 8 * l1 + c)).state ≠ 0)
  else decide (c = 0)

/-- The tenant of a walk's skein: function, child number, whether it is explicit (R74, R436). -/
def State.tenant (s : State) (l1 func tenant : Nat) : Nat × Nat × Bool :=
  if 16 ≤ func then (func, (func - 16) % 8, true)
  else if (s.part (16 + 8 * l1 + tenant)).state ≠ 0 then (16 + 8 * l1 + tenant, tenant, true)
  else (l1, 0, false)

/-- A template as a capability without its tag. -/
def template (b : BitVec 128) : Cap := ⟨b, true⟩

/-- Whether a template's KEY obeys R209. -/
def keyOk (c : Cap) : Bool :=
  if c.space = 0 ∨ c.space = 2 ∨ c.space = 6 ∨ c.space = 8 then decide (c.key = 0)
  else if c.space = 7 then decide (145 ≤ c.key) else true

/-- The templates that seed the capability page of a ROOT template (R332): none for another space. -/
def seeds (roots : List (BitVec 128)) (root : Nat) : List (BitVec 128) :=
  match roots[root]? with
  | some b => if (template b).space = 8 then (roots.drop (root + 1)).take ((template b).len / 16) else []
  | none => []

/-- Whether ROOT and the templates it seeds are valid (R58, R209, R332). -/
def rootOk (roots : List (BitVec 128)) (root : Nat) : Bool :=
  match roots[root]? with
  | none => false
  | some b =>
    let c := template b
    keyOk c && (seeds roots root).all (fun x => keyOk (template x))
      && (!decide (c.space = 8) || (decide (c.len % 16 = 0) && decide ((seeds roots root).length = c.len / 16)))

/-- Whether a skein is valid (R58, R374). -/
def State.skeinOk (s : State) (w : Walk) (i : Image) (idx x : Nat) : Bool :=
  skeinReserved x && decide (bitsAt x 16 4 ≤ 4) && decide (bitsAt x 88 4 ≤ 4)
    && (skeinDims x).all (fun d => decide (d.step ≠ 0)) && skeinOrderOk x && decide (iterations (skeinDims x) < 2 ^ 48)
    && decide (bitsAt x 0 16 < i.entries.length) && rootOk i.roots (bitsAt x 32 16)
    && (decide (16 ≤ w.func) || s.childExists w.slot.l1 (bitsAt x 56 3))
    && (i.wheel.filter fun e => decide (e.2 = idx)).all fun e => decide (e.1 < (bitsOf (s.part w.slot.l1).wheel).length)

/-- The ranges of a skein's lease entries (R71), or none where an entry is invalid: one that names no template of the image is as invalid as
one that passes its template's bounds (DESIGN CHOICE, log entry 30). -/
def leaseRanges (roots : List (BitVec 128)) (x : Nat) : List Nat → Option (List (Nat × Nat × Nat))
  | [] => some []
  | i :: is =>
    let off := bitsAt x (528 + 96 * i) 40
    let len := bitsAt x (568 + 96 * i) 40
    match roots[bitsAt x (512 + 96 * i) 16]?, leaseRanges roots x is with
    | some b, some rs =>
      let c := template b
      if c.space < 2 ∧ off + len ≤ c.len then
        some (if len = 0 then rs else (c.space, c.base + off, len) :: rs)
      else none
    | _, _ => none

/-- Whether the capability page of ROOT lies in a lease entry (R332). -/
def seedLeased (roots : List (BitVec 128)) (root : Nat) (ranges : List (Nat × Nat × Nat)) : Bool :=
  match roots[root]? with
  | none => true
  | some b =>
    let c := template b
    decide (c.space ≠ 8) || decide (c.len = 0)
      || ranges.any fun r => decide (r.1 = 0) && decide (r.2.1 ≤ c.base) && decide (c.base + c.len ≤ r.2.1 + r.2.2)

/-- A node summary (R82). -/
def summary (launched normal faulted dropped left first status : Nat) : Nat :=
  launched + normal * 2 ^ 64 + faulted * 2 ^ 128 + dropped * 2 ^ 192 + left * 2 ^ 256 + first * 2 ^ 320 + status * 2 ^ 328

/-- The access that a summary is (R82, R87). -/
def summaryAccs (summ : Nat) : List SpinAcc := if summ = 0 then [] else [(summ, 64, true)]

/-- Write a summary, where one is asked for. -/
def State.summarise (s : State) (f summ x : Nat) : State := if summ = 0 then s else s.spinWrite f summ 64 x

/-- SKEIN_NODE_VISIT: the skein and its lease entries are checked (R58, R71, R332), and the launch begins to wait for its
lease; a node that fails writes its summary (R82), but an invalid one does not (R81). A node of no kind is invalid (R60), and so is one whose
records would pass the address form of R61 (DEDUCED, log entry 30). A skein index beyond the section, or of a loaded image that is gone, gives
status 1 (DESIGN CHOICE, log entry 30). -/
def execSkeinNodeVisit (q : SlotRef) (n : Nat) (s : State) : Result :=
  visit q n (fun k => !decide (k = 2) && !decide (k = 3) && !decide (k = 4) && !decide (k = 5)) s fun w d =>
    let idx := d.a % 2 ^ 16
    let fail := fun st => s.visiting w n (summaryAccs d.c) fun u =>
      .next ((u.summarise w.func d.c (summary 0 0 0 0 0 0 st)).goOn (w.fail n st d.err))
    match Table.find s.insts w.inst with
    | none => fail 1
    | some i =>
      match i.skeins[idx]? with
      | none => fail 1
      | some sk =>
        let x := sk.toNat
        let persist := decide (bitsAt x 29 1 = 1)
        let t := s.tenant w.slot.l1 w.func (bitsAt x 56 3)
        let all := ((List.range (4 * s.coreCount)).filter (s.part t.1).ownsCtx).length
        let p := bitsAt x 96 16
        let total := iterations (skeinDims x)
        let count := if persist then (if p = 0 then all else p) else total
        if !s.skeinOk w i idx x then fail 1
        else if 2 ^ 57 < d.b % 2 ^ 57 + 64 * (if d.a / 2 ^ 16 % 2 = 1 then d.a / 2 ^ 32 else count) then
          s.visiting w n [] fun u => .next (u.goOn (w.fail n 5 d.err))
        else
          match leaseRanges i.roots x (List.range (bitsAt x 88 4)) with
          | none => fail 2
          | some rs =>
            if !seedLeased i.roots (bitsAt x 32 16) rs then fail 3
            else
              if total = 0 then
                s.visiting w n (summaryAccs d.c) fun u =>
                  .next ((u.summarise w.func d.c (summary 0 0 0 0 0 0 0)).goOn (w.follow [d.succ0, d.succ1]))
              else
                let l : Launch :=
                  { id := s.fresh, walk := slotKey q, node := n, die := q.die, func := w.func, l1 := q.l1, child := t.2.1
                    expl := t.2.2, inst := w.inst, skein := idx, entry := bitsAt x 0 16, root := bitsAt x 32 16
                    dims := skeinDims x, order := skeinOrder x, n := total, persist := persist
                    count := count
                    weight := max 1 (bitsAt x 48 8), matrix := decide (bitsAt x 28 1 = 1)
                    rmode := decide (d.a / 2 ^ 16 % 2 = 1), rcap := d.a / 2 ^ 32, crec := d.b, summ := d.c
                    succ := [d.succ0, d.succ1], err := d.err, ranges := rs, stage := .lease, lease := 64, next := 0, turn := 0
                    seq := 0, launched := 0, normal := 0, faulted := 0, dropped := 0, left := 0, first := 0, recs := 0 }
                s.visiting w n [] fun u =>
                  .next ({ u with launches := Table.set u.launches l.id l, fresh := u.fresh + 1 }.setWalk w)

/-! ### Leases -/

/-- The page requests of a lease's generation no longer count once it has ended (R93, R352); a walk that has asked under it asks again. -/
def State.dropRequests (s : State) (f gen : Nat) : State :=
  let gone := (s.requests.filter fun r => decide (r.1 = f) && decide (r.2.2.1 = gen)).map (·.2.1)
  { s with requests := s.requests.filter fun r => !(decide (r.1 = f) && decide (r.2.2.1 = gen))
           walks := s.walks.map fun w =>
             (w.1, if w.2.func = f then { w.2 with asked := w.2.asked.filter fun p => !gone.contains p } else w.2) }

/-- A launch leaves its walk, whose path goes on or fails; what its lease had reserved goes back, and its outstanding page requests no longer
count (R225, R352). -/
def State.endLaunch (s : State) (l : Launch) (f : Walk → Walk) : State :=
  let s1 := State.dropRequests { s with
    launches := Table.del s.launches l.id
    pool := s.pool ++ l.reserve.map fun (p : Nat × Nat) => (l.l1, p.1, p.2) } l.tenantFunc l.lease
  match Table.find s1.walks l.walk with
  | none => s1.askAgain
  | some w => (s1.goOn (f w)).askAgain

/-- A launch whose lease cannot be established is to fail its node with status 3, once its summary is written (R72, R82); its page requests no
longer count, and what it had reserved goes back. -/
def State.refuseLease (s : State) (l : Launch) : State :=
  State.askAgain (State.dropRequests { s with
    launches := Table.set s.launches l.id { l with stage := .failed, lease := 64, reserve := [] }
    pool := s.pool ++ l.reserve.map fun (p : Nat × Nat) => (l.l1, p.1, p.2) } l.tenantFunc l.lease)

/-- The host page of an address of a function's SPACE 1: that of its leaf, or the one that the mapping of its page is to name (R72, R352;
DESIGN CHOICE, log entry 18). -/
def State.hostPageAt (s : State) (f va : Nat) : Nat :=
  match s.leaf f 1 va with
  | some x => x.hostPage va
  | none => Config.hostPage f (va / 4096) % 2 ^ 40

/-- The host pages of a launch's ranges that are missing (R352). -/
def State.missing (s : State) (l : Launch) : List Nat :=
  l.ranges.flatMap fun r =>
    if r.1 = 1 then
      (List.range ((r.2.1 % 4096 + r.2.2 + 4095) / 4096)).filterMap fun i =>
        let va := r.2.1 / 4096 * 4096 + 4096 * i
        let page := s.hostPageAt l.tenantFunc va
        if s.hostGone.contains (l.tenantFunc, page) || s.hostBad.contains (l.tenantFunc, page) then some page else none
    else []

/-- The pages of a launch's ranges, as (space, address, leaf). -/
def State.leasePages (s : State) (l : Launch) : List (Nat × Nat × Option Leaf) :=
  l.ranges.flatMap fun r => (s.pages l.tenantFunc r.1 r.2.1 r.2.2).map fun p => (r.1, p)

/-- The firmware maps the pages of a launch's ranges that are not mapped (R72); none where memory is exhausted. -/
def State.mapLease (s : State) (l : Launch) (g : Nat) : Option State :=
  (s.leasePages l).foldl (fun o p =>
    o.bind fun u =>
      match u.leaf l.tenantFunc p.1 p.2.1 with
      | some _ => some u
      | none => u.mapPage l.tenantFunc p.1 p.2.1 g) (some s)

/-- The anonymous pages of a launch's ranges, each once. -/
def State.anonPages (s : State) (l : Launch) : List Leaf :=
  (((s.leasePages l).filterMap (·.2.2)).filter (·.anon)).eraseDups

/-- A pre-zeroed frame is reserved for each anonymous page of a launch's ranges (R225); none where memory is exhausted. -/
def State.reserveFrames (s : State) (l : Launch) : Option (List (Nat × Nat) × State) :=
  (s.anonPages l).foldl (fun (o : Option (List (Nat × Nat) × State)) x =>
    o.bind fun (rs, u) => (u.newFrame l.tenantFunc x.size).map fun (a, v) => (rs ++ [(a, x.size)], v)) (some (([] : List (Nat × Nat)), s))

/-- Whether a page lies in another live lease of the function (R72). -/
def State.shared (s : State) (l : Launch) (space va size : Nat) : Bool :=
  s.launches.any fun p => decide (p.2.id ≠ l.id) && decide (p.2.tenantFunc = l.tenantFunc) && decide (p.2.lease < 64)
    && decide (p.2.stage = .placing)
    && p.2.ranges.any fun r => decide (r.1 = space) && decide (va < r.2.1 + r.2.2) && decide (r.2.1 < va + size)

/-- Whether the frame of a SPACE 0 page is lost, in part or whole, with a channel pair (R446). -/
def State.frameLost (s : State) (l : Leaf) : Bool :=
  l.populated && !s.lostPairs.isEmpty && (List.range (l.size / 4096)).any fun i => s.lost (l.flat 0 0 + 4096 * i)

/-- The bytes of a page of a function as the mirror of its rank holds them; none where it cannot be reached (R344, R345). The mirror of a rank
on this package is the heap of its own job slot (R337, R338), and lost where a frame of it is; one on another package sends bytes of its own. -/
def State.mirrorBytes (s : State) (f l1 va size : Nat) : Option (List Byte) :=
  match s.findJob l1 (fun j => decide (j.func = f)) 4 with
  | none => none
  | some (_, j) =>
    let m := (j.rank j.myrank).mrank
    if !(j.rank j.myrank).mvalid || j.gone m then none
    else if j.here m then
      match s.findJob (j.rank m).part (fun x => decide (x.job = j.job)) 4 with
      | none => none
      | some (_, d) =>
        let a := d.heapBase + va - j.heapBase
        let there := fun (c : Nat × Nat) => match s.leaf d.func 0 c.1 with | some l => s.reachable d.func 0 c.1 l | none => false
        if (chunks a size).all there then some ((s.funcPlaces d.func a size).map (s.seePlace chipViewer (1 + d.func))) else none
    else some ((List.range size).map fun i => Config.mirrorByte f (va + i))

/-- A lost mirrored page is fetched whole from the mirror into a new frame (R345); none where the mirror cannot be reached, or memory is
exhausted. -/
def State.refill (s : State) (f l1 va : Nat) (l : Leaf) : Option State :=
  (s.mirrorBytes f l1 (va / l.size * l.size) l.size).bind fun bs =>
    (s.newFrame f l.size).map fun (frame, u) =>
      (u.setPte l.key (setField l.pte 53 14 (frame / 4096))).memWrite (1 + f) (cellsAt frame bs)

/-- The lost frames of a launch's ranges are fetched from their mirrors (R345); none where a page has no mirror that can be
reached. -/
def State.refillLease (s : State) (l : Launch) : Option State :=
  (s.leasePages l).foldl (fun o p =>
    o.bind fun u =>
      match p.2.2 with
      | some x =>
        if p.1 = 0 ∧ u.frameLost x = true then
          if field x.pte 9 9 = 1 then u.refill l.tenantFunc l.l1 p.2.1 x else none
        else some u
      | none => some u) (some s)

/-- A lease takes its pages: those that no other live lease covers get its generation (R72). -/
def State.stampLease (s : State) (l : Launch) (g : Nat) : State :=
  (s.leasePages l).foldl (fun u p =>
    match p.2.2 with
    | none => u
    | some x =>
      if u.shared l p.1 p.2.1 x.size then u else u.setPte x.key (setField (Table.get 0 u.ptes x.key) 59 54 g)) s

/-- Everything a lease asks for, all or nothing (R72, R225, R345): unmapped pages are mapped, lost ones fetched, frames for first touches
reserved and leaves stamped. -/
def State.takeLease (s : State) (l : Launch) (g : Nat) : Option (List (Nat × Nat) × State) :=
  (s.mapLease l g).bind fun u => (u.refillLease l).bind fun v => (v.reserveFrames l).map fun (rs, w) => (rs, w.stampLease l g)

/-- Whether neither the function of a launch's walk nor its tenant is being released: then its walk goes on, its lease stands and its records
are written (R92, R93). -/
def State.inService (s : State) (l : Launch) : Bool :=
  decide ((s.part l.func).state = 1) && decide ((s.part l.tenantFunc).state = 1)

/-- LEASE_ESTABLISH: the firmware establishes the lease of a launch, all or nothing (R72, R225); `granted` tells whether it finds the memory
to give (R97). A missing host page raises a page request first (R352), new leases wait while the die's Spindle is quiesced (R113), and none is
established for a partition that is being released (R93). -/
def execLeaseEstablish (l : Nat) (granted : Bool) (s : State) : Result :=
  match Table.find s.launches l with
  | none => .next s
  | some x =>
    if x.stage ≠ .lease ∨ s.quiesced.contains x.die = true ∨ s.inService x = false then .next s
    else
      match (if x.lease < 64 then some x.lease else s.freeGen x.l1) with
      | none => .next s
      | some g =>
        match (s.missing x).eraseDups with
        | m :: ms =>
          let f := x.tenantFunc
          let add := ((m :: ms).map fun p => (f, p, g, (s.part f).epoch)).filter fun r => !s.requests.contains r
          let bad := (m :: ms).map fun p => (f, p)
          .next { s with
            launches := Table.set s.launches l { x with lease := g }, requests := s.requests ++ add
            hostBad := s.hostBad.filter fun e => !bad.contains e
            hostGone := s.hostGone ++ bad.filter fun e => !s.hostGone.contains e }
        | [] =>
          match if granted then s.takeLease x g else none with
          | none => .next (s.refuseLease x)
          | some (rs, s1) =>
            .next { s1 with
              launches := Table.set s1.launches l { x with lease := g, stage := .placing, seq := s1.fresh, reserve := rs }
              fresh := s1.fresh + 1 }

/-! ### Placement -/

/-- An entry of a router slot table as it is loaded (R350): one that names input 5–7, or one input twice, is loaded as 0. -/
def routerEntry (e : BitVec 32) : BitVec 32 :=
  let outs := (List.range 5).filterMap fun o =>
    let v := e.toNat / 2 ^ (4 * o) % 16
    if 8 ≤ v then some (v % 8) else none
  if outs.any (fun i => decide (5 ≤ i)) ∨ outs.eraseDups.length ≠ outs.length then 0 else e

/-- The clusters of a level-1 partition, ascending: its logical clusters (R351). -/
def Part.clusterList (p : Part) : List Nat := (List.range nClusters).filter fun i => p.clusters.getLsbD i

/-- Whether a task of another image is resident in a level-1 partition (R76). -/
def State.otherResident (s : State) (l1 inst : Nat) : Bool :=
  s.ctxs.any fun c => match c.2.task with | some t => decide (t.l1 = l1) && decide (t.inst ≠ inst) | none => false

/-- Number the entries of a router table. -/
def numbered {α : Type} : Nat → List α → Table α
  | _, [] => []
  | n, x :: xs => (n, x) :: numbered (n + 1) xs

/-- The launches of a tenant that wait for contexts, in the order of their leases (R75). -/
def State.waiting (s : State) (f : Nat) : List Launch :=
  let ws := (s.launches.map (·.2)).filter fun l =>
    decide (l.stage = .placing) && decide (l.next < l.count) && decide (l.tenantFunc = f)
  ws.foldr (fun l r => (r.takeWhile fun x => decide (x.seq < l.seq)) ++ [l] ++ r.dropWhile fun x => decide (x.seq < l.seq)) []

/-- The launch whose turn it is (R75): the one in mid-turn, or the next in order. -/
def State.turnOf (s : State) (f : Nat) : Option Launch :=
  let ws := s.waiting f
  match ws.find? fun l => decide (l.seq = (s.part f).rr) && decide (l.turn < l.weight) with
  | some l => some l
  | none => (ws.find? fun l => decide ((s.part f).rr < l.seq)).or ws.head?

/-- Whether a context is free for a tenant. -/
def State.freeFor (s : State) (f id : Nat) : Bool := (s.ctx id).task.isNone && (s.part f).ownsCtx id

/-- Whether a core holds a running task of a MATRIX = 1 skein (R74). A task that is switched out still counts (DESIGN CHOICE, log entry 30). -/
def State.matrixOn (s : State) (core : Nat) : Bool :=
  (List.range 4).any fun j =>
    match (s.ctx (4 * core + j)).task with
    | some t => (match Table.find s.launches t.launch with | some l => l.matrix | none => false)
    | none => false

/-- The first free context from the cursor, wrapping, over the cores that pass a test (R74). -/
def State.scan (s : State) (f : Nat) (ok : Nat → Bool) : Option Nat :=
  let cur := (s.part f).cursor
  ((List.range s.coreCount).map fun i => (cur + i) % s.coreCount).findSome? fun c =>
    if ok c then (List.range 4).findSome? fun j => if s.freeFor f (4 * c + j) then some (4 * c + j) else none else none

/-- The context that the next task of a launch takes (R74). -/
def State.spot (s : State) (l : Launch) : Option Nat :=
  if l.matrix then (s.scan l.tenantFunc fun c => !s.matrixOn c).or (s.scan l.tenantFunc fun _ => true)
  else s.scan l.tenantFunc fun _ => true

/-- Whether a launch of the image whose tables are loaded can place a task at once: another image's tables then wait (R75, R76; DEDUCED, log
entry 36). -/
def State.placeable (s : State) (l1 : Nat) : Bool :=
  s.launches.any fun p =>
    decide (p.2.l1 = l1) && decide ((s.part l1).resident = some p.2.inst) && decide ((s.turnOf p.2.tenantFunc).map (·.id) = some p.2.id)
      && decide ((s.part p.2.tenantFunc).state = 1) && (s.spot p.2).isSome

/-- ROUTER_TABLE_LOAD: before the first task of a walk starts, the image's router slot tables and wheel assignments are loaded,
once no task of another image is resident (R76, R350, R351), for the launch whose turn it is (R75). (DEDUCED, log entry 36.) -/
def execRouterTableLoad (l : Nat) (s : State) : Result :=
  match Table.find s.launches l with
  | none => .next s
  | some x =>
    let p := s.part x.l1
    if x.stage ≠ .placing ∨ p.resident = some x.inst ∨ s.otherResident x.l1 x.inst = true
        ∨ (s.turnOf x.tenantFunc).map (·.id) ≠ some x.id ∨ s.placeable x.l1 = true then .next s
    else
      match Table.find s.insts x.inst with
      | none => .next s
      | some i =>
        let load := fun (u : State) (r : Nat × List (BitVec 32)) =>
          match p.clusterList[r.1]? with
          | none => u
          | some c => u.setCluster c { u.cluster c with router := numbered 0 (r.2.map routerEntry) }
        .next (State.setPart (i.router.foldl load s) x.l1 { p with resident := some x.inst })

/-- A template's KEY as Spindle assigns it (R209). -/
def assignKey (f : Nat) (b : BitVec 128) : Cap :=
  let c := template b
  if c.key = 0 ∧ (c.space = 0 ∨ c.space = 2 ∨ c.space = 6 ∨ c.space = 8) then
    ⟨b ||| BitVec.ofNat 128 ((1 + f) * 2 ^ 96), true⟩
  else c

/-- The state in which a task starts (R76, R77). -/
def startCtx (i : Image) (l : Launch) (t : Task) (old : Ctx) : Ctx :=
  let coord := fun d => (⟨coordinate l.dims l.order t.serial d, false⟩ : GReg)
  let idx : GReg := ⟨BitVec.ofNat 64 l.skein, false⟩
  let n := BitVec.ofNat 64 t.serial
  { old.clear with
    task := some t, pc := BitVec.ofNat 64 (i.base + i.entries.getD l.entry 0)
    g := if l.persist then [(5, idx)] else [(1, coord 0), (2, coord 1), (3, coord 2), (4, coord 3), (5, idx), (6, ⟨n, false⟩)]
    k := [(0, assignKey l.tenantFunc (i.roots.getD l.root 0))]
    lo := if l.persist then BitVec.ofNat 64 (l.n * t.serial / l.count) else 0
    hi := if l.persist then BitVec.ofNat 64 (l.n * (t.serial + 1) / l.count) else 0 }

/-- The capability page of a launch is seeded before its first task starts (R332): a capability and its tag for each entry. -/
def State.seedPage (s : State) (i : Image) (l : Launch) : State :=
  let f := l.tenantFunc
  let base := (template (i.roots.getD l.root 0)).base
  let put := fun (u : State) (p : Nat × BitVec 128) =>
    let a := base + 16 * p.1
    let u1 := State.spinPut f 0 (some l.id) u (chunks a 16) (leBytes 16 (assignKey f p.2).bits.toNat)
    match u1.leaf f 0 a with
    | some x => if x.populated then u1.writeChip (1 + f) [(tagCell (x.flat 0 a), 1)] else u1
    | none => u1
  (numbered 0 (seeds i.roots l.root)).foldl put s

/-- A gated cluster runs from a placement on; its task starts 200 cycles later (R440). -/
def State.rouse (s : State) (c : Nat) : State :=
  let k := s.cluster c
  if k.state = 1 then s.setCluster c { k with state := 0, idle := 0, wakeAt := s.time + 200 } else s

/-- The access to the capability page that a launch seeds (R87, R332). -/
def seedAccs (i : Image) (l : Launch) : List SpinAcc :=
  if l.next = 0 then [((template (i.roots.getD l.root 0)).base, 16 * (seeds i.roots l.root).length, true)] else []

/-- TASK_PLACE: the launch whose turn it is places its next task on the first free context from the cursor (R74–R77); the
monitor releases its sealed keys (R107). -/
def execTaskPlace (l : Nat) (s : State) : Result :=
  match Table.find s.launches l with
  | none => .next s
  | some x =>
    let f := x.tenantFunc
    match s.spot x, Table.find s.insts x.inst with
    | some id, some i =>
      if x.stage ≠ .placing ∨ x.count ≤ x.next ∨ (s.part x.l1).resident ≠ some x.inst ∨ (s.part f).state ≠ 1
          ∨ (s.turnOf f).map (·.id) ≠ some x.id then .next s
      else
        s.paying (requestNo 2 x.id) f (seedAccs i x) fun u =>
        let t : Task :=
          { tid := u.fresh, func := f, l1 := x.l1, child := x.child, expl := x.expl, inst := x.inst, launch := x.id
            serial := x.next, skein := x.skein, persist := x.persist, iters := 0, dims := x.dims, order := x.order
            ranges := x.ranges }
        let s0 := if x.next = 0 then u.seedPage i x else u
        let s1 := { s0.setCtx id (startCtx i x t (s0.ctx id)) with fresh := s0.fresh + 1 }
        let p := s1.part f
        let turn := if p.rr = x.seq ∧ x.turn < x.weight then x.turn + 1 else 1
        let s2 := s1.setPart f { p with cursor := (coreOf id + 1) % s.coreCount, rr := x.seq }
        .next (State.rouse (State.releaseKeys { s2 with
          launches := Table.set s2.launches l { (Table.get x s2.launches l) with next := x.next + 1, turn := turn, launched := x.launched + 1 } } id)
          (clusterOf (coreOf id)))
    | _, _ => .next s

/-! ### Completion -/

/-- Whether everything a retired task issued has been performed, or rejected (R170), and the writes that its record publishes
can be seen at CHIP (R80). -/
def State.drained (s : State) (r : Retire) : Bool :=
  let tid := r.task.tid
  !(s.writes.any fun w => decide (w.tid = tid) && decide (w.level < 3)) && !(s.copies.any fun c => decide (c.tid = tid))
    && !(s.outs.any fun o => decide (o.op.tid = tid)) && !(s.atoms.any fun a => decide (a.tid = tid))
    && !((s.core r.core).queue.any fun e => decide (e.tid = tid)) && !(s.flags.any fun f =>
      match f.src with
      | .chan n => (match s.findOut n with | some o => decide (o.op.tid = tid) | none => false)
      | .wire _ => false)
    && r.need.all (s.visibleAt 2)

/-- A retired task with the pending fault of its rejected or lost remote operations (R343, R349, R419). -/
def State.withRejects (s : State) (r : Retire) : Retire :=
  if r.code ≠ 0 ∨ r.tail = false then r
  else
    match s.firstReject r.task.tid 7 true, s.firstReject r.task.tid 7 false with
    | some x, _ => { r with code := 0x31, tval := BitVec.ofNat 64 x.hoff, pend := true }
    | none, some x => { r with code := 0x30, tval := BitVec.ofNat 64 x.hoff, pend := true }
    | none, none => r

/-- A completion record (R80). -/
def Retire.record (r : Retire) (time : Nat) : Nat :=
  r.code + r.pend.toNat * 2 ^ 8 + r.mchk.toNat * 2 ^ 9 + r.task.persist.toNat * 2 ^ 10 + r.ctx * 2 ^ 16 + r.core * 2 ^ 24
    + r.task.skein * 2 ^ 48 + (if r.task.persist then r.left else 0) * 2 ^ 128
    + (if r.task.persist then r.task.iters else 1) * 2 ^ 192 + r.task.serial * 2 ^ 256 + time % 2 ^ 64 * 2 ^ 320
    + (if r.code = 0 then 0 else r.fpc.toNat) * 2 ^ 384 + (if r.code = 0 then 0 else r.tval.toNat) * 2 ^ 448

/-- Where a launch's record goes, if it is written (R81). -/
def Launch.recordAt (l : Launch) (r : Retire) : Option Nat :=
  if l.rmode then if r.code ≠ 0 ∧ l.recs < l.rcap then some (l.crec + 64 * l.recs) else none
  else some (l.crec + 64 * r.task.serial)

/-- A launch with a record counted (R81, R82). -/
def Launch.count1 (l : Launch) (r : Retire) : Launch :=
  let wr := (l.recordAt r).isSome
  { l with
    normal := l.normal + if r.code = 0 then 1 else 0
    faulted := l.faulted + if r.code ≠ 0 then 1 else 0
    dropped := l.dropped + if r.code ≠ 0 ∧ wr = false then 1 else 0
    first := if l.first = 0 ∧ r.code ≠ 0 ∧ wr = true then r.code else l.first
    recs := l.recs + if l.rmode = true ∧ wr = true then 1 else 0
    left := l.left + if r.task.persist then r.left else 0 }

/-- A retirement-tracker entry frees itself. -/
def State.dropEntry (s : State) (task : Nat) : State :=
  { s with retire := s.retire.filter fun x => decide (x.task.tid ≠ task)
           rejects := s.rejects.filter fun x => decide (x.tid ≠ task) }

/-- COMPLETION_RECORD_WRITE: the entry of a drained task writes its record and frees itself (R80, R81, R170, R419); after the
last one the lease is released, and what it had reserved goes back (R73, R225). None is written for a partition that is being released
(R93). -/
def execCompletionRecordWrite (core task : Nat) (s : State) : Result :=
  match s.retire.find? fun r => decide (r.core = core) && decide (r.task.tid = task) with
  | none => .next s
  | some r0 =>
    if !s.drained r0 || !decide ((s.part r0.task.func).state = 1) then .next s
    else
      let r := s.withRejects r0
      match Table.find s.launches r.task.launch with
      | none => .next (s.dropEntry task)
      | some l =>
        s.paying (requestNo 2 task) l.func ((l.recordAt r).toList.map fun a => (a, 64, true)) fun u =>
        let s1 := u.dropEntry task
        let s2 := match l.recordAt r with
          | some a => s1.spinWrite l.func a 64 (r.record s.time)
          | none => s1
        let l1 := l.count1 r
        if l1.normal + l1.faulted = l1.count then
          .next (State.askAgain (State.dropRequests { s2 with
            launches := Table.set s2.launches l.id { l1 with lease := 64, reserve := [] }
            pool := s2.pool ++ l.reserve.map fun (p : Nat × Nat) => (l.l1, p.1, p.2) } l.tenantFunc l.lease))
        else .next { s2 with launches := Table.set s2.launches l.id l1 }

/-- SKEIN_NODE_COMPLETE: every task of a launch has written its record, or its lease has been refused; the summary is written, and the path
goes on, or fails with status 4, or 3 (R82); a walk of a partition that is being released goes no further (R93). -/
def execSkeinNodeComplete (l : Nat) (s : State) : Result :=
  match Table.find s.launches l with
  | none => .next s
  | some x =>
    if s.inService x = false ∨ x.stage = .lease ∨ (x.stage = .placing ∧ x.normal + x.faulted < x.count) then .next s
    else
      s.paying (requestNo 2 x.id) x.func (summaryAccs x.summ) fun u =>
        let st := if x.stage = .failed then 3 else if x.faulted = 0 then 0 else 4
        let s1 := u.summarise x.func x.summ (summary x.launched x.normal x.faulted x.dropped x.left x.first st)
        .next (s1.endLaunch x fun w => if st = 0 then w.follow x.succ else w.fail x.node st x.err)

/-- SPINDLE_QUIESCE: a die's Spindle starts no further step; refused with status 2 during the trial of an update (R113). -/
def execSpindleQuiesce (die : Nat) (s : State) : Result :=
  if 2 ≤ die then .fault .noSuchUnit
  else if s.monitor.update = .trial then .next { s with fwStatus := 2 }
  else .next { s with quiesced := (s.quiesced.filter fun d => decide (d ≠ die)) ++ [die] }

/-- SPINDLE_RESUME: the firmware resumes a die's Spindle; refused with status 2 during the trial of an update (R113). -/
def execSpindleResume (die : Nat) (s : State) : Result :=
  if 2 ≤ die then .fault .noSuchUnit
  else if s.monitor.update = .trial then .next { s with fwStatus := 2 }
  else .next { s with quiesced := s.quiesced.filter fun d => decide (d ≠ die) }

end Sys2Proof.Machine
end

