-- ==== Sys2Proof/Machine/Partition.lean ====
section
/-!
DEFINITION. The partition controller (04_partitions_and_budgets.md, R373, R437, R438): descriptors, creation, refills of budgets,
release and zeroing.
-/

namespace Sys2Proof.Machine

/-! ### Descriptors -/

/-- The functions of the part: 16 level-1 partitions and their 128 children (R91). -/
def nFuncs : Nat := 144
/-- The children of a level-1 partition. -/
def childrenOf (p : Nat) : List Nat := (List.range 8).map (16 + 8 * p + ·)

/-- A descriptor as it reads (R85); the read-only counters as zero where `counters` is clear (R104). -/
def Part.descriptor (p : Part) (counters : Bool) : BitVec 1024 :=
  let c := fun (x : Nat) => if counters then x else 0
  let m := p.mask.toNat
  BitVec.ofNat 1024 (p.parent * 2 ^ 276 + p.clusters.toNat * 2 ^ 280 + p.level * 2 ^ 296 + p.nextW % 2 ^ 8 * 2 ^ 300
    + p.nextF % 2 ^ 20 * 2 ^ 308 + p.nextM % 2 ^ 24 * 2 ^ 328 + p.nextT % 2 ^ 32 * 2 ^ 352 + p.state * 2 ^ 384
    + c (p.fleft % 2 ^ 20) * 2 ^ 392 + c (p.mleft % 2 ^ 24) * 2 ^ 412 + c (p.fdebt % 2 ^ 20) * 2 ^ 436
    + c (p.mdebt % 2 ^ 24) * 2 ^ 456 + c (p.tused % 2 ^ 32) * 2 ^ 480 + m % 2 ^ 256 * 2 ^ 512 + m / 2 ^ 256 * 2 ^ 768)

/-- The RW fields of a written descriptor over a partition (R85). -/
def Part.withFields (p : Part) (d : Nat) : Part :=
  { p with
    parent := bitsAt d 276 4, clusters := BitVec.ofNat 16 (bitsAt d 280 16), level := bitsAt d 296 1
    nextW := bitsAt d 300 8, nextF := bitsAt d 308 20, nextM := bitsAt d 328 24, nextT := bitsAt d 352 32
    mask := BitVec.ofNat 512 (bitsAt d 512 512) }

/-- Whether the reserved bits of a written descriptor are zero (R85, R86). -/
def descReserved (d : Nat) : Bool :=
  decide (bitsAt d 0 276 = 0) && decide (bitsAt d 297 3 = 0) && decide (bitsAt d 388 4 = 0)

/-- The budgets and the weight of a descriptor, for the sums of R86. -/
def Part.sums (p : Part) : List Nat := [p.nextM, p.nextF, p.nextT, p.nextW]

/-- Whether siblings' budgets sum to no more than their parent's (R86). -/
def sumsOk (parent : Part) (kids : List Part) : Bool :=
  (List.range 4).all fun i => decide ((kids.map fun k => k.sums.getD i 0).sum ≤ parent.sums.getD i 0)

/-- The created children of a level-1 partition, but for `f`. -/
def State.kids (s : State) (p f : Nat) : List Part :=
  ((childrenOf p).filter fun g => decide (g ≠ f) && decide ((s.part g).state ≠ 0)).map s.part

/-- The channels that are lost (R446), as bits of a descriptor's mask. -/
def State.lostMask (s : State) : BitVec 512 :=
  BitVec.ofNat 512 ((s.lostPairs.filter fun i => decide (i < 128)).eraseDups.map fun i => 3 * 2 ^ (256 + 2 * i)).sum

/-- Whether a level-1 partition's descriptor obeys R83 and R86: the level-2 fields zero, no cluster or channel of another
created partition, none that is not there (R2), and its children's budgets within its own. -/
def State.level1Ok (s : State) (f : Nat) (p : Part) : Bool :=
  decide (p.level = 0) && decide (p.parent = 0) && decide (p.mask.toNat % 2 ^ 256 = 0)
    && decide (p.clusters.toNat < 2 ^ s.clusterCount) && decide (p.mask &&& s.lostMask = 0)
    && ((List.range 16).all fun g =>
      decide (g = f) || decide ((s.part g).state = 0)
        || (decide ((s.part g).clusters &&& p.clusters = 0) && decide ((s.part g).mask &&& p.mask = 0)))
    && sumsOk p (s.kids f f)

/-- Whether a child's descriptor obeys R84 and R86: contexts of cores that are there (R2), inside its parent's clusters, none of a sibling's, and the
siblings' budgets within the parent's. -/
def State.level2Ok (s : State) (f : Nat) (p : Part) : Bool :=
  let q := parentOf f
  decide (p.level = 1) && decide (p.parent = q) && decide (p.clusters = 0)
    && ((List.range 512).all fun i => !p.mask.getLsbD i || ((s.part q).clusters.getLsbD (i / 32) && decide (i / 4 < s.coreCount)))
    && ((s.kids q f).all fun k => decide (k.mask &&& p.mask = 0))
    && sumsOk (s.part q) (p :: s.kids q f)

/-- Whether a descriptor may stand (R86). -/
def State.descOk (s : State) (f : Nat) (p : Part) : Bool := if f < 16 then s.level1Ok f p else s.level2Ok f p

/-- The arbiters of a partition's cores forget their counters and pointer (R154). -/
def State.clearArbiters (s : State) (p : Part) : State :=
  ((List.range nCores).filter fun n => (List.range 4).any fun j => p.ownsCtx (4 * n + j)).foldl
    (fun u n => u.setCore n { u.core n with dc := [], cur := none }) s

/-- DESCRIPTOR_WRITE: the firmware writes a descriptor; refused with status 1 where it breaks a rule, or changes a mask of a
partition that is not UNASSIGNED (R86), with status 2 during the trial of an update (R113). Budgets take effect at CREATE or at
the next refill. -/
def execDescriptorWrite (f : Nat) (d : BitVec 1024) (s : State) : Result :=
  if nFuncs ≤ f then .fault .noSuchUnit
  else if s.monitor.update = .trial then .next { s with fwStatus := 2 }
  else
    let p := s.part f
    let n := p.withFields d.toNat
    let same := decide (n.mask = p.mask) && decide (n.clusters = p.clusters) && decide (n.level = p.level)
      && decide (n.parent = p.parent)
    if !descReserved d.toNat || !s.descOk f n || (decide (p.state ≠ 0) && !same) then .next { s with fwStatus := 1 }
    else .next { (s.setPart f n).clearArbiters n with fwStatus := 0 }

/-- A cluster that is assigned runs (R440). -/
def State.powerUp (s : State) (p : Part) : State :=
  p.clusterList.foldl (fun u c =>
    u.setCluster c { u.cluster c with state := 0, idle := 0, wakeAt := 0 }) s

/-- CREATE: the descriptor is checked again, and the partition becomes READY with its budgets in effect (R86, R87, R92); before a start that
has passed, no function comes to be (R445). (DEDUCED, log entry 43.) -/
def execCreate (f : Nat) (s : State) : Result :=
  if nFuncs ≤ f then .fault .noSuchUnit
  else if s.monitor.started = false then .next s
  else if s.monitor.update = .trial then .next { s with fwStatus := 2 }
  else
    let p := s.part f
    if p.state ≠ 0 ∨ s.descOk f p = false ∨ (16 ≤ f ∧ (s.part (parentOf f)).state ≠ 1) then .next { s with fwStatus := 1 }
    else
      let n := { p with
        state := 1, mtok := p.nextM, ftok := p.nextF, tbudget := p.nextT, weight := p.nextW, mleft := p.nextM
        fleft := p.nextF, tused := 0, mdebt := 0, fdebt := 0, mcarry := 0, fcarry := 0, mwant := [], fwant := []
        mwait := none, fwait := none, destroy := false }
      .next { (s.setPart f n).powerUp n with fwStatus := 0 }

/-- WHEEL_MASK_WRITE: accepted while UNASSIGNED and disjoint from every other mask (R373); refused with status 2 during the trial of an
update (R113). -/
def execWheelMaskWrite (p : Nat) (mask : BitVec 256) (s : State) : Result :=
  if 16 ≤ p then .fault .noSuchUnit
  else if s.monitor.update = .trial then .next { s with fwStatus := 2 }
  else
    let ok := decide ((s.part p).state = 0)
      && (List.range 16).all fun g => decide (g = p) || decide ((s.part g).wheel &&& mask = 0)
    if ok then .next { s.setPart p { s.part p with wheel := mask } with fwStatus := 0 } else .next { s with fwStatus := 1 }

/-! ### Refills -/

/-- What a refill withholds for a debt (R87). -/
def withheld (budget debt : Nat) : Nat := min debt (budget / 4)

/-- A partition at a refill: budgets written since take effect, tokens are renewed, TUSED clears (R86, R87, R89); the debt that is left
bars it from borrowing until the next (R88). -/
def Part.refill (p : Part) : Part :=
  { p with
    mtok := p.nextM, ftok := p.nextF, tbudget := p.nextT, weight := p.nextW, tused := 0
    mleft := p.nextM - withheld p.nextM p.mdebt, mdebt := p.mdebt - withheld p.nextM p.mdebt
    mcarry := p.mdebt - withheld p.nextM p.mdebt
    fleft := p.nextF - withheld p.nextF p.fdebt, fdebt := p.fdebt - withheld p.nextF p.fdebt
    fcarry := p.fdebt - withheld p.nextF p.fdebt }

/-- Whether a refill is due: the cycle is a multiple of 32,000 and has had none (R87). -/
def State.refillDue (s : State) : Bool := decide (s.time % 32000 = 0) && decide (s.refilled ≠ s.time)

/-- TOKEN_REFILL: every created partition at once (R87). -/
def execTokenRefill (s : State) : Result :=
  if s.refillDue then
    .next { s with refilled := s.time
                   parts := s.parts.map fun p => if p.2.state = 0 then p else (p.1, p.2.refill) }
  else .next s

/-! ### Release -/

/-- Every launch slot assigned to a function has EN cleared (R92). -/
def State.disableSlots (s : State) (f : Nat) : State :=
  { s with slots := s.slots.map fun p =>
      if slotFunc (slotAt p.1) p.2 = f then (p.1, { p.2 with en := false }) else p }

/-- A partition enters RELEASING: its epoch moves on and its table of page requests is cleared (R92, R418). -/
def State.releasing (s : State) (f : Nat) (destroy : Bool) : State :=
  let p := s.part f
  if p.state ≠ 1 then s
  else
    { (s.setPart f { p with state := 2, destroy := destroy, epoch := (p.epoch + 1) % 8, zeroed := false }).disableSlots f with
      requests := s.requests.filter fun r => decide (r.1 ≠ f) }

/-- A release, with that of every child (R92). -/
def State.release (s : State) (f : Nat) (destroy : Bool) : State :=
  if f < 16 ∧ (s.part f).state = 1 then (childrenOf f).foldl (fun u g => u.releasing g true) (s.releasing f destroy)
  else s.releasing f destroy

/-- RELEASE_REQUEST: ignored unless READY (R92); refused with status 2 during the trial of an update (R113). -/
def execReleaseRequest (f : Nat) (destroy : Bool) (s : State) : Result :=
  if nFuncs ≤ f then .fault .noSuchUnit
  else if s.monitor.update = .trial then .next { s with fwStatus := 2 }
  else .next (s.release f destroy)

/-- FUNCTION_LEVEL_RESET: the host's reset of a function releases it, not to be destroyed (R92). -/
def execFunctionLevelReset (f : Nat) (s : State) : Result :=
  if nFuncs ≤ f then .fault .noSuchUnit else .next (s.release f false)

/-- The numbers of the tasks of a function, running, switched out or retired. -/
def State.tids (s : State) (f : Nat) : List Nat :=
  (s.ctxs.filterMap fun c => match c.2.task with | some t => if t.func = f then some t.tid else none | none => none)
    ++ (s.retire.filterMap fun r => if r.task.func = f then some r.task.tid else none)

/-- The contexts that hold a task of a function. -/
def State.idsOf (s : State) (f : Nat) : List Nat :=
  s.ctxs.filterMap fun c => match c.2.task with | some t => if t.func = f then some c.1 else none | none => none

/-- Whether every engine has acknowledged for a task (R93, R413): what must be performed has been. An atomic that has left has read its
word (R372); another one is dropped. -/
def State.stopped (s : State) (tid : Nat) : Bool :=
  !(s.loads.any fun l => decide (l.tid = tid)) && !(s.divs.any fun d => decide (d.tid = tid))
    && !(s.atoms.any fun a => decide (a.tid = tid) && a.got.isSome)
    && !(s.writes.any fun w => decide (w.tid = tid) && decide (w.level < 3))
    && !(s.outs.any fun o => decide (o.op.tid = tid) && decide (o.stage = .sent)
          && o.legs.any fun l => l.here && (decide (l.state = .sent) || decide (l.state = .flag)))

/-- The tasks of a function are taken away without a record: what they left in the engines, their memberships, the array and their key releases
(R93). Their save areas stay for the pass to zero (R94, R437). -/
def State.dropTasks (s : State) (f : Nat) : State :=
  let gone := s.tids f
  let ids := s.idsOf f
  let keep := fun (tid : Nat) => !gone.contains tid
  let s0 := s.setPart f { s.part f with areas := (s.part f).areas ++ ids.flatMap fun id => (s.ctx id).area.map fun a => (a, 4096) }
  let s1 := ids.foldl (fun u id => (u.leaveArray id 0 false).unrelease id) s0
  { s1 with
    ctxs := s1.ctxs.map fun c => (c.1, if ids.contains c.1 then { c.2.clear with area := [] } else c.2)
    retire := s1.retire.filter fun r => keep r.task.tid
    loads := s1.loads.filter fun l => keep l.tid
    divs := s1.divs.filter fun d => keep d.tid
    atoms := s1.atoms.filter fun a => keep a.tid
    copies := s1.copies.filter fun c => keep c.tid
    outs := s1.outs.filter fun o => keep o.op.tid
    rejects := s1.rejects.filter fun r => keep r.tid
    cores := s1.cores.map fun c => (c.1, { c.2 with queue := c.2.queue.filter fun e => keep e.tid })
    groups := (s1.groups.map fun g => (g.1, { g.2 with members := g.2.members.filter fun m => keep m.2 })).filter fun g =>
      !g.2.members.isEmpty || g.2.draining }

/-- The walks of a function, and those with a launch into it, end without updating their slots; its leases end (R93). -/
def State.dropWalks (s : State) (f : Nat) : State :=
  let hit := fun (l : Launch) => decide (l.func = f) || decide (l.tenantFunc = f)
  let keys := (s.launches.filter fun p => hit p.2).map (·.2.walk)
  { s with
    pool := s.pool ++ (s.launches.filter fun p => hit p.2 || keys.contains p.2.walk).flatMap fun p =>
      p.2.reserve.map fun (r : Nat × Nat) => (p.2.l1, r.1, r.2)
    walks := s.walks.filter fun w => !decide (w.2.func = f) && !keys.contains w.1
    launches := s.launches.filter fun p => !hit p.2 && !keys.contains p.2.walk }

/-- Whole pages that hold some bytes. -/
def pageUp (n : Nat) : Nat := (n + 4095) / 4096 * 4096

/-- The memory of a function's loaded instances that its tables do not map: the line maps of translated code (R15, R27). -/
def State.lineMaps (s : State) (f : Nat) : List (Nat × Nat) :=
  (s.insts.filter fun i => decide (i.2.func = f)).flatMap fun i => i.2.lineMap.1.map fun a => (a, 4096)

/-- What a function owns in memory, as (first address, size): its SPACE 0 pages that have a frame, discarded or not, its save areas, and the
line maps of its instances (R15, R94, R416). -/
def State.ownedPages (s : State) (f : Nat) : List (Nat × Nat) :=
  ((s.leaves f 0).filter fun l => l.2.framed).map (fun l => (l.2.flat 0 l.1, l.2.size)) ++ (s.part f).areas ++ s.lineMaps f

/-- The tokens that the zeroing pass of a level-2 partition takes (R437). -/
def State.passTokens (s : State) (f : Nat) : Nat := if f < 16 then 0 else ((s.ownedPages f).map fun p => p.2 / 64).sum

/-- RELEASE_QUIESCED: the last engine acknowledges, and the partition passes to ZEROING (R92, R93). -/
def execReleaseQuiesced (f : Nat) (s : State) : Result :=
  if nFuncs ≤ f then .fault .noSuchUnit
  else if (s.part f).state ≠ 2 ∨ (s.tids f).all s.stopped = false then .next s
  else
    let s1 := (s.dropTasks f).dropWalks f
    .next (s1.setPart f { s1.part f with state := 3, zeroLeft := s1.passTokens f, resident := none })

/-! ### Zeroing -/

/-- The cores of a level-1 partition or of a core-granular child; a context-granular child has none to itself (R84, R94). -/
def Part.wholeCores (p : Part) : List Nat :=
  let cores := (List.range nCores).filter fun n => (List.range 4).any fun j => p.ownsCtx (4 * n + j)
  if cores.all fun n => (List.range 4).all fun j => p.ownsCtx (4 * n + j) then cores else []

/-- The buffers, tiles, array and TLB entries of a core zeroed (R94). -/
def State.zeroCore (s : State) (n : Nat) : State :=
  let s1 := ((s.zeroRange (flatA n) 0x300000).zeroRange (flatW n) 0x200000).zeroRange (flatC n) 0x200000
  s1.setCore n { (s1.core n).zeroArray with hdr := [], mode := [], undo := [], tlb := [], clean := [] }

/-- The header of the tile that a granule lies in, at its reset values (R94, R309); other granules have none. -/
def State.zeroHeader (s : State) (g : Nat) : State :=
  let n := (g * 4096 - 2 ^ 63) / 2 ^ 24
  let o := (g * 4096 - 2 ^ 63) % 2 ^ 24
  if o < 2 ^ 23 then s
  else
    let k := s.core n
    s.setCore n { k with hdr := Table.del k.hdr ((o - 2 ^ 23) / 2 ^ 18), mode := Table.del k.mode ((o - 2 ^ 23) / 2 ^ 18) }

/-- The granules that carry a function's tag zeroed, with the headers of their tiles (R94, R201). -/
def State.zeroGranules (s : State) (f : Nat) : State :=
  (s.owners.filter fun g => decide (g.2 = f + 1)).foldl (fun u g => (u.zeroRange (g.1 * 4096) 4096).zeroHeader g.1) s

/-- A key slot zeroised (R98): both keys go, GEN stays. -/
def KeySlot.zeroise (k : KeySlot) : KeySlot := { gen := k.gen }

/-- The monitor zeroises the key slots of a function: its memory slot and the sealed slots it owns (R94). -/
def State.zeroKeys (s : State) (f : Nat) : State :=
  { s with keys := s.keys.map fun k => if k.1 = 1 + f ∨ k.2.owner = f then (k.1, k.2.zeroise) else k }

/-- What the pass covers for one function (R94, R438): its pages, save areas and line maps, contexts, cores or granules, keys, instances and launch
slots, which stay assigned as they are (R91); for a level-1 partition its L2 and spare pools. What it has zeroed stays the function's (R95). -/
def State.zeroFunc (s : State) (f : Nat) : State :=
  let p := s.part f
  let s1 := (s.ownedPages f).foldl (fun u a => u.wipe a.1 a.2) (s.setPart f { p with areas := p.areas ++ s.lineMaps f })
  let s2 := { s1 with ctxs := s1.ctxs.filter fun c => !p.ownsCtx c.1 }
  let s3 := (p.wholeCores.foldl (fun u n => u.zeroCore n) s2).zeroGranules f
  let s4 := if f < 16 then
    p.clusterList.foldl (fun u c => ((u.zeroRange (flatL2 c) 0x1000000).zeroTags (flatL2 c) 0x1000000).zeroRange
      (flatSpare c) 0x100000) s3
    else s3
  let keep := fun (e : Nat × Nat × Nat × Nat) => decide (e.1 ≠ f)
  State.zeroKeys { s4 with
    clusters := s4.clusters.map fun (c : Nat × Cluster) => (c.1, { c.2 with tlb := c.2.tlb.filter keep, clean := c.2.clean.filter keep })
    cores := s4.cores.map fun (c : Nat × Core) => (c.1, { c.2 with tlb := c.2.tlb.filter keep, clean := c.2.clean.filter keep })
    insts := s4.insts.filter fun i => decide (i.2.func ≠ f)
    slots := s4.slots.map fun x => if slotFunc (slotAt x.1) x.2 = f then (x.1, { func := x.2.func }) else x } f

/-- READY or UNASSIGNED is reached: what the pass has covered can be granted again (R95). The frames of a function go back, with those that its
leases had reserved, its leaves and tables go, and so do its owner tags and those of its cores (R201). -/
def State.dropPages (s : State) (f : Nat) : State :=
  let p := s.part f
  let pooled := if f < 16 then s.pool.filter fun x => decide (x.1 = f) else []
  let s1 := (s.ownedPages f ++ pooled.map (·.2)).foldl (fun u a => u.giveBack a.1 a.2) (s.setPart f { p with areas := [] })
  let s2 := ((s.leaves f 0 ++ s.leaves f 1).foldl (fun u l => u.clearLeaf l.2) s1).pruneTables f
  let mine := fun (g : Nat) => p.wholeCores.any fun n => decide (flatA n / 4096 ≤ g) && decide (g < flatA n / 4096 + 2 ^ 12)
  { s2 with pool := s2.pool.filter fun x => !pooled.contains x
            owners := s2.owners.filter fun g => decide (g.2 ≠ f + 1) && !mine g.1 }

/-- Clusters that no partition owns lose power (R440). -/
def State.powerDown (s : State) (p : Part) : State :=
  p.clusterList.foldl (fun u c => u.setCluster c { u.cluster c with state := 2, router := [] }) s

/-- The pass takes the tokens that are there (R94, R437): its own and its parent's, never borrowed; while it waits for more, the partition
is not idle. -/
def State.passTake (s : State) (f : Nat) : State :=
  let p := s.part f
  let q := s.part p.parent
  let n := min p.zeroLeft (min p.mleft q.mleft)
  (s.setPart f { p with zeroLeft := p.zeroLeft - n, mleft := p.mleft - n, mwait := if n = p.zeroLeft then p.mwait else some s.time }).setPart
    p.parent { q with mleft := q.mleft - n }

/-- The end of a pass (R92, R438): a destroyed function is UNASSIGNED, and what was its can be granted again (R95); another waits for its memory
key. Children end with their parent. -/
def State.endPass (s : State) (f : Nat) : State :=
  let p := s.part f
  if p.destroy then
    let s1 := State.dropPages (s.setPart f { p with state := 0, destroy := false, zeroed := false }) f
    if f < 16 then s1.powerDown p else s1
  else s.setPart f { p with zeroed := true }

/-- ZEROING_COMPLETE: the pass goes on as its tokens allow; once it has covered everything, the partition is zeroed (R92, R94,
R437, R438). A child released with its parent ends when the parent's pass ends. (DEDUCED, log entry 43.) -/
def execZeroingComplete (f : Nat) (s : State) : Result :=
  if nFuncs ≤ f then .fault .noSuchUnit
  else
    let p := s.part f
    if p.state ≠ 3 ∨ p.zeroed = true then .next s
    else if 0 < p.zeroLeft then .next (s.passTake f)
    else if 16 ≤ f ∧ p.destroy = true ∧ (s.part (parentOf f)).state ≠ 1 then .next s
    else
      let kids := if f < 16 then (childrenOf f).filter fun g => decide ((s.part g).state ≠ 0) else []
      if kids.all (fun g => decide ((s.part g).state = 3)) then
        .next (kids.foldl (fun u g =>
          let v := u.zeroFunc g
          (v.setPart g { v.part g with destroy := true }).endPass g) ((s.zeroFunc f).endPass f))
      else .next s

end Sys2Proof.Machine
end

