-- ==== Sys2Proof/Machine/Sha.lean ====
section
/-!
DEFINITION. SHA-256 (R19, R25, R105, R111), whose definition the manual leaves to its public standard (PRESUMED, log entry 8). The
standard's constants are computed here from the primes they come from. Digests are byte lists in output order.
-/

namespace Sys2Proof.Machine.Sha

/-- The first 64 primes: the numbers up to 311 that no smaller prime up to 17 divides. -/
def primes : List Nat :=
  (List.range 312).filter fun n => decide (2 ≤ n) && [2, 3, 5, 7, 11, 13, 17].all fun q => decide (n = q) || decide (n % q ≠ 0)

/-- The `k`-th root of `n`, rounded down, above a partial root `r` with `b` bits to come. -/
def root (k n : Nat) : Nat → Nat → Nat
  | 0, r => r
  | b + 1, r => root k n b (if (r + 2 ^ b) ^ k ≤ n then r + 2 ^ b else r)

/-- The first 32 bits of the fractional part of the `k`-th root of a number below 2^16. -/
def fraction (k n : Nat) : BitVec 32 := BitVec.ofNat 32 (root k (n * 2 ^ (32 * k)) 40 0)

/-- The round constants: cube roots of primes. -/
def rounds : List (BitVec 32) := primes.map (fraction 3)

/-- The initial chaining value: square roots of primes. -/
def start : List (BitVec 32) := (primes.take 8).map (fraction 2)

/-- Bytes as words, the first byte of each the highest. -/
def words : Nat → List Byte → List (BitVec 32)
  | 0, _ => []
  | n + 1, bs => BitVec.ofNat 32 (leNat (bs.take 4).reverse) :: words n (bs.drop 4)

/-- Words as bytes, the first byte of each the highest. -/
def unwords (ws : List (BitVec 32)) : List Byte := ws.flatMap fun w => (leBytes 4 w.toNat).reverse

/-- A word turned right by each of some amounts, the results added without carries. -/
def turns (w : BitVec 32) (ns : List Nat) : BitVec 32 := ns.foldl (fun x n => x ^^^ w.rotateRight n) 0

/-- The message schedule from its latest word back, with `n` words still to come. -/
def schedule : Nat → List (BitVec 32) → List (BitVec 32)
  | 0, ws => ws
  | n + 1, ws =>
    let back := fun i => ws.getD (i - 1) 0
    schedule n ((back 16 + back 7 + (turns (back 15) [7, 18] ^^^ back 15 >>> 3) + (turns (back 2) [17, 19] ^^^ back 2 >>> 10)) :: ws)

/-- One round over the eight working words, with a constant and a word of the schedule added. -/
def round (v : List (BitVec 32)) (x : BitVec 32) : List (BitVec 32) :=
  match v with
  | [a, b, c, d, e, f, g, h] =>
    let t := x + h + turns e [6, 11, 25] + (g ^^^ e &&& (f ^^^ g))
    [t + turns a [2, 13, 22] + (a &&& b ||| c &&& (a ||| b)), a, b, c, d + t, e, f, g]
  | _ => v

/-- A block of 64 bytes goes into the chaining value. -/
def absorb (v : List (BitVec 32)) (blk : List Byte) : List (BitVec 32) :=
  let xs := List.zipWith (· + ·) rounds (schedule 48 (words 16 blk).reverse).reverse
  List.zipWith (· + ·) v (xs.foldl round v)

/-- The blocks of a padded message, one after another. -/
def absorbAll : Nat → List (BitVec 32) → List Byte → List (BitVec 32)
  | 0, v, _ => v
  | n + 1, v, bs => absorbAll n (absorb v (bs.take 64)) (bs.drop 64)

/-- A message with its padding: a one bit, zeros, and its length in bits as the last 8 bytes of a block. -/
def pad (m : List Byte) : List Byte :=
  m ++ 0x80#8 :: List.replicate ((119 - m.length % 64) % 64) 0 ++ (leBytes 8 (8 * m.length)).reverse

/-- The digest of a message. -/
def hash (m : List Byte) : List Byte := unwords (absorbAll ((pad m).length / 64) start (pad m))

end Sys2Proof.Machine.Sha
end

