-- ==== Sys2Proof/Machine/Security.lean ====
section
/-!
DEFINITION. The security monitor (05_trust_and_firmware.md): key slots and their rotation, firmware updates, attestation, sealed
tensors, and the re-encrypting move.
-/

namespace Sys2Proof.Machine

/-! ### Key slots -/

/-- A key slot. -/
def State.keySlot (s : State) (n : Nat) : KeySlot := Table.get {} s.keys n
/-- Replace a key slot. -/
def State.setKeySlot (s : State) (n : Nat) (k : KeySlot) : State := { s with keys := Table.set s.keys n k }

/-- KIND of a slot: 0 public, 1 memory, 2 sealed (R99, R100). -/
def slotKind (n : Nat) : Nat := if n = 0 then 0 else if n ≤ 144 then 1 else 2

/-- The record of slot `n` (R99). -/
def KeySlot.record (k : KeySlot) (n : Nat) : BitVec 512 :=
  BitVec.ofNat 512 (k.state % 16 + slotKind n * 2 ^ 8 + k.gen % 256 * 2 ^ 16 + k.owner % 256 * 2 ^ 32
    + k.prange % 16 * 2 ^ 108 + k.pline % 2 ^ 48 * 2 ^ 112 + k.olines % 2 ^ 48 * 2 ^ 160 + k.pdigest % 2 ^ 256 * 2 ^ 256)

/-- The status that the monitor returns for a command (R98). -/
def State.reply (s : State) (st : Nat) : State := { s with monitor := { s.monitor with status := st } }

/-- A fresh key from the generator (R100), as its number (DESIGN CHOICE, log entry 7). -/
def State.drawKey (s : State) : Nat × State :=
  (s.monitor.keys, { s with monitor := { s.monitor with keys := s.monitor.keys + 1 } })

/-- MKEY_CREATE: the monitor loads a fresh key into the memory slot of an existing function where it is EMPTY (R98–R100); a
zeroed partition then becomes READY, and what the pass has covered can be granted again (R95, R438), but for a child whose parent is being released, which ends with it (R92). -/
def execMkeyCreate (f : Nat) (s : State) : Result :=
  if nFuncs ≤ f then .fault .noSuchUnit
  else
    let k := s.keySlot (1 + f)
    if k.state ≠ 0 then .next (s.reply 1)
    else
      let d := s.drawKey
      let s1 := d.2.setKeySlot (1 + f) { k with cur := d.1, state := 1, owner := f, gen := (k.gen + 1) % 256 }
      let p := s1.part f
      let s2 := if p.state = 3 ∧ p.zeroed = true ∧ (f < 16 ∨ (s1.part (parentOf f)).state = 1) then
        State.dropPages (s1.setPart f { p with state := 1, zeroed := false }) f else s1
      .next (s2.reply 0)

/-- Whether SLOT_ZEROISE is refused (R100). -/
def State.zeroiseRefused (s : State) (slot : Nat) : Bool :=
  if slotKind slot = 0 then true
  else if slotKind slot = 1 then !decide ((s.part (slot - 1)).state = 2) && !decide ((s.part (slot - 1)).state = 3)
  else decide ((s.part (s.keySlot slot).owner).state = 1)

/-- SLOT_ZEROISE (R98, R100, R108). -/
def execSlotZeroise (slot : Nat) (s : State) : Result :=
  if 256 ≤ slot then .fault .noSuchUnit
  else if s.zeroiseRefused slot then .next (s.reply 1)
  else .next ((s.setKeySlot slot (s.keySlot slot).zeroise).reply 0)

/-! ### Rotation -/

/-- The first line of the first range from index `i` on that holds any. -/
def firstLine : List (Nat × Nat) → Nat → Option (Nat × Nat)
  | [], _ => none
  | (lo, n) :: rs, i => if n = 0 then firstLine rs (i + 1) else some (i, lo)

/-- The place after line `line` of range `i` in sweep order (R115). -/
def nextLine (rs : List (Nat × Nat)) (i line : Nat) : Option (Nat × Nat) :=
  match rs[i]? with
  | none => none
  | some (lo, n) => if line + 1 < lo + n then some (i, line + 1) else firstLine (rs.drop (i + 1)) (i + 1)

/-- ROTATE: a sweep of an ACTIVE slot starts over 1 to 16 ranges of lines (R98, R115). (DEDUCED, log entry 44.) -/
def execRotate (slot : Nat) (ranges : List (Nat × Nat)) (s : State) : Result :=
  if 256 ≤ slot then .fault .noSuchUnit
  else
    let k := s.keySlot slot
    if k.state = 2 then .next (s.reply 4)
    else if k.state ≠ 1 ∨ ranges = [] ∨ 16 < ranges.length ∨ (slotKind slot = 2 ∧ k.nxt = 0) then .next (s.reply 1)
    else
      let d := if slotKind slot = 2 then (k.nxt, s) else s.drawKey
      let at0 := (firstLine ranges 0).getD (0, 0)
      .next ((d.2.setKeySlot slot { k with nxt := d.1, state := 2, sweep := ranges, prange := at0.1, pline := at0.2 }).reply 0)

/-- The sweep ends (R116): NEXT becomes CUR, GEN advances, the slot is ACTIVE. -/
def KeySlot.endSweep (k : KeySlot) : KeySlot :=
  { k with cur := k.nxt, nxt := 0, gen := (k.gen + 1) % 256, state := 1, sweep := [], prange := 0, pline := 0, paid := 0 }

/-- The copies in L2 of a sealed line of a slot (R115, R205). -/
def State.copiesOf (s : State) (slot tweak : Nat) : List Nat :=
  (s.lines.filter fun p => decide (p.2 = .raw slot tweak) && inL2 (p.1 * 128)).map (·.1)

/-- Copies of a sealed line that have come to L2 but not to memory come there (R115, R360). -/
def State.settleCopies (s : State) (slot tweak : Nat) : State :=
  s.forceOut 3 ((s.writes.filter fun w => decide (w.key = rawKey slot tweak)).flatMap fun w => (w.cells.map (·.1)).filter inL2)

/-- Re-encrypt one line of a rotating slot under NEXT (R115): a sealed line keeps its tweak, is read from a copy in L2 where there is one, and
every such copy is written too. A copy whose other half has still to come is none to read from, and the half that is there is written. -/
def State.reencrypt (s : State) (slot line : Nat) : State :=
  let k := s.keySlot slot
  match Table.find s.lines line with
  | none => s
  | some (.raw r t) =>
    let s := if r = slot then s.settleCopies slot t else s
    let copies := if r = slot then s.copiesOf slot t else []
    let src := (copies.filter fun l => !s.halves.any fun h => decide (h / 2 = l)).headD line
    let tweak := if r = slot then t else line
    let cells := fun (dst : Nat) => (List.range 8).flatMap fun i =>
      let old := Config.xtsDec (s.keyFor slot line) tweak i (memBlock s.mem (src * 128 + 16 * i))
      if s.halves.contains (halfMate (2 * dst + i / 4)) then []
      else (List.range 16).map fun j => (dst * 128 + 16 * i + j, blockByte (Config.xtsEnc k.nxt tweak i old) j)
    { s with mem := s.mem.writeCells ((line :: copies).flatMap cells) }
  | some (.key _ _) =>
    { s with mem := s.mem.writeCells ((List.range 128).map fun i =>
               (line * 128 + i, s.peekKey (s.keyFor slot line) (line * 128 + i)))
             lines := Table.set s.lines line (.key k.nxt line) }

/-- ROTATION_SWEEP_LINE: the sweep takes its tokens, re-encrypts the line at its pointer in one step and goes on; after the last
line the rotation ends (R115, R116). A release of the owner stops it. -/
def execRotationSweepLine (slot : Nat) (s : State) : Result :=
  if 256 ≤ slot then .fault .noSuchUnit
  else
    let k := s.keySlot slot
    if k.state ≠ 2 ∨ (k.owner ≠ 255 ∧ (s.part k.owner).state ≠ 1) then .next s
    else
      match firstLine k.sweep 0 with
      | none => .next (s.setKeySlot slot k.endSweep)
      | some _ =>
        let locs := if k.owner = 255 then [] else (List.range 128).map (k.pline * 128 + ·)
        let need := 2 * hbmTokens locs - k.paid
        let r := s.takeUpTo k.owner .memory need
        if r.1 < need then
          .next ((r.2.setKeySlot slot { k with paid := k.paid + r.1 }).tokenWait (requestNo 4 slot) k.owner .memory (need - r.1))
        else
          let s2 := (r.2.waitOver (requestNo 4 slot) k.owner).reencrypt slot k.pline
          match nextLine k.sweep k.prange k.pline with
          | some p => .next (s2.setKeySlot slot { k with prange := p.1, pline := p.2, paid := 0 })
          | none => .next (s2.setKeySlot slot k.endSweep)

/-- The slot that holds a key number. -/
def slotOfKey (k : Nat) : Table KeySlot → Option Nat
  | [] => none
  | (n, x) :: xs => if x.state ≠ 0 ∧ (x.cur = k ∨ x.nxt = k) then some n else slotOfKey k xs

/-- The tag cells of a line go with it (R207, R241). -/
def State.moveTags (s : State) (src dst : Nat) : Memory :=
  s.mem.writeCells ((List.range 8).map fun i =>
    (tagCell (dst * 128 + 16 * i), s.mem.read (tagCell (src * 128 + 16 * i))))

/-- RE_ENCRYPTING_MOVE: a line goes to a new physical line under the same slot with the new tweak; sealed ciphertext moves
unchanged (R101). Where the firmware moves ciphertext as it stands, a plain line keeps the tweak of its old place (R97; DESIGN
CHOICE, log entry 52). -/
def execReEncryptingMove (src : Nat) (dst : MoveTo) (s : State) : Result :=
  let s0 := { s with mem := s.moveTags src dst.line }
  let put : (Nat → Byte) → Option LineTag → Result := fun g t =>
    .next { s0 with
      mem := s0.mem.writeCells ((List.range 128).map fun i => (dst.line * 128 + i, g (src * 128 + i)))
      lines := match t with | some x => Table.set s0.lines dst.line x | none => Table.del s0.lines dst.line }
  if 2 ^ 32 ≤ src ∨ 2 ^ 32 ≤ dst.line then .next { s with fwStatus := 0x22 }
  else
  match Table.find s.lines src with
  | none => put s.mem.read none
  | some (.raw r t) => put s.mem.read (some (.raw r t))
  | some (.key k t) =>
    if dst.unchanged then put s.mem.read (some (.key k t))
    else
    let k1 := match slotOfKey k s.keys with | some n => s.keyFor n dst.line | none => k
    put (s.peekKey k) (some (.key k1 dst.line))

/-! ### Firmware images and update -/

/-- Bits [lo + n − 1 : lo] of a byte string read as a little-endian number; `lo` and `n` are multiples of 8. -/
def bytesAt (bs : List Byte) (lo n : Nat) : Nat := leNat ((bs.drop (lo / 8)).take (n / 8))

/-- The security version of a firmware image (R111). -/
def svn (img : List Byte) : Nat := bytesAt img 32 8

/-- Whether a firmware image passes the first three checks of R112. -/
def fwSigned (img : List Byte) : Bool :=
  decide (512 ≤ img.length) && decide (bytesAt img 0 32 = 0x57465856) && decide (bytesAt img 40 88 = 0)
    && decide (bytesAt img 256 512 = 0) && Config.signatureOk (img.take 128) ((img.drop 128).take 384)
    && decide ((img.drop 512).length = bytesAt img 192 64) && decide ((img.drop 96).take 32 = Sha.hash (img.drop 512))

/-- Whether an image passes every check of R112. -/
def State.fwOk (s : State) (img : List Byte) : Bool := fwSigned img && decide (s.monitor.fuses ≤ svn img)

/-- The image in a firmware slot. -/
def Monitor.image (m : Monitor) (n : Nat) : List Byte := if n = 0 then m.slot0 else m.slot1
/-- The other slot. -/
def otherSlot (n : Nat) : Nat := if n = 0 then 1 else 0

/-- UPDATE_STAGE: a verified image goes into the inactive slot (R112, R113): the one that is not the active slot, even where the running image
was started from it (DESIGN CHOICE, log entry 44). -/
def execUpdateStage (img : List (BitVec 8)) (s : State) : Result :=
  let m := s.monitor
  if m.update ≠ .idle then .next (s.reply 1)
  else if !fwSigned img then .next (s.reply 2)
  else if svn img < m.fuses then .next (s.reply 3)
  else
    let m1 := if m.active = 0 then { m with slot1 := img } else { m with slot0 := img }
    .next { s with monitor := { m1 with update := .staged, status := 0 } }

/-- UPDATE_SWITCH: the trial of the staged image, whose handover versions must include the running one's (R113); while an UPDATE_COMMIT blows
bits the monitor is busy (R98, R114), and an image whose security version has fallen below the fuses since it was staged does not run (R98, R111,
R114). -/
def execUpdateSwitch (handover : List (BitVec 8)) (version : Nat) (s : State) : Result :=
  let m := s.monitor
  let img := m.image (otherSlot m.active)
  if m.committing then .next (s.reply 4)
  else if m.update = .staged ∧ svn img < m.fuses then .next (s.reply 3)
  else if m.update ≠ .staged ∨ version < bytesAt img 144 16 ∨ bytesAt img 128 16 < version then .next (s.reply 1)
  else .next { s with monitor := { m with update := .trial, switchAt := s.time, handover := handover
                                          running := otherSlot m.active, code := img, status := 0 } }

/-- The length of a trial (R113). -/
def trialCycles : Nat := 200000000

/-- HEARTBEAT: within the trial it makes the new slot the active one; after its time, and in any other state, it returns status 1. Outside a trial
the wait for the next one begins (R113; DEDUCED, log entry 44). -/
def execHeartbeat (s : State) : Result :=
  let m := s.monitor
  if m.update = .trial ∧ s.time - m.switchAt ≤ trialCycles then
    .next { s with monitor := { m with update := .idle, active := m.running, switchAt := s.time, updateFailed := false, status := 0 } }
  else if m.update = .trial then .next (s.reply 1)
  else .next (State.reply { s with monitor := { m with switchAt := s.time } } 1)

/-- UPDATE_TRIAL_TIMEOUT: the trial ends without a HEARTBEAT, and the old slot runs again; outside a trial, as long without one is a missed
heartbeat, which is logged and causes no switch (R113; DEDUCED, log entry 44). -/
def execUpdateTrialTimeout (s : State) : Result :=
  let m := s.monitor
  if m.update = .trial ∧ trialCycles < s.time - m.switchAt then
    .next { s with monitor := { m with update := .idle, running := m.active, code := m.image m.active, updateFailed := true } }
  else if m.update ≠ .trial ∧ m.started = true ∧ trialCycles < s.time - m.switchAt then
    .next { s with monitor := { m with missed := m.missed + 1, switchAt := s.time } }
  else .next s

/-- The fuse count that UPDATE_COMMIT is to reach: the running image's SVN (R114). -/
def Monitor.target (m : Monitor) : Nat := min 64 (svn m.code)

/-- One fuse bit is blown; the command is done once the count is reached (R114). -/
def Monitor.blow (m : Monitor) : Monitor :=
  if m.target ≤ m.fuses + 1 then { m with fuses := max m.fuses m.target, committing := false, status := 0 }
  else { m with fuses := m.fuses + 1, committing := true }

/-- UPDATE_COMMIT: fuse bits are blown one at a time, the first at once and the others at one a cycle, until the count equals the running
image's SVN (R114); a second command meanwhile finds the monitor busy (R98). (DEDUCED, log entry 44.) -/
def execUpdateCommit (s : State) : Result :=
  let m := s.monitor
  if m.update = .trial then .next (s.reply 1)
  else if m.committing then .next (s.reply 4)
  else .next { s with monitor := m.blow }

/-- BOOTREC_CLEAR (R98, R445). -/
def execBootrecClear (mask : BitVec 64) (s : State) : Result :=
  let m := s.monitor
  if mask.getLsbD 0 || decide (256 ≤ mask.toNat) then .next (s.reply 1)
  else
    .next { s with monitor := { m with
      bootrec := (List.range 7).map fun i => if mask.getLsbD (i + 1) then 0 else m.bootrec.getD i 0
      status := 0 } }

/-! ### Attestation -/

/-- The responder of a function (R103). -/
def State.responder (s : State) (f : Nat) : Spdm := Table.get {} s.spdm f

/-- A responder answers. -/
def State.respond (s : State) (f : Nat) (r : Spdm) (bytes : List Byte) : State :=
  { s with spdm := Table.set s.spdm f { r with answer := bytes, error := 0 } }

/-- A responder answers with ERROR and changes nothing else (R103, R106). -/
def State.refuse (s : State) (f code : Nat) : State :=
  { s with spdm := Table.set s.spdm f { s.responder f with answer := [], error := code } }

/-- The ERROR codes of the standard that the responder uses (PRESUMED, log entry 11). -/
def errInvalid : Nat := 1
def errUnexpected : Nat := 4
def errUnsupported : Nat := 7
def errSessions : Nat := 10

/-- The version of the protocol that the responder implements: 1.3 (R103). -/
def spdmVersion : List Byte := leBytes 2 0x1300

/-- The algorithms that the responder selects (R103), each by its bit in the standard (PRESUMED, log entry 11): RSASSA-3072, SHA-256, P-384,
AES-256-GCM. -/
def spdmAlgorithms : List Byte := leBytes 4 0x4 ++ leBytes 4 0x1 ++ leBytes 2 0x10 ++ leBytes 2 0x2

/-- A response whose payload the standard gives (PRESUMED, log entry 11). -/
def State.payload (s : State) (f req : Nat) (r : Spdm) : State :=
  { s.respond f r (Config.spdmPayload req s.choice) with choice := s.choice + 1 }

/-- A request to the mailbox of a function that exists, once its negotiation has come to `stage`. -/
def spdm (f stage : Nat) (s : State) (go : Spdm → State) : Result :=
  if nFuncs ≤ f then .fault .noSuchUnit
  else if (s.part f).state = 0 then .next s
  else if (s.responder f).stage < stage then .next (s.refuse f errUnexpected)
  else .next (go (s.responder f))

/-- A request within a finished session. -/
def secured (f sess : Nat) (s : State) (go : Spdm → State) : Result :=
  spdm f 0 s fun r => if r.sessions.contains (sess, true) then go r else s.refuse f errInvalid

/-- GET_VERSION (R103). -/
def execGetVersion (f : Nat) (s : State) : Result := spdm f 0 s fun r => s.respond f { r with stage := 1 } spdmVersion
/-- GET_CAPABILITIES (R103). -/
def execGetCapabilities (f : Nat) (s : State) : Result := spdm f 1 s fun r => s.payload f 2 { r with stage := max 2 r.stage }
/-- NEGOTIATE_ALGORITHMS (R103). -/
def execNegotiateAlgorithms (f : Nat) (s : State) : Result := spdm f 2 s fun r => s.respond f { r with stage := 3 } spdmAlgorithms
/-- GET_DIGESTS: the digest of the one certificate chain, the same at every start (R102, R103). -/
def execGetDigests (f : Nat) (s : State) : Result :=
  spdm f 3 s fun r => s.respond f r (Sha.hash (Config.spdmPayload 5 0))
/-- GET_CERTIFICATE: the chain of slot 0; no other slot is populated (R102). -/
def execGetCertificate (f certSlot : Nat) (s : State) : Result :=
  spdm f 3 s fun r => if certSlot = 0 then s.respond f r (Config.spdmPayload 5 0) else s.refuse f errInvalid
/-- CHALLENGE: signed with the identity key (R102, R103). -/
def execChallenge (f : Nat) (s : State) : Result := spdm f 3 s fun r => s.payload f 6 r

/-- The images of a function in load order (R104). -/
def State.loaded (s : State) (f : Nat) : List Image := (s.insts.map (·.2)).filter fun i => decide (i.func = f)

/-- A measurement block of a function (R104): the fuse count as 8 little-endian bytes (DESIGN CHOICE, log entry 11). -/
def State.measurement (s : State) (f index : Nat) : Option (List Byte) :=
  match index with
  | 1 => some (leBytes 32 Config.romMeasurement.toNat)
  | 2 => some (Sha.hash s.monitor.code)
  | 3 => some (leBytes 8 s.monitor.fuses)
  | 4 => some (leBytes 128 ((s.part f).descriptor false).toNat)
  | i => if 16 ≤ i ∧ i < 80 then ((s.loaded f)[i - 16]?).map (·.digest) else none

/-- GET_MEASUREMENTS: the blocks of the requesting function, and of no other (R104). -/
def execGetMeasurements (f index : Nat) (s : State) : Result :=
  spdm f 3 s fun r =>
    match s.measurement f index with
    | some bs => s.respond f r bs
    | none => s.refuse f errInvalid

/-- KEY_EXCHANGE: a new session, of at most 4 (R103). -/
def execKeyExchange (f : Nat) (s : State) : Result :=
  spdm f 3 s fun r =>
    if 4 ≤ r.sessions.length then s.refuse f errSessions
    else { s.payload f 8 { r with sessions := r.sessions ++ [(s.fresh, false)] } with fresh := s.fresh + 1 }
/-- FINISH: a session is finished (R103). -/
def execFinish (f sess : Nat) (s : State) : Result :=
  spdm f 3 s fun r =>
    if r.sessions.contains (sess, false) then
      s.payload f 9 { r with sessions := r.sessions.map fun x => if x.1 = sess then (sess, true) else x }
    else s.refuse f errInvalid
/-- SPDM HEARTBEAT on a session (R103). -/
def execSpdmHeartbeat (f sess : Nat) (s : State) : Result := secured f sess s fun r => s.payload f 10 r
/-- KEY_UPDATE on a session (R103). -/
def execKeyUpdate (f sess : Nat) (s : State) : Result := secured f sess s fun r => s.payload f 11 r
/-- END_SESSION (R103). -/
def execEndSession (f sess : Nat) (s : State) : Result :=
  secured f sess s fun r => s.payload f 12 { r with sessions := r.sessions.filter fun x => decide (x.1 ≠ sess) }
/-- CHUNK_GET: the next chunk of a large response (R103). -/
def execChunkGet (f : Nat) (s : State) : Result := spdm f 3 s fun r => s.payload f 13 r
/-- A request that is not supported: ERROR, UnsupportedRequest (R103). -/
def execSpdmUnsupportedRequest (f : Nat) (s : State) : Result := spdm f 0 s fun _ => s.refuse f errUnsupported

/-! ### Sealed tensors -/

/-- The number that stands for a key that its owner gives (DESIGN CHOICE, log entry 7). -/
def givenKey (key : BitVec 512) : Nat := 2 ^ 512 + key.toNat

/-- SEAL_PROVISION: CUR of a sealed slot that is EMPTY or ACTIVE and the function's, or NEXT of an ACTIVE one (R106). -/
def execSealProvision (f sess slot : Nat) (olines : BitVec 48) (key : BitVec 512) (pdigest : BitVec 256) (rot : Bool)
    (s : State) : Result :=
  secured f sess s fun r =>
    let k := s.keySlot slot
    let mine := decide (k.state = 1) && decide (k.owner = f)
    if slotKind slot ≠ 2 ∨ 256 ≤ slot then s.refuse f errInvalid
    else if rot then
      if mine then (s.setKeySlot slot { k with nxt := givenKey key }).payload f 14 r else s.refuse f errInvalid
    else if decide (k.state = 0) || mine then
      (s.setKeySlot slot { k with cur := givenKey key, owner := f, state := 1, gen := (k.gen + 1) % 256
                                  olines := olines.toNat, pdigest := pdigest.toNat }).payload f 14 r
    else s.refuse f errInvalid

/-- SEAL_REVOKE empties a sealed slot that the function owns (R106, R108). -/
def execSealRevoke (f sess slot : Nat) (s : State) : Result :=
  secured f sess s fun r =>
    let k := s.keySlot slot
    if slotKind slot = 2 ∧ slot < 256 ∧ k.state ≠ 0 ∧ k.owner = f then (s.setKeySlot slot k.zeroise).payload f 14 r
    else s.refuse f errInvalid

/-- SEALED_SLOT_TRANSFER: a sealed slot goes from one package's monitor to another's (R110). As the source, this one sends the key where the
destination's measurements allow it; the release mask is empty meanwhile. As the destination (`load`), it loads into an
EMPTY slot what a source with those measurements sends, where its own allow it, as a provision does (R106; DEDUCED, log entry 44). -/
def execSealedSlotTransfer (slot : Nat) (peer : Measured) (load : Option SealedKey) (s : State) : Result :=
  let k := s.keySlot slot
  if 256 ≤ slot then .fault .noSuchUnit
  else
  match load with
  | some x =>
    if slotKind slot = 2 ∧ k.state = 0 ∧ peer.block1 = Config.romMeasurement ∧ peer.block3 ≤ s.monitor.fuses ∧ x.owner < nFuncs then
      .next (s.setKeySlot slot { k with cur := givenKey x.key, owner := x.owner, state := 1, gen := (k.gen + 1) % 256
                                        olines := x.olines.toNat, pdigest := x.pdigest.toNat })
    else .next s
  | none =>
  if slotKind slot = 2 ∧ k.state = 1 ∧ k.release = [] ∧ peer.block1 = Config.romMeasurement ∧ s.monitor.fuses ≤ peer.block3 then
    .next (s.setKeySlot slot { k with moving := true })
  else .next s

/-- SLOT_TRANSFER_CONFIRM: the destination has loaded the key, and the source slot is zeroised (R110). -/
def execSlotTransferConfirm (slot : Nat) (s : State) : Result :=
  if 256 ≤ slot then .fault .noSuchUnit
  else if (s.keySlot slot).moving then .next (s.setKeySlot slot (s.keySlot slot).zeroise) else .next s

end Sys2Proof.Machine
end

