-- ==== Sys2Proof/Machine/HostLink.lean ====
section
/-!
DEFINITION. The host link (R91, R352–R354, R418, R439): the host's posted writes and reads, and the answers to page requests.
-/

namespace Sys2Proof.Machine

/-- Whether the memory window of a function is open to the host: it is closed before a start that has passed, and while the function is
absent, RELEASING or ZEROING (R91, R439, R445). -/
def State.windowOpen (s : State) (f : Nat) : Bool := s.monitor.started && decide ((s.part f).state = 1)

/-- Whether an atomic locks a word of a range of locations (R372). -/
def State.lockedIn (s : State) (lo n : Nat) : Bool :=
  s.atoms.any fun a => match a.got with
    | some g => g.2.any fun w => decide (8 * w < lo + n) && decide (lo < 8 * w + 8)
    | none => false

/-- Whether an access of the host link or of the firmware to a region meets a word that an atomic locks: it waits then (State.mustWait; R372). -/
def State.regionLocked (s : State) (f region addr n : Nat) : Bool :=
  match region with
  | 0 => s.spinLocked f [(addr, n, false)]
  | 1 => s.lockedIn (flatHost + addr) n
  | 11 => s.lockedIn addr n
  | _ => false

/-- HOST_WRITE: a posted write of the host, in the order sent (R354): to the device memory of a function (region 0), dropped
while its window is closed (R439), or to host memory (region 1). While an atomic locks a word of it, it is not taken (State.mustWait; R372). -/
def execHostWrite (f space addr : Nat) (data : List (BitVec 8)) (s : State) : Result :=
  match space with
  | 0 => if s.windowOpen f then .next (State.spinPut f 0 none s (chunks addr data.length) data) else .next s
  | 1 => .next (s.writeChip 0 (cellsAt (flatHost + addr) data))
  | _ => .next s

/-- The launch slots of a function, in the order of their keys (R66, R91). -/
def State.ownSlots (s : State) (f : Nat) : List SlotRef :=
  ((List.range 128).map fun i => slotAt (128 * parentOf f + i)).filter fun q => decide (slotFunc q (s.slot q) = f)

/-- The launch slots of a function as its window shows them: eight words each (R66, R91). -/
def State.slotWindow (s : State) (f : Nat) : List Byte :=
  (s.ownSlots f).flatMap fun q => (List.range 8).flatMap fun i => leBytes 8 ((s.slot q).word i).toNat

/-- The load statuses of a function, oldest first, 16 bytes each (R26, R91). -/
def State.statusWindow (s : State) (f : Nat) : List Byte :=
  (s.loadStatus.filter fun p => decide (p.1 / 2 ^ 32 = f)).flatMap fun p => leBytes 16 p.2.toNat

/-- The device memory of a function as the host reads it: bytes that are not mapped read zero. -/
def State.memoryWindow (s : State) (f addr len : Nat) : List Byte :=
  (chunks addr len).flatMap fun c =>
    match s.spinRead f 0 [c] with
    | some bs => bs
    | none => List.replicate c.2 0

/-- The records of the key slots that a function owns, at 64 bytes a slot; those of other slots read zero (R99). -/
def State.keyWindow (s : State) (f : Nat) : List Byte :=
  (List.range 256).flatMap fun n =>
    if (s.keySlot n).owner = f then leBytes 64 ((s.keySlot n).record n).toNat else List.replicate 64 0

/-- A cluster's telemetry word (R442). -/
def Cluster.word (c : Cluster) : Nat :=
  c.corr % 2 ^ 32 * 2 ^ 32 + c.cap % 2 ^ 8 * 2 ^ 64 + c.freq % 2 ^ 8 * 2 ^ 72 + c.state % 4 * 2 ^ 82 + c.temp % 2 ^ 12 * 2 ^ 84
    + c.pwr % 2 ^ 32 * 2 ^ 96

/-- A function's telemetry word (R442). -/
def Part.word (p : Part) : Nat := p.stale % 2 ^ 32 + p.dropped % 2 ^ 32 * 2 ^ 32

/-- The telemetry block from offset 0x10 on, as a function reads it (R442): the words of its clusters and its own. -/
def State.telemetryWindow (s : State) (f : Nat) : List Byte :=
  List.replicate 16 0
    ++ (List.range 31).flatMap (fun c =>
      if c < s.clusterCount ∧ (s.part f).clusters.getLsbD c = true then leBytes 16 (s.cluster c).word else List.replicate 16 0)
    ++ (List.range nFuncs).flatMap fun g => if g = f then leBytes 16 (s.part g).word else List.replicate 16 0

/-- The entries of a port's reject log, oldest first (R342). -/
def Port.oldest (p : Port) : List (BitVec 256) :=
  if p.rejects.length < 64 then p.rejects else p.rejects.drop (p.rejectCount % 64) ++ p.rejects.take (p.rejectCount % 64)

/-- The entries of the reject logs whose partition a function owns, port by port, oldest first (R342, R399). -/
def State.rejectWindow (s : State) (f : Nat) : List Byte :=
  (List.range 17).flatMap fun n =>
    ((s.port n).oldest.filter fun e => decide (e.toNat / 2 ^ 56 % 16 = f)).flatMap fun e => leBytes 32 e.toNat

/-- What the firmware reads (DESIGN CHOICE, log entry 32): the records of all key slots in the monitor window (region 9, R99); the line map of
the loaded image `f`, which a debugger reads too (10, R15); bytes at a raw address, under the public key slot (11, R100, R212); the start-up
record (12, R444); the whole telemetry block, and after it the heartbeats missed (13, R113, R442); the descriptor of function `f` in any state
(14, R85); and the reject logs of the ports, 64 entries and the count of each (15, R342). -/
def State.firmwareWindow (s : State) (f region addr len : Nat) : List Byte :=
  let part := fun (bs : List Byte) => (List.range len).map fun i => bs.getD (addr + i) 0
  match region with
  | 9 => part ((List.range 256).flatMap fun n => leBytes 64 ((s.keySlot n).record n).toNat)
  | 10 =>
    match Table.find s.insts f with
    | some i => part (s.seeAll chipViewer (1 + i.func) ((List.range i.lineMap.2).map (inFrames i.lineMap.1)))
    | none => List.replicate len 0
  | 11 => s.seeAll chipViewer 0 ((List.range len).map (addr + ·))
  | 12 => part (s.monitor.bootrec.map fun b => BitVec.ofNat 8 b)
  | 13 => part (leBytes 16 (s.power % 2 ^ 64) ++ (List.range 31).flatMap (fun c => if c < s.clusterCount then leBytes 16 (s.cluster c).word else List.replicate 16 0)
      ++ (List.range nFuncs).flatMap (fun g => leBytes 16 (s.part g).word) ++ leBytes 8 s.monitor.missed)
  | 14 => part (leBytes 128 ((s.part f).descriptor true).toNat)
  | 15 => part ((List.range 17).flatMap fun n =>
      (List.range 64).flatMap (fun i => leBytes 32 ((s.port n).rejects.getD i 0).toNat) ++ leBytes 8 (s.port n).rejectCount)
  | _ => List.replicate len 0

/-- HOST_READ: the host reads device memory (region 0), host memory (1), the descriptor, launch slots or load statuses of a
function (2, 3, 4), its key-slot records (5), telemetry (6), rejections (7), or its status register, whose lowest bit is READY (8; R91; DESIGN
CHOICE, log entry 32); a function that is UNASSIGNED is absent, and reads zero. All that lies in the function's window but the descriptor
reads zero while it is RELEASING or ZEROING (R439). Higher regions stand for reads of the firmware; a raw address that faults is reported
(R212). -/
def execHostRead (f space addr len : Nat) (s : State) : Result :=
  let part := fun (bs : List Byte) => (List.range len).map fun i => bs.getD (addr + i) 0
  let bytes :=
    match space with
    | 1 => s.seeAll chipViewer 0 ((List.range len).map (flatHost + addr + ·))
    | 2 => if s.monitor.started = false ∨ (s.part f).state = 0 then List.replicate len 0 else part (leBytes 128 ((s.part f).descriptor true).toNat)
    | _ =>
      if 9 ≤ space then s.firmwareWindow f space addr len
      else if !s.windowOpen f then List.replicate len 0
      else
        match space with
        | 0 => s.memoryWindow f addr len
        | 3 => part (s.slotWindow f)
        | 4 => part (s.statusWindow f)
        | 5 => part (s.keyWindow f)
        | 6 => part (s.telemetryWindow f)
        | 7 => part (s.rejectWindow f)
        | 8 => part [1]
        | _ => List.replicate len 0
  match if space = 11 then rawFault (BitVec.ofNat 64 addr) len else none with
  | some c => .next { s with fwStatus := c }
  | none => .next { s with hostOut := bytes }

/-! ### Page requests -/

/-- Whether a location lies in a host page (R352). -/
def inHostPage (page a : Nat) : Bool := decide (flatHost + page * 4096 ≤ a) && decide (a < flatHost + page * 4096 + 4096)

/-- The first chunk of a buffered write that meets a host page: its virtual address, and how many cells come before it. -/
def refusedAt (page : Nat) : Nat → List (Nat × Nat) → List Host.Cell → Option (Nat × Nat)
  | _, [], _ => none
  | pos, (a, n) :: ps, cells =>
    if (cells.take n).any fun c => inHostPage page c.1 then some (a, pos) else refusedAt page (pos + n) ps (cells.drop n)

/-- A buffered write to a refused host page is not performed, and takes 0x22 as a late fault (R229, R352); of a scatter, the lanes below the
first that is refused are (R238). -/
def State.refuseWrite (page : Nat) (s : State) (w : Write) : State :=
  match refusedAt page 0 w.parts w.cells with
  | none => s
  | some (va, n) =>
    let cut := fun (x : Write) => if x.id = w.id then { x with cells := if w.whole then [] else x.cells.take n } else x
    { s.addEarlier w.tid ⟨0x22, BitVec.ofNat 64 va, w.pc, w.iss, [], false⟩ with
      writes := (s.writes.map cut).filter fun x => decide (x.id ≠ w.id) || !x.cells.isEmpty }

/-- The buffered writes of a function to a refused host page are not performed (R352). -/
def State.refusePage (s : State) (f page : Nat) : State :=
  (s.writes.filter fun w => decide (w.level < 3) && decide (s.funcOf w.tid = f)).foldl (State.refuseWrite page) s

/-- PAGE_REQUEST_RESPONSE: a response that matches no outstanding request is dropped and counted (R418). Success brings the
page back; failure gives running accesses 0x22, and fails the node whose launch waits for its lease with status 3 (R72, R352). (DEDUCED, log entry 42.) -/
def execPageRequestResponse (f page : Nat) (gen : BitVec 6) (epoch : BitVec 3) (ok : Bool) (s : State) : Result :=
  let hit := fun (r : Nat × Nat × Nat × Nat) =>
    decide (r.1 = f) && decide (r.2.1 = page) && decide (r.2.2.1 = gen.toNat) && decide (r.2.2.2 % 8 = epoch.toNat)
  if !s.requests.any hit then .next (s.setPart f { s.part f with stale := ((s.part f).stale + 1) % 2 ^ 32 })
  else
    let s1 := { s with requests := s.requests.filter fun r => !hit r
                       hostGone := s.hostGone.filter fun e => decide (e ≠ (f, page)) }
    if ok then .next { s1 with hostBad := s1.hostBad.filter fun e => decide (e ≠ (f, page)) }
    else
      let s2 := { s1 with hostBad := (s1.hostBad.filter fun e => decide (e ≠ (f, page))) ++ [(f, page)] }
      match s2.launches.find? fun p => decide (p.2.tenantFunc = f) && decide (p.2.lease = gen.toNat) && decide (p.2.stage = .lease)
          && (s2.missing p.2).contains page with
      | some p => .next ((s2.refusePage f page).refuseLease p.2)
      | none => .next (s2.refusePage f page)

end Sys2Proof.Machine
end

