-- ==== Sys2Proof/Machine/Image.lean ====
section
/-!
DEFINITION. Kernel images and the Grenut loader (01_kernel_images.md, R105, R351, R374, R406, R449): the checks of an image, the
choice of its code, the translation of Narund (R13–R18), loading and unloading.
-/

namespace Sys2Proof.Machine

/-! ### Sections -/

/-- A section-table entry (R20). -/
structure Section where
  kind : Nat
  level : Nat
  off : Nat
  len : Nat
  zeros : Bool
  deriving DecidableEq, Repr

/-- The entry in 32 bytes. -/
def sectionAt (bs : List Byte) : Section :=
  ⟨bytesAt bs 0 8, bytesAt bs 8 8, bytesAt bs 64 64, bytesAt bs 128 64,
    decide (bytesAt bs 16 48 = 0) && decide (bytesAt bs 192 64 = 0)⟩

/-- Some bytes of an image. -/
def slice (img : List Byte) (off len : Nat) : List Byte := (img.drop off).take len

/-- The section table (R19, R20). -/
def sections (img : List Byte) : List Section :=
  (List.range (bytesAt img 48 16)).map fun i => sectionAt (slice img (bytesAt img 192 64 + 32 * i) 32)

/-- Items of `n` bytes. -/
def items (n : Nat) : Nat → List Byte → List (List Byte)
  | 0, _ => []
  | k + 1, bs => if bs.length < n then [] else bs.take n :: items n k (bs.drop n)

/-- The whole items of `n` bytes in a list. -/
def itemsOf (n : Nat) (bs : List Byte) : List (List Byte) := items n (bs.length / n) bs

/-- The items of `n` bytes in the sections of a kind, in table order: several sections of one kind count as one (DESIGN CHOICE, log
entry 47). -/
def itemsIn (img : List Byte) (secs : List Section) (kind n : Nat) : List (List Byte) :=
  (secs.filter fun x => decide (x.kind = kind)).flatMap fun x => itemsOf n (slice img x.off x.len)

/-- Whether no two spans of bytes overlap (R23). -/
def disjointSpans : List (Nat × Nat) → Bool
  | [] => true
  | (a, n) :: rest =>
    (n = 0 || rest.all fun r => decide (r.2 = 0) || decide (a + n ≤ r.1) || decide (r.1 + r.2 ≤ a)) && disjointSpans rest

/-! ### Code sections -/

/-- The entry table of a code section: its offsets, or none where it does not fit (R22). -/
def entryTable (sec : List Byte) : Option (List Nat) :=
  let n := bytesAt sec 0 32
  if sec.length < 4 ∨ sec.length < 4 + 4 * n then none
  else some ((itemsOf 4 ((sec.drop 4).take (4 * n))).map leNat)

/-- The first multiple of 64 at or after the end of the entry table (R16, R22). -/
def codeStart (n : Nat) : Nat := (4 + 4 * n + 63) / 64 * 64

/-- The starts of the bundles of a native chain (R22, R118), from `pos` on. -/
def bundleStarts : Nat → Nat → List Byte → List Nat
  | 0, _, _ => []
  | _ + 1, _, [] => []
  | fuel + 1, pos, h :: rest =>
    match cutSlots (headerBits h) rest with
    | some (_, n) => pos :: bundleStarts fuel (pos + 1 + n) (rest.drop n)
    | none => [pos]

/-- A Narund operation as it stands in a stream: its offset in the section, kind byte, slot word and literal (R17). -/
structure NarundOp where
  off : Nat
  kind : Nat
  word : BitVec 32
  lit : Lit
  deriving DecidableEq, Repr

/-- Cut a stream into operations (R17); the flag tells whether the stream ends with a whole operation. -/
def cutNarund : Nat → Nat → List Byte → List NarundOp × Bool
  | _, _, [] => ([], true)
  | fuel + 1, pos, k :: p :: q :: r :: s :: rest =>
    if (word32 p q r s).toNat < 2 ^ 31 then
      let t := cutNarund fuel (pos + 5) rest
      (⟨pos, k.toNat, word32 p q r s, none⟩ :: t.1, t.2)
    else
      match rest with
      | e :: f :: g :: h :: rest' =>
        let t := cutNarund fuel (pos + 9) rest'
        (⟨pos, k.toNat, word32 p q r s, some (word32 e f g h)⟩ :: t.1, t.2)
      | _ => ([], false)
  | _, _, _ => ([], false)

/-- The slot kind that a kind byte decodes (R17). -/
def narundKind (k : Nat) : Option SlotKind :=
  if 8 ≤ k ∨ k = 2 ∨ k = 5 then none else some (slotKindOf k)

/-- The instruction of an operation, where its kind and word are valid (R17, R18). -/
def NarundOp.instr (o : NarundOp) : Option Instr :=
  match narundKind o.kind with
  | none => none
  | some k =>
    match decodeSlot k o.word o.lit with
    | .ok i => some i
    | .error _ => none

/-- The displacement of a C-B form (R189). -/
def displacement (i : Instr) : Option (Imm 18) :=
  match enc i with
  | some ⟨.c, op, w, l⟩ => if op ≤ 8 then some (immOf 18 (w % 2 ^ 18) l) else none
  | _ => none

/-- Whether an operation may end a stream: TAIL, BR, JR or ERET (R18). -/
def endsStream (i : Instr) : Bool :=
  match enc i with
  | some ⟨.c, op, _, _⟩ => [0, 9, 11, 16].contains op
  | _ => false

/-- The stream of a Narund section: the offset of its head, and its operations (R16). -/
def narundStream (sec : List Byte) : Nat × List NarundOp × Bool :=
  let hd := codeStart (bytesAt sec 0 32)
  let n := bytesAt (sec.drop hd) 0 64
  let stream := (sec.drop (hd + 32)).take n
  let t := cutNarund stream.length (hd + 32) stream
  (hd, t.1, t.2 && decide (stream.length = n))

/-- The first fault of a Narund section, as the offset that status 12 reports (R18, R26): of the head, or of an operation. A stream that does
not hold exactly OPCOUNT operations is reported at the head, once no operation is at fault by itself (DESIGN CHOICE, log entry 47). -/
def narundFault (sec : List Byte) (ver : Nat) : Option Nat :=
  let t := narundStream sec
  let head := sec.drop t.1
  let starts := t.2.1.map (·.off)
  let badOp := fun (o : NarundOp) =>
    match o.instr with
    | none => true
    | some i =>
      match displacement i with
      | none => false
      | some d => !starts.any fun x => decide ((x : Int) = o.off + (immVal d).toInt)
  if head.length < 32 ∨ bytesAt head 128 128 ≠ 0 ∨ bytesAt head 96 32 ≠ ver ∨ bytesAt head 64 32 = 0 then some t.1
  else
    match t.2.1.find? badOp with
    | some o => some o.off
    | none =>
      if t.2.2 = false ∨ t.2.1.length ≠ bytesAt head 64 32 then some t.1
      else
        match t.2.1.getLast? with
        | none => some t.1
        | some o => if (o.instr.elim false endsStream) then none else some o.off

/-- Whether a code section's entry table is good (R22). -/
def entriesOk (kind : Nat) (sec : List Byte) : Bool :=
  match entryTable sec with
  | none => false
  | some es =>
    let starts := if kind = 1 then (narundStream sec).2.1.map (·.off)
      else bundleStarts sec.length (codeStart es.length) (sec.drop (codeStart es.length))
    es.all fun x => decide (x < sec.length) && starts.contains x

/-! ### The checks of an image -/

/-- The codes that a handler may take (R401, R406). -/
def handledCodes : List Nat := [0x28, 0x30, 0x31, 0x42, 0x49, 0x4A, 0x50, 0x58, 0x59]

/-- The section kinds that are unknown and mandatory (R21). -/
def unknownKind (k : Nat) : Bool := decide (k = 0) || (decide (10 ≤ k) && decide (k < 128))

/-- Whether a list repeats an element. -/
def repeats (xs : List Nat) : Bool := xs.eraseDups.length != xs.length

/-- Whether a root template is well-formed (R449). -/
def templateOk (x : Nat) : Bool :=
  decide (x / 2 ^ 120 = 0) && decide (x / 2 ^ 116 % 16 ≤ 8) && decide (x % 2 ^ 57 + x / 2 ^ 57 % 2 ^ 39 ≤ 2 ^ 57)

/-- The status codes of the checks that fail (R26), once the header's own checks have passed (DEDUCED, log entry 47). With the section table
out of bounds only DIGEST and code 8 are looked at, and a LEVEL that must be zero and is not gives code 2 (DESIGN CHOICE, log entry 47). -/
def failures (img : List Byte) : List Nat :=
  let stab := bytesAt img 192 64
  let cnt := bytesAt img 48 16
  let nver := bytesAt img 64 32
  let digest := if slice img 32 32 = Sha.hash (img.take 32 ++ List.replicate 32 0 ++ img.drop 64) then [] else [5]
  if img.length < stab + 32 * cnt then digest ++ [8]
  else
    let secs := sections img
    let ins := secs.filter fun x => decide (x.off + x.len ≤ img.length)
    let code := ins.filter fun x => decide (x.kind = 1) || decide (x.kind = 2)
    let nar := secs.filter fun x => decide (x.kind = 1)
    let levels := (secs.filter fun x => decide (x.kind = 2)).map (·.level)
    let counts := (code.map fun x => (entryTable (slice img x.off x.len)).elim 0 List.length).eraseDups
    let wheel := (itemsIn img ins 7 4).map leNat
    let traps := (itemsIn img ins 0x80 4).map leNat
    let when := fun (c : Bool) (n : Nat) => if c then [n] else []
    digest
      ++ when (secs.any fun x => !x.zeros || (decide (x.kind = 2) && decide (x.level = 0))
            || (decide (x.kind ≠ 2) && decide (x.level ≠ 0)) || (decide (x.kind = 5) && decide (x.len % 16 ≠ 0))) 2
      ++ when ((itemsIn img ins 5 16).any fun b => !templateOk (leNat b)) 2
      ++ when (wheel.any fun w => decide (2 ^ 24 ≤ w)) 2
      ++ when (traps.any fun w => decide (2 ^ 24 ≤ w)) 2
      ++ when (!levels.contains 1 && nar.isEmpty) 3
      ++ when (!levels.contains 1 && !nar.isEmpty && decide (1 < nver)) 4
      ++ when (secs.any fun x => unknownKind x.kind) 6
      ++ when (decide (1 < nar.length) || repeats levels || repeats (wheel.map (· / 2 ^ 16 % 256))
            || repeats (traps.map (· % 256))) 7
      ++ when (secs.any fun x => decide (x.off % 64 ≠ 0) || decide (img.length < x.off + x.len)) 8
      ++ when (!disjointSpans ((0, 64) :: (stab, 32 * cnt) :: secs.map fun x => (x.off, x.len))) 8
      ++ when (code.any (fun x => !entriesOk x.kind (slice img x.off x.len)) || decide (1 < counts.length)) 9
      ++ when (traps.any fun w => decide (counts.headD 0 ≤ w / 2 ^ 8 % 2 ^ 16)) 9
      ++ when (traps.any fun w => !handledCodes.contains (w % 256)) 11
      ++ when (code.any fun x => decide (x.kind = 1) && (narundFault (slice img x.off x.len) nver).isSome) 12

/-- The load status of an image, 0 where it loads: the lowest code (R26). -/
def imageStatus (img : List Byte) : Nat :=
  if img.length < 64 ∨ bytesAt img 0 32 ≠ 0x444E5355 ∨ bytesAt img 32 16 ≠ 1 ∨ bytesAt img 128 64 ≠ img.length then 1
  else if bytesAt img 96 32 ≠ 0 ∨ bytesAt img 192 64 % 32 ≠ 0 ∨ bytesAt img 48 16 = 0 ∨ 64 < bytesAt img 48 16 then 2
  else (failures img).foldl min 255 % 255

/-- The offset that status 12 reports (R26). -/
def faultOffset (img : List Byte) : Nat :=
  match (sections img).find? fun x => decide (x.kind = 1) with
  | none => 0
  | some x => (narundFault (slice img x.off x.len) (bytesAt img 64 32)).getD 0

/-! ### Loading -/

/-- The policy records of a section (R105): slot, digest of the record, measurements; the slot is 0 for a record that is never
matched. -/
def policies : Nat → List Byte → List (Nat × List Byte × List (List Byte))
  | 0, _ => []
  | fuel + 1, bs =>
    let n := bytesAt bs 32 8
    if bs.length < 64 ∨ n = 0 ∨ 64 < n ∨ bs.length < 64 + 32 * n then []
    else
      let rec1 := bs.take (64 + 32 * n)
      let ok := decide (bytesAt bs 0 8 = 1) && decide (145 ≤ bytesAt bs 8 8) && decide (bytesAt bs 16 16 = 0)
        && decide (bytesAt bs 40 472 = 0)
      (if ok then bytesAt bs 8 8 else 0, Sha.hash rec1, itemsOf 32 (rec1.drop 64)) :: policies fuel (bs.drop (64 + 32 * n))

/-! ### Translation

The translation of a Narund section runs its operations one at a time in stream order, each in a bundle of its own, with enough empty bundles
after it that its results have landed before the next one reads (R13, R14, R17). How many more empty bundles stand there is free, and fixed
for a section (DESIGN CHOICE, log entry 9). -/

/-- The length of the native bundle of an operation: a C-B form always has a literal (R118, R189). -/
def NarundOp.len (o : NarundOp) : Nat :=
  if o.lit.isSome || ((o.instr.bind displacement).isSome) then 9 else 5

/-- The empty bundles that an operation needs after it: a delay bundle after a transfer (R122), 7 where a result may be exposed for 8 steps
(R158). -/
def NarundOp.gap (o : NarundOp) : Nat :=
  match o.instr with
  | none => 0
  | some i => if isTransfer i then 1 else if o.kind = 4 ∨ o.kind = 6 then 7 else 0

/-- Whether an operation writes a link: BL or JLR (R17). -/
def NarundOp.links (o : NarundOp) : Bool :=
  match o.instr.bind enc with
  | some ⟨.c, op, _, _⟩ => decide (op = 1) || decide (op = 10)
  | _ => false

/-- Where the bundle of an operation stands that may begin at `pos`: within its line (R119). One that links stands where a delay bundle can
reach from its end to the start of the next operation's bundle, whatever that is. -/
def NarundOp.place (o : NarundOp) (pos : Nat) : Nat :=
  if o.links then
    let p := pos + pos % 2
    if (p % 4 = 2 ∧ p % 64 + o.len ≤ 64) ∨ (p % 4 = 0 ∧ p % 64 ≤ 44) then p else (pos / 64 + 1) * 64
  else if pos % 64 + o.len ≤ 64 then pos
  else (pos / 64 + 1) * 64

/-- The bytes between the bundle of an operation at `p` and the next one that it needs: a transfer that links has a delay bundle up to the next
operation, whose address it links (R17, R122). -/
def NarundOp.after (o : NarundOp) (p : Nat) : Nat :=
  if o.links = false then o.gap else if p % 4 = 0 ∨ p % 64 + o.len + 1 ≤ 44 then 1 else 64 - (p % 64 + o.len)

/-- What stands there: empty bundles, or a delay bundle of hints. -/
def NarundOp.fill (o : NarundOp) (p : Nat) : List Byte :=
  let d := o.after p
  if o.links = true ∧ 1 < d then
    BitVec.ofNat 8 (2 ^ ((d - 1) / 4 + 1) - 2) :: (List.replicate ((d - 1) / 4) (leBytes 4 0x70000000)).flatten
  else List.replicate d 0

/-- Where the bundles of operations stand in the native section. `free` says how many more empty bundles follow an operation, but for one that
links. -/
def layOut (free : Nat → Nat) : Nat → Nat → List NarundOp → List (Nat × NarundOp)
  | _, _, [] => []
  | n, pos, o :: os =>
    let at0 := o.place pos
    (at0, o) :: layOut free (n + 1) (at0 + o.len + o.after at0 + if o.links then 0 else free n) os

/-- Where the bundle of the operation at a stream offset stands. -/
def nativeOf (lay : List (Nat × NarundOp)) (off : Int) : Nat :=
  match lay.find? fun p => decide ((p.2.off : Int) = off) with
  | some p => p.1
  | none => 0

/-- The native bundle of an operation: its header, its word and its literal; a C-B form gets the displacement between the native bundles
(R17, R189). -/
def nativeBundle (lay : List (Nat × NarundOp)) (p : Nat × NarundOp) : List Byte :=
  let o := p.2
  let hdr := BitVec.ofNat 8 (2 ^ o.kind)
  match o.instr.bind displacement with
  | some d =>
    hdr :: leBytes 4 (2 ^ 31 + o.word.toNat / 2 ^ 18 % 2 ^ 13 * 2 ^ 18)
      ++ leBytes 4 (BitVec.ofInt 32 ((nativeOf lay (o.off + (immVal d).toInt) : Int) - p.1)).toNat
  | none =>
    hdr :: leBytes 4 o.word.toNat ++ (match o.lit with | some l => leBytes 4 l.toNat | none => [])

/-- The bundles with the empty bundles between them, from a position on. -/
def nativeBody (lay : List (Nat × NarundOp)) : Nat → List (Nat × NarundOp) → List Byte
  | _, [] => []
  | pos, p :: ps =>
    List.replicate (p.1 - pos) 0 ++ nativeBundle lay p ++ p.2.fill p.1
      ++ nativeBody lay (p.1 + p.2.len + p.2.after p.1) ps

/-- The native section of a Narund section (R14, R22), and its line map (R15). -/
def translateWith (free : Nat → Nat) (sec : List Byte) : List Byte × List Byte :=
  let es := (entryTable sec).getD []
  let start := codeStart es.length
  let lay := layOut free 0 start (narundStream sec).2.1
  let table := leBytes 4 es.length ++ es.flatMap fun (e : Nat) => leBytes 4 (nativeOf lay e)
  let map := ((List.range lay.length).zip lay).flatMap fun p => leBytes 4 p.2.1 ++ leBytes 4 p.1
    ++ if p.2.2.links = true ∧ 1 < p.2.2.after p.2.1 then leBytes 4 (p.2.1 + p.2.2.len) ++ leBytes 4 p.1 else []
  (table ++ List.replicate (start - table.length) 0 ++ nativeBody lay start lay, map)

/-- What Grenut's translator gives for a section: the native section and the line map. -/
def translate (sec : List Byte) : List Byte × List Byte := translateWith (fun n => Config.narundFree sec n % 8) sec

/-- The chosen code of a loaded image (R24): its bytes, and where they lie in the instance's memory; translated code follows the image. -/
structure Chosen where
  code : List Byte
  off : Nat
  translated : Bool
  map : List Byte
  deriving DecidableEq, Repr

/-- A multiple of 64 at or after an offset. -/
def lineUp (n : Nat) : Nat := (n + 63) / 64 * 64

/-- The code chosen for native level 1 (R24). -/
def chosenCode (img : List Byte) : Chosen :=
  let secs := sections img
  match secs.find? fun x => decide (x.kind = 2) && decide (x.level = 1) with
  | some x => ⟨slice img x.off x.len, x.off, false, []⟩
  | none =>
    match secs.find? fun x => decide (x.kind = 1) with
    | some x => ⟨(translate (slice img x.off x.len)).1, lineUp img.length, true, (translate (slice img x.off x.len)).2⟩
    | none => ⟨[], 0, false, []⟩

/-- What of a function's SPACE 0 is in use, as (first address, size): its leaves, and its loaded images. -/
def State.spans (s : State) (f : Nat) : List (Nat × Nat) :=
  (s.leaves f 0).map (fun l => (l.1, l.2.size)) ++ (s.insts.filter fun i => decide (i.2.func = f)).map fun i => (i.2.home, pageUp i.2.size)

/-- Whether an image of `n` bytes can lie at an address: nothing else of its function lies there (R27), and the address space holds it (R218). -/
def roomAt (spans : List (Nat × Nat)) (n a : Nat) : Bool :=
  decide (2 ^ 56 ≤ a) && decide (a + n ≤ 2 ^ 57) && !spans.any fun p => decide (p.1 < a + n) && decide (a < p.1 + p.2)

/-- Where the memory of an image of some size lies: the lowest place from 2^56 on, at the end of what is in use, that has room for it; none
where there is no such place (DESIGN CHOICE, log entry 33). -/
def State.home (s : State) (f size : Nat) : Option Nat :=
  let spans := s.spans f
  ((2 ^ 56 :: spans.map fun p => p.1 + p.2).filter (roomAt spans (max 4096 (pageUp size)))).min?

/-- The loaded image (R24–R27) at an address, before its line map has a place. -/
def imageOf (f home : Nat) (img : List Byte) : Image :=
  let secs := sections img
  let c := chosenCode img
  { func := f, l1 := parentOf f, home := home, base := home + c.off
    size := if c.translated then c.off + c.code.length else img.length
    entries := (entryTable c.code).getD [], digest := Sha.hash c.code
    traps := (itemsIn img secs 0x80 4).map fun b => (leNat b % 256, leNat b / 2 ^ 8 % 2 ^ 16)
    roots := (itemsIn img secs 5 16).map fun b => BitVec.ofNat 128 (leNat b)
    skeins := (itemsIn img secs 3 128).map fun b => BitVec.ofNat 1024 (leNat b)
    policies := (secs.filter fun x => decide (x.kind = 8)).flatMap fun x => policies (x.len / 64) (slice img x.off x.len)
    wheel := (itemsIn img secs 7 4).map fun b => (leNat b / 2 ^ 16 % 256, leNat b % 2 ^ 16)
    router := (itemsIn img secs 6 1088).map fun b =>
      (bytesAt b 0 16, (itemsOf 4 (b.drop 64)).map fun e => BitVec.ofNat 32 (leNat e))
    lineMap := ([], 0)
    unloading := false }

/-- Put a load status beside the others of its function (R26). -/
def State.putStatus (s : State) (f code value : Nat) : State :=
  let n := (s.loadStatus.filter fun p => decide (p.1 / 2 ^ 32 = f)).length
  let w := BitVec.ofNat 128 (code + Config.translatorVersion.toNat * 2 ^ 32 + value * 2 ^ 64)
  { s with loadStatus := Table.set s.loadStatus (f * 2 ^ 32 + n) w }

/-- The pages of a loaded image are mapped (R27); none where the memory does not suffice, or the function is not READY, which has none to
give (R26, R92; DESIGN CHOICE, log entry 47). -/
def State.mapImage (s : State) (f home size : Nat) : Option State :=
  if (s.part f).state ≠ 1 then none
  else (List.range ((size + 4095) / 4096)).foldl (fun o n => o.bind fun u => u.mapPage f 0 (home + 4096 * n) 0) (some s)

/-- Put bytes into the memory of a loaded image. -/
def State.putImage (s : State) (f va : Nat) (bs : List Byte) : State := State.spinPut f 0 none s (chunks va bs.length) bs

/-- The line map of an image gets memory of its own, which no table of its function maps: no task can read it (R15); none where the memory does
not suffice (R26; DESIGN CHOICE, log entry 33). -/
def State.putMap (s : State) (f : Nat) (map : List Byte) : Option (List Nat × State) :=
  if map = [] then some ([], s)
  else (s.newFrames f ((map.length + 4095) / 4096)).map fun (as, u) => (as, u.writeChip (1 + f) (map.mapIdx fun i b => (inFrames as i, b)))

/-- IMAGE_LOAD: Grenut checks an image and reports the lowest failing code, or makes an independent copy of it with its code
chosen or translated (R14–R27). A load that fails changes nothing but its status. -/
def execImageLoad (f : Nat) (img : List (BitVec 8)) (s : State) : Result :=
  if nFuncs ≤ f then .fault .noSuchUnit
  else
    let st := imageStatus img
    if st ≠ 0 ∧ st < 10 then .next (s.putStatus f st 0)
    else
      let h := s.fresh + 1
      let c := chosenCode img
      let at0 := s.home f (imageOf f 0 img).size
      match (at0.bind fun b => ({ s with fresh := h } : State).mapImage f b (imageOf f b img).size).bind fun u => u.putMap f c.map with
      | none => .next (s.putStatus f 10 0)
      | some (m, s0) =>
        let i := imageOf f (at0.getD 0) img
        let s1 := { s0 with insts := Table.set s0.insts h { i with lineMap := (m, c.map.length) } }
        if st ≠ 0 then .next (s.putStatus f st (if st = 12 then faultOffset img else 0))
        else
          let s2 := s1.putImage f i.home img
          let s3 := if c.translated then s2.putImage f i.base c.code else s2
          .next (s3.putStatus f 0 h)

/-- UNLOAD: from now on new submissions to the loaded image are refused (R27, R69). -/
def execUnload (inst : Nat) (s : State) : Result :=
  match Table.find s.insts inst with
  | none => .next s
  | some i => .next { s with insts := Table.set s.insts inst { i with unloading := true } }

/-- Whether a graph of a loaded image is in flight, or a task of it has yet to write its record (R27). -/
def State.inFlight (s : State) (inst : Nat) : Bool :=
  (s.walks.any fun w => decide (w.2.inst = inst)) || (s.launches.any fun l => decide (l.2.inst = inst))
    || (s.ctxs.any fun c => match c.2.task with | some t => decide (t.inst = inst) | none => false)
    || (s.retire.any fun r => decide (r.task.inst = inst))

/-- Take a page of a loaded image out of its function's tables and TLBs; its frame goes back. -/
def State.unmapPage (s : State) (f va : Nat) : State :=
  match s.leaf f 0 va with
  | none => s
  | some l => ((if l.framed then s.giveBack (l.flat 0 (va / l.size * l.size)) l.size else s).clearLeaf l).dropTlb f 0 va

/-- UNLOAD_COMPLETE: once every task launched from it has written its record, the loaded image goes, with its pages and the tables that no page
is left in (R27; DESIGN CHOICE, log entry 18). -/
def execUnloadComplete (inst : Nat) (s : State) : Result :=
  match Table.find s.insts inst with
  | none => .next s
  | some i =>
    if i.unloading = false ∨ s.inFlight inst = true then .next s
    else
      .next (State.pruneTables ((List.range ((i.size + 4095) / 4096)).foldl (fun u n => u.unmapPage i.func (i.home + 4096 * n))
        { i.lineMap.1.foldl (fun u a => u.giveBack a 4096) s with insts := Table.del s.insts inst }) i.func)

end Sys2Proof.Machine
end

