-- ==== Sys2Proof/Machine/Power.lean ====
section
/-!
DEFINITION. Clocks and power (R440–R443), start-up (R444, R445), lost channels (R446) and machine checks (R447, R448).
-/

namespace Sys2Proof.Machine

/-! ### Clusters -/

/-- Whether a context of a cluster is occupied (R440). -/
def State.occupied (s : State) (c : Nat) : Bool := (List.range 32).any fun i => (s.ctx (32 * c + i)).task.isSome

/-- Whether a cycle of 0.25 ns is one of a cluster's own: FREQ in 80 of them are, evenly spread (R441, R443; DESIGN CHOICE, log entry 48). -/
def Cluster.ticks (k : Cluster) : Bool := decide (80 ≤ k.beat + k.freq)

/-- A cluster at the end of a cycle: its own clock has gone on, and a FREQ that is due takes effect (R443). -/
def Cluster.endCycle (k : Cluster) (time : Nat) : Cluster :=
  let k1 := { k with beat := if k.ticks then k.beat + k.freq - 80 else k.beat + k.freq }
  if k.due ≠ 0 ∧ k.due ≤ time then { k1 with freq := min k.cap k.limit, due := 0 } else k1

/-- CLUSTER_GATE: the clock of a running cluster stops after 4,096 cycles without an occupied context (R440). -/
def execClusterGate (c : Nat) (s : State) : Result :=
  if s.clusterCount ≤ c then .fault .noSuchUnit
  else
    let k := s.cluster c
    if k.state = 0 ∧ 4096 ≤ k.idle ∧ s.occupied c = false then .next (s.setCluster c { k with state := 1 }) else .next s

/-- CLUSTER_WAKE: 200 cycles after the placement that woke a cluster its task starts (R440). -/
def execClusterWake (c : Nat) (s : State) : Result :=
  if s.clusterCount ≤ c then .fault .noSuchUnit
  else
    let k := s.cluster c
    if k.wakeAt ≠ 0 ∧ k.wakeAt ≤ s.time then .next (s.setCluster c { k with wakeAt := 0 }) else .next s

/-- CAP_WRITE: ignored outside 8–80; the FREQ that follows from it takes effect within 1,000 cycles; one that is already to come
comes no later (R443; DESIGN CHOICE, log entry 48). -/
def execCapWrite (c v : Nat) (s : State) : Result :=
  if s.clusterCount ≤ c then .fault .noSuchUnit
  else if v < 8 ∨ 80 < v then .next s
  else .next (s.setCluster c { s.cluster c with cap := v, due := if (s.cluster c).due = 0 then s.time + 1000 else (s.cluster c).due })

/-- FREQ_CHANGE: the sensors of a cluster report, and FREQ becomes the lesser of CAP and the thermal limit (R442, R443). (DESIGN CHOICE, log
entry 48.) -/
def execFreqChange (c : Nat) (r : Sensors) (s : State) : Result :=
  if s.clusterCount ≤ c then .fault .noSuchUnit
  else
    .next (State.setCluster { s with power := r.power } c
      { s.cluster c with freq := min (s.cluster c).cap r.limit, limit := r.limit, temp := r.temp, pwr := r.pwr, due := 0 })

/-! ### Start-up -/

/-- Whether a start-up step has an alternate form (R444): 3, 4 and 7. -/
def hasAlternate (n : Nat) : Bool := decide (n = 3) || decide (n = 4) || decide (n = 7)

/-- Whether step `n` runs in its alternate form, by its byte of the record (R445). -/
def inAlternate (n byte : Nat) : Bool := hasAlternate n && (decide (byte = 2) || decide (byte = 3))

/-- The image that step 6 selects: the active slot, or the other one (R112). -/
def State.selected (s : State) : Option Nat :=
  let m := s.monitor
  if s.fwOk (m.image m.active) then some m.active
  else if s.fwOk (m.image (otherSlot m.active)) then some (otherSlot m.active)
  else none

/-- The image that step 7 starts: the selected one, or the other in the alternate form (R444). -/
def State.starts (s : State) : Option Nat :=
  match s.selected with
  | none => none
  | some n => some (if inAlternate 7 (s.monitor.bootrec.getD 6 0) then otherSlot n else n)

/-- Whether step `n` passes: its unit works (`pass`; for step 2 also once the failing clusters are fused off, which a start
after a failed one does), and for steps 6 and 7 there is an image to run (R112, R444). -/
def State.stepPasses (s : State) (n : Nat) (pass : List Bool) : Bool :=
  (pass.getD (n - 1) false || decide (n = 2) && decide (s.monitor.bootrec.getD 1 0 = 2))
    && (if n = 6 then s.selected.isSome
      else if n = 7 then (match s.starts with | some i => s.fwOk (s.monitor.image i) | none => false)
      else true)

/-- The steps in order from `n` on, with the record as it was (R444, R445): the new record, and whether all have passed. A step
not reached is recorded as not run, but keeps an alternate form that it has passed in (DEDUCED, log entry 34). -/
def State.runSteps (s : State) (pass : List Bool) : Nat → List Nat → List Nat × Bool
  | _, [] => ([], true)
  | n, b :: bs =>
    if s.stepPasses n pass then
      let r := State.runSteps s pass (n + 1) bs
      ((if inAlternate n b then 3 else 1) :: r.1, r.2)
    else if n = 4 ∧ inAlternate 4 b = true then
      let r := State.runSteps s pass (n + 1) bs
      (0 :: r.1, r.2)
    else (2 :: bs.map fun x => if x = 3 then 3 else 0, false)

/-- DEVICE_START: the monitor runs the seven start-up steps, `t` telling which units work (R444, R445). After the last one the
device runs: the fabric ports as step 4 left them, each by itself (DEDUCED, log entry 34), the selected image, a fresh public key (R100), and its cycles count from here
(R151). Clusters that fail the self-test of step 2: after a failed start they are fused off for good (R444). -/
def execDeviceStart (t : StartTest) (s : State) : Result :=
  if s.monitor.started then .next s
  else
    let r := s.runSteps t.units 1 s.monitor.bootrec
    let fused := if s.monitor.bootrec.getD 1 0 = 2 ∧ r.1.getD 1 0 = 1 ∧ t.units.getD 1 false = false then
      min nClusters (s.fused + t.bad) else s.fused
    let s1 := { s with monitor := { s.monitor with bootrec := r.1 }, fused := fused }
    if !r.2 then .next s1
    else
      let four := r.1.getD 3 0
      let ports := (List.range 16).map fun n => (n, { s.port n with
        up := decide (four ≠ 0) && !t.down.contains n, x2 := decide (four = 3) || t.half.contains n })
      let d := s1.drawKey
      let s2 := d.2.setKeySlot 0 { cur := d.1, state := 1, gen := 1 }
      .next { s2 with
        time := 0
        refilled := 0
        ports := ports
        monitor := { s2.monitor with
          started := true
          running := s.starts.getD s.monitor.active
          code := s.monitor.image (s.starts.getD s.monitor.active) } }

/-- POWER_LOSS: all volatile state goes; the fuses, the firmware slots, the active slot and the start-up record stay (R113, R114,
R445), and so does what lies outside the device: host memory, and what is yet to come from outside. What is fused off stays so; lost channels
are looked for anew, and a staged image is staged no more (DESIGN CHOICE, log entries 44, 54). -/
def execPowerLoss (s : State) : Result :=
  let m := s.monitor
  .next { State.reset with
    inbox := s.inbox
    choice := s.choice
    fused := s.fused
    coresOff := s.coresOff
    portsOff := s.portsOff
    mem := s.mem.filter fun c => decide (flatHost ≤ c.1) && decide (c.1 < 2 ^ 62)
    monitor := { fuses := m.fuses, slot0 := m.slot0, slot1 := m.slot1, active := m.active, running := m.active
                 bootrec := m.bootrec, keys := m.keys } }

/-- LOST_CHANNEL_PAIR: channels 2i and 2i + 1 are lost together (R446), and no descriptor names them any more (R2). -/
def execLostChannelPair (i : Nat) (s : State) : Result :=
  if 128 ≤ i then .fault .noSuchUnit
  else
    let s1 := if s.lostPairs.contains i then s else { s with lostPairs := s.lostPairs ++ [i] }
    .next { s1 with parts := s1.parts.map fun p => if p.1 < 16 then (p.1, { p.2 with mask := p.2.mask &&& ~~~s1.lostMask }) else p }

/-! ### Machine checks -/

/-- A machine-check record (R448). -/
def checkRecord (time addr fpc unit func core ctx task : Nat) : BitVec 512 :=
  BitVec.ofNat 512 (task * 2 ^ 6 + ctx % 4 * 2 ^ 7 + core % 128 * 2 ^ 9 + func % 256 * 2 ^ 16 + unit % 256 * 2 ^ 24
    + fpc % 2 ^ 64 * 2 ^ 64 + addr % 2 ^ 64 * 2 ^ 384 + time % 2 ^ 64 * 2 ^ 448)

/-- TIME of a record. -/
def checkTime (r : BitVec 512) : Nat := r.toNat / 2 ^ 448
/-- CORE of a record. -/
def checkCore (r : BitVec 512) : Nat := r.toNat / 2 ^ 9 % 128

/-- A record among those of a log: the records of one cycle stand in ascending order of cores (R448). -/
def enterCheck (log : List (BitVec 512)) (r : BitVec 512) : List (BitVec 512) :=
  let now := log.filter fun x => decide (checkTime x = checkTime r)
  log.filter (fun x => decide (checkTime x ≠ checkTime r)) ++ now.filter (fun x => decide (checkCore x ≤ checkCore r)) ++ [r]
    ++ now.filter fun x => decide (checkCore r < checkCore x)

/-- A record enters the ring of 64 of a level-1 partition (R448). -/
def State.logCheck (s : State) (l1 : Nat) (r : BitVec 512) : State :=
  let p := s.part l1
  let log := enterCheck p.mclog r
  s.setPart l1 { p with mclog := log.drop (log.length - 64) }

/-- The level-1 partition that owns the channel of a physical address (R83; DEDUCED, log entry 35). -/
def State.channelOwner (s : State) (addr : Nat) : Option Nat :=
  (List.range 16).find? fun f => decide ((s.part f).state ≠ 0) && (s.part f).mask.getLsbD (256 + channelAt addr)

/-- An uncorrectable error in a word that the task of a context has read ends the task with 0x60 and is recorded (R419, R447, R448). -/
def State.checkCtx (s : State) (unit addr i : Nat) : State :=
  let c := s.ctx i
  match c.task with
  | none => s
  | some t =>
    let s1 := s.logCheck t.l1 (checkRecord s.time addr c.last.toNat unit t.func (coreOf i) (i % 4) 1)
    s1.takeTrap i ⟨0x60, false, false, false, false, 0, 0, c.pc, c.last⟩

/-- A copy or matrix operation of a task that has executed TAIL reads such a word: its record, still to be written, says so (R419, R447). A
task that a fault has ended keeps its record. (DEDUCED, log entry 35.) -/
def State.checkRetired (s : State) (unit addr tid : Nat) : State :=
  match s.retire.find? fun r => decide (r.task.tid = tid) with
  | none => s
  | some r =>
    let ends := decide (r.code = 0)
    let s1 := s.logCheck r.task.l1 (checkRecord s.time addr r.fpc.toNat unit r.task.func r.core r.ctx ends.toNat)
    if ends then
      { s1 with retire := s1.retire.map fun x =>
          if x.task.tid = tid then { x with code := 0x60, tval := 0, pend := false, mchk := true, tail := false } else x }
    else s1

/-- An error that ends no task (R447, R448). -/
def State.checkNone (s : State) (unit addr : Nat) : State :=
  match s.channelOwner addr with
  | none => s
  | some f => s.logCheck f (checkRecord s.time addr 0 unit 0 0 0 0)

/-- MACHINE_CHECK (R447, R448): an uncorrectable error of a word, by who reads it; a parity error of an array latch, which ends the array's
owner, or the task whose operation is at the head of the queue; or an error of one bit, which is corrected and counted. -/
def execMachineCheck (unit : Nat) (addr : BitVec 64) (who : CheckBy) (s : State) : Result :=
  if unit = 0 ∨ 4 < unit then .fault .noSuchUnit
  else
    match who with
    | .corrected c =>
      if s.clusterCount ≤ c then .fault .noSuchUnit
      else if unit = 4 then .next s
      else .next (s.setCluster c { s.cluster c with corr := ((s.cluster c).corr + 1) % 2 ^ 32 })
    | .array core =>
      if s.coreCount ≤ core then .fault .noSuchUnit
      else if unit ≠ 4 then .next s
      else
        match (s.core core).owner, (s.core core).queue.head? with
        | some i, _ => .next (s.checkCtx unit addr.toNat i)
        | none, some e => .next (s.checkRetired unit addr.toNat e.tid)
        | none, none => .next s
    | .context i => if unit = 4 then .next s else .next (s.checkCtx unit addr.toNat i)
    | .retired tid => if unit = 4 then .next s else .next (s.checkRetired unit addr.toNat tid)
    | .firmware => if unit = 4 then .next s else .next (s.checkNone unit addr.toNat)

end Sys2Proof.Machine
end

