-- ==== Sys2Proof/Machine/Arbiter.lean ====
section
/-!
DEFINITION. The issue arbiter of a core (R89, R90, R149, R154–R157) and the end of a cycle (R79).
-/

namespace Sys2Proof.Machine

/-- Insert a number into an ascending list without repeats. -/
def insertNat (n : Nat) : List Nat → List Nat
  | [] => [n]
  | m :: ms => if n < m then n :: m :: ms else if n = m then m :: ms else m :: insertNat n ms

/-- The function of the task on a context. -/
def State.tenantOf (s : State) (id : Nat) : Nat := match (s.ctx id).task with | some t => t.func | none => 0

/-- The tenants of some contexts, in ascending FUNC order (R154). -/
def State.tenants (s : State) (ids : List Nat) : List Nat := (ids.map s.tenantOf).foldr insertNat []

/-- The next of an ascending list after a tenant, wrapping; the lowest where there is none yet (R156). -/
def nextTenant (ts : List Nat) (cur : Option Nat) : Option Nat :=
  match cur with
  | none => ts.head?
  | some c => (ts.find? fun t => decide (c < t)).or ts.head?

/-- The choice of a tenant (R156): the tenant, and the core with its counters as they then stand. -/
def State.chooseTenant (s : State) (k : Core) (ready : List Nat) : Option (Nat × Core) :=
  let ts := s.tenants ready
  let w := ts.filter fun t => decide (0 < (s.part t).weight)
  match w with
  | [] =>
    match nextTenant ts k.last0 with
    | none => none
    | some t => some (t, { k with last0 := some t })
  | _ :: _ =>
    let stay := match k.cur with | some c => w.contains c && decide (1 ≤ Table.get 0 k.dc c) | none => false
    if stay then
      match k.cur with
      | none => none
      | some c => some (c, { k with dc := Table.set k.dc c (Table.get 0 k.dc c - 1) })
    else
      match nextTenant w k.cur with
      | none => none
      | some t =>
        let x := (s.part t).weight
        some (t, { k with cur := some t, dc := Table.set k.dc t (min (Table.get 0 k.dc t + x) (2 * x) - 1) })

/-- The context granted least recently, the lowest of equals (R156). -/
def leastRecent (granted : Table Nat) : List Nat → Option Nat
  | [] => none
  | i :: is =>
    match leastRecent granted is with
    | none => some i
    | some j => if Table.get 0 granted j < Table.get 0 granted i then some j else some i

/-- The step of each HELD context advances (R157). -/
def State.tickHeld (s : State) (ids : List Nat) : State := ids.foldl (fun u i => u.setCtx i (u.ctx i).tick) s

/-- Where a wait of a bundle has ended, the next of the same bundle goes on; an IDLE not once a request is open (R430). -/
def Ctx.nextWait (c : Ctx) : Ctx :=
  match c.wait, c.more with
  | none, w :: ws => if w = .idle ∧ c.prq.isSome = true then { c with more := ws } else { c with wait := some w, more := ws }
  | _, _ => c

/-- The IDLE of a context ends in the cycle in which a timer or an interrupt is found due; the cause is taken after it (R430). -/
def State.endIdle (s : State) (id : Nat) : State :=
  if (s.ctx id).wait = some .idle ∧ s.asyncReady id = true then s.setCtx id { s.ctx id with wait := none } else s

/-- What happens at the boundaries of some contexts: the end of an IDLE, the next wait of a bundle, and returns from handlers that
are complete (R412, R425, R430). -/
def State.returns (s : State) (ids : List Nat) : State :=
  ids.foldl (fun t i =>
    let u := t.endIdle i
    let v := if (u.ctx i).more.isEmpty then u else u.setCtx i (u.ctx i).nextWait
    if v.returning i then v.returnFrom i else v) s

/-- The counters of a core and its cluster: how long the escape's condition has held (R215), how long no context of the cluster
has been occupied (R440). -/
def State.countCycle (s : State) (core : Nat) : State :=
  let k := s.core core
  let s1 := s.setCore core { k with escape := if s.deadlocked core then k.escape + 1 else 0 }
  if core % 8 = 0 then
    let c := s1.cluster (core / 8)
    s1.setCluster (core / 8) { c with idle := if s1.occupied (core / 8) then 0 else c.idle + 1 }
  else s1

/-- ARBITER_CYCLE: one cycle of a core. `ready` are the READY contexts, `held` the HELD ones (R149, R155), as the step has found
them; HELD contexts take a step (R157), complete returns are made, and one READY context is granted a bundle (R156), which
counts for its partitions (R89). In a cycle that the cluster's clock leaves out there is no issue step (R441). -/
def execArbiterCycle (core : Nat) (s : State) : Result :=
  if s.coreCount ≤ core then .fault .noSuchUnit
  else
    let mine := fun (ids : List Nat) => ids.filter fun i => decide (coreOf i = core)
    let s0 := s.countCycle core
    if (s.cluster (clusterOf core)).ticks = false then .next { s0 with turn := core + 1, ready := [], held := [] }
    else
    let s1 := s0.tickHeld (mine s.held)
    let s2 := s1.returns ((List.range 4).map (4 * core + ·))
    let s3 := { s2 with turn := core + 1, ready := [], held := [] }
    match s.chooseTenant (s3.core core) (mine s.ready) with
    | none => .next s3
    | some (t, k) =>
      match leastRecent k.granted ((mine s.ready).filter fun i => decide (s.tenantOf i = t)) with
      | none => .next s3
      | some id =>
        .next ({ s3.setCore core { k with granted := Table.set k.granted id (s.time + 1) } with grant := some id }.countIssue t)

/-- Whether an operation with a number is in flight, or a head from another package waits under it. -/
def State.inFlightOp (s : State) (r : Nat) : Bool :=
  (s.loads.any fun x => decide (x.id = r)) || (s.writes.any fun x => decide (x.id = r)) || (s.copies.any fun x => decide (x.id = r))
    || (s.atoms.any fun x => decide (x.id = r)) || (s.outs.any fun x => decide (x.op.id = r)) || (s.flags.any fun x => decide (x.id = r))
    || s.inbox.any fun i => match headOf i with | some (h, _) => decide (headId h = r) | none => false

/-- Whether the request numbered `r` of a function is still there (R88): an operation, or what `requestNo` counts. -/
def State.requestLives (s : State) (f r : Nat) : Bool :=
  if r < 2 ^ 64 ∨ 2 ^ 80 ≤ r then s.inFlightOp r
  else
    let n := (r - 2 ^ 64) / 8
    match (r - 2 ^ 64) % 8 with
    | 0 => match (s.ctx n).task with | some t => decide (t.func = f) | none => false
    | 1 =>
      if n % 2 ^ 16 = 0xFFFF then (s.slot (slotAt (n / 2 ^ 16))).en && (Table.find s.walks (n / 2 ^ 16)).isNone
      else (Table.find s.walks (n / 2 ^ 16)).any fun w => w.paths.contains (n % 2 ^ 16)
    | 2 => (s.launches.any fun l => decide (l.2.id = n)) || s.retire.any fun x => decide (x.task.tid = n)
    | 3 => s.replies.any fun x => decide (x.tag = n) && decide (0 < x.left)
    | 4 => decide ((s.keySlot n).state = 2)
    | 5 => s.ctxs.any fun c => match c.2.task with | some t => decide (t.tid = n) | none => false
    | _ => false

/-- The requests of the partitions that still wait, and that they do: a partition with such a request is not idle in any cycle that it waits
through (R88). -/
def State.restamp (s : State) : State :=
  { s with parts := s.parts.map fun p =>
      let m := p.2.mline.filter (s.requestLives p.1)
      let w := p.2.fline.filter (s.requestLives p.1)
      (p.1, { p.2 with mline := m, fline := w, mwait := if m.isEmpty then p.2.mwait else some s.time
                       fwait := if w.isEmpty then p.2.fwait else some s.time }) }

/-- The end of a cycle: the STEALs of the cycle in ascending order of cores and contexts (R79), what waits at the ports (R87, R334), the
borrowing of tokens once every own request has been charged (R88), the heads that wait for their tag check (R348), a fuse bit while UPDATE_COMMIT
blows them (R114), the clusters' clocks (R443), then the next cycle; every 2^20 cycles a heat sweep falls due in each cluster (R221). (DEDUCED, log
entry 46.) -/
def State.endCycle (s : State) : State :=
  let ids := (s.ctxs.filter fun p => p.2.steal.isSome).map (·.1)
  let s1 := (State.verifyInputs (State.sendReplies (State.payInputs (ids.foldl (fun u i => u.answerSteal i) s)))).restamp.borrowAll
  let t := s1.time + 1
  let s2 := { s1 with time := t, turn := 0, monitor := if s1.monitor.committing then s1.monitor.blow else s1.monitor
                      clusters := s1.clusters.map fun k => (k.1, k.2.endCycle t) }
  if t % 2 ^ 20 = 0 then
    (List.range s2.clusterCount).foldl (fun u c => u.setCluster c { u.cluster c with sweeps := (u.cluster c).sweeps + 1 }) s2
  else s2

end Sys2Proof.Machine
end

