-- ==== Sys2Proof/Machine/Dispatch.lean ====
section
/-!
DEFINITION. One arm for each instruction and step: a direct call of its meaning.
-/

namespace Sys2Proof.Machine

/-- What an instruction does from a state. -/
def exec (i : Instr) (s : State) : Host.Outcome State Fault Refusal :=
  match i with
  | .br d => Sys2Proof.Machine.execBr d s
  | .bl g d => Sys2Proof.Machine.execBl g d s
  | .beqz g d => Sys2Proof.Machine.execBeqz g d s
  | .bnez g d => Sys2Proof.Machine.execBnez g d s
  | .bltz g d => Sys2Proof.Machine.execBltz g d s
  | .bgez g d => Sys2Proof.Machine.execBgez g d s
  | .bgtz g d => Sys2Proof.Machine.execBgtz g d s
  | .blez g d => Sys2Proof.Machine.execBlez g d s
  | .bmz d => Sys2Proof.Machine.execBmz d s
  | .jr a => Sys2Proof.Machine.execJr a s
  | .jlr d a => Sys2Proof.Machine.execJlr d a s
  | .tail => Sys2Proof.Machine.execTail s
  | .next d => Sys2Proof.Machine.execNext d s
  | .steal d => Sys2Proof.Machine.execSteal d s
  | .chkG a => Sys2Proof.Machine.execChkG a s
  | .chkV a => Sys2Proof.Machine.execChkV a s
  | .trap i0 => Sys2Proof.Machine.execTrap i0 s
  | .eret => Sys2Proof.Machine.execEret s
  | .mfsr d n => Sys2Proof.Machine.execMfsr d n s
  | .mtsr a n => Sys2Proof.Machine.execMtsr a n s
  | .featq d a i0 => Sys2Proof.Machine.execFeatq d a i0 s
  | .idle => Sys2Proof.Machine.execIdle s
  | .dbrk i0 => Sys2Proof.Machine.execDbrk i0 s
  | .prack => Sys2Proof.Machine.execPrack s
  | .mcrd d a w => Sys2Proof.Machine.execMcrd d a w s
  | .add d a b => Sys2Proof.Machine.execAdd d a b s
  | .sub d a b => Sys2Proof.Machine.execSub d a b s
  | .addi d a i0 => Sys2Proof.Machine.execAddi d a i0 s
  | .and d a b => Sys2Proof.Machine.execAnd d a b s
  | .or d a b => Sys2Proof.Machine.execOr d a b s
  | .xor d a b => Sys2Proof.Machine.execXor d a b s
  | .andi d a i0 => Sys2Proof.Machine.execAndi d a i0 s
  | .ori d a i0 => Sys2Proof.Machine.execOri d a i0 s
  | .xori d a i0 => Sys2Proof.Machine.execXori d a i0 s
  | .shl d a b => Sys2Proof.Machine.execShl d a b s
  | .shr d a b => Sys2Proof.Machine.execShr d a b s
  | .sar d a b => Sys2Proof.Machine.execSar d a b s
  | .shli d a c => Sys2Proof.Machine.execShli d a c s
  | .shri d a c => Sys2Proof.Machine.execShri d a c s
  | .sari d a c => Sys2Proof.Machine.execSari d a c s
  | .mul d a b => Sys2Proof.Machine.execMul d a b s
  | .mulh d a b => Sys2Proof.Machine.execMulh d a b s
  | .mulhn d a b => Sys2Proof.Machine.execMulhn d a b s
  | .div d a b => Sys2Proof.Machine.execDiv d a b s
  | .divn d a b => Sys2Proof.Machine.execDivn d a b s
  | .rem d a b => Sys2Proof.Machine.execRem d a b s
  | .remn d a b => Sys2Proof.Machine.execRemn d a b s
  | .cmpeq d a b => Sys2Proof.Machine.execCmpeq d a b s
  | .cmpne d a b => Sys2Proof.Machine.execCmpne d a b s
  | .cmplt d a b => Sys2Proof.Machine.execCmplt d a b s
  | .cmpltn d a b => Sys2Proof.Machine.execCmpltn d a b s
  | .cmple d a b => Sys2Proof.Machine.execCmple d a b s
  | .cmplen d a b => Sys2Proof.Machine.execCmplen d a b s
  | .cmpeqi d a i0 => Sys2Proof.Machine.execCmpeqi d a i0 s
  | .cmplti d a i0 => Sys2Proof.Machine.execCmplti d a i0 s
  | .sel d a b c => Sys2Proof.Machine.execSel d a b c s
  | .min d a b => Sys2Proof.Machine.execMin d a b s
  | .max d a b => Sys2Proof.Machine.execMax d a b s
  | .minn d a b => Sys2Proof.Machine.execMinn d a b s
  | .maxn d a b => Sys2Proof.Machine.execMaxn d a b s
  | .clz d a => Sys2Proof.Machine.execClz d a s
  | .ctz d a => Sys2Proof.Machine.execCtz d a s
  | .popc d a => Sys2Proof.Machine.execPopc d a s
  | .sext d a w => Sys2Proof.Machine.execSext d a w s
  | .zext d a w => Sys2Proof.Machine.execZext d a w s
  | .extr d a h o => Sys2Proof.Machine.execExtr d a h o s
  | .inshi d a i0 => Sys2Proof.Machine.execInshi d a i0 s
  | .cnarrow d a b c => Sys2Proof.Machine.execCnarrow d a b c s
  | .cperm d a m => Sys2Proof.Machine.execCperm d a m s
  | .cget d a s0 => Sys2Proof.Machine.execCget d a s0 s
  | .cmov d a => Sys2Proof.Machine.execCmov d a s
  | .cclr d => Sys2Proof.Machine.execCclr d s
  | .cchk d a b c => Sys2Proof.Machine.execCchk d a b c s
  | .ldI8 d k g i0 => Sys2Proof.Machine.execLdI8 d k g i0 s
  | .ldN8 d k g i0 => Sys2Proof.Machine.execLdN8 d k g i0 s
  | .ldI16 d k g i0 => Sys2Proof.Machine.execLdI16 d k g i0 s
  | .ldN16 d k g i0 => Sys2Proof.Machine.execLdN16 d k g i0 s
  | .ldI32 d k g i0 => Sys2Proof.Machine.execLdI32 d k g i0 s
  | .ldN32 d k g i0 => Sys2Proof.Machine.execLdN32 d k g i0 s
  | .ldI64 d k g i0 => Sys2Proof.Machine.execLdI64 d k g i0 s
  | .stI8 d k g i0 => Sys2Proof.Machine.execStI8 d k g i0 s
  | .stI16 d k g i0 => Sys2Proof.Machine.execStI16 d k g i0 s
  | .stI32 d k g i0 => Sys2Proof.Machine.execStI32 d k g i0 s
  | .stI64 d k g i0 => Sys2Proof.Machine.execStI64 d k g i0 s
  | .lds d k g i0 => Sys2Proof.Machine.execLds d k g i0 s
  | .vld d k g i0 => Sys2Proof.Machine.execVld d k g i0 s
  | .vst d k g i0 => Sys2Proof.Machine.execVst d k g i0 s
  | .vlds d k g i0 => Sys2Proof.Machine.execVlds d k g i0 s
  | .vldx d k x w s0 c z l => Sys2Proof.Machine.execVldx d k x w s0 c z l s
  | .vstx d k x w s0 c z l => Sys2Proof.Machine.execVstx d k x w s0 c z l s
  | .vldm d k g i0 => Sys2Proof.Machine.execVldm d k g i0 s
  | .vstm d k g i0 => Sys2Proof.Machine.execVstm d k g i0 s
  | .cld d k g i0 => Sys2Proof.Machine.execCld d k g i0 s
  | .cst d k g i0 => Sys2Proof.Machine.execCst d k g i0 s
  | .tlock k a b => Sys2Proof.Machine.execTlock k a b s
  | .tunlk k a b => Sys2Proof.Machine.execTunlk k a b s
  | .cbset h a b => Sys2Proof.Machine.execCbset h a b s
  | .cbwaitC h n => Sys2Proof.Machine.execCbwaitC h n s
  | .cbwaitP h n => Sys2Proof.Machine.execCbwaitP h n s
  | .cbadvC h n => Sys2Proof.Machine.execCbadvC h n s
  | .cbadvP h n => Sys2Proof.Machine.execCbadvP h n s
  | .vaddF d a b m t x => Sys2Proof.Machine.execVaddF d a b m t x s
  | .vsubF d a b m t x => Sys2Proof.Machine.execVsubF d a b m t x s
  | .vmulF d a b m t x => Sys2Proof.Machine.execVmulF d a b m t x s
  | .vfma d a b m t x => Sys2Proof.Machine.execVfma d a b m t x s
  | .vfnma d a b m t x => Sys2Proof.Machine.execVfnma d a b m t x s
  | .vminF d a b m t x => Sys2Proof.Machine.execVminF d a b m t x s
  | .vmaxF d a b m t x => Sys2Proof.Machine.execVmaxF d a b m t x s
  | .vabs d a m t x => Sys2Proof.Machine.execVabs d a m t x s
  | .vneg d a m t x => Sys2Proof.Machine.execVneg d a m t x s
  | .vrcp d a m t x => Sys2Proof.Machine.execVrcp d a m t x s
  | .vrsq d a m t x => Sys2Proof.Machine.execVrsq d a m t x s
  | .vexp2 d a m t x => Sys2Proof.Machine.execVexp2 d a m t x s
  | .vlog2 d a m t x => Sys2Proof.Machine.execVlog2 d a m t x s
  | .vcmpEqF d a b m t x => Sys2Proof.Machine.execVcmpEqF d a b m t x s
  | .vcmpLtF d a b m t x => Sys2Proof.Machine.execVcmpLtF d a b m t x s
  | .vcmpLeF d a b m t x => Sys2Proof.Machine.execVcmpLeF d a b m t x s
  | .vaddI d a b m t x => Sys2Proof.Machine.execVaddI d a b m t x s
  | .vsubI d a b m t x => Sys2Proof.Machine.execVsubI d a b m t x s
  | .vmulI d a b m t x => Sys2Proof.Machine.execVmulI d a b m t x s
  | .vmad d a b m t x => Sys2Proof.Machine.execVmad d a b m t x s
  | .vadds d a b m t x => Sys2Proof.Machine.execVadds d a b m t x s
  | .vsubs d a b m t x => Sys2Proof.Machine.execVsubs d a b m t x s
  | .vminI d a b m t x => Sys2Proof.Machine.execVminI d a b m t x s
  | .vmaxI d a b m t x => Sys2Proof.Machine.execVmaxI d a b m t x s
  | .vand d a b m t x => Sys2Proof.Machine.execVand d a b m t x s
  | .vor d a b m t x => Sys2Proof.Machine.execVor d a b m t x s
  | .vxor d a b m t x => Sys2Proof.Machine.execVxor d a b m t x s
  | .vshl d a b m t x => Sys2Proof.Machine.execVshl d a b m t x s
  | .vshr d a b m t x => Sys2Proof.Machine.execVshr d a b m t x s
  | .vcmpEqI d a b m t x => Sys2Proof.Machine.execVcmpEqI d a b m t x s
  | .vcmpLtI d a b m t x => Sys2Proof.Machine.execVcmpLtI d a b m t x s
  | .vcmpLeI d a b m t x => Sys2Proof.Machine.execVcmpLeI d a b m t x s
  | .vcvt d a y z s0 m t x => Sys2Proof.Machine.execVcvt d a y z s0 m t x s
  | .vpack d a b m t x => Sys2Proof.Machine.execVpack d a b m t x s
  | .vunpk d a b m t x => Sys2Proof.Machine.execVunpk d a b m t x s
  | .vsplit d a b x => Sys2Proof.Machine.execVsplit d a b x s
  | .vclz d a m t x => Sys2Proof.Machine.execVclz d a m t x s
  | .vrcmb d a g x => Sys2Proof.Machine.execVrcmb d a g x s
  | .vamax d a m t x => Sys2Proof.Machine.execVamax d a m t x s
  | .vrsumF d a m t x => Sys2Proof.Machine.execVrsumF d a m t x s
  | .vrmaxF d a m t x => Sys2Proof.Machine.execVrmaxF d a m t x s
  | .vrsumI d a m t x => Sys2Proof.Machine.execVrsumI d a m t x s
  | .vrmaxI d a m t x => Sys2Proof.Machine.execVrmaxI d a m t x s
  | .vmov d a m t x => Sys2Proof.Machine.execVmov d a m t x s
  | .vsel d a b m t x => Sys2Proof.Machine.execVsel d a b m t x s
  | .vbcst d a m t => Sys2Proof.Machine.execVbcst d a m t s
  | .vext d a n t x => Sys2Proof.Machine.execVext d a n t x s
  | .vins d a n t => Sys2Proof.Machine.execVins d a n t s
  | .mskpsh a => Sys2Proof.Machine.execMskpsh a s
  | .mskinv => Sys2Proof.Machine.execMskinv s
  | .mskpop => Sys2Proof.Machine.execMskpop s
  | .mskand d a b => Sys2Proof.Machine.execMskand d a b s
  | .mskor d a b => Sys2Proof.Machine.execMskor d a b s
  | .mskmov d a => Sys2Proof.Machine.execMskmov d a s
  | .viota d m t => Sys2Proof.Machine.execViota d m t s
  | .vscalb d a b m t x => Sys2Proof.Machine.execVscalb d a b m t x s
  | .xcfg a b => Sys2Proof.Machine.execXcfg a b s
  | .xcfgSl s0 => Sys2Proof.Machine.execXcfgSl s0 s
  | .xacq => Sys2Proof.Machine.execXacq s
  | .xrel => Sys2Proof.Machine.execXrel s
  | .xpushA k a b => Sys2Proof.Machine.execXpushA k a b s
  | .xpushW k a b => Sys2Proof.Machine.execXpushW k a b s
  | .xflip => Sys2Proof.Machine.execXflip s
  | .xshift => Sys2Proof.Machine.execXshift s
  | .xscl r s0 => Sys2Proof.Machine.execXscl r s0 s
  | .xacc t a b => Sys2Proof.Machine.execXacc t a b s
  | .xdrain t a b m => Sys2Proof.Machine.execXdrain t a b m s
  | .xzero t => Sys2Proof.Machine.execXzero t s
  | .xwait => Sys2Proof.Machine.execXwait s
  | .xres r => Sys2Proof.Machine.execXres r s
  | .xmpc r => Sys2Proof.Machine.execXmpc r s
  | .xhdr t a b m => Sys2Proof.Machine.execXhdr t a b m s
  | .xsete t a => Sys2Proof.Machine.execXsete t a s
  | .xclrf t => Sys2Proof.Machine.execXclrf t s
  | .xmark t a b m => Sys2Proof.Machine.execXmark t a b m s
  | .fadd k a s0 => Sys2Proof.Machine.execFadd k a s0 s
  | .fwait k a s0 => Sys2Proof.Machine.execFwait k a s0 s
  | .binit k a s0 => Sys2Proof.Machine.execBinit k a s0 s
  | .barrive k a s0 => Sys2Proof.Machine.execBarrive k a s0 s
  | .bwait k a s0 => Sys2Proof.Machine.execBwait k a s0 s
  | .babort k a s0 => Sys2Proof.Machine.execBabort k a s0 s
  | .gjoin k a => Sys2Proof.Machine.execGjoin k a s
  | .gleave k a => Sys2Proof.Machine.execGleave k a s
  | .fence s0 => Sys2Proof.Machine.execFence s0 s
  | .qfence q => Sys2Proof.Machine.execQfence q s
  | .ald d k a s0 z l => Sys2Proof.Machine.execAld d k a s0 z l s
  | .ast d k a s0 z l => Sys2Proof.Machine.execAst d k a s0 z l s
  | .aadd d k a u s0 z l => Sys2Proof.Machine.execAadd d k a u s0 z l s
  | .aand d k a u s0 z l => Sys2Proof.Machine.execAand d k a u s0 z l s
  | .aor d k a u s0 z l => Sys2Proof.Machine.execAor d k a u s0 z l s
  | .axor d k a u s0 z l => Sys2Proof.Machine.execAxor d k a u s0 z l s
  | .amin d k a u s0 z l => Sys2Proof.Machine.execAmin d k a u s0 z l s
  | .amax d k a u s0 z l => Sys2Proof.Machine.execAmax d k a u s0 z l s
  | .aminn d k a u s0 z l => Sys2Proof.Machine.execAminn d k a u s0 z l s
  | .amaxn d k a u s0 z l => Sys2Proof.Machine.execAmaxn d k a u s0 z l s
  | .axchg d k a u s0 z l => Sys2Proof.Machine.execAxchg d k a u s0 z l s
  | .acas d k a u s0 z l => Sys2Proof.Machine.execAcas d k a u s0 z l s
  | .amaxrs d k a u s0 z l => Sys2Proof.Machine.execAmaxrs d k a u s0 z l s
  | .ascAdd d k a z l => Sys2Proof.Machine.execAscAdd d k a z l s
  | .ascXchg d k a z l => Sys2Proof.Machine.execAscXchg d k a z l s
  | .ascCas d k a z l => Sys2Proof.Machine.execAscCas d k a z l s
  | .ascLd d k a z l => Sys2Proof.Machine.execAscLd d k a z l s
  | .ascSt d k a z l => Sys2Proof.Machine.execAscSt d k a z l s
  | .ascMax d k a z l => Sys2Proof.Machine.execAscMax d k a z l s
  | .cpy s0 d a b => Sys2Proof.Machine.execCpy s0 d a b s
  | .cpys s0 d a b => Sys2Proof.Machine.execCpys s0 d a b s
  | .cpyg s0 d a b => Sys2Proof.Machine.execCpyg s0 d a b s
  | .cpycb s0 h a b => Sys2Proof.Machine.execCpycb s0 h a b s
  | .rput e c k a b => Sys2Proof.Machine.execRput e c k a b s
  | .rputf e c k a b => Sys2Proof.Machine.execRputf e c k a b s
  | .rputs e c k a b => Sys2Proof.Machine.execRputs e c k a b s
  | .rsemadd e k a => Sys2Proof.Machine.execRsemadd e k a s
  | .rpull e c k a b => Sys2Proof.Machine.execRpull e c k a b s
  | .rputsf e c k a b => Sys2Proof.Machine.execRputsf e c k a b s
  | .nop => Sys2Proof.Machine.execNop s
  | .hint k o p l => Sys2Proof.Machine.execHint k o p l s
  | .imageLoad f img => Sys2Proof.Machine.execImageLoad f img s
  | .unload inst => Sys2Proof.Machine.execUnload inst s
  | .unloadComplete inst => Sys2Proof.Machine.execUnloadComplete inst s
  | .launchSlotWrite f q w v => Sys2Proof.Machine.execLaunchSlotWrite f q w v s
  | .walkStart q => Sys2Proof.Machine.execWalkStart q s
  | .skeinNodeVisit q n => Sys2Proof.Machine.execSkeinNodeVisit q n s
  | .joinNodeVisit q n => Sys2Proof.Machine.execJoinNodeVisit q n s
  | .conditionalNodeVisit q n => Sys2Proof.Machine.execConditionalNodeVisit q n s
  | .whileNodeVisit q n => Sys2Proof.Machine.execWhileNodeVisit q n s
  | .flagNodeVisit q n => Sys2Proof.Machine.execFlagNodeVisit q n s
  | .leaseEstablish l granted => Sys2Proof.Machine.execLeaseEstablish l granted s
  | .routerTableLoad l => Sys2Proof.Machine.execRouterTableLoad l s
  | .taskPlace l => Sys2Proof.Machine.execTaskPlace l s
  | .completionRecordWrite core task => Sys2Proof.Machine.execCompletionRecordWrite core task s
  | .skeinNodeComplete l => Sys2Proof.Machine.execSkeinNodeComplete l s
  | .descriptorWrite f d => Sys2Proof.Machine.execDescriptorWrite f d s
  | .create f => Sys2Proof.Machine.execCreate f s
  | .wheelMaskWrite p mask => Sys2Proof.Machine.execWheelMaskWrite p mask s
  | .tokenRefill => Sys2Proof.Machine.execTokenRefill s
  | .releaseRequest f destroy => Sys2Proof.Machine.execReleaseRequest f destroy s
  | .functionLevelReset f => Sys2Proof.Machine.execFunctionLevelReset f s
  | .releaseQuiesced f => Sys2Proof.Machine.execReleaseQuiesced f s
  | .zeroingComplete f => Sys2Proof.Machine.execZeroingComplete f s
  | .registerWrite r v => Sys2Proof.Machine.execRegisterWrite r v s
  | .arbiterCycle core => Sys2Proof.Machine.execArbiterCycle core s
  | .resultLand id => Sys2Proof.Machine.execResultLand id s
  | .loadReturn n => Sys2Proof.Machine.execLoadReturn n s
  | .divideComplete n => Sys2Proof.Machine.execDivideComplete n s
  | .mkeyCreate f => Sys2Proof.Machine.execMkeyCreate f s
  | .slotZeroise slot => Sys2Proof.Machine.execSlotZeroise slot s
  | .rotate slot ranges => Sys2Proof.Machine.execRotate slot ranges s
  | .rotationSweepLine slot => Sys2Proof.Machine.execRotationSweepLine slot s
  | .updateStage img => Sys2Proof.Machine.execUpdateStage img s
  | .updateSwitch handover version => Sys2Proof.Machine.execUpdateSwitch handover version s
  | .heartbeat => Sys2Proof.Machine.execHeartbeat s
  | .updateTrialTimeout => Sys2Proof.Machine.execUpdateTrialTimeout s
  | .updateCommit => Sys2Proof.Machine.execUpdateCommit s
  | .bootrecClear mask => Sys2Proof.Machine.execBootrecClear mask s
  | .spindleQuiesce die => Sys2Proof.Machine.execSpindleQuiesce die s
  | .getVersion f => Sys2Proof.Machine.execGetVersion f s
  | .getCapabilities f => Sys2Proof.Machine.execGetCapabilities f s
  | .negotiateAlgorithms f => Sys2Proof.Machine.execNegotiateAlgorithms f s
  | .getDigests f => Sys2Proof.Machine.execGetDigests f s
  | .getCertificate f certSlot => Sys2Proof.Machine.execGetCertificate f certSlot s
  | .challenge f => Sys2Proof.Machine.execChallenge f s
  | .getMeasurements f index => Sys2Proof.Machine.execGetMeasurements f index s
  | .keyExchange f => Sys2Proof.Machine.execKeyExchange f s
  | .finish f sess => Sys2Proof.Machine.execFinish f sess s
  | .spdmHeartbeat f sess => Sys2Proof.Machine.execSpdmHeartbeat f sess s
  | .keyUpdate f sess => Sys2Proof.Machine.execKeyUpdate f sess s
  | .endSession f sess => Sys2Proof.Machine.execEndSession f sess s
  | .chunkGet f => Sys2Proof.Machine.execChunkGet f s
  | .sealProvision f sess slot olines key pdigest rot => Sys2Proof.Machine.execSealProvision f sess slot olines key pdigest rot s
  | .sealRevoke f sess slot => Sys2Proof.Machine.execSealRevoke f sess slot s
  | .spdmUnsupportedRequest f => Sys2Proof.Machine.execSpdmUnsupportedRequest f s
  | .sealedSlotTransfer slot peer load => Sys2Proof.Machine.execSealedSlotTransfer slot peer load s
  | .slotTransferConfirm slot => Sys2Proof.Machine.execSlotTransferConfirm slot s
  | .xpushAPerform core => Sys2Proof.Machine.execXpushAPerform core s
  | .xpushWPerform core => Sys2Proof.Machine.execXpushWPerform core s
  | .xflipPerform core => Sys2Proof.Machine.execXflipPerform core s
  | .xsclPerform core => Sys2Proof.Machine.execXsclPerform core s
  | .xshiftPerform core => Sys2Proof.Machine.execXshiftPerform core s
  | .xaccPerform core => Sys2Proof.Machine.execXaccPerform core s
  | .xdrainPerform core => Sys2Proof.Machine.execXdrainPerform core s
  | .xzeroPerform core => Sys2Proof.Machine.execXzeroPerform core s
  | .xsetePerform core => Sys2Proof.Machine.execXsetePerform core s
  | .xclrfPerform core => Sys2Proof.Machine.execXclrfPerform core s
  | .xmarkPerform core => Sys2Proof.Machine.execXmarkPerform core s
  | .xcfgPerform core => Sys2Proof.Machine.execXcfgPerform core s
  | .arrayAcquire core => Sys2Proof.Machine.execArrayAcquire core s
  | .xrelComplete id => Sys2Proof.Machine.execXrelComplete id s
  | .fwaitComplete id => Sys2Proof.Machine.execFwaitComplete id s
  | .bwaitComplete id => Sys2Proof.Machine.execBwaitComplete id s
  | .cbwaitComplete id => Sys2Proof.Machine.execCbwaitComplete id s
  | .xwaitComplete id => Sys2Proof.Machine.execXwaitComplete id s
  | .tlockComplete id => Sys2Proof.Machine.execTlockComplete id s
  | .copyBeat n => Sys2Proof.Machine.execCopyBeat n s
  | .cbEscape core => Sys2Proof.Machine.execCbEscape core s
  | .heatSweep cluster => Sys2Proof.Machine.execHeatSweep cluster s
  | .shootdown f space va => Sys2Proof.Machine.execShootdown f space va s
  | .dirtyHarvest f va => Sys2Proof.Machine.execDirtyHarvest f va s
  | .discardReclaim f va => Sys2Proof.Machine.execDiscardReclaim f va s
  | .writePropagate n => Sys2Proof.Machine.execWritePropagate n s
  | .atomicPerform n => Sys2Proof.Machine.execAtomicPerform n s
  | .qntFlush n => Sys2Proof.Machine.execQntFlush n s
  | .ascPerform n => Sys2Proof.Machine.execAscPerform n s
  | .fenceComplete id => Sys2Proof.Machine.execFenceComplete id s
  | .qfenceComplete id => Sys2Proof.Machine.execQfenceComplete id s
  | .groupDrainComplete l1 slot => Sys2Proof.Machine.execGroupDrainComplete l1 slot s
  | .remoteChannelEntry n => Sys2Proof.Machine.execRemoteChannelEntry n s
  | .put src => Sys2Proof.Machine.execPut src s
  | .putf src => Sys2Proof.Machine.execPutf src s
  | .putfFlagAdd n => Sys2Proof.Machine.execPutfFlagAdd n s
  | .semadd src => Sys2Proof.Machine.execSemadd src s
  | .pullreq src => Sys2Proof.Machine.execPullreq src s
  | .pulldata n data => Sys2Proof.Machine.execPulldata n data s
  | .ack n r => Sys2Proof.Machine.execAck n r s
  | .nack n r reason => Sys2Proof.Machine.execNack n r reason s
  | .rankEntryWrite l1 job rank v => Sys2Proof.Machine.execRankEntryWrite l1 job rank v s
  | .holdDrainReport l1 job rank => Sys2Proof.Machine.execHoldDrainReport l1 job rank s
  | .flitTagFail f => Sys2Proof.Machine.execFlitTagFail f s
  | .linkRekey port => Sys2Proof.Machine.execLinkRekey port s
  | .rankLost l1 job rank => Sys2Proof.Machine.execRankLost l1 job rank s
  | .pageRequestResponse f page gen epoch ok => Sys2Proof.Machine.execPageRequestResponse f page gen epoch ok s
  | .hostTranslationInvalidate f page => Sys2Proof.Machine.execHostTranslationInvalidate f page s
  | .hostWrite f space addr data => Sys2Proof.Machine.execHostWrite f space addr data s
  | .hostRead f space addr len => Sys2Proof.Machine.execHostRead f space addr len s
  | .intpost f w => Sys2Proof.Machine.execIntpost f w s
  | .trapEntry id => Sys2Proof.Machine.execTrapEntry id s
  | .timer id => Sys2Proof.Machine.execTimer id s
  | .interrupt id => Sys2Proof.Machine.execInterrupt id s
  | .preemptRequest id => Sys2Proof.Machine.execPreemptRequest id s
  | .preempt id => Sys2Proof.Machine.execPreempt id s
  | .gracefulPreemptRequest id g => Sys2Proof.Machine.execGracefulPreemptRequest id g s
  | .graceExpire id => Sys2Proof.Machine.execGraceExpire id s
  | .switchIn id => Sys2Proof.Machine.execSwitchIn id s
  | .debugAttach id => Sys2Proof.Machine.execDebugAttach id s
  | .debugResume id => Sys2Proof.Machine.execDebugResume id s
  | .debugRead id plane off => Sys2Proof.Machine.execDebugRead id plane off s
  | .machineCheck unit addr who => Sys2Proof.Machine.execMachineCheck unit addr who s
  | .clusterGate c => Sys2Proof.Machine.execClusterGate c s
  | .clusterWake c => Sys2Proof.Machine.execClusterWake c s
  | .capWrite c v => Sys2Proof.Machine.execCapWrite c v s
  | .freqChange c r => Sys2Proof.Machine.execFreqChange c r s
  | .deviceStart t => Sys2Proof.Machine.execDeviceStart t s
  | .powerLoss => Sys2Proof.Machine.execPowerLoss s
  | .linkReturn port => Sys2Proof.Machine.execLinkReturn port s
  | .spindleResume die => Sys2Proof.Machine.execSpindleResume die s
  | .reEncryptingMove src dst => Sys2Proof.Machine.execReEncryptingMove src dst s
  | .debugDetach id => Sys2Proof.Machine.execDebugDetach id s
  | .lostChannelPair x_i => Sys2Proof.Machine.execLostChannelPair x_i s

end Sys2Proof.Machine
end

