-- ==== Sys2Proof/Machine/Usage.lean ====
section
/-!
DEFINITION. The registers that an instruction names, and those that it writes with an interlocked result (R158, R160): by these a
bundle is HELD.
-/

namespace Sys2Proof.Machine

/-- The `n` g registers of a block (R143). -/
def namedBlock (a n : Nat) : List Reg := (List.range n).map fun i => .g (a + i)
/-- The barrier capability of a BA form, and the offset register that follows its block (R143). -/
def namedBar (a n : Nat) (b : Option (Fin 32)) : List Reg :=
  match b with
  | none => []
  | some k => [.k k.val, .g (a + n)]
/-- The mask register of an MSK field; 0 selects the stack (R126). -/
def namedMask (m : Nat) : List Reg := if m = 0 then [] else [.m m]

/-- The g, v, m and k registers that an instruction reads or writes. -/
def namedRegs (i : Instr) : List Reg :=
  match i with
  | .br _ => []
  | .bl g _ => [.g g.val]
  | .beqz g _ => [.g g.val]
  | .bnez g _ => [.g g.val]
  | .bltz g _ => [.g g.val]
  | .bgez g _ => [.g g.val]
  | .bgtz g _ => [.g g.val]
  | .blez g _ => [.g g.val]
  | .bmz _ => []
  | .jr a => [.g a.val]
  | .jlr d a => [.g d.val, .g a.val]
  | .tail => []
  | .next d => [.g d.val, .g 1, .g 2, .g 3, .g 4, .g 6]
  | .steal d => [.g d.val]
  | .chkG a => [.g a.val]
  | .chkV a => [.v a.val]
  | .trap _ => []
  | .eret => []
  | .mfsr d _ => [.g d.val]
  | .mtsr a _ => [.g a.val]
  | .featq d a _ => [.g d.val, .g a.val]
  | .idle => []
  | .dbrk _ => []
  | .prack => []
  | .mcrd d a _ => [.g d.val, .g a.val]
  | .add d a b => [.g d.val, .g a.val, .g b.val]
  | .sub d a b => [.g d.val, .g a.val, .g b.val]
  | .addi d a _ => [.g d.val, .g a.val]
  | .and d a b => [.g d.val, .g a.val, .g b.val]
  | .or d a b => [.g d.val, .g a.val, .g b.val]
  | .xor d a b => [.g d.val, .g a.val, .g b.val]
  | .andi d a _ => [.g d.val, .g a.val]
  | .ori d a _ => [.g d.val, .g a.val]
  | .xori d a _ => [.g d.val, .g a.val]
  | .shl d a b => [.g d.val, .g a.val, .g b.val]
  | .shr d a b => [.g d.val, .g a.val, .g b.val]
  | .sar d a b => [.g d.val, .g a.val, .g b.val]
  | .shli d a _ => [.g d.val, .g a.val]
  | .shri d a _ => [.g d.val, .g a.val]
  | .sari d a _ => [.g d.val, .g a.val]
  | .mul d a b => [.g d.val, .g a.val, .g b.val]
  | .mulh d a b => [.g d.val, .g a.val, .g b.val]
  | .mulhn d a b => [.g d.val, .g a.val, .g b.val]
  | .div d a b => [.g d.val, .g a.val, .g b.val]
  | .divn d a b => [.g d.val, .g a.val, .g b.val]
  | .rem d a b => [.g d.val, .g a.val, .g b.val]
  | .remn d a b => [.g d.val, .g a.val, .g b.val]
  | .cmpeq d a b => [.g d.val, .g a.val, .g b.val]
  | .cmpne d a b => [.g d.val, .g a.val, .g b.val]
  | .cmplt d a b => [.g d.val, .g a.val, .g b.val]
  | .cmpltn d a b => [.g d.val, .g a.val, .g b.val]
  | .cmple d a b => [.g d.val, .g a.val, .g b.val]
  | .cmplen d a b => [.g d.val, .g a.val, .g b.val]
  | .cmpeqi d a _ => [.g d.val, .g a.val]
  | .cmplti d a _ => [.g d.val, .g a.val]
  | .sel d a b c => [.g d.val, .g a.val, .g b.val, .g c.val]
  | .min d a b => [.g d.val, .g a.val, .g b.val]
  | .max d a b => [.g d.val, .g a.val, .g b.val]
  | .minn d a b => [.g d.val, .g a.val, .g b.val]
  | .maxn d a b => [.g d.val, .g a.val, .g b.val]
  | .clz d a => [.g d.val, .g a.val]
  | .ctz d a => [.g d.val, .g a.val]
  | .popc d a => [.g d.val, .g a.val]
  | .sext d a _ => [.g d.val, .g a.val]
  | .zext d a _ => [.g d.val, .g a.val]
  | .extr d a _ _ => [.g d.val, .g a.val]
  | .inshi d a _ => [.g d.val, .g a.val]
  | .cnarrow d a b c => [.k d.val, .k a.val, .g b.val, .g c.val]
  | .cperm d a _ => [.k d.val, .k a.val]
  | .cget d a _ => [.g d.val, .k a.val]
  | .cmov d a => [.k d.val, .k a.val]
  | .cclr d => [.k d.val]
  | .cchk d a b c => [.g d.val, .k a.val, .g b.val, .g c.val]
  | .ldI8 d k g _ => [.g d.val, .k k.val, .g g.val]
  | .ldN8 d k g _ => [.g d.val, .k k.val, .g g.val]
  | .ldI16 d k g _ => [.g d.val, .k k.val, .g g.val]
  | .ldN16 d k g _ => [.g d.val, .k k.val, .g g.val]
  | .ldI32 d k g _ => [.g d.val, .k k.val, .g g.val]
  | .ldN32 d k g _ => [.g d.val, .k k.val, .g g.val]
  | .ldI64 d k g _ => [.g d.val, .k k.val, .g g.val]
  | .stI8 d k g _ => [.g d.val, .k k.val, .g g.val]
  | .stI16 d k g _ => [.g d.val, .k k.val, .g g.val]
  | .stI32 d k g _ => [.g d.val, .k k.val, .g g.val]
  | .stI64 d k g _ => [.g d.val, .k k.val, .g g.val]
  | .lds d k g _ => [.g d.val, .k k.val, .g g.val]
  | .vld d k g _ => [.v d.val, .k k.val, .g g.val]
  | .vst d k g _ => [.v d.val, .k k.val, .g g.val]
  | .vlds d k g _ => [.v d.val, .k k.val, .g g.val]
  | .vldx d k x _ _ _ _ _ => [.v d.val, .k k.val, .v x.val]
  | .vstx d k x _ _ _ _ _ => [.v d.val, .k k.val, .v x.val]
  | .vldm d k g _ => [.m d.val, .k k.val, .g g.val]
  | .vstm d k g _ => [.m d.val, .k k.val, .g g.val]
  | .cld d k g _ => [.k d.val, .k k.val, .g g.val]
  | .cst d k g _ => [.k d.val, .k k.val, .g g.val]
  | .tlock k a b => [.k k.val, .g a.val, .g b.val]
  | .tunlk k a b => [.k k.val, .g a.val, .g b.val]
  | .cbset _ a b => [.g a.val, .g b.val]
  | .cbwaitC _ _ => []
  | .cbwaitP _ _ => []
  | .cbadvC _ _ => []
  | .cbadvP _ _ => []
  | .vaddF d a b m _ _ => [.v d.val, .v a.val, .v b.val] ++ namedMask m.val
  | .vsubF d a b m _ _ => [.v d.val, .v a.val, .v b.val] ++ namedMask m.val
  | .vmulF d a b m _ _ => [.v d.val, .v a.val, .v b.val] ++ namedMask m.val
  | .vfma d a b m _ _ => [.v d.val, .v a.val, .v b.val] ++ namedMask m.val
  | .vfnma d a b m _ _ => [.v d.val, .v a.val, .v b.val] ++ namedMask m.val
  | .vminF d a b m _ _ => [.v d.val, .v a.val, .v b.val] ++ namedMask m.val
  | .vmaxF d a b m _ _ => [.v d.val, .v a.val, .v b.val] ++ namedMask m.val
  | .vabs d a m _ _ => [.v d.val, .v a.val] ++ namedMask m.val
  | .vneg d a m _ _ => [.v d.val, .v a.val] ++ namedMask m.val
  | .vrcp d a m _ _ => [.v d.val, .v a.val] ++ namedMask m.val
  | .vrsq d a m _ _ => [.v d.val, .v a.val] ++ namedMask m.val
  | .vexp2 d a m _ _ => [.v d.val, .v a.val] ++ namedMask m.val
  | .vlog2 d a m _ _ => [.v d.val, .v a.val] ++ namedMask m.val
  | .vcmpEqF d a b m _ _ => [.m d.val, .v a.val, .v b.val] ++ namedMask m.val
  | .vcmpLtF d a b m _ _ => [.m d.val, .v a.val, .v b.val] ++ namedMask m.val
  | .vcmpLeF d a b m _ _ => [.m d.val, .v a.val, .v b.val] ++ namedMask m.val
  | .vaddI d a b m _ _ => [.v d.val, .v a.val, .v b.val] ++ namedMask m.val
  | .vsubI d a b m _ _ => [.v d.val, .v a.val, .v b.val] ++ namedMask m.val
  | .vmulI d a b m _ _ => [.v d.val, .v a.val, .v b.val] ++ namedMask m.val
  | .vmad d a b m _ _ => [.v d.val, .v a.val, .v b.val] ++ namedMask m.val
  | .vadds d a b m _ _ => [.v d.val, .v a.val, .v b.val] ++ namedMask m.val
  | .vsubs d a b m _ _ => [.v d.val, .v a.val, .v b.val] ++ namedMask m.val
  | .vminI d a b m _ _ => [.v d.val, .v a.val, .v b.val] ++ namedMask m.val
  | .vmaxI d a b m _ _ => [.v d.val, .v a.val, .v b.val] ++ namedMask m.val
  | .vand d a b m _ _ => [.v d.val, .v a.val, .v b.val] ++ namedMask m.val
  | .vor d a b m _ _ => [.v d.val, .v a.val, .v b.val] ++ namedMask m.val
  | .vxor d a b m _ _ => [.v d.val, .v a.val, .v b.val] ++ namedMask m.val
  | .vshl d a b m _ _ => [.v d.val, .v a.val, .v b.val] ++ namedMask m.val
  | .vshr d a b m _ _ => [.v d.val, .v a.val, .v b.val] ++ namedMask m.val
  | .vcmpEqI d a b m _ _ => [.m d.val, .v a.val, .v b.val] ++ namedMask m.val
  | .vcmpLtI d a b m _ _ => [.m d.val, .v a.val, .v b.val] ++ namedMask m.val
  | .vcmpLeI d a b m _ _ => [.m d.val, .v a.val, .v b.val] ++ namedMask m.val
  | .vcvt d a _ _ _ m _ _ => [.v d.val, .v a.val] ++ namedMask m.val
  | .vpack d a b m _ _ => [.v d.val, .v a.val, .v b.val] ++ namedMask m.val
  | .vunpk d a b m _ _ => [.v d.val, .v a.val, .v b.val] ++ namedMask m.val
  | .vsplit d a b x => [.v d.val, .v a.val, .v b.val, .m (x.toNat / 16 % 8)]
  | .vclz d a m _ _ => [.v d.val, .v a.val] ++ namedMask m.val
  | .vrcmb d a g _ => [.v d.val, .v a.val, .g g.val]
  | .vamax d a m _ _ => [.v d.val, .v a.val] ++ namedMask m.val
  | .vrsumF d a m _ _ => [.v d.val, .v a.val] ++ namedMask m.val
  | .vrmaxF d a m _ _ => [.v d.val, .v a.val] ++ namedMask m.val
  | .vrsumI d a m _ _ => [.v d.val, .v a.val] ++ namedMask m.val
  | .vrmaxI d a m _ _ => [.v d.val, .v a.val] ++ namedMask m.val
  | .vmov d a m _ _ => [.v d.val, .v a.val] ++ namedMask m.val
  | .vsel d a b m _ _ => [.v d.val, .v a.val, .v b.val] ++ namedMask m.val
  | .vbcst d a m _ => [.v d.val, .g a.val] ++ namedMask m.val
  | .vext d a _ _ _ => [.g d.val, .v a.val]
  | .vins d a _ _ => [.v d.val, .g a.val]
  | .mskpsh a => namedMask a.val
  | .mskinv => []
  | .mskpop => []
  | .mskand d a b => [.m d.val] ++ namedMask a.val ++ namedMask b.val
  | .mskor d a b => [.m d.val] ++ namedMask a.val ++ namedMask b.val
  | .mskmov d a => [.m d.val] ++ namedMask a.val
  | .viota d m _ => [.v d.val] ++ namedMask m.val
  | .vscalb d a b m _ _ => [.v d.val, .v a.val, .v b.val] ++ namedMask m.val
  | .xcfg _ _ => []
  | .xcfgSl _ => []
  | .xacq => []
  | .xrel => []
  | .xpushA k a b => [.k k.val, .g a.val, .g b.val]
  | .xpushW k a b => [.k k.val, .g a.val, .g b.val]
  | .xflip => []
  | .xshift => []
  | .xscl r _ => [.v r.val]
  | .xacc _ a b => [.g a.val, .g b.val]
  | .xdrain _ a b _ => [.g a.val, .v b.val]
  | .xzero _ => []
  | .xwait => []
  | .xres r => [.g r.val, .g (r.val + 1), .g (r.val + 2)]
  | .xmpc r => [.g r.val]
  | .xhdr _ a b _ => [.g a.val, .g b.val]
  | .xsete _ a => [.g a.val]
  | .xclrf _ => []
  | .xmark _ a b _ => [.g a.val, .g b.val]
  | .fadd k a _ => [.k k.val] ++ namedBlock a.val 2
  | .fwait k a _ => [.k k.val] ++ namedBlock a.val 2
  | .binit k a _ => [.k k.val] ++ namedBlock a.val 2
  | .barrive k a _ => [.k k.val] ++ namedBlock a.val 1
  | .bwait k a _ => [.k k.val] ++ namedBlock a.val 1
  | .babort k a _ => [.k k.val] ++ namedBlock a.val 1
  | .gjoin k a => [.k k.val] ++ namedBlock a.val 1
  | .gleave k a => [.k k.val] ++ namedBlock a.val 1
  | .fence _ => []
  | .qfence _ => []
  | .ald d k a _ _ _ => [.g d.val, .k k.val, .g a.val]
  | .ast d k a _ _ _ => [.g d.val, .k k.val, .g a.val]
  | .aadd d k a _ _ _ _ => [.g d.val, .k k.val, .g a.val]
  | .aand d k a _ _ _ _ => [.g d.val, .k k.val, .g a.val]
  | .aor d k a _ _ _ _ => [.g d.val, .k k.val, .g a.val]
  | .axor d k a _ _ _ _ => [.g d.val, .k k.val, .g a.val]
  | .amin d k a _ _ _ _ => [.g d.val, .k k.val, .g a.val]
  | .amax d k a _ _ _ _ => [.g d.val, .k k.val, .g a.val]
  | .aminn d k a _ _ _ _ => [.g d.val, .k k.val, .g a.val]
  | .amaxn d k a _ _ _ _ => [.g d.val, .k k.val, .g a.val]
  | .axchg d k a _ _ _ _ => [.g d.val, .k k.val, .g a.val]
  | .acas d k a _ _ _ _ => [.g d.val, .g (d.val + 1), .k k.val, .g a.val]
  | .amaxrs d k a _ _ _ _ => [.g d.val, .k k.val, .g a.val]
  | .ascAdd d k a _ _ => [.g d.val, .k k.val, .g a.val]
  | .ascXchg d k a _ _ => [.g d.val, .k k.val, .g a.val]
  | .ascCas d k a _ _ => [.g d.val, .g (d.val + 1), .k k.val, .g a.val]
  | .ascLd d k a _ _ => [.g d.val, .k k.val, .g a.val]
  | .ascSt d k a _ _ => [.g d.val, .k k.val, .g a.val]
  | .ascMax d k a _ _ => [.g d.val, .k k.val, .g a.val]
  | .cpy s d a b => [.k s.val, .k d.val] ++ namedBlock a.val 3 ++ namedBar a.val 3 b
  | .cpys s d a b => [.k s.val, .k d.val] ++ namedBlock a.val 6 ++ namedBar a.val 6 b
  | .cpyg s d a b => [.k s.val, .k d.val] ++ namedBlock a.val 5 ++ namedBar a.val 5 b
  | .cpycb s _ a b => [.k s.val] ++ namedBlock a.val 2 ++ namedBar a.val 2 b
  | .rput _ c k a b => [.k c.val, .k k.val] ++ namedBlock a.val 3 ++ namedBar a.val 3 b
  | .rputf _ c k a b => [.k c.val, .k k.val] ++ namedBlock a.val 5 ++ namedBar a.val 5 b
  | .rputs _ c k a b => [.k c.val, .k k.val] ++ namedBlock a.val 6 ++ namedBar a.val 6 b
  | .rsemadd _ k a => [.k k.val] ++ namedBlock a.val 2
  | .rpull _ c k a b => [.k c.val, .k k.val] ++ namedBlock a.val 3 ++ namedBar a.val 3 b
  | .rputsf _ c k a b => [.k c.val, .k k.val] ++ namedBlock a.val 8 ++ namedBar a.val 8 b
  | _ => []

/-- The destinations of an instruction whose result is interlocked (R158). -/
def lockedRegs (i : Instr) : List Reg :=
  match i with
  | .mcrd d _ _ => [.g d.val]
  | .div d _ _ => [.g d.val]
  | .divn d _ _ => [.g d.val]
  | .rem d _ _ => [.g d.val]
  | .remn d _ _ => [.g d.val]
  | .ldI8 d _ _ _ => [.g d.val]
  | .ldN8 d _ _ _ => [.g d.val]
  | .ldI16 d _ _ _ => [.g d.val]
  | .ldN16 d _ _ _ => [.g d.val]
  | .ldI32 d _ _ _ => [.g d.val]
  | .ldN32 d _ _ _ => [.g d.val]
  | .ldI64 d _ _ _ => [.g d.val]
  | .lds d _ _ _ => [.g d.val]
  | .vld d _ _ _ => [.v d.val]
  | .vlds d _ _ _ => [.v d.val]
  | .vldx d _ _ _ _ _ _ _ => [.v d.val]
  | .vldm d _ _ _ => [.m d.val]
  | .cld d _ _ _ => [.k d.val]
  | .xres r => [.g r.val, .g (r.val + 1), .g (r.val + 2)]
  | .xmpc r => [.g r.val]
  | .xhdr _ a _ _ => [.g a.val]
  | .ald d _ _ _ _ _ => [.g d.val]
  | .aadd d _ _ u _ _ _ => (returns d u).toList.map Reg.g
  | .aand d _ _ u _ _ _ => (returns d u).toList.map Reg.g
  | .aor d _ _ u _ _ _ => (returns d u).toList.map Reg.g
  | .axor d _ _ u _ _ _ => (returns d u).toList.map Reg.g
  | .amin d _ _ u _ _ _ => (returns d u).toList.map Reg.g
  | .amax d _ _ u _ _ _ => (returns d u).toList.map Reg.g
  | .aminn d _ _ u _ _ _ => (returns d u).toList.map Reg.g
  | .amaxn d _ _ u _ _ _ => (returns d u).toList.map Reg.g
  | .axchg d _ _ u _ _ _ => (returns d u).toList.map Reg.g
  | .acas d _ _ u _ _ _ => (returns d u).toList.map Reg.g
  | .amaxrs d _ _ u _ _ _ => (returns d u).toList.map Reg.g
  | .ascAdd d _ _ _ _ => [.g d.val]
  | .ascXchg d _ _ _ _ => [.g d.val]
  | .ascCas d _ _ _ _ => [.g d.val]
  | .ascLd d _ _ _ _ => [.g d.val]
  | .ascMax d _ _ _ _ => [.g d.val]
  | _ => []

/-- Whether a register is one of the two that never change: nothing waits for g0 or k0 (R124). -/
def Reg.fixed (r : Reg) : Bool := decide (r = .g 0) || decide (r = .k 0)

/-- The registers of a context with an interlocked result outstanding (R160): loads, divides, returning atomics. -/
def State.outstandingRegs (s : State) (tid : Nat) : List Reg :=
  ((s.loads.filter fun l => decide (l.tid = tid)).flatMap fun l => l.dest.regs)
    ++ ((s.divs.filter fun d => decide (d.tid = tid)).map fun d => .g d.dest)
    ++ ((s.atoms.filter fun a => decide (a.tid = tid)).flatMap fun a => a.dest.toList.map Reg.g)

/-- Whether a bundle is HELD on an interlock (R160): it names a register with an interlocked result outstanding, or as the
destination of an interlocked result one with an exposed result pending. `pend` are the results still to land. -/
def State.interlocked (s : State) (tid : Nat) (pend : List Res) (is : List Instr) : Bool :=
  let out := s.outstandingRegs tid
  (is.flatMap namedRegs).any (fun r => !r.fixed && out.contains r)
    || (is.flatMap lockedRegs).any fun r => !r.fixed && pend.any fun p => decide (p.val.reg = some r)

end Sys2Proof.Machine
end

