-- ==== Sys2Proof/Machine/Issue.lean ====
section
/-!
DEFINITION. The issue of a bundle (R117–R123, R155–R162): fetch, decode, interlocks, its slots, its commit; and which contexts of
a core are READY or HELD in a cycle (R149, R155).
-/

namespace Sys2Proof.Machine

/-! ### One bundle -/

/-- What the operations of an instruction keep of it (R414): the capabilities that it names, in order, the g registers of its block, its
slot word and its literal. -/
def State.origin (s : State) (id : Nat) (i : Instr) : Origin :=
  let c := (s.ctx id).land
  let ks := (namedRegs i).filterMap fun r => match r with | .k n => some (c.kr n).bits | _ => none
  let gs := (namedRegs i).filterMap fun r => match r with | .g n => some (c.gr n).v | _ => none
  match encode i with
  | some (w, l) => ⟨ks, gs, w, l.getD 0⟩
  | none => {}

/-- The state in which an instruction issues, at header bit `bit` of a bundle of `len` bytes, from context `id`. -/
def State.at (s : State) (id bit len : Nat) (i : Instr) : State := { s with cur := ⟨id, bit, len, .effect, s.origin id i⟩ }

/-- What became of a slot or a bundle, where the machine goes on. -/
def verdict : Result → Option Verdict
  | .next t => some t.cur.verdict
  | _ => none

/-- The bundle is HELD for want of a result or a latch (R160, R161). -/
def State.heldNow (s : State) (id : Nat) : State := { s with cur := { id := id, verdict := .held } }

/-- A fault found before any slot issues. -/
def State.early0 (s : State) (id : Nat) (t : Trap) : State := { s.takeTrap id t with cur := { id := id, verdict := .trapped } }

/-- A fetch fault (R121, R123): at the target of a taken transfer FB is set, with the target and the branch bundle; elsewhere
sr.tval holds the address that cannot be fetched. -/
def State.fetchFault (s : State) (id code : Nat) (tval2 : Word) : State :=
  let c := s.ctx id
  match c.fb with
  | some b => s.early0 id ⟨code, false, true, false, false, c.pc, b, c.pc, c.pc⟩
  | none => s.early0 id (c.precise code c.pc tval2 false)

/-- A decoding fault: 0x05 is a fetch fault; the others report the slot word and its header bit (R121). -/
def State.decodeFault (s : State) (id : Nat) (f : DecodeFault) : State :=
  if f.code = 5 then s.fetchFault id 5 0
  else s.early0 id ((s.ctx id).precise f.code (f.word.setWidth 64) (BitVec.ofNat 64 f.bit) false)

/-- Whether the late fault of a context is due at a bundle that names some registers (R403, R451). -/
def Late.dueAt (l : Late) (regs : List Reg) : Bool := l.next || l.regs.any fun r => !r.fixed && regs.contains r

/-- A due late fault is taken, precise at the bundle (R403). -/
def State.takeLate (s : State) (id : Nat) (l : Late) : State :=
  { s.dueLate id l with cur := { id := id, verdict := .trapped } }

/-- The waits of a bundle in the order in which they are to end. -/
def orderWaits (ws : List Wait) : List Wait :=
  let isLock := fun (w : Wait) => match w with | .tlock _ _ _ _ => true | _ => false
  ws.filter (fun w => decide (w = .asc)) ++ ws.filter isLock ++ ws.filter Wait.kept ++ ws.filter fun w => decide (w = .idle)

/-- A context with the waits that its bundle has begun. -/
def Ctx.setWaits (c : Ctx) (ws : List Wait) : Ctx :=
  match orderWaits ws with
  | [] => { c with wait := none, more := [] }
  | w :: rest => { c with wait := some w, more := rest }

/-- Whether a hold is that of a fence. Its own bundle's accesses follow a fence, which has been found complete for all that
comes before the bundle (R370, R371, R391; DEDUCED, log entry 15). -/
def fenceHold (w : Option Wait) : Bool :=
  match w with
  | some (.fence _) => true
  | some (.qfence _) => true
  | _ => false

/-- Run the slots of a bundle one after another, each reading the registers as they were (R120), gathering the waits that they
begin. A fence that holds only for accesses of its own bundle has no further effect. -/
def State.runSlots (id len : Nat) : State → List Wait → List (Nat × Instr) → Result
  | s, ws, [] => .next (s.setCtx id ((s.ctx id).setWaits ws))
  | s, ws, p :: ps =>
    match exec p.2 ((s.setCtx id { s.ctx id with wait := none }).at id p.1 len p.2) with
    | .next t =>
      match t.cur.verdict with
      | .effect => State.runSlots id len t (ws ++ (t.ctx id).wait.toList) ps
      | .ended => .next t
      | .held => if fenceHold (t.ctx id).wait then State.runSlots id len s ws ps else .next t
      | .trapped => .next t
    | r => r

/-- The slots in the order in which they take effect: header-bit order, a TAIL last (R120, R197). -/
def slotOrder (ps : List (Nat × Instr)) : List (Nat × Instr) :=
  ps.filter (fun p => decide (p.2 ≠ .tail)) ++ ps.filter fun p => decide (p.2 = .tail)

/-- The context after its bundle has taken effect (R122, R123, R157): its step, and where execution goes on. `old` is the
context before. -/
def Ctx.commit (c old : Ctx) (len : Nat) : Ctx :=
  let n := { c.land with step := old.step + 1, last := old.pc, br := none, delay := none, fb := none
                         pc := old.pc + BitVec.ofNat 64 len }
  match old.delay with
  | some b =>
    if b.eret then { n with ret := true }
    else if b.taken then { n with pc := b.target, fb := some b.pc }
    else n
  | none => { n with delay := c.br }

/-- The bundle has taken effect in every slot: a ninth latch would have held it (R161); else it commits. -/
def State.finish (s : State) (id len : Nat) (t : State) : State :=
  let c := t.ctx id
  if 8 < (c.land.pend.filter fun r => r.val.exposed).length then s.heldNow id
  else { t.setCtx id (c.commit (s.ctx id) len) with cur := { id := id } }

/-- A decoded bundle tries to issue (R120, R155, R160, R403): an interlock holds it; a late fault that is due is taken; then each
slot is tried on its own, a hold of a slot coming before a fault of a slot; then all take effect together, where a ninth exposed result
holds the bundle: a fault of a slot, and the end of the task by a TAIL beside it, come before that hold (R161 does not say which; DESIGN
CHOICE, log entry 46). -/
def State.issue (s : State) (id tid : Nat) (b : Bundle) : Result :=
  let is := b.slots.map (·.2)
  let c := s.ctx id
  if s.interlocked tid c.land.pend is then .next (s.heldNow id)
  else
    match c.late with
    | some l =>
      if l.dueAt (is.flatMap namedRegs) then .next (s.takeLate id l) else go
    | none => go
where
  /-- The slots of the bundle. -/
  go : Result :=
    let rs := b.slots.map fun p => exec p.2 (s.at id p.1 b.len p.2)
    match rs.find? fun r => decide (verdict r = none) with
    | some r => r
    | none =>
      match rs.find? fun r => decide (verdict r = some .held) with
      | some r => r
      | none =>
        match rs.find? fun r => decide (verdict r = some .trapped) with
        | some r => r
        | none =>
          match State.runSlots id b.len s [] (slotOrder b.slots) with
          | .next t =>
            match t.cur.verdict with
            | .effect => .next (s.finish id b.len t)
            | .ended => .next t
            | .held => .next (s.heldNow id)
            | .trapped => .next t
          | r => r

/-- The next bundle of a context tries to issue (R119–R123): a 0x58 of a BWAIT that is over, or a late fault whose fault point it is, comes
first (R389, R403). Its outcome stands in the verdict. -/
def State.attempt (s : State) (id : Nat) : Result :=
  let c := s.ctx id
  match c.task with
  | none => .next (s.heldNow id)
  | some t =>
    match (if c.delay.isNone then c.after else none), c.late.filter (·.next) with
    | some a, _ => .next { s.barrierFault id a with cur := { id := id, verdict := .trapped } }
    | none, some l => .next (s.takeLate id l)
    | none, none => go t
where
  /-- Fetch, decode and issue. -/
  go (t : Task) : Result :=
    let c := s.ctx id
    match s.fetch (s.codeFunc t) c.delay.isSome c.pc.toNat with
    | .missing => .next (State.fetchFault { s with choice := s.choice + 1 } id 3 (Config.freeWord s.choice))
    | .bad f => .next (s.decodeFault id f)
    | .bundle b => s.issue id t.tid b

/-- The granted bundle issues (R156). -/
def State.issueBundle (s : State) (id : Nat) : Result :=
  match State.attempt { s with grant := none } id with
  | .next t => .next { t with cur := {} }
  | r => r

/-! ### Which contexts can issue -/

/-- Whether a cluster does not run: gated or off, or just woken (R440). -/
def Cluster.asleep (k : Cluster) (time : Nat) : Bool := decide (k.state ≠ 0) || decide (time < k.wakeAt)

/-- Whether a context neither issues nor takes a step (R149): FREE, OUT, SUSPENDED, in a debug stop (R431), in a function that is
not READY or a cluster that is not running; or something comes first at its boundary: an exception, a pre-emption, a timer, an
interrupt, the answer to a STEAL, a return. -/
def State.still (s : State) (id : Nat) : Bool :=
  let c := s.ctx id
  match c.task with
  | none => true
  | some t =>
    decide (c.preempt = .out) || decide (c.preempt = .entering) || c.stopped || c.trapReq.isSome || c.steal.isSome || s.overBudget t.func
      || decide ((s.part t.func).state ≠ 1) || (s.cluster (clusterOf (coreOf id))).asleep s.time
      || s.yields id || s.returning id

/-- Whether the line of an address has come for a context (R155): where it lies on chip, or once a token has brought it (R87); the choice is
free. Where it cannot be fetched, there is nothing to wait for. A fetch is a read of its page (R221). The lines that have come are forgotten
once `fresh` asks for another. (DESIGN CHOICE, log entry 46.) -/
def State.fetchOne (s : State) (id : Nat) (t : Task) (a : Nat) (fresh : Bool) : State × Bool :=
  let c := s.ctx id
  let have0 := fun (u : State) =>
    (u.setCtx id { u.ctx id with lines := if fresh then [a / 64] else (u.ctx id).lines ++ [a / 64] }).waitOver (requestNo 0 id) t.func
  if c.lines.contains (a / 64) then (s, true)
  else
    match s.codePlace (s.codeFunc t) a, s.leaf (s.codeFunc t) 0 a with
    | some (.at _), some l =>
      let s1 := { s with choice := s.choice + 1 }
      let filled := s1.touch (coreOf id) (s.codeFunc t) 0 a l false
      match Config.choose s.choice 3 % 3 with
      | 0 => (have0 filled, true)
      | 1 =>
        match filled.take t.func .memory with
        | some u => (have0 u, true)
        | none => (s1.tokenWait (requestNo 0 id) t.func .memory 1, false)
      | _ => (s1, false)
    | _, _ => (have0 s, true)

/-- Whether an instruction writes a link (R190, R192). -/
def isLink (i : Instr) : Bool :=
  match i with
  | .bl _ _ => true
  | .jlr _ _ => true
  | _ => false

/-- Where the delay bundle of a transfer with a link lies in a line of its own: its bytes too are fetched before the transfer issues (R189). -/
def State.linkLine (s : State) (id : Nat) (t : Task) : Option Nat :=
  let c := s.ctx id
  match s.fetch (s.codeFunc t) c.delay.isSome c.pc.toNat with
  | .bundle b =>
    let a := (c.pc + BitVec.ofNat 64 b.len).toNat
    if (b.slots.any fun p => isLink p.2) && decide (a / 64 ≠ c.pc.toNat / 64) then some a else none
  | _ => none

/-- Whether what a context must have fetched for its next bundle has come (R155, R189). -/
def State.fetchLine (s : State) (id : Nat) (t : Task) : State × Bool :=
  match s.fetchOne id t (s.ctx id).pc.toNat true with
  | (u, true) =>
    match u.linkLine id t with
    | some a => u.fetchOne id t a false
    | none => (u, true)
  | r => r

/-- Whether a context is HELD whatever its next bundle holds: a wait, the array to be had back, a return to be made (R155). -/
def Ctx.waiting (c : Ctx) : Bool := c.wait.isSome || !c.more.isEmpty || c.owned.isSome || c.ret

/-- A context whose line has come, in a cycle: READY, or HELD by its next bundle, which leaves what holds it. -/
def State.survey2 (s : State) (id : Nat) : State :=
  match s.attempt id with
  | .next t => if t.cur.verdict = .held then { t with cur := s.cur, held := t.held ++ [id] } else { s with ready := s.ready ++ [id] }
  | _ => { s with ready := s.ready ++ [id] }

/-- A context in a cycle: noted as READY or HELD (R149, R155). A fault of its next bundle, whatever that is, waits for no fetch and takes no
step (R434). -/
def State.survey1 (s : State) (id : Nat) : State :=
  if s.still id then s
  else
    match (s.ctx id).task with
    | none => s
    | some t =>
      if (s.ctx id).faultDue then { s with ready := s.ready ++ [id] }
      else if (s.ctx id).waiting then { s with held := s.held ++ [id] }
      else
        match s.fetchLine id t with
        | (s1, true) => s1.survey2 id
        | (s1, false) => { s1 with held := s1.held ++ [id] }

/-- The contexts of a core in a cycle; in a cycle that its cluster's clock leaves out, nothing is looked at (R441). -/
def State.survey (s : State) (core : Nat) : State :=
  if (s.cluster (clusterOf core)).ticks then (List.range 4).foldl (fun u j => u.survey1 (4 * core + j)) s else s

/-! ### Placing a word where the next step fetches -/

/-- A function's tables map a fresh page at a code address, and bytes are written there under its memory key. -/
def State.putCode (s : State) (f va : Nat) (bs : List Byte) : State :=
  match s.mapPage f 0 (va / 4096 * 4096) 0 with
  | none => s
  | some s1 =>
    match s1.leaf f 0 va with
    | none => s1
    | some l => s1.memWrite (1 + f) (cellsAt (l.flat 0 va) bs)

/-- Context 0 of core 0 holds a fresh task of function 0 that stands at the start of a line, with nothing in flight, and is granted; the
function is READY and owns the channels, so that memory serves it (R83); `bs` are the bytes it fetches (DESIGN CHOICE, log entry 5). -/
def State.placeCode (s : State) (bs : List Byte) : State :=
  let c := s.ctx 0
  let pc := c.pc.toNat % 2 ^ 57 / 64 * 64
  let t : Task :=
    { tid := s.fresh, func := 0, l1 := 0, child := 0, expl := false, inst := 0, launch := 0, serial := 0, skein := 0
      persist := false, iters := 0, dims := [], order := [], ranges := [] }
  let c1 := { c with task := some t, pc := BitVec.ofNat 64 pc, br := none, delay := none, fb := none, pend := [], wait := none
                     more := [], late := none, after := none }
  let p := { s.part 0 with state := 1, mask := (s.part 0).mask ||| BitVec.ofNat 512 ((2 ^ 256 - 1) * 2 ^ 256) }
  let s1 := { (s.setCtx 0 c1).setPart 0 p with fresh := s.fresh + 1, grant := some 0, lostPairs := [] }
  s1.putCode 0 pc bs

end Sys2Proof.Machine
end

