-- ==== Sys2Proof/Machine/Schedule.lean ====
section
/-!
DEFINITION. What can happen next (R9, R356; DESIGN CHOICE, log entry 4): the steps that the machine can take by itself, the next input from
outside, and the clock.
-/

namespace Sys2Proof.Machine

/-- A step of the machine. -/
abbrev Act := State → Result

/-- The steps of operations in flight: loads, divides, atomics, writes, copies. -/
def State.actsOps (s : State) : List Act :=
  (s.loads.map fun l => execLoadReturn l.id) ++ (s.divs.map fun d => execDivideComplete d.id)
    ++ (s.atoms.flatMap fun a => [execAtomicPerform a.id, execQntFlush a.id, execAscPerform a.id])
    ++ (s.writes.map fun w => execWritePropagate w.id) ++ (s.copies.map fun c => execCopyBeat c.id)

/-- The answers of this package's own port to one copy, and the beats of a pull (R369, R397, R398). -/
def Out.actsLeg (o : Out) (l : Leg) : List Act :=
  if l.here then
    match l.state with
    | .performed => if o.op.kind = .pull then [execPulldata ⟨o.op.id, 16⟩ []] else [execAck ⟨o.op.id, 16⟩ l.mirror.toNat]
    | .rejected r => [execNack ⟨o.op.id, 16⟩ l.mirror.toNat r]
    | _ => []
  else if o.op.kind = .pull ∧ l.state = .performed then [execPulldata ⟨o.op.id, 16⟩ []]
  else []

/-- The steps of remote operations, and of flag adds at the port. -/
def State.actsFabric (s : State) : List Act :=
  (s.outs.flatMap fun o =>
    [execRemoteChannelEntry o.op.id, execPut (.chan o.op.id), execPutf (.chan o.op.id), execSemadd (.chan o.op.id),
      execPullreq (.chan o.op.id)] ++ o.legs.flatMap o.actsLeg)
    ++ (s.flags.map fun f => execPutfFlagAdd f.id)
    ++ ((s.jobs.flatMap fun p => (p.2.ranks.map fun r => (p.1, p.2, r.1))).flatMap fun x =>
      [execHoldDrainReport (x.1 / 4) (x.1 % 4) x.2.2]
        ++ (if !x.2.1.lost.contains x.2.2 && s.portsDead x.2.1 x.2.2 then [execRankLost (x.1 / 4) (x.1 % 4) x.2.2] else []))

/-- The steps of contexts. -/
def State.actsCtx (s : State) : List Act :=
  s.ctxs.flatMap fun p =>
    [execTrapEntry p.1, execTimer p.1, execInterrupt p.1, execPreempt p.1, execGraceExpire p.1, execFwaitComplete p.1,
      execBwaitComplete p.1, execCbwaitComplete p.1, execXwaitComplete p.1, execXrelComplete p.1, execTlockComplete p.1,
      execFenceComplete p.1, execQfenceComplete p.1]

/-- The steps of cores: the head of the matrix queue, the array, the escape. -/
def State.actsCore (s : State) : List Act :=
  s.cores.flatMap fun p =>
    [execXpushAPerform p.1, execXpushWPerform p.1, execXflipPerform p.1, execXsclPerform p.1, execXshiftPerform p.1,
      execXaccPerform p.1, execXdrainPerform p.1, execXzeroPerform p.1, execXsetePerform p.1, execXclrfPerform p.1,
      execXmarkPerform p.1, execXcfgPerform p.1, execArrayAcquire p.1, execCbEscape p.1]

/-- The steps of Spindle and of the retirement trackers. -/
def State.actsSpindle (s : State) : List Act :=
  (s.slots.map fun p => execWalkStart (slotAt p.1))
    ++ (s.walks.flatMap fun w => w.2.paths.flatMap fun n =>
      [execSkeinNodeVisit w.2.slot n, execJoinNodeVisit w.2.slot n, execConditionalNodeVisit w.2.slot n,
        execWhileNodeVisit w.2.slot n, execFlagNodeVisit w.2.slot n])
    ++ (s.launches.flatMap fun l => [execRouterTableLoad l.1, execTaskPlace l.1, execSkeinNodeComplete l.1])
    ++ (s.retire.map fun r => execCompletionRecordWrite r.core r.task.tid)
    ++ (s.groups.map fun g => execGroupDrainComplete g.2.l1 g.1)

/-- The steps of partitions, clusters, key slots, the monitor and the loader. -/
def State.actsPart (s : State) : List Act :=
  (s.parts.flatMap fun p => [execReleaseQuiesced p.1, execZeroingComplete p.1])
    ++ (s.clusters.flatMap fun c => [execHeatSweep c.1, execClusterGate c.1, execClusterWake c.1,
      fun u => if c.2.due = 0 then .next u else execFreqChange c.1 ⟨c.2.limit, c.2.temp, c.2.pwr, u.power⟩ u])
    ++ (s.keys.map fun k => execRotationSweepLine k.1) ++ [execUpdateTrialTimeout]
    ++ (s.insts.map fun i => execUnloadComplete i.1)

/-- Whether a step changes the state: one that is not enabled leaves it as it is (DESIGN CHOICE, log entry 16). -/
def State.enabled (s : State) (a : Act) : Bool :=
  match a s with
  | .next t => decide (t ≠ s)
  | _ => false

/-- The steps that the machine can take by itself. (DESIGN CHOICE, log entry 19.) -/
def State.acts (s : State) : List Act :=
  (s.actsOps ++ s.actsFabric ++ s.actsCtx ++ s.actsCore ++ s.actsSpindle ++ s.actsPart).filter s.enabled

/-- Whether an input must wait where it is: a head that is not the next of its channel (R369), a shootdown while accesses that
use the translation are still to be performed (R222), an access of the host or the firmware to a word that an atomic locks (R372), a write of
either while buffered writes there have still to take their tokens (R87). -/
def State.mustWait (s : State) (i : Instr) : Bool :=
  match i with
  | .shootdown f _ _ => s.translating f
  | .dirtyHarvest f _ => s.translating f
  | .hostWrite f region addr data =>
    s.regionLocked f region addr data.length || decide (region = 0) && s.pushes (s.spinSpots f addr data.length)
  | .hostRead f region addr len => s.regionLocked f region addr len
  | .registerWrite (.raw addr n) _ => s.lockedIn addr.toNat n || s.pushes ((List.range n).map (addr.toNat + ·))
  | .registerWrite (.zeroPage f va) _ => (s.leaf f 0 va).elim false fun l => s.lockedIn (l.flat 0 (va / l.size * l.size)) l.size
  | i => s.early i

/-- The sender whose inputs keep their order where one of them waits: 1 the host link (R354), 2 the firmware's register writes. -/
def sender (i : Instr) : Option Nat :=
  match i with
  | .hostWrite _ _ _ _ => some 1
  | .hostRead _ _ _ _ => some 1
  | .launchSlotWrite _ _ _ _ => some 1
  | .registerWrite _ _ => some 2
  | _ => none

/-- The inputs without the one that is to be taken next, and that one: the first that need not wait, nor comes after another of its sender that
waits. -/
def State.nextInput (s : State) : List Instr → List Instr → Option (Instr × List Instr)
  | _, [] => none
  | past, i :: rest =>
    if s.mustWait i || ((sender i).isSome && past.any fun p => decide (sender p = sender i)) then State.nextInput s (past ++ [i]) rest
    else some (i, past ++ rest)

/-- The step of the next input. Only steps of agents come from outside; an instruction of a slot is not one. (DESIGN CHOICE, log entry 3.) -/
def State.actInput (s : State) : List Act :=
  match s.nextInput [] s.inbox with
  | none => []
  | some (i, rest) =>
    if (enc i).isSome then [fun u => .next { u with inbox := rest }] else [fun u => exec i { u with inbox := rest }]

/-- The next cycle of the core whose turn it is. -/
def actClock : Act := fun u => execArbiterCycle u.turn (u.survey u.turn)

/-- The steps that are to be taken before the clock goes on: a divide after 40 cycles (R178), a .QNT atomic after 1,024 (R372), a write that has
waited for its bound, with what its context has issued before it where it still waits for that (R360; DESIGN CHOICE, log entry 53). -/
def State.duties (s : State) : List Act :=
  ((s.divs.filter fun d => decide (d.due ≤ s.time)).map fun d => execDivideComplete d.id)
    ++ ((s.atoms.filter fun a => decide (a.use = 4) && decide (a.issued + 1024 ≤ s.time)).map fun a => execQntFlush a.id)
    ++ (s.writes.filter fun w => decide (w.level < 3) && decide (w.born + Config.writeBound ≤ s.time)).flatMap fun w =>
      execWritePropagate w.id
        :: if w.level = 0 then
            ((s.loads.filter fun l => decide (l.ctx = w.ctx) && decide (l.iss < w.iss)).map fun l => execLoadReturn l.id)
              ++ (s.atoms.filter fun a => decide (a.ctx = w.ctx) && decide (a.iss < w.iss)).map fun a => execAtomicPerform a.id
          else []

/-- Whether one of them can be taken: what waits for tokens, or for an answer from outside, does not stop the clock. -/
def State.overdue (s : State) : Bool := s.duties.any s.enabled

/-- Everything that can happen next. -/
def State.options (s : State) : List Act := s.actInput ++ s.acts ++ (if s.overdue then [] else [actClock])

/-- The machine goes on where no bundle has been granted: a refill that is due (R87), the end of the cycle once every core has had
its turn, or one of the steps that can be taken; where there are several, the choice is free (R9; DESIGN CHOICE, log entry 4). -/
def State.advance (s : State) : Result :=
  if s.refillDue then execTokenRefill s
  else if s.coreCount ≤ s.turn then .next s.endCycle
  else
    match s.options with
    | [a] => a s
    | as =>
      match as[Config.choose s.choice as.length % as.length]? with
      | some a => a { s with choice := s.choice + 1 }
      | none => .next s

end Sys2Proof.Machine
end

