-- ==== Sys2Proof/Machine/Step.lean ====
section
/-!
DEFINITION. One step of the machine, and where the instruction that the next step runs is placed.
-/

namespace Sys2Proof.Machine

/-- One step: the granted bundle issues, or the machine goes on (R9, R156; DESIGN CHOICE, log entry 4). -/
def step (s : State) : Host.Outcome State Fault Refusal :=
  match s.grant with
  | some id => s.issueBundle id
  | none => s.advance

/-- The state with the instruction of a table word where the next step fetches (DESIGN CHOICE, log entry 5): alone in a bundle, at the first
header bit whose slot kind decodes it, a literal of zeros after a word that asks for one. -/
def State.withFetchWord (s : State) (nbits w : Nat) : State := s.placeCode (tableBytes (tableBit nbits w) nbits w)

end Sys2Proof.Machine
end

