-- ==== Sys2Proof/Safety.lean ====
section
/-!
DEFINITION. What claims speak of: that an instruction takes effect, what it leaves unchanged, and the invariant of memory.
-/

namespace Sys2Proof.Machine

/-- Memory is in its canonical form. -/
def State.Canonical (s : State) : Prop := s.mem.wf = true

/-- Every byte reads as before, for every reader and under every key slot (R203, R361). -/
def State.BytesKept (s t : State) : Prop := ∀ (v : Viewer) (slot a : Nat), t.see v slot a = s.see v slot a

/-- Nothing changes but the issuing context, and the note of what became of the instruction. -/
def State.OnlyMe (s t : State) : Prop :=
  ∃ (c : Ctx) (k : Cur), t = { s with ctxs := Table.set s.ctxs s.cur.id c, cur := k }

/-- The issuing context keeps everything that it holds but for results still to come, all of which are bound for registers of a
list; its flags may rise. -/
def State.Results (s t : State) (rs : List Reg) : Prop :=
  ∃ (f : BitVec 5) (ps : List Res),
    t.ctx s.cur.id = { s.me with fflags := s.me.fflags ||| f, pend := s.me.pend ++ ps } ∧
      ∀ p ∈ ps, ∃ r ∈ rs, p.val.reg = some r

/-- The frame of an instruction that only writes registers: no byte, no other context, no other unit changes; in its own context
only results for the named registers are added, with the flags. -/
def State.RegisterFrame (s t : State) (rs : List Reg) : Prop := s.OnlyMe t ∧ s.BytesKept t ∧ s.Results t rs

/-- The g register that a scalar or capability instruction of the X and Y slots writes at latency 1. -/
def scalarDest : Instr → Option (Fin 64)
  | .add d _ _ | .sub d _ _ | .addi d _ _ | .and d _ _ | .or d _ _ | .xor d _ _ | .andi d _ _ | .ori d _ _ | .xori d _ _
  | .shl d _ _ | .shr d _ _ | .sar d _ _ | .shli d _ _ | .shri d _ _ | .sari d _ _ | .mul d _ _ | .mulh d _ _ | .mulhn d _ _
  | .cmpeq d _ _ | .cmpne d _ _ | .cmplt d _ _ | .cmpltn d _ _ | .cmple d _ _ | .cmplen d _ _ | .cmpeqi d _ _ | .cmplti d _ _
  | .sel d _ _ _ | .min d _ _ | .max d _ _ | .minn d _ _ | .maxn d _ _ | .clz d _ | .ctz d _ | .popc d _ | .sext d _ _
  | .zext d _ _ | .extr d _ _ _ | .inshi d _ _ | .cget d _ _ | .cchk d _ _ _ | .mfsr d _ | .featq d _ _ => some d
  | _ => none

/-- The v register that a vector instruction of the P and Q slots writes. -/
def vectorDest : Instr → Option (Fin 64)
  | .vaddF d _ _ _ _ _ | .vsubF d _ _ _ _ _ | .vmulF d _ _ _ _ _ | .vfma d _ _ _ _ _ | .vfnma d _ _ _ _ _
  | .vminF d _ _ _ _ _ | .vmaxF d _ _ _ _ _ | .vabs d _ _ _ _ | .vneg d _ _ _ _ | .vrcp d _ _ _ _ | .vrsq d _ _ _ _
  | .vexp2 d _ _ _ _ | .vlog2 d _ _ _ _ | .vscalb d _ _ _ _ _ | .vaddI d _ _ _ _ _ | .vsubI d _ _ _ _ _
  | .vmulI d _ _ _ _ _ | .vmad d _ _ _ _ _ | .vadds d _ _ _ _ _ | .vsubs d _ _ _ _ _ | .vminI d _ _ _ _ _
  | .vmaxI d _ _ _ _ _ | .vand d _ _ _ _ _ | .vor d _ _ _ _ _ | .vxor d _ _ _ _ _ | .vshl d _ _ _ _ _ | .vshr d _ _ _ _ _
  | .vclz d _ _ _ _ | .vcvt d _ _ _ _ _ _ _ | .vpack d _ _ _ _ _ | .vunpk d _ _ _ _ _ | .vamax d _ _ _ _
  | .vrsumF d _ _ _ _ | .vrmaxF d _ _ _ _ | .vrsumI d _ _ _ _ | .vrmaxI d _ _ _ _ | .vmov d _ _ _ _ | .vsel d _ _ _ _ _
  | .vbcst d _ _ _ | .vins d _ _ _ | .viota d _ _ => some d
  | _ => none

/-- The size of a scalar load in bytes, whether it is signed, and its operands (R232). -/
def scalarLoadForm : Instr → Option (Nat × Bool × Fin 64 × Fin 32 × Fin 64 × Imm 7)
  | .ldI8 d k g i => some (1, true, d, k, g, i)
  | .ldN8 d k g i => some (1, false, d, k, g, i)
  | .ldI16 d k g i => some (2, true, d, k, g, i)
  | .ldN16 d k g i => some (2, false, d, k, g, i)
  | .ldI32 d k g i => some (4, true, d, k, g, i)
  | .ldN32 d k g i => some (4, false, d, k, g, i)
  | .ldI64 d k g i => some (8, true, d, k, g, i)
  | _ => none

/-- The size of a scalar store in bytes and its operands (R232). -/
def scalarStoreForm : Instr → Option (Nat × Fin 64 × Fin 32 × Fin 64 × Imm 7)
  | .stI8 d k g i => some (1, d, k, g, i)
  | .stI16 d k g i => some (2, d, k, g, i)
  | .stI32 d k g i => some (4, d, k, g, i)
  | .stI64 d k g i => some (8, d, k, g, i)
  | _ => none

/-- A divide of the issuing context is in the divider, bound for g register `d` with a value and a poison tag (R178). -/
def State.dividing (s : State) (d : Fin 64) (q : Word) (p : Bool) : State :=
  { s.done with divs := s.divs ++ [⟨s.fresh, s.tid, s.cur.id, d.val, q, p, s.time + 40⟩], fresh := s.fresh + 1 }

/-- A matrix operation of the issuing context stands last in the queue of its core, which is left as `k` (R303, R306). -/
def State.queued (s : State) (op : XOp) (k : Core) : State :=
  State.setMe (s.setCore (s.cur.id / 4) { k with queue := k.queue ++ [⟨s.tid, s.cur.id, s.me.iss, op⟩] })
    { s.me with iss := s.me.iss + 1, touched := (s.me.touched ++ op.tile.toList).eraseDups }

/-- The operations of the issuing context in the atomic unit, which takes 16 (R155, R414). -/
def State.inAtomUnit (s : State) : Nat := (s.atoms.filter fun a => decide (a.ctx = s.cur.id)).length

/-- An operation of the issuing context stands last in the atomic unit, with its operands, use, scope and destination; an ASC holds its
context (R376, R393). -/
def State.inUnit (s : State) (a : Acc) (op : AtomOp) (x y : Word) (use scope : Nat) (dest : Option Nat) (asc : Bool) : State :=
  { s.setMe { s.me with iss := s.me.iss + 1, wait := if asc then some .asc else s.me.wait } with
    atoms := s.atoms ++
      [⟨s.fresh, s.tid, s.cur.id, s.me.iss, s.me.pc, a, op, x, y, use, scope, dest, asc, s.time, [], none, s.cur.src⟩]
    fresh := s.fresh + 1 }

/-- The issuing context as a reader of what it has stored itself. -/
def State.ownViewer (s : State) : Viewer := ⟨s.cur.id, some (coreOf s.cur.id), (s.ctx s.cur.id).iss, 0⟩

end Sys2Proof.Machine
end

