-- ==== Sys2Proof/Certificates/Slice0/Obligations.lean ====
section
/-!
DEFINITION. What is claimed of the machine. "Completes" means that `exec` answers a next state, given in full.
-/

open Sys2Proof Sys2Proof.Machine

/-! ### Scalar instructions -/

/-- Scalar instructions complete (R134, R174–R177, R179–R182). -/
def Obligations.ScalarResults : Prop :=
  (∀ (s : State) (d a b : Fin 64),
      ∀ p ∈ ([(Instr.add, fun x y => x + y), (Instr.sub, fun x y => x - y), (Instr.and, fun x y => x &&& y),
          (Instr.or, fun x y => x ||| y), (Instr.xor, fun x y => x ^^^ y), (Instr.shl, fun x y => x <<< (y.toNat % 64)),
          (Instr.shr, fun x y => x >>> (y.toNat % 64)), (Instr.sar, fun x y => x.sshiftRight (y.toNat % 64)),
          (Instr.mul, fun x y => BitVec.ofNat 64 (x.toNat * y.toNat)),
          (Instr.mulh, fun x y => BitVec.ofInt 64 (x.toInt * y.toInt / 2 ^ 64)),
          (Instr.mulhn, fun x y => BitVec.ofNat 64 (x.toNat * y.toNat / 2 ^ 64)),
          (Instr.cmpeq, fun x y => if x = y then 1 else 0), (Instr.cmpne, fun x y => if x = y then 0 else 1),
          (Instr.cmplt, fun x y => if x.toInt < y.toInt then 1 else 0),
          (Instr.cmpltn, fun x y => if x.toNat < y.toNat then 1 else 0),
          (Instr.cmple, fun x y => if y.toInt < x.toInt then 0 else 1),
          (Instr.cmplen, fun x y => if y.toNat < x.toNat then 0 else 1),
          (Instr.min, fun x y => if x.toInt < y.toInt then x else y), (Instr.max, fun x y => if x.toInt < y.toInt then y else x),
          (Instr.minn, fun x y => if x.toNat < y.toNat then x else y),
          (Instr.maxn, fun x y => if x.toNat < y.toNat then y else x)] :
          List ((Fin 64 → Fin 64 → Fin 64 → Instr) × (Word → Word → Word))),
        exec (p.1 d a b) s = .next (s.putG 1 d (p.2 (s.gv a) (s.gv b)) (s.gp a || s.gp b))) ∧
  (∀ (s : State) (d a : Fin 64),
      (∀ (i : Imm 12), ∀ p ∈ ([(Instr.addi, fun x y => x + y), (Instr.andi, fun x y => x &&& y), (Instr.ori, fun x y => x ||| y),
          (Instr.xori, fun x y => x ^^^ y), (Instr.cmpeqi, fun x y => if x = y then 1 else 0),
          (Instr.cmplti, fun x y => if x.toInt < y.toInt then 1 else 0)] :
          List ((Fin 64 → Fin 64 → Imm 12 → Instr) × (Word → Word → Word))),
        exec (p.1 d a i) s = .next (s.putG 1 d
          (p.2 (s.gv a) (match i with | .short v => v.signExtend 64 | .long l => l.signExtend 64)) (s.gp a))) ∧
      (∀ (c : Fin 64), ∀ p ∈ ([(Instr.shli, fun x => x <<< c.val), (Instr.shri, fun x => x >>> c.val),
          (Instr.sari, fun x => x.sshiftRight c.val),
          (Instr.zext, fun x => BitVec.ofNat 64 (x.toNat % 2 ^ (c.val + 1))),
          (Instr.sext, fun x => (BitVec.ofNat (c.val + 1) x.toNat).signExtend 64)] :
          List ((Fin 64 → Fin 64 → Fin 64 → Instr) × (Word → Word))),
        exec (p.1 d a c) s = .next (s.putG 1 d (p.2 (s.gv a)) (s.gp a))) ∧
      (∀ p ∈ ([(Instr.clz, fun x => BitVec.ofNat 64 ((List.range 64).takeWhile fun k => !x.getLsbD (63 - k)).length),
          (Instr.ctz, fun x => BitVec.ofNat 64 ((List.range 64).takeWhile fun k => !x.getLsbD k).length),
          (Instr.popc, fun x => BitVec.ofNat 64 ((List.range 64).filter fun k => x.getLsbD k).length)] :
          List ((Fin 64 → Fin 64 → Instr) × (Word → Word))),
        exec (p.1 d a) s = .next (s.putG 1 d (p.2 (s.gv a)) (s.gp a))) ∧
      (∀ h o : Fin 64, exec (.extr d a h o) s =
        .next (s.putG 1 d (BitVec.ofNat 64 ((s.gv a).toNat / 2 ^ o.val % 2 ^ (h.val + 1 - o.val))) (s.gp a))) ∧
      (∀ i : BitVec 32, exec (.inshi d a i) s =
        .next (s.putG 1 d (BitVec.ofNat 64 (i.toNat * 2 ^ 32 + (s.gv a).toNat % 2 ^ 32)) (s.gp a))) ∧
      (∀ b c : Fin 64, exec (.sel d a b c) s =
        .next (s.putG 1 d (if s.gv c = 0 then s.gv b else s.gv a) (s.gp a || s.gp b || s.gp c))))

/-- The divides complete and write their register (R160, R178), and the division law over the natural numbers and the integers. That the
write overtakes what is pending for the register is the model's reading of R160 (DEDUCED, log entry 13). -/
def Obligations.Divides : Prop :=
  (∀ (s : State) (d a b : Fin 64),
      exec (.div d a b) s = .next (s.dividing d (divide true (s.gv a) (s.gv b)).1 (s.gp a || s.gp b)) ∧
      exec (.divn d a b) s = .next (s.dividing d (divide false (s.gv a) (s.gv b)).1 (s.gp a || s.gp b)) ∧
      exec (.rem d a b) s = .next (s.dividing d (divide true (s.gv a) (s.gv b)).2 (s.gp a || s.gp b)) ∧
      exec (.remn d a b) s = .next (s.dividing d (divide false (s.gv a) (s.gv b)).2 (s.gp a || s.gp b))) ∧
  (∀ (s : State) (t : Task) (d : Fin 64) (q : Word) (p : Bool), s.task = some t → (∀ x ∈ s.divs, x.id ≠ s.fresh) →
      ∃ u, exec (.divideComplete s.fresh) (s.dividing d q p) = .next u ∧ u.divs = s.divs ∧
        (Table.get 0 s.me.won d.val ≤ s.fresh → (u.ctx s.cur.id).gr d.val = (if d.val = 0 then {} else ⟨q, p⟩) ∧
          (∀ r ∈ (u.ctx s.cur.id).pend, r.val.reg ≠ some (.g d.val))) ∧
        (s.fresh < Table.get 0 s.me.won d.val → u.ctx s.cur.id = s.me) ∧
        (∀ n, n ≠ d.val → (u.ctx s.cur.id).gr n = s.me.gr n) ∧ (∀ j, j ≠ s.cur.id → u.ctx j = s.ctx j) ∧ u.mem = s.mem) ∧
  (∀ a b : Word,
      (b ≠ 0 → (divide false a b).1.toNat = a.toNat / b.toNat ∧ (divide false a b).2.toNat = a.toNat % b.toNat) ∧
      (b ≠ 0 → ¬ (a = BitVec.intMin 64 ∧ b = -1) →
        (divide true a b).1.toInt = a.toInt.tdiv b.toInt ∧ (divide true a b).2.toInt = a.toInt.tmod b.toInt ∧
        (divide true a b).1.toInt * b.toInt + (divide true a b).2.toInt = a.toInt ∧
        (divide true a b).2.toInt.natAbs < b.toInt.natAbs ∧
        (0 ≤ a.toInt → 0 ≤ (divide true a b).2.toInt) ∧ (a.toInt ≤ 0 → (divide true a b).2.toInt ≤ 0)) ∧
      (∀ signed, divide signed a 0 = (BitVec.allOnes 64, a)) ∧
      divide true (BitVec.intMin 64) (-1) = (BitVec.intMin 64, 0))

/-- The frame of the instructions with a scalar destination (R172, R174): CGET, CCHK, MFSR and FEATQ among them. -/
def Obligations.ScalarFrame : Prop :=
  ∀ (i : Instr) (d : Fin 64) (s t : State), scalarDest i = some d → exec i s = .next t →
    s.RegisterFrame t [.g d.val] ∧ (t.ctx s.cur.id).fflags = s.me.fflags ∧ (d.val = 0 → t.ctx s.cur.id = s.me)

/-- Exposed latency (R120, R124, R157, R158, R174). -/
def Obligations.ResultLands : Prop :=
  ∀ (s : State) (n : Nat) (d : Fin 64) (v : Word) (p : Bool) (a : Fin 64), 1 ≤ n →
    ((s.putG n d v p).me.gr a.val = s.me.gr a.val) ∧
    (∀ m, m < n → (({ (s.putG n d v p).me with step := s.me.step + m } : Ctx).land).gr a.val =
      (({ s.me with step := s.me.step + m } : Ctx).land).gr a.val) ∧
    ({ (s.putG n d v p).me with step := s.me.step + n } : Ctx).land.gr d.val = (if d.val = 0 then {} else ⟨v, p⟩) ∧
    s.me.gr 0 = {}

/-! ### Capability instructions -/

/-- The capability instructions complete (R183–R188). -/
def Obligations.CapabilityResults : Prop :=
  (∀ (s : State) (d : Fin 64) (a : Fin 32) (b c : Fin 64),
    (∀ p ∈ ([(0, (s.me.kr a.val).base), (1, (s.me.kr a.val).len), (2, (s.me.kr a.val).perm), (3, (s.me.kr a.val).key),
        (4, (s.me.kr a.val).space), (5, (s.me.kr a.val).tag.toNat)] : List (BitVec 12 × Nat)),
      exec (.cget d a p.1) s = .next (s.putG 1 d (BitVec.ofNat 64 p.2) false)) ∧
    exec (.cchk d a b c) s = .next (s.putG 1 d
      (if (s.me.kr a.val).tag = false then 0x10
        else if (s.gv b).toInt < 0 ∨ ((s.me.kr a.val).len : Int) < (s.gv b).toInt + (s.gv c).toNat then 0x11 else 0)
      (s.gp b || s.gp c))) ∧
  (∀ (s : State) (d a : Fin 32),
    exec (.cmov d a) s = .next (s.put 1 (.k d.val (s.me.kr a.val))) ∧
    exec (.cclr d) s = .next (s.put 1 (.k d.val ⟨0, false⟩))) ∧
  (∀ (s : State) (d a : Fin 32) (m : BitVec 12), (s.me.kr a.val).tag = true → (s.me.kr a.val).holds pDERIVE = true →
    exec (.cperm d a m) s = .next (s.put 1 (.k d.val ((s.me.kr a.val).maskPerm m.toNat)))) ∧
  (∀ (s : State) (d a : Fin 32) (b c : Fin 64), s.gp b = false → s.gp c = false → (s.me.kr a.val).tag = true →
    (s.me.kr a.val).holds pDERIVE = true → 0 ≤ (s.gv b).toInt →
    (s.gv b).toInt + (s.gv c).toNat ≤ (s.me.kr a.val).len →
    ((s.me.kr a.val).base : Int) + (s.gv b).toInt + (s.gv c).toNat ≤ 2 ^ 57 →
    ((s.me.kr a.val).space = 8 → (s.gv b).toInt % 16 = 0 ∧ (s.gv c).toNat % 16 = 0) →
    exec (.cnarrow d a b c) s = .next (s.put 1 (.k d.val
      ((s.me.kr a.val).narrow ((s.me.kr a.val).base + (s.gv b).toInt.toNat) (s.gv c).toNat))))

/-- Derived capabilities: fields exactly as asked, no authority gained; the faults of CNARROW and CPERM in order (R183–R185). -/
def Obligations.DerivedCapability : Prop :=
  ((∀ (k : Cap) (off len : Nat), off + len ≤ k.len → k.base + off + len ≤ 2 ^ 57 →
      (k.narrow (k.base + off) len).tag = true ∧ (k.narrow (k.base + off) len).space = k.space ∧
      (k.narrow (k.base + off) len).perm = k.perm ∧ (k.narrow (k.base + off) len).key = k.key ∧
      (k.narrow (k.base + off) len).len = len ∧
      (k.base + off < 2 ^ 57 → (k.narrow (k.base + off) len).base = k.base + off)) ∧
    (∀ (k : Cap) (m : BitVec 12),
      (k.maskPerm m.toNat).tag = true ∧ (k.maskPerm m.toNat).space = k.space ∧ (k.maskPerm m.toNat).key = k.key ∧
      (k.maskPerm m.toNat).len = k.len ∧ (k.maskPerm m.toNat).base = k.base ∧
      ∀ i, i < 12 → ((k.maskPerm m.toNat).perm.testBit i = (k.perm.testBit i && m.getLsbD i)))) ∧
  (∀ (s : State) (d a : Fin 32) (b c : Fin 64) (m : BitVec 12),
      (s.gp b = true → exec (.cnarrow d a b c) s = .next (s.trap 0x28 (BitVec.ofNat 64 b.val) s.slotBit)) ∧
      (s.gp b = false → s.gp c = true → exec (.cnarrow d a b c) s = .next (s.trap 0x28 (BitVec.ofNat 64 c.val) s.slotBit)) ∧
      (s.gp b = false → s.gp c = false →
        ((s.me.kr a.val).tag = false → exec (.cnarrow d a b c) s = .next (s.trap 0x10 0 s.slotBit)) ∧
        ((s.me.kr a.val).tag = true → (s.me.kr a.val).perm.testBit 9 = false →
          exec (.cnarrow d a b c) s = .next (s.trap 0x12 0 s.slotBit)) ∧
        ((s.me.kr a.val).tag = true → (s.me.kr a.val).perm.testBit 9 = true →
          ((s.gv b).toInt < 0 ∨ ((s.me.kr a.val).len : Int) < (s.gv b).toInt + (s.gv c).toNat) →
          exec (.cnarrow d a b c) s = .next (s.trap 0x11 (s.gv b) s.slotBit)) ∧
        ((s.me.kr a.val).tag = true → (s.me.kr a.val).perm.testBit 9 = true → 0 ≤ (s.gv b).toInt →
          (s.gv b).toInt + (s.gv c).toNat ≤ (s.me.kr a.val).len → (s.me.kr a.val).space = 8 →
          ((s.gv b).toNat % 16 ≠ 0 ∨ (s.gv c).toNat % 16 ≠ 0) →
          exec (.cnarrow d a b c) s = .next (s.trap 0x14 (s.gv b) s.slotBit)) ∧
        ((s.me.kr a.val).tag = true → (s.me.kr a.val).perm.testBit 9 = true → 0 ≤ (s.gv b).toInt →
          (s.gv b).toInt + (s.gv c).toNat ≤ (s.me.kr a.val).len →
          ((s.me.kr a.val).space = 8 → (s.gv b).toNat % 16 = 0 ∧ (s.gv c).toNat % 16 = 0) →
          2 ^ 57 < (s.me.kr a.val).base + (s.gv b).toNat + (s.gv c).toNat →
          exec (.cnarrow d a b c) s = .next (s.trap 0x11 (s.gv b) s.slotBit))) ∧
      ((s.me.kr a.val).tag = false → exec (.cperm d a m) s = .next (s.trap 0x10 0 s.slotBit)) ∧
      ((s.me.kr a.val).tag = true → (s.me.kr a.val).perm.testBit 9 = false →
        exec (.cperm d a m) s = .next (s.trap 0x12 0 s.slotBit)))

/-! ### Control transfers and iterations -/

/-- Control transfers complete (R189–R192). -/
def Obligations.ControlTransfers : Prop :=
  ∀ (s : State) (d : Imm 18) (x : Word), x = s.me.pc + (match d with | .short v => v.signExtend 64 | .long l => l.signExtend 64) →
    exec (.br d) s = .next (s.setMe { s.me with br := some ⟨true, x, s.me.pc, false⟩ }) ∧
    exec (.bmz d) s = .next (s.setMe { s.me with br := some ⟨decide (s.me.stack.headD (BitVec.allOnes 64) = 0), x, s.me.pc, false⟩ }) ∧
    (∀ g : Fin 64, s.gp g = false →
      (∀ p ∈ ([(Instr.beqz, fun n => n = 0), (Instr.bnez, fun n => n ≠ 0), (Instr.bltz, fun n => n < 0),
          (Instr.bgez, fun n => n ≥ 0), (Instr.bgtz, fun n => n > 0), (Instr.blez, fun n => n ≤ 0)] :
          List ((Fin 64 → Imm 18 → Instr) × (Int → Prop))), ∃ b : Bool, (b = true ↔ p.2 (s.gv g).toInt) ∧
        exec (p.1 g d) s = .next (s.setMe { s.me with br := some ⟨b, x, s.me.pc, false⟩ })) ∧
      exec (.jr g) s = .next (s.setMe { s.me with br := some ⟨true, s.gv g, s.me.pc, false⟩ })) ∧
    (∀ (l a : Fin 64) (n : Nat),
      s.bundleLen (s.task.elim 0 s.codeFunc) (s.me.pc + BitVec.ofNat 64 s.cur.len).toNat = some n →
      (((s.me.pc + BitVec.ofNat 64 s.cur.len).toNat / 64 = s.me.pc.toNat / 64 ∨
          (s.me.pc + BitVec.ofNat 64 s.cur.len).toNat / 64 ∈ s.me.lines) →
        exec (.bl l d) s = .next ((s.branch true x).putG 1 l (s.me.pc + BitVec.ofNat 64 s.cur.len + BitVec.ofNat 64 n) false) ∧
        (s.gp a = false → exec (.jlr l a) s =
          .next ((s.branch true (s.gv a)).putG 1 l (s.me.pc + BitVec.ofNat 64 s.cur.len + BitVec.ofNat 64 n) false))) ∧
      ((s.me.pc + BitVec.ofNat 64 s.cur.len).toNat / 64 ≠ s.me.pc.toNat / 64 →
        (s.me.pc + BitVec.ofNat 64 s.cur.len).toNat / 64 ∉ s.me.lines →
        exec (.bl l d) s = .next s.holdFull ∧ (s.gp a = false → exec (.jlr l a) s = .next s.holdFull)))

/-- The precise faults of control transfers (R193), of loads and stores (R196, R210, R229, R236), and the checks of matrix instructions at issue (R304, R305, R313, R314, R330). -/
def Obligations.OperandFaults : Prop :=
  (∀ (s : State) (g l : Fin 64) (d : Imm 18),
      (s.gp g = true → ∀ i ∈ [Instr.beqz g d, .bnez g d, .bltz g d, .bgez g d, .bgtz g d, .blez g d, .jr g, .jlr l g],
        exec i s = .next (s.trapPoison false g.val)) ∧
      (s.bundleLen (s.task.elim 0 s.codeFunc) s.after.toNat = none →
        exec (.bl l d) s = .next (s.trap 0x03 s.after s.me.pc) ∧
        (s.gp g = false → exec (.jlr l g) s = .next (s.trap 0x03 s.after s.me.pc)))) ∧
  (∀ (s : State) (k : Fin 32) (g d : Fin 64) (i : Imm 7) (m : Fin 8) (c : Fin 32),
      (s.gp g = true →
        (∀ j n sg, scalarLoadForm j = some (n, sg, d, k, g, i) → exec j s = .next (s.trapPoison false g.val)) ∧
        (∀ j n, scalarStoreForm j = some (n, d, k, g, i) → exec j s = .next (s.trapPoison false g.val)) ∧
        (∀ j ∈ [Instr.vld d k g i, .vst d k g i, .vldm m k g i, .vstm m k g i, .cld c k g i, .cst c k g i],
          exec j s = .next (s.trapPoison false g.val))) ∧
      (s.gp g = false →
        (∀ j n sg e, scalarLoadForm j = some (n, sg, d, k, g, i) →
          s.loadCheck s.cur.id (s.me.kr k.val) memSpaces (s.offset g n i).toInt n pR n true = .error e →
          exec j s = .next (s.trap e.code e.tval s.slotBit)) ∧
        (∀ j n, scalarStoreForm j = some (n, d, k, g, i) → s.gp d = true → exec j s = .next (s.trapPoison false d.val)) ∧
        (∀ j n e, scalarStoreForm j = some (n, d, k, g, i) → s.gp d = false →
          s.capCheck s.cur.id (s.me.kr k.val) memSpaces (s.offset g n i).toInt n pW n true true = .error e →
          exec j s = .next (s.trap e.code e.tval s.slotBit)))) ∧
  (∀ (s : State) (k : Fin 32) (a b : Fin 64) (t m : Fin 8) (e : Fin 2) (co : Core), co = s.core (s.cur.id / 4) →
      (∀ i ∈ [Instr.xcfg t m, .xcfgSl t, .xpushA k a b, .xpushW k a b, .xflip, .xshift, .xscl a t, .xacc t a b, .xzero t, .xsete t a,
          .xclrf t, .xmark t a b e, .xdrain t a b m],
        (s.me.lost = true → exec i s = .next (s.setMe s.me)) ∧
        (s.me.lost = false → co.owner ≠ some s.cur.id → exec i s = .next (s.trapBare 0x40))) ∧
      (co.owner ≠ some s.cur.id → exec .xrel s = .next (s.setMe s.me)) ∧
      (s.me.lost = false → co.owner = some s.cur.id →
        (s.gp a = true → ∀ i ∈ [Instr.xpushA k a b, .xpushW k a b, .xacc t a b, .xsete t a, .xmark t a b e, .xdrain t a b m],
          exec i s = .next (s.trapPoison false a.val)) ∧
        (co.np + co.ns ≠ 0 → exec (.xcfg t m) s = .next (s.trapOpen 0x42 0x100) ∧ exec (.xcfgSl t) s = .next (s.trapOpen 0x42 0x100)) ∧
        (co.cfgd = false → exec .xflip s = .next (s.trapOpen 0x42 0x105) ∧ exec .xshift s = .next (s.trapOpen 0x42 0x106) ∧
          exec (.xzero t) s = .next (s.trapOpen 0x42 0x10A) ∧ (s.vp a = false → exec (.xscl a t) s = .next (s.trapOpen 0x42 0x107)) ∧
          (s.gp a = false → s.gp b = false → exec (.xpushA k a b) s = .next (s.trapOpen 0x42 0x103) ∧
            exec (.xpushW k a b) s = .next (s.trapOpen 0x42 0x104) ∧ exec (.xacc t a b) s = .next (s.trapOpen 0x42 0x108)))))

/-- The delay bundle (R122, R123, R157). -/
def Obligations.TransferAfterDelay : Prop :=
  ∀ (c old : Ctx) (n : Nat),
    (c.commit old n).step = old.step + 1 ∧ (c.commit old n).br = none ∧ (c.commit old n).g = c.land.g ∧
    (old.delay = none → (c.commit old n).pc = old.pc + BitVec.ofNat 64 n ∧ (c.commit old n).delay = c.br ∧
      (c.commit old n).fb = none) ∧
    (∀ x p, old.delay = some ⟨true, x, p, false⟩ →
      (c.commit old n).pc = x ∧ (c.commit old n).fb = some p ∧ (c.commit old n).delay = none) ∧
    (∀ x p, old.delay = some ⟨false, x, p, false⟩ →
      (c.commit old n).pc = old.pc + BitVec.ofNat 64 n ∧ (c.commit old n).fb = none ∧ (c.commit old n).delay = none) ∧
    (∀ b x p, old.delay = some ⟨b, x, p, true⟩ → (c.commit old n).ret = true ∧ (c.commit old n).delay = none)

/-- CHK, NOP and hints (R118, R145, R196) and the system instructions (R425, R426, R430–R433). -/
def Obligations.SystemInstructions : Prop :=
  (∀ (s : State) (a : Fin 64),
      (s.gp a = false → exec (.chkG a) s = .next (s.setMe s.me)) ∧
      ((s.me.vr a.val).p = false → exec (.chkV a) s = .next (s.setMe s.me)) ∧
      (s.gp a = true → exec (.chkG a) s = .next (s.trapOpen 0x28 (BitVec.ofNat 64 a.val))) ∧
      ((s.me.vr a.val).p = true → exec (.chkV a) s = .next (s.trapOpen 0x28 (BitVec.ofNat 64 (64 + a.val)))) ∧
      exec .nop s = .next (s.setMe s.me) ∧
      ∀ k o p l, exec (.hint k o p l) s = .next (s.setMe s.me)) ∧
  (∀ (s : State) (t : Task) (d a : Fin 64) (i w : BitVec 12), s.task = some t →
      (s.me.frame.isSome = true → exec .eret s = .next (s.setMe { s.me with br := some ⟨false, 0, s.me.pc, true⟩ })) ∧
      (s.me.frame = none → exec .eret s = .next (s.trap 0x01 0x10000000 s.slotBit)) ∧
      exec (.featq d a i) s = .next (s.putG 1 d (s.feature t.func t.l1 (s.gv a + i.signExtend 64).toNat) (s.gp a)) ∧
      (s.me.frame = none → s.me.prq = none → exec .idle s = .next (s.setMe { s.me with wait := some .idle })) ∧
      (s.me.frame.isSome = true ∨ s.me.prq.isSome = true → exec .idle s = .next (s.setMe s.me)) ∧
      (s.me.dbg = true → exec (.dbrk i) s = .next (s.setMe { s.me with dbgStop := some i })) ∧
      (s.me.dbg = false → exec (.dbrk i) s = .next (s.setMe s.me)) ∧
      (s.me.prq.isSome = true → exec .prack s = .next (s.setMe { s.me with preempt := .requested })) ∧
      (s.me.prq = none → exec .prack s = .next (s.setMe s.me)) ∧
      (∃ v : Word, exec (.mcrd d a w) s = .next { s.done with fresh := s.fresh + 1, loads := s.loads ++
          [⟨s.fresh, s.tid, s.cur.id, s.me.iss, s.me.pc, 0, 0, [], .word d.val v (s.gp a), false, false, [], []⟩] } ∧
        ((s.part t.l1).mclog.length ≤ (s.gv a).toNat → v = 0) ∧
        (∀ r : BitVec 512, (s.part t.l1).mclog[(s.gv a).toNat]? = some r → v = r.extractLsb' (64 * w.toNat) 64)))

/-- TAIL (R169–R171, R197, R409, R419). -/
def Obligations.TailEndsTheTask : Prop :=
  ∀ (s : State) (t : Task), s.task = some t →
    ((s.retire.filter fun r => decide (r.core = s.cur.id / 4)).length < 64 →
      ∃ u r, exec .tail s = .next u ∧ u.cur.verdict = .ended ∧ u.retire = s.retire ++ [r] ∧
        u.ctx s.cur.id = { dbg := (s.ctx s.cur.id).dbg, iss := (s.ctx s.cur.id).iss, obs := (s.ctx s.cur.id).obs } ∧ r.task = t ∧ r.core = s.cur.id / 4 ∧ r.tail = true ∧ r.mchk = false ∧
        r.fpc = (s.ctx s.cur.id).pc ∧ r.left = (if t.persist then ((s.ctx s.cur.id).hi - (s.ctx s.cur.id).lo).toNat else 0) ∧
        (match ((s.ctx s.cur.id).frame.bind (·.pf)).or (s.ctx s.cur.id).late, s.firstReject s.tid 7 true, s.firstReject s.tid 7 false with
          | some l, _, _ => r.code = l.code ∧ r.tval = l.tval ∧ r.pend = true
          | none, some x, _ => r.code = 0x31 ∧ r.tval = BitVec.ofNat 64 x.hoff ∧ r.pend = true
          | none, none, some x => r.code = 0x30 ∧ r.tval = BitVec.ofNat 64 x.hoff ∧ r.pend = true
          | none, none, none => r.code = 0 ∧ r.tval = 0 ∧ r.pend = false)) ∧
    (64 ≤ (s.retire.filter fun r => decide (r.core = s.cur.id / 4)).length →
      exec .tail s = .next { s with cur := { s.cur with verdict := .held } })

/-- NEXT (R194; the coordinates are those of R57). -/
def Obligations.NextSerial : Prop :=
  (∀ (s : State) (d : Fin 64) (t : Task), s.me.task = some t →
    (s.me.hi.toNat ≤ s.me.lo.toNat → exec (.next d) s = .next (s.putG 1 d 0 false)) ∧
    (s.me.lo.toNat < s.me.hi.toNat →
      exec (.next d) s = .next (State.putG (State.puts
        (s.setMe { s.me with lo := s.me.lo + 1, task := some { t with iters := t.iters + 1 } }) 1
        (((List.range 4).map fun n => Payload.g (n + 1) (coordinate t.dims t.order s.me.lo.toNat n) false)
          ++ [.g 6 s.me.lo false])) 1 d 1 false)) ∧
    ∃ u, exec (.next d) s = .next u ∧ (d.val ≠ 5 → (u.ctx s.cur.id).gr 5 = s.me.gr 5 ∧
      ∀ r ∈ (u.ctx s.cur.id).pend, r ∉ s.me.pend → r.due = s.me.step + 1 ∧ r.val.reg ≠ some (.g 5))) ∧
  (∀ (d : Nat) (rest : List Byte), d ∈ [1, 2, 3, 4, 6] → decodeBundle false 1 (bytes32 (BitVec.ofNat 32 (0x0C000000 + d * 2 ^ 18)) ++ rest) =
    .error ⟨1, BitVec.ofNat 32 (0x0C000000 + d * 2 ^ 18), 0⟩) ∧
  (∀ (i : Image) (l : Launch) (t : Machine.Task) (old : Ctx), l.persist = false →
    (startCtx i l t old).lo = 0 ∧ (startCtx i l t old).hi = 0)

/-- Iterations and their coordinates (R56, R57). -/
def Obligations.IterationCoordinates : Prop :=
  (∀ d : Dim, (0 < d.step → d.hi ≤ d.lo → d.count = 0) ∧ (d.step < 0 → d.lo ≤ d.hi → d.count = 0) ∧
    (0 < d.step → d.lo < d.hi → (d.hi - d.lo : Int) ≤ d.count * d.step ∧ (d.count * d.step : Int) < d.hi - d.lo + d.step) ∧
    (d.step < 0 → d.hi < d.lo → (d.lo - d.hi : Int) ≤ d.count * -d.step ∧ (d.count * -d.step : Int) < d.lo - d.hi + -d.step)) ∧
  (∀ ds : List Dim, iterations ds = (ds.map Dim.count).prod) ∧ iterations [] = 1 ∧
  (∀ (order : List Nat) (n i : Nat), coordinate [] order n i = 0) ∧
  (∀ (ds : List Dim) (order : List Nat) (n : Nat), (∀ o ∈ order, o < ds.length) → (∀ d ∈ ds, 0 < d.count) →
    n < (order.map fun o => (ds[o]?).elim 1 Dim.count).prod →
    (positions ds order n).map (·.1) = order ∧ (∀ p ∈ positions ds order n, ∃ d, ds[p.1]? = some d ∧ p.2 < d.count) ∧
    (positions ds order n).foldr (fun p acc => p.2 + (ds[p.1]?).elim 1 Dim.count * acc) 0 = n) ∧
  (∀ (ds : List Dim) (order : List Nat) (n i k : Nat) (d : Dim), ds[i]? = some d →
    (positions ds order.reverse n).find? (fun p => decide (p.1 = i)) = some (i, k) →
    coordinate ds order n i = (BitVec.ofInt 33 (d.lo + k * d.step)).signExtend 64 <<< d.shift)

/-- STEAL and the range arbiter's answer (R78, R79, R195). That the answer comes at the end of the cycle is the model's reading (DEDUCED,
log entry 46). -/
def Obligations.Steals : Prop :=
  (∀ (s : State) (d : Fin 64) (t : Task), s.me.task = some t →
      ((t.persist = true ∧ s.me.lo = s.me.hi) → exec (.steal d) s = .next (s.setMe { s.me with
        steal := some d.val, pend := s.me.pend ++ (if d.val = 0 then [] else [⟨s.me.step + 1, .flag d.val⟩]) })) ∧
      (¬ (t.persist = true ∧ s.me.lo = s.me.hi) → exec (.steal d) s = .next (s.putG 1 d 0 false))) ∧
  (∀ (s : State) (launch cluster : Nat), (s.ctxs.Pairwise fun p q => p.1 < q.1) →
      (pickVictim launch cluster s.ctxs none = none ↔ ¬ ∃ (id : Nat) (u : Machine.Task), (s.ctx id).task = some u ∧ u.launch = launch ∧
        u.persist = true ∧ clusterOf (coreOf id) = cluster ∧ (s.ctx id).preempt ≠ .out ∧ 2 ≤ (s.ctx id).hi.toNat - (s.ctx id).lo.toNat)) ∧
  (∀ (s : State) (id n : Nat) (t : Machine.Task), (s.ctx id).steal = some n → (s.ctx id).task = some t → (s.ctx id).lo = (s.ctx id).hi →
      (s.ctxs.Pairwise fun p q => p.1 < q.1) →
      (∀ v r, pickVictim t.launch (clusterOf (coreOf id)) s.ctxs none = some (v, r) →
        (∀ p ∈ s.ctxs, ∀ u, p.2.task = some u → u.launch = t.launch → u.persist = true →
          clusterOf (coreOf p.1) = clusterOf (coreOf id) → p.2.preempt ≠ .out → 2 ≤ p.2.hi.toNat - p.2.lo.toNat →
          p.2.hi.toNat - p.2.lo.toNat ≤ r ∧ (p.2.hi.toNat - p.2.lo.toNat = r → v ≤ p.1)) ∧
        2 ≤ r ∧ v ≠ id ∧ r = (s.ctx v).hi.toNat - (s.ctx v).lo.toNat ∧
        (∃ u, (s.ctx v).task = some u ∧ u.launch = t.launch ∧ u.persist = true) ∧
        clusterOf (coreOf v) = clusterOf (coreOf id) ∧ (s.ctx v).preempt ≠ .out ∧
        ((s.answerSteal id).ctx v).lo = (s.ctx v).lo ∧
        ((s.answerSteal id).ctx v).hi.toNat = (s.ctx v).lo.toNat + (r + 1) / 2 ∧
        ((s.answerSteal id).ctx id).lo = ((s.answerSteal id).ctx v).hi ∧
        ((s.answerSteal id).ctx id).hi = (s.ctx v).hi ∧ ((s.answerSteal id).ctx id).steal = none ∧
        ((s.answerSteal id).ctx id).pend = (s.ctx id).pend.map (fun r => match r.val with | .flag m => ⟨r.due, .g m 1 false⟩ | _ => r)) ∧
      (pickVictim t.launch (clusterOf (coreOf id)) s.ctxs none = none →
        s.answerSteal id = s.setCtx id { s.ctx id with
          steal := none, pend := (s.ctx id).pend.map fun r => match r.val with | .flag m => ⟨r.due, .g m 0 false⟩ | _ => r }))

/-! ### System instructions -/

/-- The special registers (R152, R421–R423). -/
def Obligations.SpecialRegisters : Prop :=
  (∀ (s : State) (d : Fin 64) (t : Task), s.me.task = some t →
    (∀ p ∈ ([(0x000, s.me.pc), (0x001, s.me.cause), (0x002, s.me.tval), (0x003, s.me.tval2), (0x004, s.me.mpc),
        (0x005, s.me.fflags.setWidth 64), (0x006, s.me.lo), (0x007, s.me.hi),
        (0x008, BitVec.ofNat 64 (s.cur.id / 32 * 2 ^ 16 + s.cur.id / 4 * 2 ^ 8 + s.cur.id % 4)),
        (0x009, BitVec.ofNat 64 (t.func * 2 ^ 8 + t.expl.toNat * 2 ^ 7 + t.child * 2 ^ 4 + t.l1)),
        (0x00A, BitVec.ofNat 64 s.time), (0x00B, BitVec.ofNat 64 s.me.stack.length), (0x00C, s.wheelWord t),
        (0x00D, s.me.tcmp), (0x00E, s.me.ien.setWidth 64), (0x00F, s.me.ipend.setWidth 64),
        (0x010, if s.me.prq = none then 0 else 1)] : List (BitVec 12 × Word)),
      exec (.mfsr d p.1) s = .next (s.putG 1 d p.2 false)) ∧
    (∀ n : Fin 16, exec (.mfsr d (BitVec.ofNat 12 (0x20 + n.val))) s = .next (s.putG 1 d ((s.me.er n.val).setWidth 64) false))) ∧
  (∀ (s : State) (a : Fin 64), s.gp a = false →
    exec (.mtsr a 0x005) s = .next (s.setMe { s.me with fflags := (s.gv a).setWidth 5 }) ∧
    exec (.mtsr a 0x00D) s = .next (s.setMe { s.me with tcmp := s.gv a }) ∧
    exec (.mtsr a 0x00E) s = .next (s.setMe { s.me with ien := (s.gv a).setWidth 16 }) ∧
    exec (.mtsr a 0x00F) s = .next (s.setMe { s.me with ipend := s.me.ipend &&& ~~~((s.gv a).setWidth 16) }) ∧
    (∀ n : Fin 16, exec (.mtsr a (BitVec.ofNat 12 (0x20 + n.val))) s = .next (s.put 1 (.e n.val ((s.gv a).setWidth 13))))) ∧
  (∀ (s : State) (a : Fin 64) (n : BitVec 12), s.gp a = true → exec (.mtsr a n) s = .next (s.trapPoison false a.val))

/-- TRAP (R408, R424). -/
def Obligations.TrapInstruction : Prop :=
  ∀ (s : State) (i : BitVec 12) (a : Word), (s.ctx s.cur.id).frame = none → s.handler (s.ctx s.cur.id) 0x50 = some a →
    s.outstanding s.cur.id = false →
    ∃ f : Frame, exec (.trap i) s = .next { s.setCtx s.cur.id { (s.ctx s.cur.id).landRest with
        frame := some f, late := none, stack := [], wait := none, more := [], trapReq := none, after := none, drains := []
        cause := 0x50, tval := i.setWidth 64, tval2 := 0, pc := a, br := none, delay := none, fb := none } with
      cur := { s.cur with verdict := .trapped } } ∧
    f.cause = 0x50 ∧ f.tval = i.setWidth 64 ∧ f.tval2 = 0 ∧ f.stack = (s.ctx s.cur.id).landRest.stack ∧
    ((s.ctx s.cur.id).delay = none → f.pc = (s.ctx s.cur.id).land.pc + BitVec.ofNat 64 s.cur.len) ∧
    (∀ x p e, (s.ctx s.cur.id).delay = some ⟨true, x, p, e⟩ → f.pc = x)
/-! ### Loads and stores -/

/-- Loads (R228–R235, R239, R240), VLDX and VSTX (R131, R237, R238). -/
def Obligations.LoadsComplete : Prop :=
  (∀ (s : State) (k : Fin 32) (g : Fin 64) (i : Imm 7) (off : Nat → Word),
      (∀ n, off n = s.gv g + (match i with | .short v => v.signExtend 64 * BitVec.ofNat 64 n | .long l => l.signExtend 64)) →
      (s.gp g = false →
        (∀ (j : Instr) (n : Nat) (sg : Bool) (d : Fin 64) (a : Acc), scalarLoadForm j = some (n, sg, d, k, g, i) →
          s.loadCheck s.cur.id (s.me.kr k.val) [0, 1, 2, 3, 5] (off n).toInt n 1 n true = .ok a →
          exec j s = .next { s.setMe { s.me with iss := s.me.iss + 1 } with fresh := s.fresh + 1, loads := s.loads ++
            [⟨s.fresh, s.tid, s.cur.id, s.me.iss, s.me.pc, a.space, a.key, [(0, a.addr, n)], .g d.val n sg, false, false, [], []⟩] }) ∧
        (∀ (d : Fin 64) (a : Acc), s.loadCheck s.cur.id (s.me.kr k.val) [0, 1, 2, 3, 5] (off 256).toInt 256 1 64 true = .ok a →
          exec (.vld d k g i) s = .next (s.issueLoad a.space a.key
            (((List.range 64).filter s.me.top.getLsbD).map fun j => (4 * j, a.addr + 4 * j, 4)) (.v d.val) false false)) ∧
        (∀ (d : Fin 8) (a : Acc), s.loadCheck s.cur.id (s.me.kr k.val) [0, 1, 2, 3, 5] (off 8).toInt 8 1 8 true = .ok a →
          exec (.vldm d k g i) s = .next (s.issueLoad a.space a.key [(0, a.addr, 8)] (.m d.val) false false)) ∧
        (∀ (d : Fin 32) (a : Acc), s.capCheck s.cur.id (s.me.kr k.val) [8] (off 16).toInt 16 1 16 = .ok a →
          exec (.cld d k g i) s = .next (s.issueLoad a.space a.key [(0, a.addr, 16)] (.k d.val) false false))) ∧
      (∀ d : Fin 64,
        exec (.lds d k g i) s =
          .next (match s.loadCheck s.cur.id (s.me.kr k.val) [0, 1, 2, 3, 5] (off 8).toInt 8 1 8 true with
            | .ok a => s.issueLoad a.space a.key [(0, a.addr, 8)] (.g d.val 8 false) true (s.gp g)
            | .error _ => s.issueLoad 0 0 [(0, 0, 8)] (.g d.val 8 false) true true) ∧
        exec (.vlds d k g i) s =
          .next (match s.loadCheck s.cur.id (s.me.kr k.val) [0, 1, 2, 3, 5] (off 256).toInt 256 1 64 true with
            | .ok a => s.issueLoad a.space a.key (((List.range 64).filter s.me.top.getLsbD).map fun j => (4 * j, a.addr + 4 * j, 4))
                (.v d.val) true (s.gp g)
            | .error _ => s.issueLoad 0 0 (((List.range 64).filter s.me.top.getLsbD).map fun j => (4 * j, 4 * j, 4)) (.v d.val) true true))) ∧
  (∀ (s : State) (d x : Fin 64) (k : Fin 32) (w : Fin 4) (sg : Fin 2) (c : Fin 8) (z : Fin 2) (l : Lit) (n : Nat) (off : Nat → Word),
      n = (if z.val = 1 then 8 else 4) →
      (∀ j, off j = litVal l + BitVec.ofInt 64 (toInt (8 * 2 ^ w.val) (decide (sg.val = 1)) (elem (8 * 2 ^ w.val) (s.me.vr x.val).v j)) <<< c.val) →
      (s.me.vr x.val).p = false →
      (∀ as, laneChecks (fun o => s.loadCheck s.cur.id (s.me.kr k.val) [0, 1, 2, 3, 5] o.toInt n 1 n true) off
          ((List.range (256 / n)).filter s.me.top.getLsbD) = .ok as →
        exec (.vldx d k x w sg c z l) s = .next (s.issueLoad (s.me.kr k.val).space (s.me.kr k.val).key
          (as.map fun p => (n * p.1, p.2.addr, n)) (.v d.val) false false)) ∧
      (∀ e, laneChecks (fun o => s.loadCheck s.cur.id (s.me.kr k.val) [0, 1, 2, 3, 5] o.toInt n 1 n true) off
          ((List.range (256 / n)).filter s.me.top.getLsbD) = .error e →
        exec (.vldx d k x w sg c z l) s = .next (s.trap e.1 e.2 s.slotBit)) ∧
      (∀ as, (s.me.vr d.val).p = false → laneChecks (fun o => s.capCheck s.cur.id (s.me.kr k.val) [0, 1, 2, 3, 5] o.toInt n 2 n true true) off
          ((List.range (256 / n)).filter s.me.top.getLsbD) = .ok as →
        exec (.vstx d k x w sg c z l) s = .next (s.issueStore (s.me.kr k.val).space (s.me.kr k.val).key
          (as.map fun p => (p.2.addr, leBytes n (elem (8 * n) (s.me.vr d.val).v p.1))) false)) ∧
      (∀ e, (s.me.vr d.val).p = false → laneChecks (fun o => s.capCheck s.cur.id (s.me.kr k.val) [0, 1, 2, 3, 5] o.toInt n 2 n true true) off
          ((List.range (256 / n)).filter s.me.top.getLsbD) = .error e →
        exec (.vstx d k x w sg c z l) s = .next (s.trap e.1 e.2 s.slotBit)))

/-- Stores (R228, R230, R232, R234, R239–R241). -/
def Obligations.StoresComplete : Prop :=
  ∀ (s : State) (k : Fin 32) (g : Fin 64) (i : Imm 7) (off : Nat → Word),
    (∀ n, off n = s.gv g + (match i with | .short v => v.signExtend 64 * BitVec.ofNat 64 n | .long l => l.signExtend 64)) →
    s.gp g = false →
    (∀ (j : Instr) (n : Nat) (d : Fin 64) (a : Acc), scalarStoreForm j = some (n, d, k, g, i) → s.gp d = false →
      s.capCheck s.cur.id (s.me.kr k.val) [0, 1, 2, 3, 5] (off n).toInt n 2 n true true = .ok a →
      exec j s = .next (s.issueStore a.space a.key [(a.addr, leBytes n (s.gv d).toNat)] true)) ∧
    (∀ (d : Fin 64) (a : Acc), (s.me.vr d.val).p = false →
      s.capCheck s.cur.id (s.me.kr k.val) [0, 1, 2, 3, 5] (off 256).toInt 256 2 64 true true = .ok a →
      exec (.vst d k g i) s = .next (s.issueStore a.space a.key (((List.range 64).filter s.me.top.getLsbD).map fun j =>
        (a.addr + 4 * j, leBytes 4 ((s.me.vr d.val).v.extractLsb' (32 * j) 32).toNat)) true)) ∧
    (∀ (d : Fin 8) (a : Acc), s.capCheck s.cur.id (s.me.kr k.val) [0, 1, 2, 3, 5] (off 8).toInt 8 2 8 true true = .ok a →
      exec (.vstm d k g i) s = .next (s.issueStore a.space a.key [(a.addr, leBytes 8 (Table.get 0 s.me.m d.val).toNat)] true)) ∧
    (∀ (d : Fin 32) (a : Acc) (t : Task) (ls : List Nat) (u : State),
      s.capCheck s.cur.id (s.me.kr k.val) [8] (off 16).toInt 16 1026 16 = .ok a →
      ((s.me.kr k.val).holds pGLOB = true → (s.me.kr d.val).holds pGLOB = true) → s.task = some t →
      State.writePlaces t s.cur.id 8 (s.setMe { s.me with iss := s.me.iss + 1 }) (chunks a.addr 16) = .ok (ls, u) →
      exec (.cst d k g i) s = .next { u with fresh := u.fresh + 1, writes := u.writes ++
        [{ id := u.fresh, tid := t.tid, ctx := s.cur.id, iss := s.me.iss, pc := s.me.pc, level := 0, stamp := 0, key := a.key
           cells := ls.zip (leBytes 16 (s.me.kr d.val).bits.toNat) ++
             [(tagCell (ls.headD 0), BitVec.ofNat 8 (s.me.kr d.val).tag.toNat)]
           rel := [], groups := s.me.groups, scope := 1, cover := some 0, born := s.time, parts := [(a.addr, 16)], whole := true }] })

/-- The frame and the effect of a posted store (R229, R230, R358, R361). -/
def Obligations.StoreEffect : Prop :=
  ∀ (s : State) (t : Task) (space key addr : Nat) (bs : List Byte) (s1 : State), s.Canonical → s.task = some t →
    s1 = (s.setMe { s.me with iss := s.me.iss + 1, touched := (s.me.touched ++ if space = 5 then [addr / 0x40000] else []).eraseDups }).tagGranules
      (s.cur.id / 4) t.func space addr bs.length →
    (∀ ls u, key < 256 → State.writePlaces t s.cur.id space s1 (chunks addr bs.length) = .ok (ls, u) →
      (∀ v slot x, v.iss ≤ s.me.iss + 1 → x ∉ ls → (s.keyFor slot (x / 128) = s.keyFor key (x / 128) ∨ ∀ y ∈ ls, y / 128 ≠ x / 128) →
        (s.issueStore space key [(addr, bs)] true).see v slot x = s.see v slot x) ∧
      (∀ v slot x, v.ctx ≠ s.cur.id → (s.issueStore space key [(addr, bs)] true).see v slot x = s.see v slot x) ∧
      (∀ x b, cellAt x (ls.zip bs) = some b →
        (s.issueStore space key [(addr, bs)] true).see ⟨s.cur.id, some (s.cur.id / 4), s.me.iss + 1, 0⟩ key x = b) ∧
      ((s.issueStore space key [(addr, bs)] true).ctx s.cur.id).g = s.me.g ∧
      ((s.issueStore space key [(addr, bs)] true).ctx s.cur.id).iss = s.me.iss + 1) ∧
    (∀ e, State.writePlaces t s.cur.id space s1 (chunks addr bs.length) = .error e →
      (∀ v slot x, (s.issueStore space key [(addr, bs)] true).see v slot x = s.see v slot x) ∧
      (ctxOfTid t.tid s.ctxs = some s.cur.id → s.me.late = none →
        ((s.issueStore space key [(addr, bs)] true).ctx s.cur.id).late =
          some ⟨e.1, BitVec.ofNat 64 e.2, s.me.pc, s.me.iss, [], false⟩))

/-- The capability check (R199, R201, R209–R211, R245). -/
def Obligations.CapabilityCheck : Prop :=
  ∀ (s : State) (id : Nat) (c : Cap) (spaces : List Nat) (off : Int) (size perm al : Nat) (whole spare : Bool),
    (∀ a, s.capCheck id c spaces off size perm al whole spare = .ok a →
      c.tag = true ∧ c.space ∈ spaces ∧ c.perm &&& perm = perm ∧ 0 ≤ off ∧ off + size ≤ c.len ∧ whole = true ∧
      (c.space = 3 → 0x300000 < (c.base + off).toNat + size → spare = true) ∧
      (c.base + off).toNat % al = 0 ∧ a = ⟨c.space, (c.base + off).toNat, size, c.key⟩ ∧
      c.base ≤ a.addr ∧ a.addr + size ≤ c.base + c.len) ∧
    (c.tag = false → s.capCheck id c spaces off size perm al whole spare = .error ⟨0x10, 0⟩) ∧
    (c.tag = true → c.space ∉ spaces → s.capCheck id c spaces off size perm al whole spare = .error ⟨0x13, 0⟩) ∧
    (c.tag = true → c.space ∈ spaces → c.space = 3 → s.spareBarred id (c.base + off).toNat size spare = true →
      s.capCheck id c spaces off size perm al whole spare = .error ⟨0x13, 0⟩) ∧
    (c.tag = true → c.space ∈ spaces → (c.space = 3 → s.spareBarred id (c.base + off).toNat size spare = false) →
      (c.perm &&& perm ≠ perm → s.capCheck id c spaces off size perm al whole spare = .error ⟨0x12, 0⟩) ∧
      (c.perm &&& perm = perm → (off < 0 ∨ (c.len : Int) < off + size) →
        s.capCheck id c spaces off size perm al whole spare = .error ⟨0x11, BitVec.ofInt 64 off⟩) ∧
      (c.perm &&& perm = perm → 0 ≤ off → off + size ≤ c.len → (c.base + off).toNat % al ≠ 0 →
        s.capCheck id c spaces off size perm al whole spare = .error ⟨0x14, BitVec.ofInt 64 off⟩) ∧
      (c.perm &&& perm = perm → 0 ≤ off → off + size ≤ c.len → (c.base + off).toNat % al = 0 → whole = true →
        s.capCheck id c spaces off size perm al whole spare =
          if s.foreign (id / 4) ((s.ctx id).task.elim 0 (·.func)) c.space (c.base + off).toNat size then .error ⟨0x12, 0⟩
          else .ok ⟨c.space, (c.base + off).toNat, size, c.key⟩))

/-! ### Translation locks and circular buffers -/

/-- TLOCK, TUNLK, CBSET, CBWAIT, CBADV (R213, R214, R242–R247). -/
def Obligations.LocksAndBuffers : Prop :=
  (∀ (s : State) (k : Fin 32) (a b : Fin 64), s.gp a = false → s.gp b = false → (s.me.kr k.val).tag = true →
    ((s.me.kr k.val).space ∈ [0, 1, 7, 8] → ((s.me.kr k.val).holds pR = true ∨ (s.me.kr k.val).holds pW = true) →
      0 ≤ (s.gv a).toInt → (s.gv a).toInt + (s.gv b).toNat ≤ (s.me.kr k.val).len →
      s.lockedEntries (s.cur.id / 4) + (populatedPages (s.pages s.func (s.me.kr k.val).space
        ((s.me.kr k.val).base + (s.gv a).toInt.toNat) (s.gv b).toNat)).length ≤ 32 → s.me.locks.length < 4 →
      exec (.tlock k a b) s = .next (s.setMe { s.me with iss := s.me.iss + 1, wait := some (.tlock
        ⟨(s.me.kr k.val).space, (s.me.kr k.val).base + (s.gv a).toInt.toNat, (s.gv b).toNat, (s.me.kr k.val).key⟩ s.me.iss s.me.pc
        (populatedPages (s.pages s.func (s.me.kr k.val).space ((s.me.kr k.val).base + (s.gv a).toInt.toNat) (s.gv b).toNat))) })) ∧
    ∃ ls, exec (.tunlk k a b) s = .next (s.setMe { s.me with locks := ls }) ∧
      ∀ x, x ∈ ls ↔ x ∈ s.me.locks ∧ ¬ ((s.me.kr k.val).space ∈ [0, 1, 7, 8] ∧ rootSpace x.space = rootSpace (s.me.kr k.val).space ∧
        ∃ y : Int, (x.addr : Int) ≤ y ∧ y < x.addr + x.len ∧ ((s.me.kr k.val).base : Int) + (s.gv a).toInt ≤ y ∧
          y < (s.me.kr k.val).base + (s.gv a).toInt + (s.gv b).toNat)) ∧
  (∀ (s : State) (h : Fin 16) (a b : Fin 64), s.gp b = false →
    ((s.gv b).getLsbD 63 = true → field (s.gv b) 61 16 = 0 → exec (.cbset h a b) s = .next (s.putG 1 a (BitVec.ofNat 64
      ((s.me.hr h.val).addr (((if (s.gv b).getLsbD 62 then (s.me.hr h.val).pcnt else (s.me.hr h.val).ccnt) + field (s.gv b) 15 0) % 2 ^ 16))) false)) ∧
    ((s.gv b).getLsbD 63 = false → s.gp a = false → field (s.gv b) 62 18 = 0 → field (s.gv b) 17 8 ≠ 0 → (s.gv a).toNat % 64 = 0 →
      (s.gv a).toNat + 64 * field (s.gv b) 17 8 * (if field (s.gv b) 7 0 = 0 then 256 else field (s.gv b) 7 0) ≤ 0x300000 →
      s.foreign (s.cur.id / 4) s.func 3 (s.gv a).toNat
        (64 * field (s.gv b) 17 8 * (if field (s.gv b) 7 0 = 0 then 256 else field (s.gv b) 7 0)) = false →
      s.cbBusy s.cur.id h.val = false → exec (.cbset h a b) s = .next (s.put 1 (.h h.val
        { slot := field (s.gv b) 17 8, count := field (s.gv b) 7 0, base := (s.gv a).toNat })))) ∧
  (∀ (s : State) (h : Fin 16) (n : BitVec 8) (m : Nat), m = (if n = 0 then 256 else n.toNat) →
    (m ≤ (s.me.hr h.val).filled →
      (∃ ws, exec (.cbwaitC h n) s = .next (State.setMe { s with writes := ws } s.me) ∧
        ws.map (fun w => { w with cover := none }) = s.writes.map (fun w => { w with cover := none })) ∧
      ∃ ls, exec (.cbadvC h n) s = .next (State.put { s with loads := ls } 1 (.hAdv h.val true m)) ∧
        ls.map (fun l => { l with freed := [] }) = s.loads.map (fun l => { l with freed := [] })) ∧
    ((m : Int) ≤ (s.me.hr h.val).room →
      exec (.cbwaitP h n) s = .next (s.setMe s.me) ∧
      exec (.cbadvP h n) s = .next (s.put 1 (.hAdv h.val false m))) ∧
    ((s.me.hr h.val).filled < m → exec (.cbwaitC h n) s = .next (s.holdFor (.cbC h.val m)) ∧
      exec (.cbadvC h n) s = .next (s.trapOpen 0x11 (BitVec.ofNat 64 m))) ∧
    ((s.me.hr h.val).room < m → exec (.cbwaitP h n) s = .next (s.holdFor (.cbP h.val m)) ∧
      exec (.cbadvP h n) s = .next (s.trapOpen 0x11 (BitVec.ofNat 64 m))))

/-- Addresses and counts of circular buffers (R213, R214, R247). -/
def Obligations.RingAddress : Prop :=
  (∀ (h : Handle) (c : Nat), h.loan = false → ∃ p, p < h.main ∧ h.addr c = h.base + 64 * h.slot * p) ∧
  (∀ (h : Handle) (c d : Nat), h.loan = false → 0 < h.slot → c < d → d < c + h.main → h.addr c ≠ h.addr d) ∧
  (∀ (c : Ctx) (n k : Nat), (c.hr n).pcnt < 2 ^ 16 → (c.hr n).ccnt < 2 ^ 16 → (c.hr n).filled + k < 2 ^ 16 →
    ((c.apply (.hAdv n false k)).hr n).filled = (c.hr n).filled + k) ∧
  (∀ (c : Ctx) (n k : Nat), (c.hr n).pcnt < 2 ^ 16 → (c.hr n).ccnt < 2 ^ 16 → k ≤ (c.hr n).filled → (c.hr n).loan = false →
    ((c.apply (.hAdv n true k)).hr n).filled = (c.hr n).filled - k) ∧
  (∀ (h : Handle) (k : Nat), h.loan = true →
    ((h.consume k).loan = false ↔ (h.gp + h.nov + 2 ^ 16 - h.ccnt) % 2 ^ 16 ≤ k))
/-! ### Synchronisation, atomics, copies, remote operations -/

/-- The atomics and the slot wheel (R142, R155, R372, R376, R393–R395, R414). -/
def Obligations.AtomicsComplete : Prop :=
  ∀ (s : State) (d a : Fin 64) (k : Fin 32) (u sc : Fin 8) (z : Fin 2) (l : Lit) (n : Nat) (off : Int) (p : Acc),
    n = (if z.val = 1 then 4 else 8) → off = (s.gv a + litVal l).toInt → s.gp a = false → s.inAtomUnit < 16 →
    (s.loadCheck s.cur.id (s.me.kr k.val) [0, 1, 2, 3] off n 1 n = .ok p →
      exec (.ald d k a sc z l) s = .next (s.inUnit p .ald 0 0 0 sc.val (some d.val) false)) ∧
    (s.gp d = false → s.capCheck s.cur.id (s.me.kr k.val) [0, 1, 2, 3] off n 2 n = .ok p →
      exec (.ast d k a sc z l) s = .next (s.inUnit p .ast (s.gv d) 0 0 sc.val none false)) ∧
    (s.gp d = false → s.capCheck s.cur.id (s.me.kr k.val) [0, 1, 2, 3] off n 8 n = .ok p → ∀ t : Task, s.task = some t →
      s.wheelPositions t ≠ [] → exec (.ascSt d k a z l) s = .next (s.inUnit p .ast (s.gv d) 0 0 2 none true)) ∧
    (s.gp d = false → s.loadCheck s.cur.id (s.me.kr k.val) [0, 1, 2, 3] off n 8 n = .ok p →
      (∀ q ∈ ([(Instr.aadd, AtomOp.add), (Instr.aand, AtomOp.and), (Instr.aor, AtomOp.or), (Instr.axor, AtomOp.xor),
          (Instr.amin, AtomOp.min), (Instr.amax, AtomOp.max), (Instr.aminn, AtomOp.minn), (Instr.amaxn, AtomOp.maxn),
          (Instr.axchg, AtomOp.xchg), (Instr.amaxrs, AtomOp.maxrs)] :
          List ((Fin 64 → Fin 32 → Fin 64 → Fin 8 → Fin 8 → Fin 2 → Lit → Instr) × AtomOp)),
        exec (q.1 d k a u sc z l) s = .next (if u.val = 5 ∧ s.me.late.isSome = true then s.setMe { s.me with iss := s.me.iss + 1 }
          else s.inUnit p q.2 (s.gv d) 0 u.val sc.val (if u.val = 2 then none else some d.val) false)) ∧
      ((s.me.gr (d.val + 1)).p = false → exec (.acas d k a u sc z l) s =
        .next (if u.val = 5 ∧ s.me.late.isSome = true then s.setMe { s.me with iss := s.me.iss + 1 }
          else s.inUnit p .cas (s.gv d) (s.me.gr (d.val + 1)).v u.val sc.val (if u.val = 2 then none else some d.val) false)) ∧
      (∀ t : Task, s.task = some t → s.wheelPositions t ≠ [] →
        exec (.ascAdd d k a z l) s = .next (s.inUnit p .add (s.gv d) 0 0 2 (some d.val) true) ∧
        exec (.ascXchg d k a z l) s = .next (s.inUnit p .xchg (s.gv d) 0 0 2 (some d.val) true) ∧
        exec (.ascMax d k a z l) s = .next (s.inUnit p .max (s.gv d) 0 0 2 (some d.val) true) ∧
        exec (.ascLd d k a z l) s = .next (s.inUnit p .ald 0 0 0 2 (some d.val) true) ∧
        ((s.me.gr (d.val + 1)).p = false → exec (.ascCas d k a z l) s =
          .next (s.inUnit p .cas (s.gv d) (s.me.gr (d.val + 1)).v 0 2 (some d.val) true))))

/-- Flags and barriers (R155, R381, R383, R384, R388, R389, R414). That the read of a wait takes a token is the model's reading (DEDUCED, log
entry 26), and so is that BWAIT is HELD for its own BARRIVE (DEDUCED, log entry 22). -/
def Obligations.FlagsAndBarriers : Prop :=
  ∀ (s : State) (k : Fin 32) (a : Fin 64) (sc : Fin 8) (x : Acc),
    (s.me.firstPoison [a.val, a.val + 1] = none →
      s.loadCheck s.cur.id (s.me.kr k.val) [0, 1, 2, 3] (s.me.gr a.val).v.toInt 8 128 8 = .ok x →
      (s.inAtomUnit < 16 → exec (.fadd k a sc) s = .next (s.inUnit x .fadd (s.me.gr (a.val + 1)).v 0 0 sc.val none false)) ∧
      (16 ≤ s.inAtomUnit → exec (.fadd k a sc) s = .next s.holdFull) ∧
      ((s.me.gr (a.val + 1)).v ≠ 0 → exec (.fwait k a sc) s = .next (s.setMe { s.me with
        iss := s.me.iss + 1, wait := some (.fwait x (s.me.gr (a.val + 1)).v sc.val s.me.iss s.me.pc) })) ∧
      (∀ (t : Task) (n : Nat) (ws : List Write), (s.me.gr (a.val + 1)).v = 0 → s.task = some t →
        s.waitFree t s.cur.id x s.me.iss = true → s.waitRead t s.cur.id x s.me.iss = .ok (n, ws) →
        (s.waitPay t s.cur.id x).2 = true → ∃ u, exec (.fwait k a sc) s = .next u ∧ (u.ctx s.cur.id).wait = none ∧ (u.ctx s.cur.id).iss = s.me.iss + 1 ∧
          (u.ctx s.cur.id).g = s.me.g ∧ u.mem = s.mem ∧ u.writes = s.writes ∧
          ∀ w ∈ ws, ∀ i, i = w.id ∨ i ∈ w.rel → (i, 5, s.me.iss) ∈ (u.ctx s.cur.id).obs)) ∧
    (s.me.firstPoison [a.val, a.val + 1] = none →
      s.loadCheck s.cur.id (s.me.kr k.val) [0, 1, 2, 3] (s.me.gr a.val).v.toInt 16 8 16 = .ok x →
      (s.inAtomUnit < 16 → (s.me.gr (a.val + 1)).v.toNat < 2 ^ 24 →
        exec (.binit k a sc) s = .next (s.inUnit x .binit (s.me.gr (a.val + 1)).v 0 0 sc.val none false)) ∧
      (2 ^ 24 ≤ (s.me.gr (a.val + 1)).v.toNat → exec (.binit k a sc) s = .next (s.trapOpen 0x58 5))) ∧
    (s.me.firstPoison [a.val] = none →
      s.loadCheck s.cur.id (s.me.kr k.val) [0, 1, 2, 3] (s.me.gr a.val).v.toInt 16 8 16 = .ok x →
      (s.inAtomUnit < 16 → exec (.barrive k a sc) s = .next (s.inUnit x .barrive 0 0 0 sc.val none false) ∧
        exec (.babort k a sc) s = .next (s.inUnit x .babort 0 0 0 sc.val none false)) ∧
      (16 ≤ s.inAtomUnit → exec (.barrive k a sc) s = .next s.holdFull ∧ exec (.babort k a sc) s = .next s.holdFull) ∧
      (s.arriving s.tid x = true → exec (.bwait k a sc) s = .next s.holdFull) ∧
      (s.arriving s.tid x = false →
        (∀ w gen, s.me.arrive.find? (fun p => decide (p.1 = x.where)) = some (w, gen) →
          exec (.bwait k a sc) s = .next (s.setMe { s.me with iss := s.me.iss + 1, wait := some (.bwait x gen sc.val s.me.iss s.me.pc) })) ∧
        (s.me.arrive.find? (fun p => decide (p.1 = x.where)) = none → exec (.bwait k a sc) s = .next (s.trapOpen 0x58 6))))

/-- Groups (R165–R168, R389, R390, R451). The order of the reasons where several hold is the model's (DEDUCED, log entry 41). -/
def Obligations.GroupsComplete : Prop :=
  (∀ (s : State) (k : Fin 32) (a : Fin 64) (x : Acc) (t : Task) (e : Nat × Nat), s.task = some t → s.gp a = false →
    s.loadCheck s.cur.id (s.me.kr k.val) [0, 1, 2, 3] (s.gv a).toInt 16 8 16 = .ok x →
    s.hostWaits t.func x.space x.addr 16 = false → State.writePlaces t s.cur.id x.space s [(x.addr, 16)] = .error e →
    s.inAtomUnit < 16 → s.joinReason t (s.groupFor t x none) = none →
    exec (.gjoin k a) s = .next (State.lateHere (s.setMe { s.me with iss := s.me.iss + 1 }) e.1 e.2 s.me.iss false)) ∧
  ∀ (s s1 : State) (k : Fin 32) (a : Fin 64) (x : Acc) (t : Task) (f : Nat) (fs : List Nat), s.task = some t → s.gp a = false →
    s.loadCheck s.cur.id (s.me.kr k.val) [0, 1, 2, 3] (s.gv a).toInt 16 8 16 = .ok x →
    s.hostWaits t.func x.space x.addr 16 = false → s.inAtomUnit < 16 →
    State.writePlaces t s.cur.id x.space s [(x.addr, 16)] = .ok (f :: fs, s1) →
    (∀ i g, groupAt t.l1 f s.groups = some (i, g) →
      ((s.cur.id, t.tid) ∉ g.members → g.draining = false → s.me.groups.length < 4 →
        ∃ u, exec (.gjoin k a) s = .next u ∧ u.groups = Table.set s.groups i { g with members := g.members ++ [(s.cur.id, t.tid)] } ∧
          u.atoms = s1.atoms ++ [⟨s1.fresh, t.tid, s.cur.id, s.me.iss, s.me.pc, x, .gjoin, 0, 0, 0, 2, none, false, s.time, f :: fs, none, s.cur.src⟩] ∧
          (u.ctx s.cur.id).groups = s.me.groups ++ [i] ∧ (u.ctx s.cur.id).iss = s.me.iss + 1) ∧
      ((s.cur.id, t.tid) ∈ g.members → g.draining = false → exec (.gjoin k a) s = .next (s.trapOpen 0x58 3)) ∧
      ((s.cur.id, t.tid) ∉ g.members → g.draining = false → 4 ≤ s.me.groups.length → exec (.gjoin k a) s = .next (s.trapOpen 0x58 2)) ∧
      (g.draining = true → exec (.gjoin k a) s = .next s.holdFull) ∧
      ((s.cur.id, t.tid) ∈ g.members →
        exec (.gleave k a) s = .next ((s1.setMe { s.me with iss := s.me.iss + 1 }).leaveGroup s.cur.id t.tid s.me.iss s.me.pc false (f :: fs) i)) ∧
      ((s.cur.id, t.tid) ∉ g.members → exec (.gleave k a) s = .next (s.trapOpen 0x58 4))) ∧
    (groupAt t.l1 f s.groups = none →
      exec (.gleave k a) s = .next (s.trapOpen 0x58 4) ∧
      (s.groupSlots t.l1 ≤ (s.groups.filter fun p => decide (p.2.l1 = t.l1)).length →
        exec (.gjoin k a) s = .next (s.trapOpen 0x58 1)) ∧
      ((s.groups.filter fun p => decide (p.2.l1 = t.l1)).length < s.groupSlots t.l1 → 4 ≤ s.me.groups.length →
        exec (.gjoin k a) s = .next (s.trapOpen 0x58 2)) ∧
      ((s.groups.filter fun p => decide (p.2.l1 = t.l1)).length < s.groupSlots t.l1 → s.me.groups.length < 4 →
        ∃ u i, exec (.gjoin k a) s = .next u ∧ Table.find s.groups i = none ∧ u.groups = Table.set s.groups i ⟨t.l1, f, x, [(s.cur.id, t.tid)], false⟩ ∧
          (u.ctx s.cur.id).groups = s.me.groups ++ [i] ∧ (u.ctx s.cur.id).iss = s.me.iss + 1))

/-- FENCE and QFENCE (R366, R370, R371, R391, R392). That an incomplete FENCE holds its context is the model's choice (DEDUCED, log entry
15). -/
def Obligations.Fences : Prop :=
  (∀ (s : State) (sc : Fin 8) (q : BitVec 19),
      (s.fenceReady s.cur.id sc.val = true → (s.ctx s.cur.id).late = none →
        (∀ r ∈ s.rejects, r.tid = s.tid → sc.val < r.scope) → exec (.fence sc) s = .next ((s.coverWrites s.cur.id s.me.iss).setMe s.me)) ∧
      (s.fenceReady s.cur.id sc.val = false → exec (.fence sc) s = .next (s.holdFor (.fence sc.val))) ∧
      (s.queuesDone s.cur.id q.toNat = true → exec (.qfence q) s = .next ((s.coverQueues s.cur.id s.me.iss q.toNat).setMe s.me)) ∧
      (s.queuesDone s.cur.id q.toNat = false → exec (.qfence q) s = .next (s.holdFor (.qfence q.toNat)))) ∧
  (∀ (s : State) (id scope : Nat), s.fenceReady id scope = true →
      (∀ w ∈ s.writes, ∀ n, w.ctx = id → w.iss < (s.ctx id).iss → w.cover = some n → n ≤ (s.ctx id).iss →
        (if scope = 0 then 1 else if scope = 1 then 2 else 3) ≤ w.level) ∧
      (∀ a ∈ s.atoms, a.ctx ≠ id) ∧ (∀ c ∈ s.copies, c.ctx ≠ id) ∧ (∀ e ∈ (s.core (id / 4)).queue, e.ctx ≠ id) ∧
      (∀ o ∈ s.outs, o.op.ctx = id → scope < o.op.scope)) ∧
  (∀ (s : State) (id iss q : Nat), (s.coverWrites id iss).writes.map (fun w => { w with cover := none }) = s.writes.map (fun w => { w with cover := none }) ∧
    (s.coverQueues id iss q).writes.map (fun w => { w with cover := none }) = s.writes.map (fun w => { w with cover := none }) ∧
    ∀ w ∈ (s.coverWrites id iss).writes, w.ctx = id → w.iss < iss → w.cover ≠ none)

/-- Barrier records (R385, R386, R388, R390). -/
def Obligations.BarrierRecord : Prop :=
  (∀ b : BarRec, b.gen < 2 ^ 32 → b.expected < 2 ^ 24 → b.arrived < 2 ^ 24 → b.pending < 2 ^ 24 → b.num < 2 ^ 107 ∧ barRec b.num = b) ∧
  (∀ b : BarRec, b.settle = if b.arrived = b.expected ∧ 1 ≤ b.arrived ∧ b.pending = 0
    then { b with gen := (b.gen + 1) % 2 ^ 32, arrived := 0 } else b) ∧
  (∀ (b : BarRec) (n : Nat), b.arrived = 0 → b.pending = 0 → b.aborted = false → b.expected = n → 1 ≤ n → n < 2 ^ 24 →
    (∀ m, m < n → BarRec.arrive^[m] b = { b with arrived := m }) ∧
    BarRec.arrive^[n] b = { b with gen := (b.gen + 1) % 2 ^ 32 }) ∧
  (∀ b : BarRec, b.aborted = true → b.arrive = b) ∧
  (∀ (b : BarRec) (bound : Bool) (n : Nat), (bound = true ∨ b.pending ≠ 0 → b.arrived ≠ b.expected ∨ b.arrived = 0 ∨ b.pending ≠ 0 →
      b.init bound n = { b with error := true }) ∧
    (bound = false → b.pending = 0 → b.init bound n =
      { b with expected := n, arrived := 0, error := false, aborted := false, remote := false }))

/-- Copies (R217, R246, R248–R252). -/
def Obligations.CopiesComplete : Prop :=
  ∀ (s s0 s1 : State) (ks kd : Fin 32) (h : Fin 16) (a : Fin 64) (b : Option (Fin 32)) (att : Option Acc) (x y : Cap) (n : Nat)
      (w : Word) (rows : List (Acc × Acc)) (bar : Option Acc) (cb : Option (Nat × Nat)) (i : Instr) (fin : State → State),
    x = s.me.kr ks.val → s.me.firstPoison (block a (if b.isSome then n + 1 else n)) = none → w = s.blk a n →
    ((i = .cpy ks kd a b ∧ n = 3 ∧ s0 = s ∧ fin = id ∧ y = s.me.kr kd.val ∧ cb = none ∧
        s.checkRows x y [⟨s.blk a 0, s.blk a 1, (s.blk a 2).toNat⟩] = .ok rows) ∨
      (i = .cpys ks kd a b ∧ n = 6 ∧ s0 = s ∧ fin = id ∧ y = s.me.kr kd.val ∧ cb = none ∧
        s.checkRows x y ((List.range (s.blk a 5).toNat).map fun j => ⟨s.blk a 0 + BitVec.ofNat 64 j * s.blk a 3,
          s.blk a 1 + BitVec.ofNat 64 j * s.blk a 4, (s.blk a 2).toNat⟩) = .ok rows) ∨
      (i = .cpyg ks kd a b ∧ n = 5 ∧ y = s.me.kr kd.val ∧ cb = none ∧ ∃ l t ps sp, s.task = some t ∧ fin = (·.spend (requestNo 5 t.tid) t.func) ∧
        s.loadCheck s.cur.id y [0, 1, 2, 3, 5, 7] (s.blk a 3).toInt (4 * (s.blk a 4).toNat) 1 4 true = .ok l ∧
        s.hostWaits t.func l.space l.addr (4 * (s.blk a 4).toNat) = false ∧ s.acquirePending s.cur.id s.me.iss = false ∧
        s.listFault t l.space l.addr (s.blk a 4).toNat = none ∧
        s.readPlaces t s.cur.id l.space (chunks l.addr (4 * (s.blk a 4).toNat)) = .ok ps ∧
        s.ownStore s.cur.id s.me.iss (ps.filterMap fun x => x) = false ∧ s.spcLocked (ps.filterMap fun x => x) = false ∧
        s.payPart (requestNo 5 t.tid) t.func .memory (hbmTokens (ps.filterMap fun x => x)) = (sp, true) ∧
        s0 = State.prepareReads t s.cur.id l.space sp (chunks l.addr (4 * (s.blk a 4).toNat)) ∧
        sp.checkEach x y (s.gatherRows a (ps.map (s.seePlace
          (engineViewer s.cur.id ([3, 4, 5].contains x.space || [3, 4, 5].contains y.space)) l.key))) = .ok rows) ∨
      (i = .cpycb ks h a b ∧ n = 2 ∧ s0 = s ∧ fin = id ∧ y = ringCap ∧ ∃ k, (s.me.hr h.val).slot ≠ 0 ∧ cb = some (h.val, k) ∧
        k = ((s.blk a 1).toNat + 64 * (s.me.hr h.val).slot - 1) / (64 * (s.me.hr h.val).slot) ∧ k ≤ (s.me.hr h.val).main ∧
        (k : Int) ≤ (s.me.hr h.val).room ∧ s.checkRing x (s.blk a 1).toNat (ringRows (s.me.hr h.val) (s.blk a 0) (s.blk a 1).toNat k
          ((s.me.hr h.val).pcnt + (s.me.hr h.val).p)) = .ok rows)) →
    s0.barAcc b w = .ok bar → (s.copies.filter fun c => decide (c.ctx = s.cur.id)).length < 16 →
    s0.attachBar bar ((rows.map fun r => chunks r.2.addr r.2.size).flatten).length false = some (s1, att) →
    exec i s = .next (fin { s1.setMe { s1.me with iss := s1.me.iss + 1, pend := s1.me.pend ++ (cb.toList.map fun p => ⟨s1.me.step + 1, .hRes p.1 p.2⟩) } with
      fresh := s1.fresh + 1
      copies := s1.copies ++ [⟨s1.fresh, s1.tid, s1.cur.id, s1.me.iss, s1.me.pc, x.space, x.key, y.space, y.key,
        (rows.map fun r => (chunks r.2.addr r.2.size).map fun c => ⟨r.1.addr + (c.1 - r.2.addr), c.1, c.2⟩).flatten, att, cb, s1.me.groups, 0, s1.me.loans, s.cur.src⟩] })

/-- Remote instructions (R335–R339, R346, R396, R397). -/
def Obligations.RemotesComplete : Prop :=
  ∀ (s s1 : State) (e : Fin 16) (c k : Fin 32) (a : Fin 64) (b : Option (Fin 32)) (t : Task) (q : Nat) (j : Job) (att bar : Option Acc)
      (n : Nat) (w : Word) (ops : List RemOp) (rows : List (Acc × Acc)) (i : Instr),
    s.task = some t → s.jobOf t = some (q, j) → j.peerOk (s.me.er e.val) = true →
    s.me.firstPoison (block a (if b.isSome then n + 1 else n)) = none →
    ((i = .rput e c k a b ∧ n = 3 ∧ w = s.blk a 3 ∧ (s.blk a 2).toNat ≤ 2 ^ 26 ∧ ∃ r,
        s.checkRemote (s.me.kr c.val) (s.me.kr k.val) false ⟨s.blk a 0, s.blk a 1, (s.blk a 2).toNat⟩ = .ok r ∧
        ops = [⟨.put, some r.1, r.2.addr, r.2.size, none, 0⟩]) ∨
      (i = .rputf e c k a b ∧ n = 5 ∧ w = s.blk a 5 ∧ (s.blk a 2).toNat ≤ 2 ^ 26 ∧ ∃ r f,
        s.checkRemote (s.me.kr c.val) (s.me.kr k.val) false ⟨s.blk a 0, s.blk a 1, (s.blk a 2).toNat⟩ = .ok r ∧
        s.checkWord (s.me.kr k.val) (s.blk a 3) = .ok f ∧
        ops = [⟨.putf, some r.1, r.2.addr, r.2.size, some f.addr, s.blk a 4⟩]) ∨
      (i = .rputs e c k a b ∧ n = 6 ∧ w = s.blk a 6 ∧ (s.blk a 2).toNat ≤ 2 ^ 26 ∧ (s.blk a 5).toNat ≤ 65535 ∧
        checkAll (s.checkRemote (s.me.kr c.val) (s.me.kr k.val) false) (s.remRows a) = .ok rows ∧
        ops = rows.map fun r => ⟨.put, some r.1, r.2.addr, r.2.size, none, 0⟩) ∨
      (i = .rputsf e c k a b ∧ n = 8 ∧ w = s.blk a 8 ∧ (s.blk a 2).toNat ≤ 2 ^ 26 ∧ (s.blk a 5).toNat ≤ 65535 ∧ ∃ g f,
        checkAll (s.checkRemote (s.me.kr c.val) (s.me.kr k.val) false) (s.remRows a) = .ok rows ∧
        s.capCheck s.cur.id (s.me.kr k.val) [6] (s.blk a 1).toInt 0 64 1 = .ok g ∧ s.checkWord (s.me.kr k.val) (s.blk a 6) = .ok f ∧
        ((rows = [] ∧ ops = [⟨.putf, none, g.addr, 0, some f.addr, s.blk a 7⟩]) ∨
          ∃ rs r, rows = rs ++ [r] ∧ ops = (rs.map fun x => (⟨.put, some x.1, x.2.addr, x.2.size, none, 0⟩ : RemOp)) ++
            [⟨.putf, some r.1, r.2.addr, r.2.size, some f.addr, s.blk a 7⟩])) ∨
      (i = .rpull e c k a b ∧ n = 3 ∧ w = s.blk a 3 ∧ (s.blk a 2).toNat ≤ 2 ^ 26 ∧ ∃ r,
        s.checkRemote (s.me.kr c.val) (s.me.kr k.val) true ⟨s.blk a 1, s.blk a 0, (s.blk a 2).toNat⟩ = .ok r ∧
        ops = [⟨.pull, some r.1, r.2.addr, r.2.size, none, 0⟩]) ∨
      (i = .rsemadd e k a ∧ n = 2 ∧ w = 0 ∧ b = none ∧ ∃ f, s.checkWord (s.me.kr k.val) (s.blk a 0) = .ok f ∧
        ops = [⟨.semadd, none, f.addr, 8, none, s.blk a 1⟩])) →
    s.barAcc b w = .ok bar → (s.remoteQueue s.cur.id e.val).length < 16 →
    (∀ o ∈ ops, s.holdFullAt j (peerRank (s.me.er e.val)) o.hoff = false) →
    s.attachBar bar ((ops.map RemOp.beats).sum) true = some (s1, att) →
    ∃ u, exec i s = .next u ∧ (u.ctx s.cur.id) = { s1.me with iss := s1.me.iss + 1 } ∧ u.mem = s1.mem ∧ u.writes = s1.writes ∧
      ∃ new : List Out, u.outs = s1.outs ++ new ∧ new.length = ops.length ∧
        ∀ (m : Nat) (o : Out) (p : RemOp), new[m]? = some o → ops[m]? = some p → o.stage = .queue ∧ o.op.tid = s1.tid ∧ o.op.peer = e.val ∧
          o.op.rank = (s.me.er e.val).toNat % 1024 ∧ o.op.scope = (s.me.er e.val).toNat / 1024 ∧ o.op.kind = p.kind ∧
          o.op.hoff = p.hoff ∧ o.op.len = p.len ∧ o.op.flag = p.flag ∧ o.op.addend = p.addend ∧ o.op.bar = att ∧ o.op.iss = s1.me.iss ∧
          (∀ l, p.acc = some l → o.op.lspace = l.space ∧ o.op.laddr = l.addr ∧ o.op.lkey = l.key)
/-! ### Vector instructions -/

/-- Element-wise arithmetic (R130, R280–R289). -/
def Obligations.VectorArithmetic : Prop :=
  ∀ (s : State) (d a b : Fin 64) (m t : Fin 8) (x : Lit),
    (∀ (ew lw : Nat) (f : Fmt), ew = elemWF t.val → lw = laneWF t.val → f = fmtOf t.val →
      (∀ p ∈ ([(Instr.vaddF, 2, fun u v => f.add (f.value u) (f.value v)), (Instr.vsubF, 2, fun u v => f.add (f.value u) (f.value v).neg),
          (Instr.vmulF, 4, fun u v => f.mul (f.value u) (f.value v)), (Instr.vminF, 2, fun u v => f.pick false u v),
          (Instr.vmaxF, 2, fun u v => f.pick true u v)] :
          List ((Fin 64 → Fin 64 → Fin 64 → Fin 8 → Fin 8 → Lit → Instr) × Nat × (Nat → Nat → Elem))),
        exec (p.1 d a b m t x) s = .next (s.lanewise p.2.1 d ew lw (s.me.mask m.val) (s.vp a || s.vp b)
          fun j => p.2.2 (elem ew (s.va lw x a) j) (elem ew (s.vb lw x b) j))) ∧
      (∀ p ∈ ([(Instr.vfma, fun u v w => f.fma (f.value u) (f.value v) (f.value w)),
          (Instr.vfnma, fun u v w => f.fma (f.value u).neg (f.value v) (f.value w))] :
          List ((Fin 64 → Fin 64 → Fin 64 → Fin 8 → Fin 8 → Lit → Instr) × (Nat → Nat → Nat → Elem))),
        exec (p.1 d a b m t x) s = .next (s.lanewise 4 d ew lw (s.me.mask m.val) (s.vp a || s.vp b || s.vp d)
          fun j => p.2 (elem ew (s.va lw x a) j) (elem ew (s.vb lw x b) j) (elem ew (s.me.vr d.val).v j))) ∧
      (∀ p ∈ ([(Instr.vabs, 2, fun u => signOp f (fun _ => false) u), (Instr.vneg, 2, fun u => signOp f (fun n => !n) u),
          (Instr.vrcp, 4, f.rcp), (Instr.vrsq, 4, f.rsq), (Instr.vexp2, 4, f.exp2), (Instr.vlog2, 4, f.log2)] :
          List ((Fin 64 → Fin 64 → Fin 8 → Fin 8 → Lit → Instr) × Nat × (Fp → Elem))),
        exec (p.1 d a m t x) s = .next (s.lanewise p.2.1 d ew lw (s.me.mask m.val) (s.vp a)
          fun j => p.2.2 (f.value (elem ew (s.va lw x a) j)))) ∧
      exec (.vscalb d a b m t x) s = .next (s.lanewise 2 d ew lw (s.me.mask m.val) (s.vp a || s.vp b)
        fun j => f.scalb (elem ew (s.va lw x a) j) (toInt lw true (elem lw (s.vb lw x b) (j * ew / lw))))) ∧
    (∀ (w lw : Nat) (sg : Bool), w = 8 * 2 ^ (t.val % 4) → lw = laneWI t.val → sg = decide (t.val < 4) →
      (∀ p ∈ ([(Instr.vaddI, 2, fun u v => (u + v) % 2 ^ w), (Instr.vsubI, 2, fun u v => (u + 2 ^ w - v) % 2 ^ w),
          (Instr.vmulI, 4, fun u v => u * v % 2 ^ w), (Instr.vand, 2, fun u v => u &&& v), (Instr.vor, 2, fun u v => u ||| v),
          (Instr.vxor, 2, fun u v => u ^^^ v), (Instr.vshl, 2, fun u v => u * 2 ^ (v % w) % 2 ^ w),
          (Instr.vshr, 2, fun u v => ((toInt w sg u).fdiv (2 ^ (v % w) : Int) % 2 ^ w).toNat),
          (Instr.vadds, 2, fun u v => clamp w sg (toInt w sg u + toInt w sg v)),
          (Instr.vsubs, 2, fun u v => clamp w sg (toInt w sg u - toInt w sg v)),
          (Instr.vminI, 2, fun u v => if toInt w sg u ≤ toInt w sg v then u else v),
          (Instr.vmaxI, 2, fun u v => if toInt w sg u ≤ toInt w sg v then v else u)] :
          List ((Fin 64 → Fin 64 → Fin 64 → Fin 8 → Fin 8 → Lit → Instr) × Nat × (Nat → Nat → Nat))),
        exec (p.1 d a b m t x) s = .next (s.lanewise p.2.1 d w lw (s.me.mask m.val) (s.vp a || s.vp b)
          fun j => (p.2.2 (elem w (s.va lw x a) j) (elem w (s.vb lw x b) j), {}))) ∧
      exec (.vmad d a b m t x) s = .next (s.lanewise 4 d w lw (s.me.mask m.val) (s.vp a || s.vp b || s.vp d)
        fun j => ((elem w (s.va lw x a) j * elem w (s.vb lw x b) j + elem w (s.me.vr d.val).v j) % 2 ^ w, {})) ∧
      exec (.vclz d a m t x) s = .next (s.lanewise 2 d w lw (s.me.mask m.val) (s.vp a)
        fun j => (leading w (elem w (s.va lw x a) j), {})))

/-- Moves and masks (R291–R293). -/
def Obligations.VectorMoves : Prop :=
  ∀ (s : State) (d a b n : Fin 64) (m t x y : Fin 8) (l : Lit) (w lw : Nat), w = elemWI t.val → lw = laneWI t.val →
    exec (.vmov d a m t l) s = .next (s.lanewise 2 d lw lw (s.me.mask m.val) (s.vp a) fun j => (elem lw (s.va lw l a) j, {})) ∧
    exec (.vsel d a b m t l) s = .next (s.lanewise 2 d lw lw (BitVec.allOnes 64) (s.vp a || s.vp b) fun j =>
      (if (s.me.mask m.val).getLsbD j then elem lw (s.va lw l a) j else elem lw (s.vb lw l b) j, {})) ∧
    exec (.viota d m t) s = .next (s.lanewise 2 d w lw (s.me.mask m.val) false fun j => (j % 2 ^ w, {})) ∧
    exec (.vbcst d a m t) s = .next (s.lanewise 2 d w lw (s.me.mask m.val) (s.gp a) fun _ => ((s.gv a).toNat % 2 ^ w, {})) ∧
    exec (.vext d a n t l) s =
      .next (s.putG 2 d (BitVec.ofInt 64 (toInt lw (decide (t.val < 4)) (elem lw (s.va lw l a) n.val))) (s.vp a)) ∧
    exec (.vins d a n t) s = .next (s.putV 2 d (BitVec.ofNat 2048 ((s.gv a).toNat % 2 ^ lw * 2 ^ (lw * n.val)))
      (BitVec.ofNat 2048 ((2 ^ lw - 1) * 2 ^ (lw * n.val))) (s.gp a) {}) ∧
    exec (.mskand m x y) s = .next (s.putM 1 m (s.me.mask x.val &&& s.me.mask y.val) (BitVec.allOnes 64) {}) ∧
    exec (.mskor m x y) s = .next (s.putM 1 m (s.me.mask x.val ||| s.me.mask y.val) (BitVec.allOnes 64) {}) ∧
    exec (.mskmov m x) s = .next (s.putM 1 m (s.me.mask x.val) (BitVec.allOnes 64) {}) ∧
    (s.me.stack.length < 16 → exec (.mskpsh x) s = .next (s.put 1 (.stack ((s.me.top &&& s.me.mask x.val) :: s.me.stack)))) ∧
    (16 ≤ s.me.stack.length → exec (.mskpsh x) s = .next (s.trapBare 0x59)) ∧
    (∀ u us, s.me.stack = u :: us → exec .mskpop s = .next (s.put 1 (.stack us)) ∧
      exec .mskinv s = .next (s.put 1 (.stack ((us.headD (BitVec.allOnes 64) &&& ~~~u) :: us)))) ∧
    (s.me.stack = [] → exec .mskpop s = .next (s.trapBare 0x59) ∧ exec .mskinv s = .next (s.trapBare 0x59))

/-- Reductions, conversions and slices (R295–R300), and VRCMB (R276, R301, R327). -/
def Obligations.VectorConversions : Prop :=
  (∀ (s : State) (d a b : Fin 64) (m t z : Fin 8) (l : Lit) (k : Mask), k = s.me.mask m.val →
      (∀ (ew lw : Nat) (f : Fmt), ew = elemWF t.val → lw = laneWF t.val → f = fmtOf t.val →
        (∀ p ∈ ([(Instr.vrsumF, fun u v => f.add (f.value u) (f.value v), f.signed true 0),
            (Instr.vrmaxF, fun u v => f.pick true u v, f.signed true f.inf)] :
            List ((Fin 64 → Fin 64 → Fin 8 → Fin 8 → Lit → Instr) × (Nat → Nat → Elem) × Nat)), ∃ r : Elem,
          r = (treeOf p.2.1 8 ((List.range (2048 / ew)).map fun j =>
            ((if k.getLsbD (j * ew / lw) then elem ew (s.va lw l a) j else p.2.2), {}))).headD (0, {}) ∧
          exec (p.1 d a m t l) s = .next (s.putV 4 d (BitVec.ofNat 2048 r.1) (BitVec.ofNat 2048 (2 ^ ew - 1)) (s.vp a) r.2)) ∧
        ∃ e : Int, exec (.vamax d a m t l) s =
            .next (s.putV 4 d (BitVec.ofNat 2048 (wrap 32 e)) (BitVec.ofNat 2048 (2 ^ 32 - 1)) (s.vp a) {}) ∧
          (∀ j n u q, j < 2048 / ew → k.getLsbD (j * ew / lw) = true → f.value (elem ew (s.va lw l a) j) = .fin n u q → u ≠ 0 →
            (u : ℚ) * 2 ^ q < 2 ^ e) ∧
          ((∃ j n u q, j < 2048 / ew ∧ k.getLsbD (j * ew / lw) = true ∧ f.value (elem ew (s.va lw l a) j) = .fin n u q ∧ u ≠ 0) →
            ∃ j n u q, j < 2048 / ew ∧ k.getLsbD (j * ew / lw) = true ∧ f.value (elem ew (s.va lw l a) j) = .fin n u q ∧
              (2 : ℚ) ^ (e - 1) ≤ (u : ℚ) * 2 ^ q) ∧
          ((∀ j n u q, j < 2048 / ew → k.getLsbD (j * ew / lw) = true → f.value (elem ew (s.va lw l a) j) = .fin n u q → u = 0) → e = 0)) ∧
      (∀ (w lw : Nat) (sg : Bool), w = elemWI t.val → lw = laneWI t.val → sg = signedI t.val →
        ∀ p ∈ ([(Instr.vrsumI, fun u v => (u + v) % 2 ^ w, 0),
            (Instr.vrmaxI, fun u v => if toInt w sg u ≤ toInt w sg v then v else u, if sg then 2 ^ (w - 1) else 0)] :
            List ((Fin 64 → Fin 64 → Fin 8 → Fin 8 → Lit → Instr) × (Nat → Nat → Nat) × Nat)), ∃ r : Elem,
          r = (treeOf (fun u v => (p.2.1 u v, {})) 8 ((List.range (2048 / w)).map fun j =>
            ((if k.getLsbD (j * w / lw) then elem w (s.va lw l a) j else p.2.2), {}))).headD (0, {}) ∧
          exec (p.1 d a m t l) s = .next (s.putV 4 d (BitVec.ofNat 2048 r.1) (BitVec.ofNat 2048 (2 ^ w - 1)) (s.vp a) r.2)) ∧
      (∀ (y c : Fin 2) (ew sw lw n : Nat) (es : List Elem), ew = elemWOf y.val t.val → sw = elemWOf c.val z.val →
        lw = laneWOf y.val t.val → n = min (2048 / ew) (2048 / sw) →
        es = elemResults ew lw k (fun j =>
          if j < n then convertElem y.val c.val t.val z.val (elem sw (s.va (laneWOf c.val z.val) l a) j) else (0, {})) →
        exec (.vcvt d a y c z m t l) s = .next (s.putV 4 d (BitVec.ofNat 2048 (packLanes ew (es.map (·.1))))
          (laneBits lw k &&& BitVec.ofNat 2048 (2 ^ (n * ew) - 1)) (s.vp a) (flagsOf es))) ∧
      (∀ (w base : Nat) (es : List Elem), w = widthB t.val → base = 64 * w * (elem 32 (s.vb 32 l b) 2 % 16) →
        es = (List.range 64).map (fun i => if k.getLsbD i then
          packElem w (elem 32 (s.vb 32 l b) (i / 32) % 256) ((fmtOf 2).value (elem 32 (s.va 32 l a) i)) else (0, {})) →
        exec (.vpack d a b m t l) s = .next (s.putV 4 d (BitVec.ofNat 2048 (packLanes w (es.map (·.1)) * 2 ^ base))
          (BitVec.ofNat 2048 (packLanes w ((List.range 64).map fun i =>
            if k.getLsbD i && decide (base + w * i + w ≤ 2048) then 2 ^ w - 1 else 0) * 2 ^ base)) (s.vp a || s.vp b) (flagsOf es))) ∧
      (∀ (w base : Nat), w = widthB t.val → base = 64 * w * (elem 32 (s.vb 32 l b) 0 % 16) →
        exec (.vunpk d a b m t l) s = .next (s.lanewise 4 d 32 32 k (s.vp a || s.vp b) fun i =>
          (if base + w * i + w ≤ 2048 then wrap 32 (toInt w true ((s.va 32 l a).toNat / 2 ^ (base + w * i) % 2 ^ w)) else 0, {}))) ∧
      (∀ (x : BitVec 32) (f : Fmt) (ew n : Nat) (r : List (Option Int)), s.vp a = false → s.vp b = false →
        f = fmtOf (if x.getLsbD 3 then 2 else 3) → ew = (if x.getLsbD 3 then 32 else 64) → n = 2048 / ew →
        r = (List.range n).map (fun i => sliceOf (x.toNat % 8 + 1) (toInt 32 true (elem 32 (s.me.vr b.val).v i))
          (f.value (elem ew (s.me.vr a.val).v i))) →
        ∃ w : Fin 8, w.val = x.toNat / 16 % 8 ∧
        exec (.vsplit d a b x) s = .next (State.putM (s.putV 8 d (BitVec.ofNat 2048 (packLanes 8 (r.map fun o => wrap 8 (o.getD 0))))
          (BitVec.ofNat 2048 (packLanes 8 ((List.range n).map fun i => if s.me.top.getLsbD i then 255 else 0))) false {}) 8 w
          (BitVec.ofNat 64 (packLanes 1 (r.map fun o => if o.isNone then 1 else 0))) (s.me.top &&& BitVec.ofNat 64 (2 ^ n - 1)) {}))) ∧
  (∀ (s : State) (d a g : Fin 64) (x : BitVec 32) (co : Core) (tiles : List Nat) (ew mm n0 : Nat) (f : Fmt) (es : List Elem) (v : Viewer),
      v = ⟨s.cur.id, some (s.cur.id / 4), s.me.iss, 0⟩ → co = s.core (s.cur.id / 4) → tiles = (List.range (x.toNat % 8 + 1)).map (x.toNat / 8 % 8 + ·) →
      ew = (if x.getLsbD 6 then 32 else 64) → f = fmtOf (if x.getLsbD 6 then 2 else 3) → mm = field (s.gv g) 7 0 → n0 = field (s.gv g) 15 8 →
      es = (List.range (2048 / ew)).map (fun i => if s.me.top.getLsbD i && decide (n0 + i ≤ 255) then
        recombine f (tiles.any fun j => (co.header j).rows.getLsbD mm || (co.header j).cols.getLsbD (n0 + i))
          (toInt 32 true (field (s.gv g) 63 32) + toInt 32 true (elem 32 (s.me.vr a.val).v i))
          (tiles.map fun j => (s.tileElems v (s.cur.id / 4) (rowUnits (s.cur.id / 4) mm tiles) j mm).getD (n0 + i) 0) else (0, {})) →
      (∀ j ∈ tiles, s.tileForeign j = false) →
      ((∀ j ∈ tiles, (co.modeOf j).sl = true) → s.acquirePending s.cur.id s.me.iss = false →
        (s.uncovered (s.cur.id / 4) s.tid s.me.iss = [] → ∀ us j m, s.tileElems v (s.cur.id / 4) us j m = s.tileRow v (s.cur.id / 4) j m) ∧
        exec (.vrcmb d a g x) s = .next (State.putV { s with choice := if (s.uncovered (s.cur.id / 4) s.tid s.me.iss).isEmpty then s.choice
            else s.choice + (rowUnits (s.cur.id / 4) mm tiles).length } 8 d (BitVec.ofNat 2048 (packLanes ew (es.map (·.1))))
          (BitVec.ofNat 2048 (packLanes ew ((List.range (2048 / ew)).map fun i =>
            if s.me.top.getLsbD i && decide (n0 + i ≤ 255) then 2 ^ ew - 1 else 0))) (s.vp a || s.gp g) (flagsOf es))) ∧
      ((∃ j ∈ tiles, (co.modeOf j).sl = false) → exec (.vrcmb d a g x) s = .next (s.trapOpen 0x42 0x325)))

/-- Vector compares (R281, R282, R288, R290). -/
def Obligations.VectorCompares : Prop :=
  ∀ (s : State) (d : Fin 8) (a b : Fin 64) (m t : Fin 8) (l : Lit) (ew lw : Nat) (k : Mask) (i : Instr) (rel : Nat → Nat → Prop),
    k = (if lw = 64 then s.me.mask m.val &&& 0xFFFFFFFF else s.me.mask m.val) →
    ((ew = elemWI t.val ∧ lw = laneWI t.val ∧
        ((i = .vcmpEqI d a b m t l ∧ rel = fun u v => toInt ew (signedI t.val) u = toInt ew (signedI t.val) v) ∨
          (i = .vcmpLtI d a b m t l ∧ rel = fun u v => toInt ew (signedI t.val) u < toInt ew (signedI t.val) v) ∨
          (i = .vcmpLeI d a b m t l ∧ rel = fun u v => toInt ew (signedI t.val) u ≤ toInt ew (signedI t.val) v))) ∨
      (ew = elemWF t.val ∧ lw = laneWF t.val ∧
        ((i = .vcmpEqF d a b m t l ∧ rel = fun u v => ((fmtOf t.val).value u).isNan = false ∧ ((fmtOf t.val).value v).isNan = false ∧
            ((fmtOf t.val).value u).less false ((fmtOf t.val).value v) = false ∧
            ((fmtOf t.val).value v).less false ((fmtOf t.val).value u) = false) ∨
          (i = .vcmpLtF d a b m t l ∧ rel = fun u v => ((fmtOf t.val).value u).isNan = false ∧ ((fmtOf t.val).value v).isNan = false ∧
            ((fmtOf t.val).value u).less false ((fmtOf t.val).value v) = true) ∨
          (i = .vcmpLeF d a b m t l ∧ rel = fun u v => ((fmtOf t.val).value u).isNan = false ∧ ((fmtOf t.val).value v).isNan = false ∧
            ((fmtOf t.val).value v).less false ((fmtOf t.val).value u) = false)))) →
    (s.vp a = false → s.vp b = false → ∃ v f, exec i s = .next (s.putM 2 d v k f) ∧
      ∀ n, n < 2048 / lw → k.getLsbD n = true → (v.getLsbD n = true ↔
        ∀ j, j * ew / lw = n → rel (elem ew (s.va lw l a) j) (elem ew (s.vb lw l b) j))) ∧
    (s.vp a = true → exec i s = .next (s.trapPoison true a.val)) ∧
    (s.vp a = false → s.vp b = true → exec i s = .next (s.trapPoison true b.val))

/-- Masked element-wise results (R158, R159, R259–R261, R280, R282). -/
def Obligations.LanewiseLands : Prop :=
  ∀ (s : State) (lat : Nat) (d : Fin 64) (ew lw : Nat) (m : Mask) (tag : Bool) (f : Nat → Elem) (c : Ctx),
    ew ∈ [8, 16, 32, 64] → lw ∈ [32, 64] → ew ≤ lw → 1 ≤ lat → (∀ r ∈ s.me.pend, r.val.reg ≠ some (.v d.val)) →
    c = ({ (s.lanewise lat d ew lw m tag f).me with step := s.me.step + lat } : Ctx).land →
    (∀ j, j < 2048 / ew → elem ew (c.vr d.val).v j =
      if m.getLsbD (j * ew / lw) then (f j).1 % 2 ^ ew else elem ew (s.me.vr d.val).v j) ∧
    ((c.vr d.val).p = true ↔ tag = true ∨ ((∃ j, j < 2048 / lw ∧ m.getLsbD j = false) ∧ s.vp d = true)) ∧
    (s.lanewise lat d ew lw m tag f).me.fflags =
      s.me.fflags ||| (flagsOf ((List.range (2048 / ew)).map fun j => if m.getLsbD (j * ew / lw) then f j else (0, {}))).word

/-- The frame of the instructions with a vector destination (R172, R261, R279–R299). -/
def Obligations.VectorFrame : Prop :=
  ∀ (i : Instr) (d : Fin 64) (s t : State), vectorDest i = some d → exec i s = .next t → s.RegisterFrame t [.v d.val]

/-! ### The matrix array -/

/-- The Z slot (R163, R302–R325). -/
def Obligations.MatrixComplete : Prop :=
  (∀ (s : State) (r : Fin 64),
    exec (.xmpc r) s = .next (s.issueLoad 5 0 [] (.xmpc r.val none false) false false) ∧
    exec (.xres r) s = .next (State.issueLoad (((s.keepMpc s.cur.id).keepLost s.cur.id).setMe { s.me with mpc := s.me.mpc &&& ~~~0x4000#64 })
      5 0 [] (.xres r.val none) false false)) ∧
  (∀ (s : State) (id : Nat), ∃ ls, s.keepMpc id = { s with loads := ls } ∧ ls.length = s.loads.length ∧
    ∀ (n : Nat) (x y : Load), s.loads[n]? = some x → ls[n]? = some y →
      y = x ∨ x.ctx = id ∧ s.matrixBefore id x.iss = false ∧
        ((∃ d lost, x.dest = .xmpc d none lost ∧ y = { x with dest := .xmpc d (some (s.ctx id).mpc) lost }) ∨
          ∃ d, x.dest = .xres d none ∧ y = { x with dest := .xres d (some (s.ctx id).mpc) })) ∧
  (∀ (s : State) (id : Nat), ∃ ls, s.keepLost id = { s with loads := ls } ∧ ls.length = s.loads.length ∧
    ∀ (n : Nat) (x y : Load), s.loads[n]? = some x → ls[n]? = some y →
      (∀ d lost, x.ctx = id → x.dest = .xmpc d none lost →
        y = { x with dest := .xmpc d none (lost || (s.ctx id).mpc.getLsbD 14) }) ∧
      ((x.ctx ≠ id ∨ ∀ d lost, x.dest ≠ .xmpc d none lost) → y = x)) ∧
  (∀ s : State, s.matrixBusy s.cur.id = false →
    exec .xwait s = .next ((s.coverXaccs (s.cur.id / 4) s.cur.id s.tid s.me.iss).setMe s.me)) ∧
  (∀ (s : State) (k : Core), k = s.core (s.cur.id / 4) →
    (k.owner = none → k.queue = [] → k.waiters = [] →
      exec .xacq s = .next (State.setMe ((s.keepMpc s.cur.id).setCore (s.cur.id / 4) { k with
        owner := some s.cur.id, wa := 0, wb := 0, sl := false, s1 := 0, cfgd := false, np := 0, ns := 0
        active := [], shadow := [], fifo := [], banks := [], scales := [] }) { s.me with mpc := 0 })) ∧
    (k.owner = some s.cur.id →
      exec .xacq s = .next (s.setMe s.me) ∧
      (s.matrixBusy s.cur.id = false → exec .xrel s = .next (State.setMe ((s.keepMpc s.cur.id).setCore (s.cur.id / 4) { k with
        owner := none, cfgd := false, np := 0, ns := 0, active := [], shadow := [], fifo := [], banks := [], scales := [] })
        { s.me with mpc := s.me.mpc &&& ~~~0x4000#64 })) ∧
      (∀ (t m : Fin 8) (a b : Fin 64) (u : State), k.queue.length < 32 → (s.gp b = false ∨ m.val = 0) → s.tileForeign t.val = false →
        (m.val = 0 ∨ field (s.gv b) 63 2 = 0) → u = s.issueLoad 5 0 [] (.xhdr a.val t.val m.val (field (s.gv b) 1 0)) false false →
        exec (.xhdr t a b m) s = .next (u.setCore (s.cur.id / 4) { k with
          queue := k.queue ++ [⟨s.tid, s.cur.id, s.me.iss, .hdr s.fresh⟩] })))) ∧
  (∀ (s : State) (k : Core), k = s.core (s.cur.id / 4) → k.owner = some s.cur.id → s.me.lost = false → k.queue.length < 32 →
    (∀ a b : Fin 8, k.np + k.ns = 0 →
      exec (.xcfg a b) s = .next (s.queued .cfg { k with wa := a.val, wb := b.val, sl := false, s1 := 0, cfgd := true })) ∧
    (∀ n : Fin 8, k.np + k.ns = 0 →
      exec (.xcfgSl n) s = .next (s.queued .cfg { k with wa := 5, wb := 5, sl := true, s1 := n.val, cfgd := true })) ∧
    (∀ (c : Fin 32) (a b : Fin 64) (rows : List Acc), k.cfgd = true → s.gp a = false → s.gp b = false →
      field (s.gv b) 7 3 = 0 → field (s.gv b) 63 32 = 0 → k.np + (field (s.gv b) 2 0 + 1) ≤ 8 →
      checkAll (fun j : Nat => s.capCheck s.cur.id (s.me.kr c.val) [3] ((s.gv a).toInt + j * field (s.gv b) 31 8)
        (32 * widthB k.wa) 1 32) (List.range (field (s.gv b) 2 0 + 1)) = .ok rows →
      exec (.xpushA c a b) s = .next (s.queued (.pushA (rows.map (·.addr)) (32 * widthB k.wa))
        { k with np := k.np + (field (s.gv b) 2 0 + 1) })) ∧
    (∀ (c : Fin 32) (a b : Fin 64) (n : Nat) (lines : List (Nat × Nat × Nat)) (x : Acc), k.cfgd = true → s.gp a = false → s.gp b = false →
      field (s.gv b) 63 16 = 0 → n = 4 * widthB k.wb * ones 8 (field (s.gv b) 15 8) →
      lines = s.sealedLines s.cur.id ((s.me.kr c.val).base + (s.gv a).toInt).toNat n →
      (∀ l ∈ lines, s.released s.cur.id l.2.1 = true) →
      s.capCheck s.cur.id (s.me.kr c.val) [4] (s.gv a).toInt n (if lines = [] then 1 else 257) 4 = .ok x →
      exec (.xpushW c a b) s = .next (s.queued (.pushW x.addr (field (s.gv b) 7 0) (field (s.gv b) 15 8) (widthB k.wb)
        (lines.foldl (fun t l => Table.set t l.1 (s.sealKey l.2.1 l.2.2 l.1)) [])) k)) ∧
    (k.cfgd = true → exec .xflip s = .next (s.queued .flip k)) ∧
    (k.cfgd = true → 1 ≤ k.np → k.ns ≠ 2 →
      exec .xshift s = .next (s.queued (.shift (widthB k.wa)) { k with np := k.np - 1, ns := k.ns + 1 })) ∧
    (∀ (r : Fin 64) (g : Fin 8), k.cfgd = true → s.vp r = false →
      exec (.xscl r g) s = .next (s.queued (.scl g.val (s.me.vr r.val).v) k)) ∧
    (∀ (t : Fin 8) (a b : Fin 64), k.cfgd = true → s.gp a = false → s.gp b = false → s.tileForeign t.val = false → k.ns ≠ 0 →
      k.modeDiffers t.val = false → field (s.gv b) 15 14 = 0 → field (s.gv b) 63 48 = 0 →
      (k.sl = false ∨ field (s.gv b) 13 8 < (k.s1 + 1) * (k.s1 + 2) / 2) →
      exec (.xacc t a b) s = .next (s.queued
        (.acc t.val (field (s.gv b) 7 0) (field (s.gv b) 13 8) (field (s.gv b) 47 16) k.sl (s.gv a)) { k with ns := k.ns - 1 })) ∧
    (∀ t : Fin 8, k.cfgd = true → s.tileForeign t.val = false → exec (.xzero t) s =
      .next (s.queued (.zero t.val k.wa k.wb k.sl) { k with mode := Table.set k.mode t.val ⟨k.wa, k.wb, k.sl⟩ })) ∧
    (∀ (t : Fin 8) (a : Fin 64), s.tileForeign t.val = false → s.gp a = false → field (s.gv a) 63 10 = 0 →
      exec (.xsete t a) s = .next (s.queued (.sete t.val (field (s.gv a) 9 0)) k)) ∧
    (∀ t : Fin 8, s.tileForeign t.val = false → exec (.xclrf t) s = .next (s.queued (.clrf t.val) k)) ∧
    (∀ (t : Fin 8) (a b : Fin 64) (e : Fin 2), s.tileForeign t.val = false → s.gp a = false → s.gp b = false → field (s.gv a) 63 2 = 0 →
      exec (.xmark t a b e) s = .next (s.queued (.mark t.val (decide (e.val = 1)) (field (s.gv a) 1 0) (s.gv b)) k)) ∧
    (∀ (t m : Fin 8) (a b : Fin 64), s.tileForeign t.val = false → s.gp a = false → field (s.gv a) 15 10 = 0 → field (s.gv a) 63 24 = 0 →
      (m.val = 0 ∨ (k.modeOf t.val).sl = false) → (m.val < 2 ∨ field (s.gv a) 9 8 = 0) → s.matrixBusy s.cur.id = false →
      s.acquirePending s.cur.id s.me.iss = false → ∃ u, u = State.put
        (s.queued (.drain t.val (field (s.gv a) 7 0) (field (s.gv a) 9 8) (field (s.gv a) 23 16) m.val b.val (s.me.step + 8)) k) 8
        (.v b.val (drainValue (k.header t.val) (s.tileRow ⟨s.cur.id, some (s.cur.id / 4), s.me.iss, 0⟩ (s.cur.id / 4) t.val (field (s.gv a) 7 0))
          (field (s.gv a) 7 0) (field (s.gv a) 9 8) (field (s.gv a) 23 16) m.val) (BitVec.allOnes 2048) false) ∧
        exec (.xdrain t a b m) s = .next (u.setMe { u.me with drains := u.me.drains ++ [s.me.iss] })))
/-! ### Decoding -/

/-- Decode and encode agree (R117, R118, R121, R132–R146). -/
def Obligations.DecodeEncode : Prop :=
  (∀ (i : Instr) (e : Encoding), wf i = true → enc i = some e → decodeSlot e.kind e.word e.lit = .ok i) ∧
  (∀ (k : SlotKind) (w : BitVec 32) (l : Lit) (i : Instr), decodeSlot k w l = .ok i →
    wf i = true ∧ ∃ e, enc i = some e ∧ e.kind = k ∧ e.word = w ∧ e.lit = l)

/-- The manual's own words (R132–R146). -/
def Obligations.DecodeWords : Prop :=
  decodeSlot .c 0x031C0000 none = .ok (.bnez 7 (.short 0)) ∧
  decodeSlot .c 0x1120000A none = .ok (.mfsr 8 0x00A) ∧
  decodeSlot .x 0x021C7FFF none = .ok (.addi 7 7 (.short (-1))) ∧
  decodeSlot .m 0x0424017E none = .ok (.ldI32 9 0 2 (.short (-2))) ∧
  decodeSlot .m 0x0F142334 none = .ok (.vldx 5 1 6 1 1 2 0 none) ∧
  decodeSlot .v 0x80101082 (some 0x702) = .ok (.vaddF 4 1 2 0 2 (some 0x702)) ∧
  decodeSlot .v 0xA32810C0 (some 0x51) = .ok (.vsplit 10 1 3 0x51) ∧
  decodeSlot .z 0x08471E00 none = .ok (.xacc 2 14 15) ∧
  decodeSlot .a 0x8A102305 (some 8) = .ok (.ald 4 1 6 2 1 (some 8)) ∧
  decodeSlot .a 0x98089480 (some 5) = .ok (.cpy 1 2 20 (some 5)) ∧
  decodeSlot .a 0x1D121540 none = .ok (.rputf 1 4 5 20 none) ∧
  decodeSlot .z 0xF2ABCDEF (some 0) = .ok (.hint .z 2 0xABCDEF (some 0)) ∧
  decodeSlot .x 0x45000000 none = .error .reserved ∧ decodeSlot .x 0x80041083 (some 0) = .error .literal ∧
  decodeSlot .v 0x00101085 none = .error .reserved ∧ decodeSlot .a 0x08A00000 none = .error .reserved ∧
  decodeSlot .a 0x0C000064 none = .error .reserved

/-- Bundles (R117–R121, R122, R283). -/
def Obligations.DecodeBundle : Prop :=
  (∀ delay rest, decodeBundle delay 0 rest = .ok ⟨[(0, .nop)], 1⟩) ∧
  (∀ (i j : Instr) (e f : Encoding) (b c : Nat) (rest bs : List Byte), wf i = true → wf j = true → enc i = some e → enc j = some f →
    b < c → c < 8 → slotKindOf b = e.kind → slotKindOf c = f.kind → (movesStack i && movesStack j) = false →
    bs = bytes32 e.word ++ (e.lit.elim [] bytes32) ++ bytes32 f.word ++ (f.lit.elim [] bytes32) →
    decodeBundle false (BitVec.ofNat 8 (2 ^ b + 2 ^ c)) (bs ++ rest) = .ok ⟨[(b, i), (c, j)], bs.length + 1⟩) ∧
  (∀ (i : Instr) (e : Encoding) (b : Nat) (rest bs : List Byte), wf i = true → enc i = some e → b < 8 → slotKindOf b = e.kind →
    bs = bytes32 e.word ++ (e.lit.elim [] bytes32) →
    decodeBundle true (BitVec.ofNat 8 (2 ^ b)) (bs ++ rest) =
      if isTransfer i then .error ⟨4, e.word, b⟩ else .ok ⟨[(b, i)], bs.length + 1⟩)

/-! ### The step -/

/-- One step is `exec` of the decoded instruction, with the bundle's commit around it (R119–R123, R155–R161). -/
def Obligations.StepRunsTheInstruction : Prop :=
  ∀ (s s0 u : State) (id bit len : Nat) (t : Machine.Task) (i : Instr),
    s.grant = some id → s0 = { s with grant := none } → (s.ctx id).task = some t → (s.ctx id).late = none → (s.ctx id).wait = none →
    ((s.ctx id).after = none ∨ (s.ctx id).delay.isSome = true) →
    s0.fetch (s0.codeFunc t) (s.ctx id).delay.isSome (s.ctx id).pc.toNat = .bundle ⟨[(bit, i)], len⟩ →
    s0.interlocked t.tid (s.ctx id).land.pend [i] = false → exec i (s0.at id bit len i) = .next u →
    (u.cur.verdict = .effect → ((u.ctx id).land.pend.filter fun r => r.val.exposed).length ≤ 8 →
      step s = .next { u.setCtx id (Ctx.commit ((u.ctx id).setWaits (u.ctx id).wait.toList) (s.ctx id) len) with cur := {} }) ∧
    (u.cur.verdict ≠ .effect → step s = .next { u with cur := {} })

/-- The invariant of memory, over every step. -/
def Obligations.StepKeepsMemory : Prop := ∀ s t : State, s.Canonical → step s = .next t → t.Canonical

/-- The state after reset (R66, R85, R99, R338, R442). -/
def Obligations.ResetState : Prop :=
  State.reset.Canonical ∧ State.reset.mem = [] ∧ (∀ id, (State.reset.ctx id).task = none) ∧ (∀ f, (State.reset.part f).state = 0) ∧
  State.reset.walks = [] ∧ State.reset.launches = [] ∧ (∀ n, (Table.get {} State.reset.keys n : KeySlot).state = 0) ∧
  (∀ n, (Table.get {} State.reset.jobs n : Job).valid = false) ∧ State.reset.time = 0

/-! ### Exceptions -/

/-- sr.cause, TIMER and INTERRUPT (R405, R428). -/
def Obligations.CauseAndInterrupts : Prop :=
  (∀ t : Trap, t.code < 256 → (causeWord t).toNat % 256 = t.code ∧ (causeWord t).getLsbD 8 = t.ds ∧ (causeWord t).getLsbD 9 = t.fb ∧
    (causeWord t).getLsbD 10 = t.pf ∧ (causeWord t).getLsbD 11 = t.late ∧ (causeWord t).toNat < 2 ^ 12) ∧
  (∀ (s : State) (id : Nat) (a : Word), s.asyncBoundary id = true → s.outstanding id = false →
    ((s.ctx id).tcmp ≠ 0 → (s.ctx id).tcmp.toNat ≤ s.time → s.handler (s.ctx id) 0x4A = some a →
      ∃ t, exec (.timer id) s = .next t ∧ (t.ctx id).cause = 0x4A ∧ (t.ctx id).tval = (s.ctx id).pc ∧ (t.ctx id).tval2 = 0 ∧
        (t.ctx id).pc = a ∧ (t.ctx id).tcmp = 0 ∧ (t.ctx id).frame.map (·.pc) = some (s.ctx id).pc ∧
        ∀ j, j ≠ id → t.ctx j = s.ctx j) ∧
    (∀ n, n < 16 → (s.ctx id).ipend.getLsbD n = true → (s.ctx id).ien.getLsbD n = true →
      (∀ m, m < n → ((s.ctx id).ipend.getLsbD m && (s.ctx id).ien.getLsbD m) = false) →
      s.timerReady id = false → s.handler (s.ctx id) 0x49 = some a →
      ∃ t, exec (.interrupt id) s = .next t ∧ (t.ctx id).cause = 0x49 ∧ (t.ctx id).tval = (s.ctx id).pc ∧
        (t.ctx id).tval2 = BitVec.ofNat 64 n ∧ (t.ctx id).pc = a ∧ (t.ctx id).ipend.getLsbD n = false ∧
        (∀ m, m ≠ n → (t.ctx id).ipend.getLsbD m = (s.ctx id).ipend.getLsbD m) ∧
        (t.ctx id).frame.map (·.pc) = some (s.ctx id).pc ∧ ∀ j, j ≠ id → t.ctx j = s.ctx j))

/-- Taking an exception (R123, R402, R405, R407–R411, R419). -/
def Obligations.PreciseTrap : Prop :=
  ∀ (s : State) (code : Nat) (v w : Word), code < 256 →
    (∀ a, (s.ctx s.cur.id).frame = none → s.handler (s.ctx s.cur.id) code = some a → s.outstanding s.cur.id = false →
      ∃ f, ((s.trap code v w).ctx s.cur.id).frame = some f ∧ f.pc = (s.ctx s.cur.id).pc ∧ f.stack = (s.ctx s.cur.id).landRest.stack ∧
        f.pf = (s.ctx s.cur.id).late ∧ f.latches = (s.ctx s.cur.id).pend.filterMap (latchOf (s.ctx s.cur.id).step) ∧
        ((s.trap code v w).ctx s.cur.id).cause = f.cause ∧ ((s.trap code v w).ctx s.cur.id).tval = v ∧
        ((s.trap code v w).ctx s.cur.id).tval2 = f.tval2 ∧ ((s.trap code v w).ctx s.cur.id).pc = a ∧
        ((s.trap code v w).ctx s.cur.id).stack = [] ∧ ((s.trap code v w).ctx s.cur.id).late = none ∧
        ((s.trap code v w).ctx s.cur.id).delay = none ∧ ((s.trap code v w).ctx s.cur.id).task = (s.ctx s.cur.id).task ∧
        (match (s.ctx s.cur.id).delay with
          | some ⟨true, x, _, _⟩ => f.cause = BitVec.ofNat 64 (code + 2 ^ 8) ∧ f.tval2 = x
          | _ => f.cause = BitVec.ofNat 64 code ∧ f.tval2 = w) ∧
        ∀ j, j ≠ s.cur.id → (s.trap code v w).ctx j = s.ctx j) ∧
    (∀ t, s.task = some t → ((s.ctx s.cur.id).frame.isSome = true ∨ s.handler (s.ctx s.cur.id) code = none) →
      s.trackerFull (s.cur.id / 4) = false →
      ∃ r, (s.trap code v w).retire = s.retire ++ [r] ∧ ((s.trap code v w).ctx s.cur.id).task = none ∧ r.task = t ∧ r.code = code ∧
        r.fpc = (s.ctx s.cur.id).pc ∧ r.tval = v ∧ r.tail = false ∧ r.pend = false ∧ r.mchk = decide (code = 0x60)) ∧
    (s.trap code v w).cur.verdict = .trapped

/-- Returning from an exception (R123, R383, R389, R409, R411, R412, R425). That a wait of ERET's delay bundle, and a
fault of it, hold or meet the first returned bundle is the model's reading (DEDUCED, log entry 45). -/
def Obligations.ReturnRestores : Prop :=
  (∀ (c d : Ctx) (t : Trap) (a : Word) (f : Frame), (∀ r ∈ c.pend, c.step ≤ r.due) → t.code < 256 → (c.enter t a).frame = some f →
    d.pend = [] →
    (d.resume f).pc = t.ret ∧ (d.resume f).stack = c.landRest.stack ∧ (d.resume f).g = d.g ∧
    (d.resume f).pend.map (fun r => (r.due - d.step, r.val)) =
      (c.pend.filter fun r => r.val.exposed).map (fun r => (r.due - c.step, r.val)) ∧
    (d.resume f).wait.toList ++ (d.resume f).more = d.wait.toList ++ d.more ++ (c.wait.toList ++ c.more).filter (fun w => match w with
      | .fwait _ _ _ _ _ => true
      | .bwait _ _ _ _ _ => true
      | _ => false) ∧
    (d.resume f).after = d.after.or c.after ∧
    (d.resume f).delay = (if t.ds then some ⟨true, t.tval2, (c.delay.map (·.pc)).getD t.ret, false⟩ else c.delay)) ∧
  (∀ (s : State) (id : Nat) (f : Frame), (s.ctx id).frame = some f →
    (f.pf = none ∨ s.preempting id = true →
      ((s.returnFrom id).ctx id).frame = none ∧ ((s.returnFrom id).ctx id).ret = false ∧ ((s.returnFrom id).ctx id).delay =
        (if field f.cause 8 8 = 1 then some ⟨true, f.tval2, (f.branch.map (·.pc)).getD f.pc, false⟩ else f.branch) ∧
      ((s.returnFrom id).ctx id).wait = ((s.ctx id).wait.toList ++ (s.ctx id).more ++ f.wait.toList ++ f.more).head? ∧
      ((s.returnFrom id).ctx id).pc = f.pc ∧ ((s.returnFrom id).ctx id).stack = f.stack ∧
      ((s.returnFrom id).ctx id).g = (s.ctx id).g ∧ ((s.returnFrom id).ctx id).after = (s.ctx id).after.or f.after ∧
      ((s.returnFrom id).ctx id).late = f.pf.or (s.ctx id).late ∧ ∀ j, j ≠ id → (s.returnFrom id).ctx j = s.ctx j) ∧
    (∀ l, f.pf = some l → s.preempting id = false → s.returnFrom id = State.deliverPending (s.setCtx id
      { ({ s.ctx id with frame := none, ret := false, delay := none } : Ctx).resume f with ret := false }) id l))

/-- Pre-emption, interrupts posted and the debugger (R108, R206, R408, R413, R416, R417, R428–R432, R439). That a debugger's departure ends a
debug stop is the model's choice (DEDUCED, log entry 45). -/
def Obligations.PreemptionSteps : Prop :=
  ∀ (s : State) (id : Nat) (t : Machine.Task),
    (∀ e, (s.ctx id).trapReq = some e → exec (.trapEntry id) s = .next (State.takeTrap (s.setCtx id { s.ctx id with trapReq := none }) id e)) ∧
    exec (.debugAttach id) s = .next (State.unrelease (s.setCtx id { s.ctx id with dbg := true }) id) ∧
    (∀ n, id ∉ (Table.get {} (s.unrelease id).keys n : KeySlot).release) ∧
    exec (.debugResume id) s = .next (s.setCtx id { s.ctx id with dbgStop := none }) ∧
    exec (.debugDetach id) s = .next (s.setCtx id { s.ctx id with dbg := false, dbgStop := none }) ∧
    (∀ off, exec (.debugRead id false off) s = .next (if s.sealedLine ((flatW (id / 4) + off % 0x200000) / 128)
      then (match s.clusterOwner (id / 4 / 8) with
        | some f => State.event { s with hostOut := [0] } f 0x1A id
        | none => { s with hostOut := [0] })
      else { s with hostOut := [s.see chipViewer 0 (flatW (id / 4) + off % 0x200000)] })) ∧
    (∀ off, ∃ u, exec (.debugRead id true off) s = .next u ∧ u.hostOut = [0]) ∧
    ((s.ctx id).task = some t →
      ((s.ctx id).preempt = .none → exec (.preemptRequest id) s = .next (s.setCtx id { s.ctx id with preempt := .requested })) ∧
      (∀ g : BitVec 32, g ≠ 0 → (s.ctx id).preempt = .none → (s.ctx id).prq = none →
        ∃ u, exec (.gracefulPreemptRequest id g) s = .next u ∧ (u.ctx id).prq = some (s.time + g.toNat) ∧
          (u.ctx id).wait = (if (s.ctx id).wait = some .idle then none else (s.ctx id).wait)) ∧
      (∀ q, (s.ctx id).prq = some q → q ≤ s.time → (s.ctx id).preempt = .none →
        exec (.graceExpire id) s = .next (s.setCtx id { s.ctx id with preempt := .requested })) ∧
      (∀ w : BitVec 64, w.toNat < 2 ^ 25 → w.toNat / 2 ^ 16 = id →
        ((s.part t.func).state = 1 →
          exec (.intpost t.func w) s = .next (s.setCtx id { s.ctx id with ipend := (s.ctx id).ipend ||| w.setWidth 16 })) ∧
        (∀ f, f ≠ t.func ∨ (s.part f).state ≠ 1 → exec (.intpost f w) s = .next (s.setPart f { s.part f with dropped := (s.part f).dropped + 1 }))) ∧
      (s.preempting id = true → (s.ctx id).preemptible = true → (s.ctx id).locking = false → s.quiet id t.tid = true →
        ((State.newFrames (s.settleTiles (id / 4) (s.ctx id).touched) t.func
          (areaFrames (s.ctx id).touched.length)).isSome = false → exec (.preempt id) s = .next s) ∧
        ((State.newFrames (s.settleTiles (id / 4) (s.ctx id).touched) t.func
          (areaFrames (s.ctx id).touched.length)).isSome = true →
        ∃ u f, exec (.preempt id) s = .next u ∧ (u.ctx id).preempt = .out ∧ (u.ctx id).prq = none ∧ (u.ctx id).saved = some f ∧
          f.pc = (s.ctx id).pc ∧ f.cause = 0x48 ∧ f.stack = (s.ctx id).landRest.stack ∧ f.pf = (s.ctx id).late ∧
          (u.ctx id).g = (s.ctx id).landRest.g ∧ (u.ctx id).frame = (s.ctx id).frame ∧ (∀ l ∈ (u.ctx id).locks, l.pages = []) ∧
          (∀ n, id ∉ (Table.get {} u.keys n : KeySlot).release) ∧ (u.core (id / 4)).owner ≠ some id)) ∧
      (∀ f, (s.ctx id).preempt = .out → (s.ctx id).saved = some f → f.pf = none →
        ((s.ctx id).owned.isSome = true → (s.core (id / 4)).arrayFree = false →
          ∃ u, exec (.switchIn id) s = .next u ∧ (u.ctx id).preempt = .entering ∧ (u.ctx id).saved = some f ∧ id ∈ (u.core (id / 4)).waiters) ∧
        ((s.ctx id).owned = none ∨ (s.core (id / 4)).arrayFree = true →
        ∃ u, exec (.switchIn id) s = .next u ∧ (u.ctx id).preempt = .none ∧ (u.ctx id).saved = none ∧ (u.ctx id).pc = f.pc ∧
          (u.ctx id).stack = f.stack ∧ (u.ctx id).wait = ((s.ctx id).wait.toList ++ (s.ctx id).more ++ f.wait.toList ++ f.more).head? ∧ (u.ctx id).g = (s.ctx id).g ∧ (u.ctx id).frame = (s.ctx id).frame)))
/-! ### Engines -/

/-- Operations in flight (R158, R160, R162, R178, R230, R250, R253, R322, R325, R360, R363, R372, R376, R411). That a step which may not be
taken leaves the state as it is, is the model's choice (DESIGN CHOICE, log entry 16); that an operation translates when it is performed, and
that an interlocked result overtakes what is pending for its register, are its readings (DEDUCED, log entry 13). -/
def Obligations.OperationsComplete : Prop :=
  ∀ (s : State) (id : Nat),
    (s.frozen id = false → exec (.resultLand id) s = .next (s.setCtx id (s.ctx id).land)) ∧
    (s.frozen id = true → exec (.resultLand id) s = .next s) ∧
    (∀ (d : Div) (t : Machine.Task), s.divs.find? (fun x => decide (x.id = id)) = some d → (s.ctx d.ctx).task = some t → t.tid = d.tid →
      exec (.divideComplete id) s = .next (State.setCtx { s with divs := s.divs.filter fun x => decide (x.id ≠ id) }
        d.ctx ((s.ctx d.ctx).comeFrom d.id (.g d.dest d.val d.p)))) ∧
    (∀ w : Write, s.writes.find? (fun x => decide (x.id = id)) = some w →
      (s.canMove w = false → exec (.writePropagate id) s = .next s) ∧
      (s.canMove w = true → w.level = 0 → exec (.writePropagate id) s = .next ((s.placeWrite w).forgetTile w)) ∧
      (s.canMove w = true → w.level = 1 → exec (.writePropagate id) s = .next (s.moveTo 2 w)) ∧
      (∀ u, s.canMove w = true → w.level = 2 → s.pay w.id (s.funcOf w.tid) .memory (hbmTokens (w.cells.map (·.1))) = (u, true) →
        exec (.writePropagate id) s = .next (u.moveTo 3 w).sweepWrites)) ∧
    (∀ (c : Copy) (t : Machine.Task), s.copies.find? (fun x => decide (x.id = id)) = some c → s.taskOf c.tid = some t → s.copyFree c = true →
      (c.beats = [] → exec (.copyBeat id) s = .next ((s.dropCopy c.id).endRing c)) ∧
      (∀ b bs src, c.beats = b :: bs → s.beatFault t c b = none → s.readPlaces t c.ctx c.sspace (chunks b.src b.len) = .ok src →
        exec (.copyBeat id) s = .next (if s.beatWaits t c b (src.filterMap fun x => x) then s else s.doBeat t c b bs src)) ∧
      (∀ b bs e, c.beats = b :: bs → s.beatFault t c b = some e → s.copyBarWaits c c.beats.length true = false →
        exec (.copyBeat id) s = .next (s.stopCopy c e.1 e.2))) ∧
    (∀ a : Atom, s.atoms.find? (fun x => decide (x.id = id)) = some a →
      (a.asc = false → s.atomFree a = true →
        exec (.atomicPerform id) s = .next (s.perform a) ∧
        (s.haltedFor a.tid = true → exec (.qntFlush id) s = .next s) ∧
        (a.use = 4 → s.haltedFor a.tid = false → exec (.qntFlush id) s =
          .next ((s.merged a).foldl (fun u b => if u.atomFree b then u.perform b else u) (s.perform a)))) ∧
      (∀ t, a.asc = false → s.atomFree a = false → s.taskOf a.tid = some t →
        exec (.atomicPerform id) s = .next (
          if s.isOut a.ctx a.tid || s.acquirePending a.ctx a.iss || s.hostWaits t.func a.a.space a.a.addr a.a.size then s
          else if a.locs = [] then s.translateAtom a t
          else if a.use = 5 ∧ (a.got.isSome = true ∨ (s.atomOpen a = true ∧ s.mayLock a = true)) then s.readEarly a
          else s)) ∧
      (∀ last, s.time % 4 = 0 → (Table.find s.served (s.time / 4 % 256) = none ∧ last = 127 ∨
          ∃ at', Table.find s.served (s.time / 4 % 256) = some (last, at') ∧ at' ≠ s.time) →
        pickAsc last s.ascReady = some a →
        exec (.ascPerform id) s = .next (if (s.perform a).atoms.any fun b => decide (b.id = id) then s.perform a
          else { s.perform a with served := Table.set (s.perform a).served (s.time / 4 % 256) (a.ctx / 4, s.time) }))) ∧
    (∀ (l : Load) (t : Machine.Task) (s1 : State), s.loads.find? (fun x => decide (x.id = id)) = some l → (s.ctx l.ctx).task = some t →
      t.tid = l.tid → s1 = { s with loads := s.loads.filter fun x => decide (x.id ≠ id) } →
      (∀ n v p, l.dest = .word n v p → exec (.loadReturn id) s = .next (s1.setCtx l.ctx ((s.ctx l.ctx).comeFrom l.id (.g n v p)))) ∧
      (∀ n tile mode i e q, l.dest = .xhdr n tile mode i → (s.core (l.ctx / 4)).queue = e :: q → e.op = .hdr l.id →
        exec (.loadReturn id) s = .next ((s1.setCore (l.ctx / 4) { s.core (l.ctx / 4) with queue := q }).setCtx l.ctx
          ((s.ctx l.ctx).comeFrom l.id (.g n (((s.core (l.ctx / 4)).header tile).read mode i) false)))) ∧
      (∀ n got lost, l.dest = .xmpc n got lost → (∀ e ∈ (s.core (l.ctx / 4)).queue, e.ctx = l.ctx → l.iss ≤ e.iss) →
        exec (.loadReturn id) s = .next (s1.setCtx l.ctx ((s.ctx l.ctx).comeFrom l.id
          (.g n (got.getD (s.ctx l.ctx).mpc ||| if lost then 0x4000 else 0) false)))) ∧
      (∀ n got r, l.dest = .xres n got → (∀ e ∈ (s.core (l.ctx / 4)).queue, e.ctx = l.ctx → l.iss ≤ e.iss) →
        r = resumePoint (got.getD (s.ctx l.ctx).mpc) → exec (.loadReturn id) s = .next (s1.setCtx l.ctx
          ((((s.ctx l.ctx).comeFrom l.id (.g n r.1 false)).comeFrom l.id (.g (n + 1) r.2.1 false)).comeFrom l.id (.g (n + 2) r.2.2 false)))))

/-- Results of loads and atomics (R160, R229, R232, R235, R361, R363, R393). -/
def Obligations.LoadedAndAtomicValues : Prop :=
  (∀ (s : State) (l : Load) (t : Machine.Task) (n addr size : Nat) (sg : Bool), s.loads.find? (fun x => decide (x.id = l.id)) = some l →
    s.taskOf l.tid = some t → (s.ctx l.ctx).task = some t → t.tid = l.tid → s.loadFree l = true → l.soft0 = false → n ≠ 0 →
    l.dest = .g n size sg → l.parts = [(0, addr, size)] → size ≤ 8 → l.space ≠ 5 → l.old = [] →
    (∀ ls s1, s.readPlaces t l.ctx l.space (chunks addr size) = .ok ls →
      s.pay l.id t.func .memory (hbmTokens (ls.filterMap fun x => x)) = (s1, true) →
      ∃ u, exec (.loadReturn l.id) s = .next u ∧ u.loads = s1.loads.filter (fun x => decide (x.id ≠ l.id)) ∧
        (Table.get 0 (s.ctx l.ctx).won n ≤ l.id → (u.ctx l.ctx).gr n = ⟨BitVec.ofInt 64 (toInt (8 * size) sg
            (leNat (ls.map (s.seePlace ⟨l.ctx, some (l.ctx / 4), l.iss, 0⟩ l.key)))), false⟩ ∧
          (∀ r ∈ (u.ctx l.ctx).pend, r.val.reg ≠ some (.g n))) ∧
        (l.id < Table.get 0 (s.ctx l.ctx).won n → (u.ctx l.ctx).gr n = (s.ctx l.ctx).gr n) ∧
        (∀ m, m ≠ n → (u.ctx l.ctx).gr m = (s.ctx l.ctx).gr m) ∧ (∀ j, j ≠ l.ctx → u.ctx j = s.ctx j) ∧ s.BytesKept u) ∧
    (∀ e, s.readPlaces t l.ctx l.space (chunks addr size) = .error e →
      (l.soft = true → ∃ u, exec (.loadReturn l.id) s = .next u ∧
        (u.ctx l.ctx).gr n = if l.id < Table.get 0 (s.ctx l.ctx).won n then (s.ctx l.ctx).gr n else ⟨0, true⟩) ∧
      (l.soft = false → exec (.loadReturn l.id) s = .next (State.addLate { s with loads := s.loads.filter fun x => decide (x.id ≠ l.id) }
        l.tid ⟨e.1, BitVec.ofNat 64 e.2, l.pc, l.iss, [.g n], false⟩)))) ∧
  (∀ (s s1 : State) (a : Atom) (t : Machine.Task) (old new : Nat), s.Canonical →
    s.atoms.find? (fun x => decide (x.id = a.id)) = some a → a.asc = false → s.atomFree a = true →
    s.taskOf a.tid = some t → (s.ctx a.ctx).task = some t → t.tid = a.tid → a.a.size = 8 → a.scope < 2 → a.a.space ≠ 1 → a.a.key < 256 →
    a.locs ≠ [] → s.pay a.id t.func .memory (a.tokens a.locs) = (s1, true) → (∀ w ∈ s.writes, w.stamp < s.stamp) →
    old = leNat ((s1.settleFor a a.locs true).seeAll ⟨0, some (a.ctx / 4), 0, a.scope + 1⟩ a.a.key a.locs) →
    ((a.op = .add ∧ new = (old + a.x.toNat) % 2 ^ 64) ∨ (a.op = .and ∧ new = (BitVec.ofNat 64 old &&& a.x).toNat) ∨
      (a.op = .or ∧ new = (BitVec.ofNat 64 old ||| a.x).toNat) ∨ (a.op = .xor ∧ new = (BitVec.ofNat 64 old ^^^ a.x).toNat) ∨
      (a.op = .min ∧ new = if (BitVec.ofNat 64 old).toInt ≤ a.x.toInt then old else a.x.toNat) ∨
      (a.op = .max ∧ new = if (BitVec.ofNat 64 old).toInt ≤ a.x.toInt then a.x.toNat else old) ∨
      (a.op = .minn ∧ new = min old a.x.toNat) ∨ (a.op = .maxn ∧ new = max old a.x.toNat) ∨ (a.op = .xchg ∧ new = a.x.toNat) ∨
      (a.op = .maxrs ∧ new = a.x.toNat) ∨ (a.op = .cas ∧ new = if old = a.x.toNat then a.y.toNat else old)) → a.locs.length = 8 →
    ∃ u, exec (.atomicPerform a.id) s = .next u ∧ u.atoms = s1.atoms.filter (fun x => decide (x.id ≠ a.id)) ∧
      (∀ d, a.dest = some d → d ≠ 0 → (u.ctx a.ctx).gr d =
        if a.id < Table.get 0 (s.ctx a.ctx).won d then (s.ctx a.ctx).gr d else ⟨BitVec.ofNat 64 old, false⟩) ∧
      (∀ x b, cellAt x (a.locs.zip (leBytes 8 new)) = some b → u.see ⟨0, some (a.ctx / 4), 0, 1⟩ a.a.key x = b))

/-- Waits and what ends them (R163, R164, R166, R215, R242, R246, R313, R324, R364, R366, R370, R371, R384, R388, R389, R417). That a wait which
has not ended leaves the state as it is, is the model's choice (DESIGN CHOICE, log entry 16); the token of a wait's read, the place of a
barrier fault and the pages that TLOCK locks are its readings (DEDUCED, log entries 26, 37, 17). -/
def Obligations.WaitsComplete : Prop :=
  ∀ (s : State) (id : Nat) (t : Machine.Task),
    ((s.ctx id).task = some t →
      (∀ a v sc iss pc, (s.ctx id).wait = some (.fwait a v sc iss pc) →
        (s.waitFree t id a iss = false → exec (.fwaitComplete id) s = .next s) ∧
        (∀ x ws, s.waitFree t id a iss = true → s.waitRead t id a iss = .ok (x, ws) →
          (∀ u, v.toNat ≤ x → s.waitPay t id a = (u, true) →
            exec (.fwaitComplete id) s = .next (State.setCtx (State.prepareReads t id a.space u [(a.addr, a.size)]) id
              (Ctx.observe { s.ctx id with wait := none } ws 5 iss))) ∧
          (∀ u, v.toNat ≤ x → s.waitPay t id a = (u, false) → exec (.fwaitComplete id) s = .next u) ∧
          (x < v.toNat → exec (.fwaitComplete id) s = .next s)) ∧
        (∀ e, s.waitFree t id a iss = true → s.waitRead t id a iss = .error e →
          exec (.fwaitComplete id) s = .next (s.waitLate id t.tid e iss pc))) ∧
      (∀ a gen sc iss pc, (s.ctx id).wait = some (.bwait a gen sc iss pc) →
        (s.waitFree t id a iss = false → exec (.bwaitComplete id) s = .next s) ∧
        (∀ x ws p c, s.waitFree t id a iss = true → s.waitRead t id a iss = .ok (x, ws) → s.waitPay t id a = (p, true) →
          c = Ctx.observe { s.ctx id with wait := none, arrive := (s.ctx id).arrive.filter fun q => decide (q.1 ≠ a.where) } ws 5 iss →
          ((barRec x).gen ≠ gen → (barRec x).error = false → (barRec x).aborted = false → exec (.bwaitComplete id) s =
            .next (State.setCtx (State.prepareReads t id a.space p [(a.addr, a.size)]) id c)) ∧
          ((barRec x).aborted = true ∨ ((barRec x).gen ≠ gen ∧ (barRec x).error = true) → exec (.bwaitComplete id) s =
            .next (State.setCtx (State.prepareReads t id a.space p [(a.addr, a.size)]) id
              { c with after := some (BitVec.ofNat 64 (barRec x).flags) }))) ∧
        (∀ x ws p, s.waitFree t id a iss = true → s.waitRead t id a iss = .ok (x, ws) → s.waitPay t id a = (p, false) →
          (barRec x).aborted = true ∨ (barRec x).gen ≠ gen → exec (.bwaitComplete id) s = .next p) ∧
        (∀ x ws, s.waitFree t id a iss = true → s.waitRead t id a iss = .ok (x, ws) →
          ((barRec x).gen = gen → (barRec x).aborted = false → exec (.bwaitComplete id) s = .next s)) ∧
        (∀ e, s.waitFree t id a iss = true → s.waitRead t id a iss = .error e →
          exec (.bwaitComplete id) s = .next (s.waitLate id t.tid e iss pc))) ∧
      (∀ a, (s.ctx id).after = some a → (s.ctx id).delay = none → s.attempt id = .next { s.barrierFault id a with
        cur := { id := id, verdict := .trapped } }) ∧
      ((s.ctx id).wait = some .xwait → exec (.xwaitComplete id) s =
        .next (if s.matrixBusy id then s
          else State.setCtx (s.coverXaccs (id / 4) id t.tid (s.ctx id).iss) id { s.ctx id with wait := none })) ∧
      ((s.ctx id).wait = some .xrel → s.matrixBusy id = false → exec (.xrelComplete id) s =
        .next (((s.keepMpc id).setCore (id / 4) { (s.core (id / 4)).zeroArray with owner := none }).setCtx id
          { s.ctx id with wait := none, mpc := (s.ctx id).mpc &&& ~~~0x4000#64 })) ∧
      ((s.ctx id).wait = some .xrel → s.matrixBusy id = true → exec (.xrelComplete id) s = .next s) ∧
      (∀ a iss pc promised now, (s.ctx id).wait = some (.tlock a iss pc promised) →
        now = populatedPages (s.pages t.func a.space a.addr a.size) →
        (s.hostWaits t.func a.space a.addr a.size = true → exec (.tlockComplete id) s = .next s) ∧
        (s.hostWaits t.func a.space a.addr a.size = false →
          ((s.pages t.func a.space a.addr a.size).filterMap (s.lockFault t a) = [] → exec (.tlockComplete id) s =
            .next (State.setCtx (State.prepareReads t id a.space s (s.lockNow (id / 4) promised now)) id
              { s.ctx id with wait := none, locks := (s.ctx id).locks ++ [⟨a.space, a.addr, a.size, s.lockNow (id / 4) promised now⟩] })) ∧
          (∀ e es, (s.pages t.func a.space a.addr a.size).filterMap (s.lockFault t a) = e :: es → exec (.tlockComplete id) s =
            .next ((s.setCtx id { s.ctx id with wait := none }).addLate t.tid ⟨e.1, BitVec.ofNat 64 e.2, pc, iss, [], false⟩))) ∧
        (∀ p ∈ s.lockNow (id / 4) promised now, p ∈ now) ∧ (∀ p ∈ now, p ∈ promised → p ∈ s.lockNow (id / 4) promised now) ∧
        ((s.lockNow (id / 4) promised now).filter fun p => decide (p ∉ promised)).length ≤ 32 - s.lockedEntries (id / 4)) ∧
      (∀ sc, (s.ctx id).wait = some (.fence sc) →
        (s.fenceReady id sc = false ∨ s.yields id = true → exec (.fenceComplete id) s = .next s) ∧
        (s.fenceReady id sc = true → s.yields id = false → (s.ctx id).late = none → (∀ r ∈ s.rejects, r.tid = t.tid → sc < r.scope) →
          exec (.fenceComplete id) s = .next ((s.setCtx id { s.ctx id with wait := none }).coverWrites id (s.ctx id).iss))) ∧
      (∀ q, (s.ctx id).wait = some (.qfence q) → exec (.qfenceComplete id) s =
        .next (if s.queuesDone id q then State.setCtx (s.coverQueues id (s.ctx id).iss q) id { s.ctx id with wait := none }
          else s))) ∧
    (∀ h n, (s.ctx id).wait = some (.cbC h n) → exec (.cbwaitComplete id) s =
      .next (if n ≤ ((s.ctx id).land.hr h).filled then State.setCtx (s.coverSlots id ((s.ctx id).land.hr h) n) id { s.ctx id with wait := none }
        else s)) ∧
    (∀ h n, (s.ctx id).wait = some (.cbP h n) → exec (.cbwaitComplete id) s =
      .next (if (n : Int) ≤ ((s.ctx id).land.hr h).room then s.setCtx id { s.ctx id with wait := none } else s)) ∧
    (∀ l1 slot g, Table.find s.groups slot = some g → g.l1 = l1 → g.draining = true → s.groupBusy slot = false →
      (∀ a ∈ s.atoms, a.op = .gleave → a.a ≠ g.acc) →
      exec (.groupDrainComplete l1 slot) s = .next { s with groups := Table.del s.groups slot }) ∧
    (∀ core w ws, core < s.coreCount → (s.core core).owner = none → (s.core core).queue = [] → (s.core core).waiters = w :: ws →
      (s.ctx w).wantsArray = true → (s.ctx w).preempt ≠ .out → (∀ x ∈ ws, (s.ctx x).wantsArray = true ∧ (s.ctx x).preempt ≠ .out) →
      ∀ u, u = State.acquire (s.setCore core { s.core core with waiters := ws }) w →
        exec (.arrayAcquire core) s = .next (if (s.ctx w).preempt = .entering then u.comeBack w else u)) ∧
    (∀ core, core < s.coreCount → 256 ≤ (s.core core).escape → s.deadlocked core = true →
      (∀ i, i < core % 8 → s.escapeDue (core / 8 * 8 + i) = false) → exec (.cbEscape core) s = .next (s.escape core)) ∧
    (∀ core, core < s.coreCount → (s.core core).escape < 256 → exec (.cbEscape core) s = .next s)

/-- The queue of the array (R306, R314–R323, R325, R327, R364, R379). That a step which may not be taken leaves the state as it is, is the
model's choice (DESIGN CHOICE, log entry 16); that XDRAIN's step reads the row again is its reading (DEDUCED, log entry 24). -/
def Obligations.MatrixQueue : Prop :=
  ∀ (s s1 : State) (core : Nat) (e : XEntry) (q : List XEntry) (k : Core), core < s.coreCount → (s.core core).queue = e :: q →
    k = { s.core core with queue := q } → s1 = s.setCore core k →
    (s.entryWaits e = false → s.haltedFor e.tid = false →
      (∀ rows rb, e.op = .pushA rows rb → (∀ a ∈ rows, s1.ownStore e.ctx e.iss (bufPlaces core 3 a rb) = false) →
        exec (.xpushAPerform core) s = .next (s1.setCore core { k with fifo := k.fifo ++ s1.pushedRows core rb rows })) ∧
      (∀ off n pm wb keys, e.op = .pushW off n pm wb keys → s1.ownStore e.ctx e.iss (bufPlaces core 4 off (4 * wb * ones 8 pm)) = false →
        exec (.xpushWPerform core) s = .next (s1.setCore core { k with
          shadow := setColumn n (columnCells wb pm
            ((bufPlaces core 4 off (4 * wb * ones 8 pm)).map (s1.weightByte core keys)) 8 0) k.shadow })) ∧
      (e.op = .flip → exec (.xflipPerform core) s = .next (s1.setCore core { k with active := k.shadow, shadow := k.active })) ∧
      (∀ seg v, e.op = .scl seg v → exec (.xsclPerform core) s = .next (s1.setCore core { k with
          scales := (List.range 256).foldl (fun t n => Table.set t (256 * seg + n) (v.extractLsb' (8 * n) 8).toNat) k.scales })) ∧
      (∀ wa r rs, e.op = .shift wa → k.fifo = r :: rs →
        exec (.xshiftPerform core) s = .next (s1.setCore core { k with fifo := rs, banks := k.banks ++ [partials k.active r] })) ∧
      (∀ t m pair kstep sl ea b bs out h0 h1, e.op = .acc t m pair kstep sl ea → k.banks = b :: bs →
        h0 = (if sl then k.header t else accMarks (k.header t) m ea k.scales) →
        h1 = { h0 with ovf := (k.header t).ovf || out.any (·.2) } →
        s1.ownStore e.ctx e.iss (rowPlaces core t m) = false →
        out = accRow (k.header t) sl ea k.scales b (s1.tileRow (arrayViewer core) core t m) →
        exec (.xaccPerform core) s = .next (State.logSat (State.withTask (State.tagGranules (State.writeEngine
          (State.noteRow (s1.setCore core { k with banks := bs, hdr := Table.set k.hdr t h1 }) core e (rowPlaces core t m))
          e.tid e.ctx e.iss 0 0 ((rowPlaces core t m).zip (out.flatMap fun x => leBytes 4 (wrap 32 x.1))))
          core (s.funcOf e.tid) 5 (rowBase t m) 1024)
          e.tid fun c => { c with mpc := mpcWord c.mpc m pair kstep }) e.tid core (out.any (·.2)))) ∧
      (∀ t m p eo mode vd due, e.op = .drain t m p eo mode vd due → s1.ownStore e.ctx e.iss (rowPlaces core t m) = false →
        exec (.xdrainPerform core) s = .next (s1.withTask e.tid fun c => if e.iss ∈ c.drains then { c with
          pend := setPending due vd (drainValue (k.header t) (s1.tileRow (arrayViewer core) core t m) m p eo mode) c.pend
          drains := c.drains.filter fun n => decide (n ≠ e.iss) } else c)) ∧
      (∀ t wa wb sl b, e.op = .zero t wa wb sl → b = flatC core + 0x40000 * t →
        exec (.xzeroPerform core) s = .next (State.tagGranules (State.writeChip (s1.setCore core { k with
          hdr := Table.set k.hdr t ⟨(k.header t).et, wa, wb, sl, false, 0, 0⟩
          undo := k.undo.map fun u => { u with cells := u.cells.filter fun c => decide (c.1 < b) || decide (b + 0x40000 ≤ c.1) } }) 0
        (cellsAt b (List.replicate 0x40000 0))) core (s.funcOf e.tid) 5 (0x40000 * t) 0x40000)) ∧
      (∀ t et, e.op = .sete t et → exec (.xsetePerform core) s =
        .next (s1.setCore core { k with hdr := Table.set k.hdr t { k.header t with et := et } })) ∧
      (∀ t, e.op = .clrf t → exec (.xclrfPerform core) s =
        .next (s1.setCore core { k with hdr := Table.set k.hdr t { k.header t with ovf := false, rows := 0, cols := 0 } })) ∧
      (∀ t col i w, e.op = .mark t col i w → exec (.xmarkPerform core) s = .next (s1.setCore core { k with
        hdr := Table.set k.hdr t
          (if col then { k.header t with cols := (k.header t).cols ||| (w.setWidth 256 <<< (64 * i)) }
            else { k.header t with rows := (k.header t).rows ||| (w.setWidth 256 <<< (64 * i)) }) })) ∧
      (e.op = .cfg → exec (.xcfgPerform core) s =
        .next ((s1.setCore core { k with active := [], shadow := [], scales := [] }).withTask e.tid fun c => { c with mpc := 0 }))) ∧
    (∀ p ∈ ([(Instr.xpushAPerform core, fun o => match o with | .pushA _ _ => true | _ => false),
        (Instr.xpushWPerform core, fun o => match o with | .pushW _ _ _ _ _ => true | _ => false),
        (Instr.xflipPerform core, fun o => match o with | .flip => true | _ => false),
        (Instr.xsclPerform core, fun o => match o with | .scl _ _ => true | _ => false),
        (Instr.xshiftPerform core, fun o => match o with | .shift _ => true | _ => false),
        (Instr.xaccPerform core, fun o => match o with | .acc _ _ _ _ _ _ => true | _ => false),
        (Instr.xdrainPerform core, fun o => match o with | .drain _ _ _ _ _ _ _ => true | _ => false),
        (Instr.xzeroPerform core, fun o => match o with | .zero _ _ _ _ => true | _ => false),
        (Instr.xsetePerform core, fun o => match o with | .sete _ _ => true | _ => false),
        (Instr.xclrfPerform core, fun o => match o with | .clrf _ => true | _ => false),
        (Instr.xmarkPerform core, fun o => match o with | .mark _ _ _ _ => true | _ => false),
        (Instr.xcfgPerform core, fun o => match o with | .cfg => true | _ => false)] : List (Instr × (XOp → Bool))),
      (s.entryWaits e = true ∨ s.haltedFor e.tid = true ∨ p.2 e.op = false → exec p.1 s = .next s)) ∧
    (∀ rows rb, e.op = .pushA rows rb → (∃ a ∈ rows, s1.ownStore e.ctx e.iss (bufPlaces core 3 a rb) = true) →
      exec (.xpushAPerform core) s = .next s) ∧
    (∀ off n pm wb keys, e.op = .pushW off n pm wb keys → s1.ownStore e.ctx e.iss (bufPlaces core 4 off (4 * wb * ones 8 pm)) = true →
      exec (.xpushWPerform core) s = .next s) ∧
    (∀ wa, e.op = .shift wa → k.fifo = [] → exec (.xshiftPerform core) s = .next s) ∧
    (∀ t m pair kstep sl ea, e.op = .acc t m pair kstep sl ea → k.banks = [] ∨ s1.ownStore e.ctx e.iss (rowPlaces core t m) = true →
      exec (.xaccPerform core) s = .next s) ∧
    (∀ t m p eo mode vd due, e.op = .drain t m p eo mode vd due → s1.ownStore e.ctx e.iss (rowPlaces core t m) = true →
      exec (.xdrainPerform core) s = .next s)
/-! ### The pod fabric -/

/-- Remote operations of this package and heads from others (R87, R334, R341–R346, R349, R365–R369, R397–R399). The package's own port and
the heap pages it maps are the model's choice (log entries 38 and 51). -/
def Obligations.FabricOperations : Prop :=
  (∀ (s : State) (n : Nat) (o : Out) (j : Job) (t : Machine.Task) (rows : List Out) (ls : List Leg), s.findOut n = some o →
    s.jobOfTid o.op.tid = some j → s.taskOf o.op.tid = some t → rows = (s.outs.filter fun x => decide (x.op.batch = o.op.batch)) →
    (rows.head?.map fun x => x.op.id) = some n → ls = (rows.flatMap fun x => j.legs x.op) → o.stage ≠ .sent → s.entryFree j o ls = true →
    (∀ x xs, (rows.filter fun x => (j.legs x.op).isEmpty) = x :: xs →
      exec (.remoteChannelEntry n) s = .next ((x :: xs).foldl (fun u y => u.loseOp j y) s)) ∧
    ((rows.filter fun x => (j.legs x.op).isEmpty) = [] →
      (j.held ls = true → exec (.remoteChannelEntry n) s = .next (if o.kept then s else s.holdRows j ls rows)) ∧
      (j.held ls = false →
        (∀ e, s.rowPlaces t j rows = .error e → exec (.remoteChannelEntry n) s = .next (s.dropRows t o rows e)) ∧
        ∀ rs spots, s.rowPlaces t j rows = .ok rs → spots = (rs.flatMap fun r => r.2.filterMap fun x => x) →
          s.ownStore o.op.ctx o.op.iss spots = false → s.spcLocked spots = false →
          exec (.remoteChannelEntry n) s = .next (State.enterChannel ((rows.filter (·.op.reads)).foldl
            (fun u x => State.prepareReads t x.op.ctx x.op.lspace u (chunks x.op.laddr x.op.len)) s) j n t.func
            (rs.map fun r => ⟨r.1, j.legs r.1.op, r.2.filterMap fun x => x,
              r.2.map (s.seePlace (engineViewer o.op.ctx (decide (r.1.op.lspace = 3))) r.1.op.lkey)⟩))))) ∧
  (∀ (s s1 s2 : State) (j : Job) (n func : Nat) (rows : List Row1), (s.sendRows j rows).isSome = true →
    s.payBoth n func (rows.map fun r => hbmTokens r.spots).sum (rows.map fun r => r.flits).sum = (s1, true) →
    s1.sendRows j rows = some s2 →
    s.enterChannel j n func rows = rows.foldl (fun u r => u.setOut { r.out with
      stage := .sent, data := r.data, legs := r.legs, job := j.job.toNat, srank := j.myrank, spkg := j.ownPkg }) s2) ∧
  (∀ (s u : State) (n : Nat) (o : Out) (l : Leg) (d : Job) (e : Nat),
    (s.ownHead n .put = some (o, l) →
      (s.portCheck l.part o.jobNo o.op.hoff o.op.len segPUT true = .ok d →
        s.portWaits ((s.heapPlaces d o.op.hoff o.op.len).filterMap fun x => x) true = false →
        s.pay n d.func .memory (heapTokens (d.heapBase + o.op.hoff) o.data.length) = (u, true) →
        exec (.put (.chan n)) s = .next ((u.heapWrite d o.op.hoff o.data).setOut (o.setLeg l .performed))) ∧
      (s.portCheck l.part o.jobNo o.op.hoff o.op.len segPUT true = .error e →
        exec (.put (.chan n)) s = .next (s.rejectOwn o l o.op.len e false))) ∧
    (s.ownHead n .putf = some (o, l) →
      (s.portCheck l.part o.jobNo o.op.hoff o.op.len segPUT true = .error e →
        exec (.putf (.chan n)) s = .next (s.rejectOwn o l o.op.len e false)) ∧
      (s.portCheck l.part o.jobNo o.op.hoff o.op.len segPUT true = .ok d →
        (∀ d1, s.portCheck l.part o.jobNo (o.op.flag.getD 0) 8 segFLAG true = .ok d1 →
          s.portWaits ((s.heapPlaces d o.op.hoff o.op.len).filterMap fun x => x) true = false →
          s.pay n d.func .memory (heapTokens (d.heapBase + o.op.hoff) o.data.length) = (u, true) →
          exec (.putf (.chan n)) s = .next (
            if s.spoiled.contains (o.spkg, o.op.ctx, o.op.batch) then (u.heapWrite d o.op.hoff o.data).setOut (o.setLeg l .performed)
            else State.noteFlag ((u.heapWrite d o.op.hoff o.data).setOut (o.setLeg l .flag)) (.chan n) d (o.op.flag.getD 0) o.op.scope
              o.op.addend l.mirror)) ∧
        (s.portCheck l.part o.jobNo (o.op.flag.getD 0) 8 segFLAG true = .error e →
          exec (.putf (.chan n)) s = .next (s.rejectOwn o l o.op.len e true)))) ∧
    (s.ownHead n .semadd = some (o, l) → s.releaseReady o.op = true →
      (s.portCheck l.part o.jobNo o.op.hoff 8 segSEM true = .ok d →
        s.portWaits (s.wordPlaces d.func (d.heapBase + o.op.hoff)) true = false → s.pay n d.func .memory 2 = (u, true) →
        exec (.semadd (.chan n)) s = .next ((u.heapAdd d.func (d.heapBase + o.op.hoff) 2 o.op.addend o.op.tid o.op.ctx o.op.iss
          (s.releaseNeed o.op)).setOut (o.setLeg l .performed))) ∧
      (s.portCheck l.part o.jobNo o.op.hoff 8 segSEM true = .error e →
        exec (.semadd (.chan n)) s = .next (s.rejectOwn o l 8 e false))) ∧
    (s.ownHead n .pull = some (o, l) →
      (s.portCheck l.part o.jobNo o.op.hoff o.op.len segPULL false = .ok d →
        s.spcLocked ((s.heapPlaces d o.op.hoff o.op.len).filterMap fun x => x) = false →
        s.pay n d.func .memory (placeTokens (s.heapPlaces d o.op.hoff o.op.len)) = (u, true) →
        exec (.pullreq (.chan n)) s = .next (u.setOut { o.setLeg l .performed with data := s.heapRead d o.op.hoff o.op.len })) ∧
      (s.portCheck l.part o.jobNo o.op.hoff o.op.len segPULL false = .error e →
        exec (.pullreq (.chan n)) s = .next (s.rejectOwn o l o.op.len e false)))) ∧
  (∀ (s : State) (h : Head) (d : Job) (e : Nat), s.inTurn h = true →
    (s.portCheck h.part h.job h.hoff h.len segPUT true = .ok d →
      exec (.put (.wire h)) s = .next ((State.heapWrite (s.payHead h .put).1 d h.hoff (h.data.take h.len)).answer h 0 []) ∧
      ((∀ f ∈ s.flags, f.src ≠ .wire h) →
        (∀ d1, s.portCheck h.part h.job h.flag 8 segFLAG true = .ok d1 → exec (.putf (.wire h)) s = .next (
          if s.spoiled.contains (h.srcPkg, h.srcCtx, h.batch) then
            (State.heapWrite (s.payHead h .putf).1 d h.hoff (h.data.take h.len)).answer h 0 []
          else (State.heapWrite (s.payHead h .putf).1 d h.hoff (h.data.take h.len)).noteFlag (.wire h) d h.flag h.scope h.addend false)) ∧
        (s.portCheck h.part h.job h.flag 8 segFLAG true = .error e →
          exec (.putf (.wire h)) s = .next (s.rejectHead h .putf h.flag 8 e true)))) ∧
    (s.portCheck h.part h.job h.hoff h.len segPUT true = .error e →
      exec (.put (.wire h)) s = .next (s.rejectHead h .put h.hoff h.len e false) ∧
      ((∀ f ∈ s.flags, f.src ≠ .wire h) → exec (.putf (.wire h)) s = .next (s.rejectHead h .putf h.hoff h.len e false))) ∧
    (s.portCheck h.part h.job h.hoff 8 segSEM true = .ok d →
      exec (.semadd (.wire h)) s =
        .next ((State.heapAdd (s.payHead h .semadd).1 d.func (d.heapBase + h.hoff) 2 h.addend 0 0 0 []).answer h 0 [])) ∧
    (s.portCheck h.part h.job h.hoff 8 segSEM true = .error e →
      exec (.semadd (.wire h)) s = .next (s.rejectHead h .semadd h.hoff 8 e false)) ∧
    (s.portCheck h.part h.job h.hoff h.len segPULL false = .ok d →
      exec (.pullreq (.wire h)) s = .next (State.answer (s.payHead h .pull).1 h 0 (s.heapRead d h.hoff h.len))) ∧
    (s.portCheck h.part h.job h.hoff h.len segPULL false = .error e →
      exec (.pullreq (.wire h)) s = .next (s.rejectHead h .pull h.hoff h.len e false))) ∧
  (∀ (s s0 u : State) (n : Nat) (f : FlagAdd), s.flags.find? (fun x => decide (x.id = n)) = some f →
    s.portWaits (s.wordPlaces f.func f.va) true = false → s.pay n f.func .memory 2 = (u, true) →
    s0 = { u with flags := u.flags.filter fun x => decide (x.id ≠ n) } →
    (∀ h, f.src = .wire h → exec (.putfFlagAdd n) s = .next ((s0.heapAdd f.func f.va f.scope f.addend 0 0 0 []).answer h 0 [])) ∧
    (∀ (m : Nat) (o : Out) (l : Leg), f.src = .chan m → s.findOut m = some o → s.releaseReady o.op = true →
      o.legs.find? (fun x => x.here && decide (x.state = .flag) && decide (x.mirror = f.mirror)) = some l →
      exec (.putfFlagAdd n) s = .next ((s0.heapAdd f.func f.va f.scope f.addend o.op.tid o.op.ctx o.op.iss (s.releaseNeed o.op)).setOut
        (o.setLeg l .performed)))) ∧
  (∀ (s v : State) (n port : Nat) (o : Out) (l : Leg) (t : Machine.Task) (bs : List Byte),
    v = s.verified port (1 + (bs.length + 63) / 64) → s.findOut n = some o → o.op.kind = .pull →
    o.stage = .sent → o.legs = [l] → s.taskOf o.op.tid = some t →
    (l.here = false → l.state ≠ .performed →
      exec (.pulldata ⟨n, port⟩ bs) s = .next (v.setOut { o.setLeg l .performed with data := bs })) ∧
    (l.state = .performed →
      (o.nextBeat = none → v.outBarWaits o.op false = false →
        exec (.pulldata ⟨n, port⟩ bs) s = .next ((v.dropOut o.op.id).outBar o.op false)) ∧
      (∀ a ds ls s1, o.nextBeat = some (a, ds) → State.writePlaces t o.op.ctx o.op.lspace v (chunks a ds.length) = .ok (ls, s1) →
        v.spcLocked ls = false → v.hostWaits t.func o.op.lspace a ds.length = false →
        exec (.pulldata ⟨n, port⟩ bs) s = .next (State.setOut (State.tagGranules (s1.writeChip o.op.lkey (ls.zip ds)) (coreOf o.op.ctx) t.func
          o.op.lspace a ds.length) { o with written := o.written + ds.length })))) ∧
  (∀ (s v w : State) (n r e port : Nat) (o : Out) (l : Leg), s.findOut n = some o → o.leg r = some l → o.stage = .sent →
    v = s.verifyAnswer port (ackKey n r) → w = s.verifyAnswer port (nackKey n r e) →
    (o.op.kind ≠ .pull → (l.here = true → l.state = .performed) → v.outBarWaits o.op false = false →
      exec (.ack ⟨n, port⟩ r) s = .next (v.settleOut { o.dropLeg l with done := true }) ∧
      (o.legs = [l] → o.nack = false → exec (.ack ⟨n, port⟩ r) s = .next ((v.dropOut o.op.id).outBar o.op false))) ∧
    ((l.here = true → l.state = .rejected e) → w.outBarWaits o.op true = false →
      exec (.nack ⟨n, port⟩ r e) s = .next (w.settleOut { o.dropLeg l with nack := true }) ∧
      (o.legs = [l] → ∃ u, exec (.nack ⟨n, port⟩ r e) s = .next u ∧
        u.rejects = ((w.dropOut o.op.id).outBar o.op true).rejects ++
          [⟨o.op.tid, o.op.ctx, o.op.iss, o.op.scope, o.op.hoff, o.op.rank, false, o.op.id⟩]))) ∧
  (∀ (s : State) (n r e port : Nat) (bs : List Byte), s.findOut n = none →
    exec (.ack ⟨n, port⟩ r) s = .next (s.verifyAnswer port (ackKey n r)) ∧
    exec (.nack ⟨n, port⟩ r e) s = .next (s.verifyAnswer port (nackKey n r e)) ∧
    exec (.pulldata ⟨n, port⟩ bs) s = .next (s.verified port (1 + (bs.length + 63) / 64)) ∧
    (port < 16 → (s.verified port n).ports = Table.set s.ports port { s.port port with fails := 0, rx := (s.port port).rx + n }))

/-- Management of ranks, links, pages and the host's accesses (R91, R97, R212, R218–R227, R338–R340, R345–R349, R352, R354, R418, R439). The model's
choices, in log entries 28, 32, 38, 42 and 52: the discard status, the window numbers, lost ranks, late responses, raw addresses. -/
def Obligations.FabricManagement : Prop :=
  (∀ (s : State) (l1 job rank : Nat) (v w : BitVec 64) (j : Job), l1 < 16 → job < 4 → rank < 1024 → j = s.job l1 job →
    w = v &&& ~~~0x3FFFFC000 →
    (∃ u, exec (.rankEntryWrite l1 job rank v) s = .next u ∧
      u.jobs = Table.set s.jobs (4 * l1 + job) { j with
        ranks := Table.set j.ranks rank w
        lost := j.lost.filter fun x => decide (x ≠ rank)
        reported := j.reported.filter fun x => decide (x ≠ rank) } ∧
      ((rankEntry w).ports ≠ 0 → u.outs = s.outs ∧ u.mem = s.mem ∧ u.ctxs = s.ctxs) ∧
      ((rankEntry w).ports = 0 → u = (s.setJob l1 job (u.job l1 job)).loseRank l1 job (u.job l1 job) rank)) ∧
    ((j.rank rank).hold = true → rank ∉ j.reported →
      (∀ o ∈ s.outs, o.stage = .sent → (∃ l ∈ o.legs, l.rank = rank) → s.inJob l1 job o = false) →
      exec (.holdDrainReport l1 job rank) s = .next (s.setJob l1 job { j with reported := j.reported ++ [rank] })) ∧
    ∃ k u, exec (.rankLost l1 job rank) s = .next u ∧ rank ∈ k.lost ∧ k.ranks = j.ranks ∧ u = (s.setJob l1 job k).loseRank l1 job k rank ∧
      u.jobs = (s.setJob l1 job k).jobs) ∧
  (∀ (s : State) (j : Job) (rank : Nat) (o q : Out), q = { o with legs := o.legs.filter fun l => decide (l.rank ≠ rank) } →
    (o.stage = .sent → (∀ l ∈ o.legs, l.rank ≠ rank) → s.loseOut j rank o = s) ∧
    (o.stage = .sent → o.op.kind ≠ .pull → (∃ l ∈ o.legs, l.rank = rank) →
      (q.legs ≠ [] → s.loseOut j rank o = s.setOut q) ∧
      (q.legs = [] → o.nack = false → o.done = false → ∃ u, s.loseOut j rank o = u ∧ u = s.failOut o.op true ∧
        u.rejects = ((s.dropOut o.op.id).outBar o.op true).rejects ++
          [⟨o.op.tid, o.op.ctx, o.op.iss, o.op.scope, o.op.hoff, o.op.rank, true, o.op.id⟩])) ∧
    (o.stage = .sent → o.op.kind = .pull → (∃ l ∈ o.legs, l.rank = rank ∧ l.state ≠ .performed) → j.legs o.op ≠ [] →
      s.loseOut j rank o = s.setOut { o with stage := .queue, legs := [], data := [] }) ∧
    (o.stage ≠ .sent → rank ∈ j.targets o.op → j.legs o.op = [] →
      s.loseOut j rank o = if o.op.kind = .pull ∧ (j.mirrorOf o.op).isSome then s.failPull o.op 0x23 o.op.laddr else s.failOut o.op true) ∧
    (o.stage ≠ .sent → j.legs o.op ≠ [] → s.loseOut j rank o = s)) ∧
  (∀ (s : State) (p : Nat), p < s.portTotal →
    (∀ n, (2 ≤ (s.port p).fails → (s.port p).up = true → exec (.flitTagFail ⟨p, n⟩) s = .next (s.setPort p { s.port p with
        again := (s.port p).again + n, up := false, fails := 3, downAt := s.time })) ∧
      ((s.port p).fails < 2 →
        ((s.port p).up = true → (s.port p).flits + ((s.port p).again + n) < 2 ^ 48 → exec (.flitTagFail ⟨p, n⟩) s = .next (s.setPort p
          { s.port p with fails := (s.port p).fails + 1, rx := (s.port p).rx + 1, flits := (s.port p).flits + ((s.port p).again + n), again := 0 })) ∧
        ((s.port p).up = false ∨ 2 ^ 48 ≤ (s.port p).flits + ((s.port p).again + n) → exec (.flitTagFail ⟨p, n⟩) s = .next (s.setPort p
          { s.port p with fails := (s.port p).fails + 1, rx := (s.port p).rx + 1, again := (s.port p).again + n })))) ∧
    exec (.linkRekey p) s = .next (s.setPort p { s.port p with flits := 0, rx := 0 }) ∧
    exec (.linkReturn p) s = .next (s.setPort p { s.port p with up := true, fails := 0, flits := 0, rx := 0 })) ∧
  (∀ (s : State) (f page : Nat) (g : BitVec 6) (e : BitVec 3),
    ((∀ r ∈ s.requests, ¬ (r.1 = f ∧ r.2.1 = page ∧ r.2.2.1 = g.toNat ∧ r.2.2.2 % 8 = e.toNat)) → ∀ ok,
      exec (.pageRequestResponse f page g e ok) s = .next (s.setPart f { s.part f with stale := ((s.part f).stale + 1) % 2 ^ 32 })) ∧
    (∀ r ∈ s.requests, r.1 = f → r.2.1 = page → r.2.2.1 = g.toNat → r.2.2.2 % 8 = e.toNat →
      ∃ u, exec (.pageRequestResponse f page g e true) s = .next u ∧ r ∉ u.requests ∧ (f, page) ∉ u.hostGone ∧ (f, page) ∉ u.hostBad ∧
        u.mem = s.mem ∧ u.ctxs = s.ctxs) ∧
    ∃ u, exec (.hostTranslationInvalidate f page) s = .next u ∧ (f, page) ∈ u.hostGone ∧ u.mem = s.mem ∧ u.ctxs = s.ctxs ∧
      ∀ n, s.leaseOn f page = some n → ∃ r ∈ u.requests, r.1 = f ∧ r.2.1 = page) ∧
  (∀ (s : State) (f a n : Nat) (bs : List Byte),
    (s.monitor.started = true → (s.part f).state = 1 → exec (.hostWrite f 0 a bs) s = .next (State.spinPut f 0 none s (chunks a bs.length) bs) ∧
      exec (.hostRead f 0 a n) s = .next { s with hostOut := s.memoryWindow f a n }) ∧
    (s.monitor.started = false ∨ (s.part f).state ≠ 1 → exec (.hostWrite f 0 a bs) s = .next s ∧
      exec (.hostRead f 0 a n) s = .next { s with hostOut := List.replicate n 0 }) ∧
    (s.monitor.started = false ∨ (s.part f).state = 0 → exec (.hostRead f 2 a n) s = .next { s with hostOut := List.replicate n 0 }) ∧
    exec (.hostWrite f 1 a bs) s = .next (s.writeChip 0 (cellsAt (flatHost + a) bs)) ∧
    exec (.hostRead f 1 a n) s = .next { s with hostOut := s.seeAll chipViewer 0 ((List.range n).map (flatHost + a + ·)) } ∧
    (2 ^ 57 ≤ a → a < 2 ^ 64 → exec (.hostRead f 11 a n) s = .next { s with fwStatus := 0x15 }) ∧
    (a + n ≤ 2 ^ 39 → exec (.hostRead f 11 a n) s = .next { s with hostOut := s.seeAll chipViewer 0 ((List.range n).map (a + ·)) }) ∧
    exec (.hostRead f 14 a n) s = .next { s with
      hostOut := (List.range n).map fun i => (leBytes 128 ((s.part f).descriptor true).toNat).getD (a + i) 0 }) ∧
  (∀ (s : State) (f sp va : Nat), s.translating f = false →
    (∃ u, exec (.shootdown f sp va) s = .next u ∧ u.mem = s.mem ∧ u.ptes = s.ptes ∧
      (∀ c ∈ u.clusters, ∀ e ∈ c.2.tlb, e.1 = f → e.2.1 = rootSpace sp → pageHolds e.2.2 va = false) ∧
      (∀ c ∈ u.cores, ∀ e ∈ c.2.tlb, e.1 = f → e.2.1 = rootSpace sp → pageHolds e.2.2 va = false) ∧
      (∀ c ∈ u.ctxs, ∀ t, c.2.task = some t → t.func = f → ∀ k ∈ c.2.locks, rootSpace k.space = rootSpace sp →
        ∀ p ∈ k.pages, pageHolds p va = false) ∧
      (∀ c ∈ s.cores, ∀ e ∈ c.2.tlb, pageHolds e.2.2 va = false → ∃ d ∈ u.cores, d.1 = c.1 ∧ e ∈ d.2.tlb)) ∧
    (∀ l, s.leaf f 0 va = some l → ∃ u, exec (.dirtyHarvest f va) s = .next u ∧ u.fwStatus = field l.pte 8 8 ∧
      u.ptes = Table.set s.ptes l.key (setField l.pte 8 8 0) ∧ u.mem = s.mem)) ∧
  (∀ (s : State) (f va : Nat) (l : Leaf), s.leaf f 0 va = some l →
    (l.disc = true → ∃ u, exec (.discardReclaim f va) s = .next u ∧ u.fwStatus = 0 ∧
      (∀ k, k ≠ l.key → Table.get 0 u.ptes k = Table.get 0 s.ptes k) ∧ field (Table.get 0 u.ptes l.key) 4 4 = 0 ∧
      field (Table.get 0 u.ptes l.key) 7 7 = 0) ∧
    (l.disc = false → exec (.discardReclaim f va) s = .next { s with fwStatus := 1 })) ∧
  (∀ (s : State) (c : Nat), c < s.clusterCount → (s.cluster c).sweeps ≠ 0 →
    ∃ u, exec (.heatSweep c) s = .next u ∧ (u.cluster c).sweeps + 1 = (s.cluster c).sweeps ∧ u.mem = s.mem ∧
      (∀ k, (∀ f ∈ s.ownersOf c, ∀ p ∈ s.leaves f 0 ++ s.leaves f 1, p.2.key ≠ k) → Table.get 0 u.ptes k = Table.get 0 s.ptes k) ∧
      (∀ f ∈ s.ownersOf c, ∀ p ∈ s.leaves f 0 ++ s.leaves f 1, Table.get 0 u.ptes p.2.key = fade (Table.get 0 s.ptes p.2.key))) ∧
  (∀ (s : State) (a f sp l1 job i v : Nat) (n : JobField), l1 < 16 → job < 4 →
    (a + 8 ≤ 2 ^ 39 → exec (.registerWrite (.pte a) v) s = .next { s.setPte (a / 8) (BitVec.ofNat 64 v) with fwStatus := 0 }) ∧
    (2 ^ 39 < a + 8 → a < 2 ^ 57 → exec (.registerWrite (.pte a) v) s = .next { s with fwStatus := 0x22 }) ∧
    (v + 4096 ≤ 2 ^ 39 → exec (.registerWrite (.root f sp) v) s =
      .next { s with roots := Table.set s.roots (f * 2 + rootSpace sp) v, fwStatus := 0 }) ∧
    (2 ^ 39 < v + 4096 → v < 2 ^ 57 → exec (.registerWrite (.root f sp) v) s = .next { s with fwStatus := 0x22 }) ∧
    exec (.registerWrite (.jobField l1 job n) v) s = .next (s.setJob l1 job ((s.job l1 job).setField n v)) ∧
    (i < 256 → exec (.registerWrite (.segment l1 job i) v) s = .next (s.setJob l1 job { s.job l1 job with
      segs := Table.set (s.job l1 job).segs i (BitVec.ofNat 128 (v % 2 ^ 102)) })) ∧
    (∀ (r : BitVec 64) (m : Nat),
      (2 ^ 57 ≤ r.toNat → exec (.registerWrite (.raw r m) v) s = .next { s with fwStatus := 0x15 }) ∧
      (r.toNat < 2 ^ 57 → 2 ^ 39 < r.toNat + m → exec (.registerWrite (.raw r m) v) s = .next { s with fwStatus := 0x22 }) ∧
      (r.toNat + m ≤ 2 ^ 39 → exec (.registerWrite (.raw r m) v) s =
        .next { s.writeChip 0 (cellsAt r.toNat (leBytes m v)) with fwStatus := 0 })) ∧
    (∀ l va, s.leaf f 0 va = some l → l.framed = true → ∃ u, exec (.registerWrite (.zeroPage f va) v) s = .next u ∧ u.fwStatus = 0 ∧
      ∀ x, l.flat 0 (va / l.size * l.size) ≤ x → x < l.flat 0 (va / l.size * l.size) + l.size → u.mem.read x = 0))
/-! ### Spindle and the arbiter -/

/-- Launch slots, walks and nodes (R60–R68, R70, R71, R87, R352). What Spindle pays, and which generation a node's page request takes, is the
model's choice (log entries 26 and 30). -/
def Obligations.WalkSteps : Prop :=
  (∀ (s : State) (f : Nat) (q : SlotRef) (v : BitVec 64) (x y : Slot), slotExists q = true → s.monitor.update ≠ .trial → x = s.slot q →
    slotFunc q x = f → (s.part f).state = 1 →
    exec (.launchSlotWrite f q 1 v) s = .next (s.setSlot q { x with thresh := v.toNat }) ∧
    (x.en = true →
      (∀ w ∈ [0, 2, 3, 5], exec (.launchSlotWrite f q w v) s = .next s) ∧
      exec (.launchSlotWrite f q 4 v) s = .next (s.setSlot q { x with en := v.getLsbD 31 })) ∧
    (x.en = false →
      exec (.launchSlotWrite f q 0 v) s = .next (s.setSlot q { x with flag := v.toNat }) ∧
      exec (.launchSlotWrite f q 2 v) s = .next (s.setSlot q { x with step := v.toNat }) ∧
      exec (.launchSlotWrite f q 3 v) s = .next (s.setSlot q { x with graph := v.toNat }) ∧
      exec (.launchSlotWrite f q 5 v) s = .next (s.setSlot q { x with inst := v.toNat, walks := 0 }) ∧
      (v.getLsbD 31 = true → y = { x with start := field v 63 48, nodes := field v 47 32, en := true, enerr := 0 } →
        (s.enError q y = 0 → exec (.launchSlotWrite f q 4 v) s = .next (s.setSlot q y)) ∧
        (s.enError q y ≠ 0 → exec (.launchSlotWrite f q 4 v) s = .next (s.setSlot q { x with enerr := s.enError q y })))) ∧
    (∀ g, v.toNat ≤ 8 → exec (.launchSlotWrite g q 8 v) s =
      .next { s.setSlot q { x with func := v.toNat, walks := 0 } with fwStatus := 0 })) ∧
  (∀ (s u : State) (q : SlotRef) (x : Slot) (f v : Nat) (i : Image), slotExists q = true → x = s.slot q → f = slotFunc q x →
    x.en = true → Table.find s.walks (slotKey q) = none → q.die ∉ s.quiesced → (s.part f).state = 1 → s.spinWord f x.flag 8 = some v →
    s.spinReady f x.flag = true → Table.find s.insts x.inst = some i → i.unloading = false →
    s.spinLocked f [(x.flag, 8, false)] = false →
    (x.thresh ≤ v → s.pay (walkRequest q 0xFFFF) f .memory (s.spinTokens f [(x.flag, 8, false)]) = (u, true) →
      exec (.walkStart q) s = .next (State.setWalk (u.setSlot q { x with thresh := (x.thresh + x.step) % 2 ^ 64 })
        ⟨q, f, x.inst, x.graph, x.nodes, [x.start], 0, none, []⟩)) ∧
    (v < x.thresh → exec (.walkStart q) s = .next s)) ∧
  (∀ (s u : State) (q : SlotRef) (n x v : Nat) (c : List SpinAcc) (w w1 : Walk) (d : Node), Table.find s.walks (slotKey q) = some w → n ∈ w.paths →
    q.die ∉ s.quiesced → (s.part w.func).state = 1 → w.graph + 64 * n < 2 ^ 57 → s.spinWord w.func (w.graph + 64 * n) 64 = some x → d = node x →
    w.visits + 1 < 2 ^ 24 → d.ok w.nodes = true → w1 = { w with paths := w.paths.erase n, visits := w.visits + 1 } →
    s.spinLocked w.func ((w.graph + 64 * n, 64, false) :: c) = false →
    s.pay (walkRequest w.slot n) w.func .memory (s.spinTokens w.func ((w.graph + 64 * n, 64, false) :: c)) = (u, true) →
    (d.kind = 2 → c = [(w1.workAt n, 8, true)] →
      ((d.work + 1) % 2 ^ 64 = d.a → exec (.joinNodeVisit q n) s =
        .next ((u.spinWrite w.func (w.graph + 64 * n + 56) 8 0).goOn (w1.follow [d.succ0, d.succ1]))) ∧
      ((d.work + 1) % 2 ^ 64 ≠ d.a → exec (.joinNodeVisit q n) s =
        .next ((u.spinWrite w.func (w.graph + 64 * n + 56) 8 ((d.work + 1) % 2 ^ 64)).goOn w1))) ∧
    (∀ p g i, s.nodePage w.func d.a = some p → s.pageDue w1 p = true →
      (s.leaseOn w.func p).or (s.freeGen q.l1) = some g → ((d.kind = 3 ∧ i = Instr.conditionalNodeVisit q n) ∨
        (d.kind = 4 ∧ i = .whileNodeVisit q n) ∨ (d.kind = 5 ∧ i = .flagNodeVisit q n)) →
      exec i s = .next ((s.ask w.func p g).setWalk { w with asked := if w.asked.contains p then w.asked else w.asked ++ [p] })) ∧
    (∀ w2, (∀ p, s.nodePage w.func d.a = some p → s.pageDue w1 p = false) → s.spinWord w.func d.a 8 = some v → s.spinReady w.func d.a = true →
      w2 = (match s.nodePage w.func d.a with
        | some p => { w1 with asked := w1.asked.filter fun x => decide (x ≠ p) }
        | none => w1) →
      (d.kind = 3 → c = [(d.a, 8, false)] →
        exec (.conditionalNodeVisit q n) s = .next (u.goOn (w2.follow [if v = 0 then d.succ1 else d.succ0]))) ∧
      (d.kind = 4 → c = [(d.a, 8, false), (w1.workAt n, 8, true)] →
        (v = 0 → exec (.whileNodeVisit q n) s = .next ((u.spinWrite w.func (w.graph + 64 * n + 56) 8 0).goOn (w2.follow [d.succ0]))) ∧
        (v ≠ 0 → d.work < d.b → exec (.whileNodeVisit q n) s =
          .next ((u.spinWrite w.func (w.graph + 64 * n + 56) 8 (d.work + 1)).goOn (w2.follow [d.succ1]))) ∧
        (v ≠ 0 → d.b ≤ d.work → exec (.whileNodeVisit q n) s =
          .next ((u.spinWrite w.func (w.graph + 64 * n + 56) 8 0).goOn (w2.fail n 6 d.err)))) ∧
      (d.kind = 5 → c = [(d.a, 8, false), (d.a, 8, true)] → exec (.flagNodeVisit q n) s =
        .next ((u.spinWrite w.func d.a 8 ((v + d.b) % 2 ^ 64)).goOn (w2.follow [d.succ0, d.succ1])))) ∧
    (d.kind = 1 → ∀ (i : Image) (sk : BitVec 1024) (rs : List (Nat × Nat × Nat)) (m : Nat), Table.find s.insts w.inst = some i →
      i.skeins[d.a % 2 ^ 16]? = some sk → s.skeinOk w i (d.a % 2 ^ 16) sk.toNat = true →
      leaseRanges i.roots sk.toNat (List.range (bitsAt sk.toNat 88 4)) = some rs → seedLeased i.roots (bitsAt sk.toNat 32 16) rs = true →
      m = (if bitsAt sk.toNat 29 1 = 0 then iterations (skeinDims sk.toNat) else if bitsAt sk.toNat 96 16 = 0 then
        ((List.range (4 * s.coreCount)).filter (s.part (s.tenant w.slot.l1 w.func (bitsAt sk.toNat 56 3)).1).ownsCtx).length
        else bitsAt sk.toNat 96 16) →
      d.b % 2 ^ 57 + 64 * (if d.a / 2 ^ 16 % 2 = 1 then d.a / 2 ^ 32 else m) ≤ 2 ^ 57 →
      (iterations (skeinDims sk.toNat) = 0 → c = summaryAccs d.c → exec (.skeinNodeVisit q n) s =
        .next ((u.summarise w.func d.c 0).goOn (w1.follow [d.succ0, d.succ1]))) ∧
      (iterations (skeinDims sk.toNat) ≠ 0 → c = [] → ∃ l : Launch, exec (.skeinNodeVisit q n) s =
          .next (State.setWalk { u with launches := Table.set u.launches s.fresh l, fresh := u.fresh + 1 } w1) ∧
        l.stage = .lease ∧ l.func = w.func ∧ l.inst = w.inst ∧ l.dims = skeinDims sk.toNat ∧ l.order = skeinOrder sk.toNat ∧
        l.n = iterations (skeinDims sk.toNat) ∧ l.count = m ∧ l.ranges = rs ∧ l.next = 0 ∧
        l.entry = bitsAt sk.toNat 0 16 ∧ l.root = bitsAt sk.toNat 32 16 ∧ l.node = n ∧ l.err = d.err ∧ l.succ = [d.succ0, d.succ1])) ∧
    (d.kind = 1 → ∀ i : Image, Table.find s.insts w.inst = some i → i.skeins[d.a % 2 ^ 16]? = none → c = summaryAccs d.c →
      exec (.skeinNodeVisit q n) s = .next ((u.summarise w.func d.c (2 ^ 328)).goOn (w1.fail n 1 d.err))))

/-- R64 and R69. -/
def Obligations.VisitLimitAndUnload : Prop :=
  (∀ (s : State) (q : SlotRef) (n : Nat) (w w1 : Walk) (i : Instr), Table.find s.walks (slotKey q) = some w → n ∈ w.paths →
    q.die ∉ s.quiesced → (s.part w.func).state = 1 → w.visits + 1 = 2 ^ 24 → w.failed = none → w.slot = q →
    i ∈ [Instr.joinNodeVisit q n, .conditionalNodeVisit q n, .whileNodeVisit q n, .flagNodeVisit q n, .skeinNodeVisit q n] →
    w1 = { w with paths := [], visits := 2 ^ 24, failed := some (7, n) } →
    exec i s = .next (State.settleWalk { s with walks := Table.set s.walks (slotKey q) w1 } (slotKey q)) ∧
    ((∀ p ∈ s.launches, p.2.walk ≠ slotKey q) → ∃ u, exec i s = .next u ∧ (u.slot q).lastStatus = 7 ∧ (u.slot q).lastNode = n)) ∧
  (∀ (s u : State) (q : SlotRef) (x : Slot) (v : Nat) (i : Image), slotExists q = true → x = s.slot q → x.en = true →
    Table.find s.walks (slotKey q) = none → q.die ∉ s.quiesced → (s.part (slotFunc q x)).state = 1 →
    s.spinWord (slotFunc q x) x.flag 8 = some v → s.spinReady (slotFunc q x) x.flag = true →
    x.thresh ≤ v → Table.find s.insts x.inst = some i → i.unloading = true →
    s.spinLocked (slotFunc q x) [(x.flag, 8, false)] = false →
    s.pay (walkRequest q 0xFFFF) (slotFunc q x) .memory (s.spinTokens (slotFunc q x) [(x.flag, 8, false)]) = (u, true) →
    exec (.walkStart q) s = .next (u.setSlot q { x with
      thresh := (x.thresh + x.step) % 2 ^ 64, walks := (x.walks + 1) % 2 ^ 64, lastStatus := 8, lastNode := 0xFFFF }))

/-- Leases, placement and completion (R57, R72–R77, R80–R82, R87, R113, R170, R350, R352, R419). Payment, page requests, the lowest generation and
the wait of another image's tables are the model's choices (log entries 26, 30, 36, 42). -/
def Obligations.LaunchSteps : Prop :=
  (∀ (s : State) (n g : Nat) (l : Launch), Table.find s.launches n = some l → l.stage = .lease → l.die ∉ s.quiesced → s.inService l = true →
    64 ≤ l.lease → s.freeGen l.l1 = some g →
    (∀ rs s1, s.missing l = [] → s.takeLease l g = some (rs, s1) → exec (.leaseEstablish n true) s = .next { s1 with
      launches := Table.set s1.launches n { l with lease := g, stage := .placing, seq := s1.fresh, reserve := rs }, fresh := s1.fresh + 1 }) ∧
    (s.missing l = [] → s.takeLease l g = none → exec (.leaseEstablish n true) s = .next (s.refuseLease l)) ∧
    (s.missing l = [] → exec (.leaseEstablish n false) s = .next (s.refuseLease l)) ∧
    (∀ p ∈ s.missing l, ∀ ok, ∃ u, exec (.leaseEstablish n ok) s = .next u ∧ Table.find u.launches n = some { l with lease := g } ∧
      (l.tenantFunc, p, g, (s.part l.tenantFunc).epoch) ∈ u.requests ∧
      (l.tenantFunc, p) ∈ u.hostGone ∧ (l.tenantFunc, p) ∉ u.hostBad)) ∧
  (∀ (s : State) (n : Nat) (l : Launch) (i : Image), Table.find s.launches n = some l → l.stage = .placing →
    (s.part l.l1).resident ≠ some l.inst → s.otherResident l.l1 l.inst = false → (s.turnOf l.tenantFunc).map (·.id) = some l.id →
    s.placeable l.l1 = false → Table.find s.insts l.inst = some i →
    ∃ u, exec (.routerTableLoad n) s = .next u ∧ u.part l.l1 = { s.part l.l1 with resident := some l.inst } ∧ u.mem = s.mem ∧
      u.ctxs = s.ctxs ∧ u.launches = s.launches) ∧
  (∀ (s v : State) (n id : Nat) (l : Launch) (i : Image), Table.find s.launches n = some l → s.spot l = some id →
    Table.find s.insts l.inst = some i → l.stage = .placing → l.next < l.count → (s.part l.l1).resident = some l.inst →
    (s.part l.tenantFunc).state = 1 → (s.turnOf l.tenantFunc).map (·.id) = some l.id →
    s.spinLocked l.tenantFunc (seedAccs i l) = false →
    s.pay (requestNo 2 l.id) l.tenantFunc .memory (s.spinTokens l.tenantFunc (seedAccs i l)) = (v, true) →
    ∃ u t, exec (.taskPlace n) s = .next u ∧ u.ctx id = startCtx i l t (s.ctx id) ∧ t.tid = s.fresh ∧ t.func = l.tenantFunc ∧
      t.serial = l.next ∧ t.skein = l.skein ∧ t.launch = l.id ∧ t.iters = 0 ∧ (∀ j, j ≠ id → u.ctx j = s.ctx j) ∧
      (∃ m rs, Table.find u.launches n = some { l with next := l.next + 1, launched := l.launched + 1, turn := m, reserve := rs }) ∧
      (u.ctx id).task = some t ∧ (u.ctx id).pc = BitVec.ofNat 64 (i.base + i.entries.getD l.entry 0) ∧
      (l.persist = false → ∀ d, d < 4 → (u.ctx id).gr (d + 1) = ⟨coordinate l.dims l.order l.next d, false⟩) ∧
      (l.persist = false → (u.ctx id).gr 6 = ⟨BitVec.ofNat 64 l.next, false⟩) ∧
      (u.ctx id).gr 5 = ⟨BitVec.ofNat 64 l.skein, false⟩) ∧
  (∀ (s v u : State) (core tid : Nat) (r0 r : Retire) (l l1 : Launch) (c : List SpinAcc),
    s.retire.find? (fun x => decide (x.core = core) && decide (x.task.tid = tid)) = some r0 → s.drained r0 = true →
    (s.part r0.task.func).state = 1 → r = s.withRejects r0 → Table.find s.launches r.task.launch = some l → l1 = l.count1 r →
    c = ((l.recordAt r).toList.map fun a => (a, 64, true)) → s.spinLocked l.func c = false →
    s.pay (requestNo 2 tid) l.func .memory (s.spinTokens l.func c) = (v, true) →
    u = { v with retire := v.retire.filter fun x => decide (x.task.tid ≠ tid)
                 rejects := v.rejects.filter fun x => decide (x.tid ≠ tid) } →
    (∀ a, l.recordAt r = some a → l1.normal + l1.faulted ≠ l1.count → exec (.completionRecordWrite core tid) s =
      .next { u.spinWrite l.func a 64 (r.record s.time) with
        launches := Table.set (u.spinWrite l.func a 64 (r.record s.time)).launches l.id l1 }) ∧
    (l.recordAt r = none → l1.normal + l1.faulted ≠ l1.count → exec (.completionRecordWrite core tid) s =
      .next { u with launches := Table.set u.launches l.id l1 }) ∧
    (l1.normal + l1.faulted = l1.count → ∃ x, exec (.completionRecordWrite core tid) s = .next x ∧
      Table.find x.launches l.id = some { l1 with lease := 64, reserve := [] } ∧ x.retire = u.retire) ∧
    (r.code < 256 → r.ctx < 256 → r.core < 2 ^ 24 → r.task.skein < 2 ^ 80 → r.left < 2 ^ 64 → r.task.iters < 2 ^ 64 → r.task.serial < 2 ^ 64 →
      bitsAt (r.record s.time) 0 8 = r.code ∧ bitsAt (r.record s.time) 256 64 = r.task.serial ∧
      bitsAt (r.record s.time) 384 64 = (if r.code = 0 then 0 else r.fpc.toNat) ∧
      bitsAt (r.record s.time) 448 64 = (if r.code = 0 then 0 else r.tval.toNat))) ∧
  (∀ (s u s1 : State) (n st : Nat) (l : Launch), Table.find s.launches n = some l → l.stage ≠ .lease →
    (l.stage = .placing → l.count ≤ l.normal + l.faulted) → s.inService l = true →
    s.spinLocked l.func (summaryAccs l.summ) = false →
    s.pay (requestNo 2 l.id) l.func .memory (s.spinTokens l.func (summaryAccs l.summ)) = (u, true) →
    st = (if l.stage = .failed then 3 else if l.faulted = 0 then 0 else 4) →
    s1 = u.summarise l.func l.summ (summary l.launched l.normal l.faulted l.dropped l.left l.first st) →
    (st = 0 → exec (.skeinNodeComplete n) s = .next (s1.endLaunch l (·.follow l.succ))) ∧
    (st ≠ 0 → exec (.skeinNodeComplete n) s = .next (s1.endLaunch l (·.fail l.node st l.err)))) ∧
  (∀ (s : State) (l : Launch), Table.find (s.refuseLease l).launches l.id = some { l with stage := .failed, lease := 64, reserve := [] }) ∧
  (∀ (s : State) (die : Nat), die < 2 →
    (s.monitor.update ≠ .trial →
      exec (.spindleQuiesce die) s = .next { s with quiesced := (s.quiesced.filter fun d => decide (d ≠ die)) ++ [die] } ∧
      exec (.spindleResume die) s = .next { s with quiesced := s.quiesced.filter fun d => decide (d ≠ die) }) ∧
    (s.monitor.update = .trial → exec (.spindleQuiesce die) s = .next { s with fwStatus := 2 } ∧
      exec (.spindleResume die) s = .next { s with fwStatus := 2 }))

/-- The issue arbiter (R89, R154–R157, R441); which cycles a slower clock leaves out is the model's choice (log entry 48). -/
def Obligations.ArbiterGrants : Prop :=
  (∀ (s : State) (core : Nat), core < s.coreCount → s.grant = none →
    ((s.cluster (clusterOf core)).ticks = false → exec (.arbiterCycle core) s =
      .next { s.countCycle core with turn := core + 1, ready := [], held := [] }) ∧
    ((s.cluster (clusterOf core)).ticks = true →
    ∃ u, exec (.arbiterCycle core) s = .next u ∧ u.turn = core + 1 ∧ u.ready = [] ∧ u.held = [] ∧ u.time = s.time ∧
      (∀ id, u.grant = some id → id ∈ s.ready ∧ id / 4 = core ∧ (((s.part (s.tenantOf id)).level = 1 → (s.part (s.tenantOf id)).parent ≠ s.tenantOf id) →
        (u.part (s.tenantOf id)).tused = (s.part (s.tenantOf id)).tused + 1)) ∧
      ((∃ id ∈ s.ready, id / 4 = core) → u.grant.isSome = true))) ∧
  (∀ (s : State) (k k' : Core) (ready : List Nat) (t : Nat), s.chooseTenant k ready = some (t, k') →
    (∃ id ∈ ready, s.tenantOf id = t) ∧
    ((∃ id ∈ ready, 0 < (s.part (s.tenantOf id)).weight) → 0 < (s.part t).weight) ∧
    k'.granted = k.granted ∧ k'.queue = k.queue) ∧
  (∀ (s : State) (f : Nat), ((s.part f).level ≠ 1 → (s.countIssue f).part f = { s.part f with tused := (s.part f).tused + 1 }) ∧
    ((s.part f).level = 1 → (s.part f).parent ≠ f →
      (s.countIssue f).part f = { s.part f with tused := (s.part f).tused + 1 } ∧
      (s.countIssue f).part (s.part f).parent = { s.part (s.part f).parent with tused := (s.part (s.part f).parent).tused + 1 }))
/-! ### Partitions, the monitor, images and power -/

/-- Descriptors, CREATE, refills, release and zeroing (R83–R94, R373, R418, R437, R438, R445). Overlap with created partitions only, a READY
parent and the order in which passes end are the model's choices (log entry 43). -/
def Obligations.PartitionLifecycle : Prop :=
  (∀ (s : State) (f : Nat) (d : BitVec 1024) (p n : Part), f < nFuncs → s.monitor.update ≠ .trial → p = s.part f →
    n = p.withFields d.toNat →
    (descReserved d.toNat = true → s.descOk f n = true →
      (p.state = 0 ∨ (n.mask = p.mask ∧ n.clusters = p.clusters ∧ n.level = p.level ∧ n.parent = p.parent)) →
      exec (.descriptorWrite f d) s = .next { (s.setPart f n).clearArbiters n with fwStatus := 0 }) ∧
    ((descReserved d.toNat = false ∨ s.descOk f n = false ∨ (p.state ≠ 0 ∧ n.mask ≠ p.mask)) →
      exec (.descriptorWrite f d) s = .next { s with fwStatus := 1 })) ∧
  (∀ (s : State) (f : Nat) (p : Part), f < nFuncs → s.monitor.update ≠ .trial → p = s.part f → s.descOk f p = true →
    (s.monitor.started = false → exec (.create f) s = .next s) ∧ (s.monitor.started = true →
    (p.state ≠ 0 → exec (.create f) s = .next { s with fwStatus := 1 }) ∧
    (p.state = 0 → (f < 16 ∨ (s.part (parentOf f)).state = 1) → ∃ u, exec (.create f) s = .next u ∧ u.fwStatus = 0 ∧
      u.part f = { p with
        state := 1, mtok := p.nextM, ftok := p.nextF, tbudget := p.nextT, weight := p.nextW, mleft := p.nextM
        fleft := p.nextF, tused := 0, mdebt := 0, fdebt := 0, mcarry := 0, fcarry := 0, mwant := [], fwant := []
        mwait := none, fwait := none, destroy := false } ∧
      (∀ g, g ≠ f → u.part g = s.part g) ∧ (∀ c, c < nClusters → p.clusters.getLsbD c = true → (u.cluster c).state = 0) ∧ u.mem = s.mem))) ∧
  (∀ (s : State) (p : Nat) (m : BitVec 256), p < 16 → s.monitor.update ≠ .trial →
    ((s.part p).state = 0 → (∀ g, g < 16 → g ≠ p → (s.part g).wheel &&& m = 0) →
      exec (.wheelMaskWrite p m) s = .next { s.setPart p { s.part p with wheel := m } with fwStatus := 0 }) ∧
    (((s.part p).state ≠ 0 ∨ ∃ g, g < 16 ∧ g ≠ p ∧ (s.part g).wheel &&& m ≠ 0) →
      exec (.wheelMaskWrite p m) s = .next { s with fwStatus := 1 })) ∧
  (∀ s : State, s.time % 32000 = 0 → s.refilled ≠ s.time → exec .tokenRefill s = .next { s with
    refilled := s.time, parts := s.parts.map fun p => if p.2.state = 0 then p else (p.1, p.2.refill) }) ∧
  (∀ p : Part, p.refill.mtok = p.nextM ∧ p.refill.ftok = p.nextF ∧ p.refill.tused = 0 ∧ p.refill.mleft + min p.mdebt (p.nextM / 4) = p.nextM ∧
    p.refill.mdebt + min p.mdebt (p.nextM / 4) = p.mdebt ∧ p.refill.fleft + min p.fdebt (p.nextF / 4) = p.nextF ∧
    p.refill.fdebt + min p.fdebt (p.nextF / 4) = p.fdebt ∧ p.refill.mcarry = p.refill.mdebt ∧ p.refill.fcarry = p.refill.fdebt ∧
    p.refill.state = p.state) ∧
  (∀ (s : State) (f p : Nat) (d : BitVec 1024) (m : BitVec 256) (b : Bool), s.monitor.update = .trial → f < nFuncs → p < 16 →
    exec (.descriptorWrite f d) s = .next { s with fwStatus := 2 } ∧
    (s.monitor.started = true → exec (.create f) s = .next { s with fwStatus := 2 }) ∧
    exec (.wheelMaskWrite p m) s = .next { s with fwStatus := 2 } ∧ exec (.releaseRequest f b) s = .next { s with fwStatus := 2 }) ∧
  (∀ (s : State) (f : Nat) (b : Bool), f < nFuncs → s.monitor.update ≠ .trial →
    ((s.part f).state ≠ 1 → exec (.releaseRequest f b) s = .next s ∧ exec (.functionLevelReset f) s = .next s) ∧
    ((s.part f).state = 1 → ∃ u v, exec (.releaseRequest f b) s = .next u ∧ exec (.functionLevelReset f) s = .next v ∧
      u.part f = { s.part f with state := 2, destroy := b, epoch := ((s.part f).epoch + 1) % 8, zeroed := false } ∧
      v.part f = { s.part f with state := 2, destroy := false, epoch := ((s.part f).epoch + 1) % 8, zeroed := false } ∧
      (∀ r ∈ u.requests, r.1 ≠ f) ∧ (∀ x ∈ u.slots, slotFunc (slotAt x.1) x.2 = f → x.2.en = false) ∧
      (f < 16 → ∀ g ∈ childrenOf f, (s.part g).state = 1 → (u.part g).state = 2 ∧ (v.part g).state = 2) ∧
      u.mem = s.mem ∧ u.ctxs = s.ctxs)) ∧
  (∀ (s : State) (f : Nat), f < nFuncs → (s.part f).state = 2 →
    ((∀ t ∈ s.tids f, s.stopped t = true) → ∃ u, exec (.releaseQuiesced f) s = .next u ∧ (u.part f).state = 3 ∧
      u.mem = s.mem ∧
      (∀ c ∈ u.ctxs, ∀ t, c.2.task = some t → t.func ≠ f) ∧ (∀ w ∈ u.walks, w.2.func ≠ f) ∧ (∀ l ∈ u.launches, l.2.func ≠ f)) ∧
    ((∃ t ∈ s.tids f, s.stopped t = false) → exec (.releaseQuiesced f) s = .next s)) ∧
  (∀ (s : State) (f : Nat), f < nFuncs → (s.part f).state = 3 → (s.part f).zeroed = false → (s.part f).zeroLeft = 0 →
    (f < 16 → ∀ g ∈ childrenOf f, (s.part g).state = 0) → (16 ≤ f → (s.part f).destroy = true → (s.part (parentOf f)).state = 1) →
    ∃ u, exec (.zeroingComplete f) s = .next u ∧ u.part f =
      (if (s.part f).destroy then { s.part f with state := 0, destroy := false, zeroed := false, areas := [] }
        else { s.part f with zeroed := true, areas := (s.part f).areas ++ s.lineMaps f }) ∧
      (∀ i ∈ u.insts, i.2.func ≠ f) ∧ (∀ x ∈ u.slots, slotFunc (slotAt x.1) x.2 = f → x.2 = { func := x.2.func }) ∧
      (∀ p ∈ s.ownedPages f, ∀ a, p.1 ≤ a → a < p.1 + p.2 → u.mem.read a = 0))

/-- Keys, updates and the start-up record (R98–R101, R110–R116, R438, R445). Commits bit by bit, missed heartbeats, transfers that load, and how a
move enters are the model's choices (log entries 44 and 52). -/
def Obligations.MonitorCommands : Prop :=
  (∀ (s : State) (f : Nat), f < nFuncs → (s.keySlot (1 + f)).state = 0 → ∃ u, exec (.mkeyCreate f) s = .next u ∧ u.monitor.status = 0 ∧
    u.keySlot (1 + f) = { s.keySlot (1 + f) with
      cur := s.monitor.keys, state := 1, owner := f, gen := ((s.keySlot (1 + f)).gen + 1) % 256 } ∧
    u.monitor.keys = s.monitor.keys + 1 ∧ (∀ n, n ≠ 1 + f → u.keySlot n = s.keySlot n) ∧
    ((s.part f).state = 3 ∧ (s.part f).zeroed = true ∧ (f < 16 ∨ (s.part (parentOf f)).state = 1) →
      u.part f = { s.part f with state := 1, zeroed := false, areas := [] } ∧
      ∀ p ∈ s.ownedPages f, ∀ a, p.1 ≤ a → a < p.1 + p.2 → u.mem.read a = 0) ∧
    (¬ ((s.part f).state = 3 ∧ (s.part f).zeroed = true ∧ (f < 16 ∨ (s.part (parentOf f)).state = 1)) → u.part f = s.part f ∧ u.mem = s.mem)) ∧
  (∀ (s : State) (n : Nat) (k : KeySlot), n < 256 → k = s.keySlot n →
    (s.zeroiseRefused n = false → exec (.slotZeroise n) s = .next ((s.setKeySlot n { gen := k.gen }).reply 0)) ∧
    (s.zeroiseRefused n = true → exec (.slotZeroise n) s = .next (s.reply 1)) ∧
    (∀ rs p, k.state = 1 → rs ≠ [] → rs.length ≤ 16 → firstLine rs 0 = some p →
      (145 ≤ n → k.nxt ≠ 0 → exec (.rotate n rs) s = .next ((s.setKeySlot n { k with
        state := 2, sweep := rs, prange := p.1, pline := p.2 }).reply 0)) ∧
      (n < 145 → ∃ u, exec (.rotate n rs) s = .next u ∧ u.monitor.status = 0 ∧ u.monitor.keys = s.monitor.keys + 1 ∧
        u.keySlot n = { k with nxt := s.monitor.keys, state := 2, sweep := rs, prange := p.1, pline := p.2 })) ∧
    (k.state = 2 → (k.owner = 255 ∨ (s.part k.owner).state = 1) → ∀ p s1, firstLine k.sweep 0 = some p →
      (∀ need, need = 2 * hbmTokens (if k.owner = 255 then [] else (List.range 128).map (k.pline * 128 + ·)) - k.paid →
        s.takeUpTo k.owner .memory need = (need, s1) →
        (∀ r, nextLine k.sweep k.prange k.pline = some r → exec (.rotationSweepLine n) s =
          .next ((State.reencrypt (s1.waitOver (requestNo 4 n) k.owner) n k.pline).setKeySlot n { k with prange := r.1, pline := r.2, paid := 0 })) ∧
        (nextLine k.sweep k.prange k.pline = none → exec (.rotationSweepLine n) s =
          .next ((State.reencrypt (s1.waitOver (requestNo 4 n) k.owner) n k.pline).setKeySlot n { k with
            cur := k.nxt, nxt := 0, gen := (k.gen + 1) % 256, state := 1, sweep := [], prange := 0, pline := 0, paid := 0 })))) ∧
    (∀ m, 145 ≤ n → k.state = 1 → k.release = [] → s.monitor.fuses ≤ m →
      exec (.sealedSlotTransfer n ⟨Config.romMeasurement, m⟩ none) s = .next (s.setKeySlot n { k with moving := true })) ∧
    (∀ m (x : SealedKey), 145 ≤ n → k.state = 0 → m ≤ s.monitor.fuses → x.owner < nFuncs →
      exec (.sealedSlotTransfer n ⟨Config.romMeasurement, m⟩ (some x)) s = .next (s.setKeySlot n { k with
        cur := givenKey x.key, owner := x.owner, state := 1, gen := (k.gen + 1) % 256
        olines := x.olines.toNat, pdigest := x.pdigest.toNat })) ∧
    (∀ b m l, (b ≠ Config.romMeasurement ∨ n < 145) → exec (.sealedSlotTransfer n ⟨b, m⟩ l) s = .next s) ∧
    (k.moving = true → exec (.slotTransferConfirm n) s = .next (s.setKeySlot n { gen := k.gen }))) ∧
  (∀ (s : State) (m : Monitor), m = s.monitor →
    (∀ img, m.update = .idle → fwSigned img = true → m.fuses ≤ svn img → exec (.updateStage img) s = .next { s with
      monitor := if m.active = 0 then { m with slot1 := img, update := .staged, status := 0 }
        else { m with slot0 := img, update := .staged, status := 0 } }) ∧
    (∀ h v, m.committing = true → exec (.updateSwitch h v) s = .next (s.reply 4)) ∧
    (∀ h v, m.committing = false → m.update = .staged → svn (m.image (otherSlot m.active)) < m.fuses → exec (.updateSwitch h v) s = .next (s.reply 3)) ∧
    (∀ h v, m.committing = false → m.update = .staged → m.fuses ≤ svn (m.image (otherSlot m.active)) → bytesAt (m.image (otherSlot m.active)) 144 16 ≤ v → v ≤ bytesAt (m.image (otherSlot m.active)) 128 16 →
      exec (.updateSwitch h v) s = .next { s with monitor := { m with
        update := .trial, switchAt := s.time, handover := h, running := otherSlot m.active
        code := m.image (otherSlot m.active), status := 0 } }) ∧
    (m.update = .trial → s.time - m.switchAt ≤ 200000000 →
      exec .heartbeat s = .next { s with monitor := { m with update := .idle, active := m.running, switchAt := s.time, updateFailed := false, status := 0 } } ∧
      exec .updateTrialTimeout s = .next s) ∧
    (m.update = .trial → 200000000 < s.time - m.switchAt → exec .updateTrialTimeout s =
      .next { s with monitor := { m with update := .idle, running := m.active, code := m.image m.active, updateFailed := true } }) ∧
    (m.update = .trial → 200000000 < s.time - m.switchAt → exec .heartbeat s = .next (s.reply 1)) ∧
    (m.update ≠ .trial → exec .heartbeat s =
      .next (State.reply { s with monitor := { m with switchAt := s.time } } 1)) ∧
    (m.update ≠ .trial → m.started = true → 200000000 < s.time - m.switchAt →
      exec .updateTrialTimeout s = .next { s with monitor := { m with missed := m.missed + 1, switchAt := s.time } }) ∧
    (m.update = .trial → exec .updateCommit s = .next (s.reply 1)) ∧
    (m.update ≠ .trial → m.committing = true → exec .updateCommit s = .next (s.reply 4)) ∧
    (m.update ≠ .trial → m.committing = false → exec .updateCommit s = .next { s with monitor := m.blow }) ∧
    (m.fuses ≤ m.blow.fuses ∧ m.blow.fuses ≤ max m.fuses 64 ∧
      (m.fuses + 1 < m.target → m.blow.fuses = m.fuses + 1 ∧ m.blow.committing = true) ∧
      (m.fuses ≤ m.target → m.target ≤ m.fuses + 1 → m.blow.fuses = m.target ∧ m.blow.committing = false ∧ m.blow.status = 0) ∧
      (svn m.code ≤ 64 → m.target = svn m.code)) ∧
    (∀ k : BitVec 64, k.getLsbD 0 = false → k.toNat < 256 → ∃ r, exec (.bootrecClear k) s =
      .next { s with monitor := { m with bootrec := r, status := 0 } } ∧ r.length = 7 ∧
      ∀ i, i < 7 → r.getD i 0 = if k.getLsbD (i + 1) then 0 else m.bootrec.getD i 0)) ∧
  (∀ (s : State) (a b : Nat) (w : Bool), 2 ^ 32 ≤ a ∨ 2 ^ 32 ≤ b →
    exec (.reEncryptingMove a ⟨b, w⟩) s = .next { s with fwStatus := 0x22 }) ∧
  (∀ (s : State) (a b : Nat) (w : Bool), a < 2 ^ 32 → b < 2 ^ 32 → ∃ u, exec (.reEncryptingMove a ⟨b, w⟩) s = .next u ∧ u.ctxs = s.ctxs ∧ u.ptes = s.ptes ∧
    (s.Canonical → (Table.find s.lines a = none ∨ w = true) → Table.find u.lines b = Table.find s.lines a ∧ ∀ i, i < 128 → u.mem.read (b * 128 + i) = s.mem.read (a * 128 + i)))

/-- Attestation (R102–R108; the order and the payloads are PRESUMED, log entry 11). -/
def Obligations.Attestation : Prop :=
  ∀ (s : State) (f : Nat) (r : Spdm) (say : Spdm → List Byte → State), f < nFuncs → (s.part f).state ≠ 0 → r = s.responder f →
    (∀ x bs, say x bs = { s with spdm := Table.set s.spdm f { x with answer := bs, error := 0 } }) →
    exec (.getVersion f) s = .next (say { r with stage := 1 } [0, 19]) ∧
    exec (.spdmUnsupportedRequest f) s = .next (s.refuse f 7) ∧
    (1 ≤ r.stage → exec (.getCapabilities f) s =
      .next { say { r with stage := max 2 r.stage } (Config.spdmPayload 2 s.choice) with choice := s.choice + 1 }) ∧
    (r.stage < 1 → exec (.getCapabilities f) s = .next (s.refuse f 4)) ∧
    (2 ≤ r.stage → exec (.negotiateAlgorithms f) s =
      .next (say { r with stage := 3 } [4, 0, 0, 0, 1, 0, 0, 0, 16, 0, 2, 0])) ∧
    (r.stage < 2 → exec (.negotiateAlgorithms f) s = .next (s.refuse f 4)) ∧
    (3 ≤ r.stage →
      exec (.getDigests f) s = .next (say r (Sha.hash (Config.spdmPayload 5 0))) ∧
      exec (.getCertificate f 0) s = .next (say r (Config.spdmPayload 5 0)) ∧
      (∀ n, n ≠ 0 → exec (.getCertificate f n) s = .next (s.refuse f 1)) ∧
      exec (.challenge f) s = .next { say r (Config.spdmPayload 6 s.choice) with choice := s.choice + 1 } ∧
      exec (.chunkGet f) s = .next { say r (Config.spdmPayload 13 s.choice) with choice := s.choice + 1 } ∧
      exec (.getMeasurements f 1) s = .next (say r (leBytes 32 Config.romMeasurement.toNat)) ∧
      exec (.getMeasurements f 2) s = .next (say r (Sha.hash s.monitor.code)) ∧
      exec (.getMeasurements f 3) s = .next (say r (leBytes 8 s.monitor.fuses)) ∧
      exec (.getMeasurements f 4) s = .next (say r (leBytes 128 ((s.part f).descriptor false).toNat)) ∧
      (∀ n i, n < 64 → (s.loaded f)[n]? = some i → exec (.getMeasurements f (16 + n)) s = .next (say r i.digest)) ∧
      (∀ n, (n = 0 ∨ (5 ≤ n ∧ n < 16) ∨ 80 ≤ n) → exec (.getMeasurements f n) s = .next (s.refuse f 1)) ∧
      (r.sessions.length < 4 → exec (.keyExchange f) s = .next { say { r with sessions := r.sessions ++ [(s.fresh, false)] }
        (Config.spdmPayload 8 s.choice) with choice := s.choice + 1, fresh := s.fresh + 1 }) ∧
      (4 ≤ r.sessions.length → exec (.keyExchange f) s = .next (s.refuse f 10)) ∧
      (∀ n, (n, false) ∈ r.sessions → exec (.finish f n) s = .next { say { r with
        sessions := r.sessions.map fun x => if x.1 = n then (n, true) else x } (Config.spdmPayload 9 s.choice) with choice := s.choice + 1 })) ∧
    (∀ n, (n, true) ∈ r.sessions →
      exec (.spdmHeartbeat f n) s = .next { say r (Config.spdmPayload 10 s.choice) with choice := s.choice + 1 } ∧
      exec (.keyUpdate f n) s = .next { say r (Config.spdmPayload 11 s.choice) with choice := s.choice + 1 } ∧
      exec (.endSession f n) s = .next { say { r with sessions := r.sessions.filter fun x => decide (x.1 ≠ n) }
        (Config.spdmPayload 12 s.choice) with choice := s.choice + 1 } ∧
      (∀ (k : Nat) (ol : BitVec 48) (key : BitVec 512) (pd : BitVec 256), 145 ≤ k → k < 256 →
        (((s.keySlot k).state = 0 ∨ ((s.keySlot k).state = 1 ∧ (s.keySlot k).owner = f)) → ∃ u,
          exec (.sealProvision f n k ol key pd false) s = .next u ∧ u.keySlot k = { s.keySlot k with
            cur := givenKey key, owner := f, state := 1, gen := ((s.keySlot k).gen + 1) % 256, olines := ol.toNat, pdigest := pd.toNat }) ∧
        ((s.keySlot k).state = 1 → (s.keySlot k).owner = f → ∃ u, exec (.sealProvision f n k ol key pd true) s = .next u ∧
          u.keySlot k = { s.keySlot k with nxt := givenKey key }) ∧
        ((s.keySlot k).state ≠ 0 → (s.keySlot k).owner = f → ∃ u, exec (.sealRevoke f n k) s = .next u ∧
          u.keySlot k = { gen := (s.keySlot k).gen }) ∧
        ((s.keySlot k).state = 1 → (s.keySlot k).owner ≠ f →
          exec (.sealProvision f n k ol key pd false) s = .next (s.refuse f 1) ∧ exec (.sealRevoke f n k) s = .next (s.refuse f 1)))) ∧
    (∀ n, (n, true) ∉ r.sessions → exec (.spdmHeartbeat f n) s = .next (s.refuse f 1) ∧ exec (.endSession f n) s = .next (s.refuse f 1)) ∧
    ∀ x bs g, g ≠ f → (say x bs).responder g = s.responder g

/-- Images, clocks, start-up, power and machine checks (R2, R15, R24–R27, R92, R112–R114, R440–R448). The model's choices: log entries 34, 35, 44,
47, 48 and 54. -/
def Obligations.ImagesAndPower : Prop :=
  (∀ (s : State) (f b : Nat) (img : List (BitVec 8)) (i : Image) (o : Option (List Nat × State)), f < nFuncs → (s.part f).state = 1 →
    s.home f (imageOf f 0 img).size = some b → i = imageOf f b img →
    o = (({ s with fresh := s.fresh + 1 } : State).mapImage f b i.size).bind (fun u => u.putMap f (chosenCode img).map) →
    (∀ p ∈ s.spans f, p.1 + p.2 ≤ b ∨ b + i.size ≤ p.1) ∧ 2 ^ 56 ≤ b ∧ b + i.size ≤ 2 ^ 57 ∧
    (∀ m s1, o = some (m, s1) →
      (imageStatus img = 0 → ∃ u, exec (.imageLoad f img) s = .next u ∧
        Table.find u.insts (s.fresh + 1) = some { i with lineMap := (m, (chosenCode img).map.length) } ∧
        (∀ n, n ≠ s.fresh + 1 → Table.find u.insts n = Table.find s.insts n) ∧ u.ctxs = s.ctxs ∧
        ∃ n, u.loadStatus = Table.set s.loadStatus n (BitVec.ofNat 128 (Config.translatorVersion.toNat * 2 ^ 32 + (s.fresh + 1) * 2 ^ 64))) ∧
      (10 ≤ imageStatus img → ∃ n w, w = (if imageStatus img = 12 then faultOffset img else 0) ∧ exec (.imageLoad f img) s = .next { s with
        loadStatus := Table.set s.loadStatus n (BitVec.ofNat 128 (imageStatus img + Config.translatorVersion.toNat * 2 ^ 32 + w * 2 ^ 64)) })) ∧
    (o = none → imageStatus img = 0 ∨ 10 ≤ imageStatus img → ∃ n, exec (.imageLoad f img) s = .next { s with
      loadStatus := Table.set s.loadStatus n (BitVec.ofNat 128 (10 + Config.translatorVersion.toNat * 2 ^ 32)) }) ∧
    (imageStatus img ≠ 0 → imageStatus img < 10 → ∃ n, exec (.imageLoad f img) s = .next { s with
      loadStatus := Table.set s.loadStatus n (BitVec.ofNat 128 (imageStatus img + Config.translatorVersion.toNat * 2 ^ 32)) })) ∧
  (∀ (s : State) (f : Nat) (img : List (BitVec 8)), f < nFuncs → (s.part f).state ≠ 1 ∨ s.home f (imageOf f 0 img).size = none → (imageStatus img = 0 ∨ 10 ≤ imageStatus img) →
    ∃ n, exec (.imageLoad f img) s = .next { s with
      loadStatus := Table.set s.loadStatus n (BitVec.ofNat 128 (10 + Config.translatorVersion.toNat * 2 ^ 32)) }) ∧
  (∀ (s : State) (n : Nat) (i : Image), Table.find s.insts n = some i →
    exec (.unload n) s = .next { s with insts := Table.set s.insts n { i with unloading := true } } ∧
    (i.unloading = true → s.inFlight n = false → ∃ u, exec (.unloadComplete n) s = .next u ∧ u.insts = Table.del s.insts n ∧
      u.ctxs = s.ctxs ∧ u = State.pruneTables ((List.range ((i.size + 4095) / 4096)).foldl (fun v k => v.unmapPage i.func (i.home + 4096 * k))
        { i.lineMap.1.foldl (fun u a => u.giveBack a 4096) s with insts := Table.del s.insts n }) i.func) ∧
    (s.inFlight n = true → exec (.unloadComplete n) s = .next s)) ∧
  (∀ (s : State) (n : Nat), Table.find s.insts n = none → exec (.unload n) s = .next s ∧ exec (.unloadComplete n) s = .next s) ∧
  (∀ (s : State) (c v : Nat) (k : Cluster) (r : Sensors), c < s.clusterCount → k = s.cluster c →
    (k.state = 0 → 4096 ≤ k.idle → s.occupied c = false → exec (.clusterGate c) s = .next (s.setCluster c { k with state := 1 })) ∧
    ((k.state ≠ 0 ∨ k.idle < 4096 ∨ s.occupied c = true) → exec (.clusterGate c) s = .next s) ∧
    (k.state = 1 → s.rouse c = s.setCluster c { k with state := 0, idle := 0, wakeAt := s.time + 200 }) ∧
    (k.wakeAt ≠ 0 → k.wakeAt ≤ s.time → exec (.clusterWake c) s = .next (s.setCluster c { k with wakeAt := 0 })) ∧
    ((k.wakeAt = 0 ∨ s.time < k.wakeAt) → exec (.clusterWake c) s = .next s) ∧
    (8 ≤ v → v ≤ 80 → exec (.capWrite c v) s = .next (s.setCluster c { k with cap := v, due := if k.due = 0 then s.time + 1000 else k.due })) ∧
    ((v < 8 ∨ 80 < v) → exec (.capWrite c v) s = .next s) ∧
    (k.due ≠ 0 → k.due ≤ v → (k.endCycle v).freq = min k.cap k.limit) ∧
    exec (.freqChange c r) s = .next (State.setCluster { s with power := r.power } c
      { k with freq := min k.cap r.limit, limit := r.limit, temp := r.temp, pwr := r.pwr, due := 0 })) ∧
  (∀ (s : State) (pass : List Bool) (bad : Nat) (down half : List Nat), s.monitor.started = false → s.monitor.bootrec.length = 7 → (∀ n, n < 7 → pass.getD n false = true) →
    s.fwOk (s.monitor.image s.monitor.active) = true → (∀ b ∈ s.monitor.bootrec, b ≠ 2 ∧ b ≠ 3) →
    ∃ u, exec (.deviceStart ⟨pass, bad, down, half⟩) s = .next u ∧ u.monitor.started = true ∧ u.time = 0 ∧ u.fused = s.fused ∧ u.monitor.running = s.monitor.active ∧
      u.monitor.code = s.monitor.image s.monitor.active ∧
      u.monitor.bootrec = [1, 1, 1, 1, 1, 1, 1] ∧ u.keySlot 0 = { cur := s.monitor.keys, state := 1, gen := 1 } ∧
      (∀ p, p < s.portTotal → (u.port p).up = !down.contains p ∧ (u.port p).x2 = half.contains p) ∧
      (∀ p, s.portTotal ≤ p → p < 16 → (u.port p).up = false) ∧ u.mem = s.mem) ∧
  (∀ (s : State) (x : StartTest), s.monitor.started = true → exec (.deviceStart x) s = .next s) ∧
  (∀ s : State, ∃ u, exec .powerLoss s = .next u ∧ u.monitor.fuses = s.monitor.fuses ∧ u.monitor.slot0 = s.monitor.slot0 ∧
    u.monitor.slot1 = s.monitor.slot1 ∧ u.monitor.active = s.monitor.active ∧ u.monitor.bootrec = s.monitor.bootrec ∧
    u.monitor.started = false ∧ u.monitor.update = .idle ∧ u.fused = s.fused ∧ u.coresOff = s.coresOff ∧ u.portsOff = s.portsOff ∧ u.lostPairs = [] ∧
    u.ctxs = [] ∧ u.parts = [] ∧ u.keys = [] ∧ u.insts = []) ∧
  (∀ (s : State) (i : Nat), i < 128 → ∃ u, exec (.lostChannelPair i) s = .next u ∧
    u.lostPairs = (if i ∈ s.lostPairs then s.lostPairs else s.lostPairs ++ [i]) ∧
    (∀ p, (u.part p).mask = if p < 16 then (s.part p).mask &&& ~~~u.lostMask else (s.part p).mask) ∧ u.mem = s.mem ∧ u.ctxs = s.ctxs) ∧
  (∀ (s : State) (unit id : Nat) (addr : BitVec 64) (t : Machine.Task) (w : CheckBy), 1 ≤ unit → unit ≤ 4 →
    ((unit ≠ 4 ∧ w = .context id) ∨ ∃ core, unit = 4 ∧ w = .array core ∧ core < s.coreCount ∧ (s.core core).owner = some id) →
    (s.ctx id).task = some t → s.handler (s.ctx id) 0x60 = none → (s.retire.filter fun r => decide (r.core = id / 4)).length < 64 →
    ∃ u r, exec (.machineCheck unit addr w) s = .next u ∧ (u.ctx id).task = none ∧ u.retire = s.retire ++ [r] ∧ r.task = t ∧
      r.code = 0x60 ∧ r.mchk = true ∧ ((s.part t.l1).mclog.length < 64 → ∃ e, (u.part t.l1).mclog = enterCheck (s.part t.l1).mclog e ∧
        e.extractLsb' 384 64 = addr ∧ e.extractLsb' 448 64 = BitVec.ofNat 64 s.time)) ∧
  (∀ (s : State) (unit c : Nat) (addr : BitVec 64), 1 ≤ unit → unit < 4 → c < s.clusterCount →
    exec (.machineCheck unit addr (.corrected c)) s =
      .next (s.setCluster c { s.cluster c with corr := ((s.cluster c).corr + 1) % 2 ^ 32 })) ∧
  (∀ (s : State) (unit tid : Nat) (addr : BitVec 64) (r : Retire), 1 ≤ unit → unit < 4 →
    s.retire.find? (fun x => decide (x.task.tid = tid)) = some r → r.code = 0 →
    ∃ u, exec (.machineCheck unit addr (.retired tid)) s = .next u ∧
      u.retire = s.retire.map fun x =>
        if x.task.tid = tid then { x with code := 0x60, tval := 0, pend := false, mchk := true, tail := false } else x)
end

