-- ==== Sys2Proof/Laws/Budget.lean ====
section
/-!
SUPPORT. What the charging of tokens and the choice of frames can do, said once: tokens change partitions and the notes of what is paid, and
nothing else; a fresh frame lies in memory that its function may use.
-/

namespace Sys2Proof.Machine

/-- Only partitions differ. -/
def State.OnlyParts (s t : State) : Prop := ∃ ps, t = { s with parts := ps }

theorem State.OnlyParts.refl (s : State) : s.OnlyParts s := ⟨s.parts, rfl⟩

theorem State.OnlyParts.trans {s t u : State} : s.OnlyParts t → t.OnlyParts u → s.OnlyParts u := by
  rintro ⟨_, rfl⟩ ⟨ps, rfl⟩
  exact ⟨ps, rfl⟩

theorem State.onlyParts_setPart (s : State) (f : Nat) (p : Part) : s.OnlyParts (s.setPart f p) := ⟨_, rfl⟩

/-- A fold changes only partitions where each of its steps does. -/
theorem State.onlyParts_foldl {β : Type} {f : State → β → State} (h : ∀ (s : State) x, s.OnlyParts (f s x)) (xs : List β) (s : State) :
    s.OnlyParts (xs.foldl f s) := by
  induction xs generalizing s with
  | nil => exact .refl s
  | cons x xs ih => exact (h s x).trans (ih _)

/-- One token: there was one at every level, and only partitions change. -/
theorem State.take_cases {s t : State} {f : Nat} {k : Token} (h : s.take f k = some t) :
    (∀ g ∈ s.chain f, 1 ≤ (s.part g).left k) ∧ s.OnlyParts t := by
  unfold State.take at h
  split at h
  · rename_i hc
    refine ⟨by simpa using hc, ?_⟩
    simp only [Option.some.injEq] at h
    exact h ▸ State.onlyParts_foldl (fun _ _ => State.onlyParts_setPart _ _ _) _ _
  · cases h

/-- No more tokens are taken than were asked for, and only partitions change. -/
theorem State.takeUpTo_cases (s : State) (f : Nat) (k : Token) (n : Nat) :
    (s.takeUpTo f k n).1 ≤ n ∧ s.OnlyParts (s.takeUpTo f k n).2 := by
  induction n generalizing s with
  | zero => exact ⟨Nat.le_refl 0, .refl s⟩
  | succ n ih =>
    simp only [State.takeUpTo]
    split
    · exact ⟨Nat.zero_le _, .refl s⟩
    · rename_i t ht
      exact ⟨Nat.succ_le_succ (ih t).1, (State.take_cases ht).2.trans (ih t).2⟩

theorem State.onlyParts_tokenWait (s : State) (r f : Nat) (k : Token) (n : Nat) : s.OnlyParts (s.tokenWait r f k n) :=
  (State.onlyParts_setPart s f _).trans (State.onlyParts_foldl (fun u g => by
    simp only
    split
    · exact State.onlyParts_setPart _ _ _
    · exact .refl u) _ _)

theorem State.onlyParts_waitOver (s : State) (r f : Nat) : s.OnlyParts (s.waitOver r f) := by
  unfold State.waitOver
  simp only
  split
  · exact State.onlyParts_setPart _ _ _
  · exact .refl s

/-- A payment changes partitions and the notes of what is paid. -/
theorem State.payPart_frame (s : State) (id f : Nat) (k : Token) (n : Nat) :
    ∃ ps pd, (s.payPart id f k n).1 = { s with parts := ps, paid := pd } := by
  obtain ⟨ps, hps⟩ := (s.takeUpTo_cases f k (n - Table.get 0 s.paid (payKey id k))).2
  unfold State.payPart
  simp only [hps]
  split
  · split <;> exact ⟨_, _, rfl⟩
  · split <;> (obtain ⟨qs, hq⟩ := State.onlyParts_tokenWait _ id f k _; rw [hq]; exact ⟨_, _, rfl⟩)

/-- So does a whole payment. -/
theorem State.pay_frame (s : State) (id f : Nat) (k : Token) (n : Nat) :
    ∃ ps pd, (s.pay id f k n).1 = { s with parts := ps, paid := pd } := by
  obtain ⟨ps, pd, h⟩ := s.payPart_frame id f k n
  unfold State.pay
  split
  · rename_i s1 h1
    rw [h1] at h
    simp only at h
    subst h
    obtain ⟨qs, hq⟩ := State.onlyParts_waitOver { s with parts := ps, paid := pd } id f
    simp only [State.spend, hq]
    exact ⟨_, _, rfl⟩
  · exact ⟨ps, pd, h⟩

/-- Lending and borrowing change only partitions. -/
theorem State.onlyParts_lendFrom (k : Token) (fs : List Nat) (n : Nat) (s : State) : s.OnlyParts (s.lendFrom k n fs).2 := by
  induction fs generalizing n s with
  | nil => exact .refl s
  | cons f fs ih => exact (State.onlyParts_setPart _ _ _).trans (ih _ _)

theorem State.onlyParts_borrow (s : State) (f : Nat) (k : Token) : s.OnlyParts (s.borrow f k) := by
  unfold State.borrow
  simp only
  split
  · exact State.onlyParts_setPart _ _ _
  · exact ((State.onlyParts_setPart _ _ _).trans (State.onlyParts_lendFrom _ _ _ _)).trans (State.onlyParts_setPart _ _ _)

theorem State.onlyParts_borrowAll (s : State) : s.OnlyParts s.borrowAll :=
  State.onlyParts_foldl (fun _ _ => (State.onlyParts_borrow _ _ _).trans (State.onlyParts_borrow _ _ _)) _ _

/-- The frame found is one that fits. -/
theorem State.frameFrom_fits {s : State} {z : Bool} {f size step n a b : Nat} (h : s.frameFrom z f size step n a = some b) :
    s.frameOk z f b size = true := by
  induction n generalizing a with
  | zero => cases h
  | succ n ih =>
    simp only [State.frameFrom] at h
    split at h
    · rename_i hf
      exact Option.some.inj h ▸ hf
    · exact ih h

/-- Where none is found, none of the places fits. -/
theorem State.frameFrom_none {s : State} {z : Bool} {f size step n a : Nat} (h : s.frameFrom z f size step n a = none) (k : Nat)
    (hk : k < n) : s.frameOk z f (a + k * step) size = false := by
  induction n generalizing a k with
  | zero => omega
  | succ n ih =>
    simp only [State.frameFrom] at h
    split at h
    · cases h
    · rename_i hf
      cases k with
      | zero => simpa using hf
      | succ k => simpa [Nat.succ_mul, Nat.add_assoc, Nat.add_comm step] using ih h k (by omega)

/-- A function that may use no channel has no frame (R83, R446). -/
theorem State.frameFits_barred {s : State} {f a size : Nat} (h : (s.barred f).length = 256) (hz : 4096 ≤ size) :
    s.frameFits f a size = false := by
  have ha : s.barred f = List.range 256 :=
    List.filter_sublist.eq_of_length (h.trans List.length_range.symm)
  have hr : 0 ∈ List.range (size / 4096) := List.mem_range.2 (by omega)
  have hc : channelAt (a + 4096 * 0) ∈ List.range 256 := List.mem_range.2 (Nat.mod_lt _ (by decide))
  have hn : ((List.range (size / 4096)).all fun i => !(s.barred f).contains (channelAt (a + 4096 * i))) = false :=
    List.all_eq_false.2 ⟨0, hr, by simp only [ha, List.contains_iff_mem.2 hc]; decide⟩
  have he : (s.barred f).isEmpty = false := by rw [ha]; rfl
  simp only [State.frameFits, hn, he, Bool.or_self, Bool.and_false]

/-- The lowest of the free ones may be handed out; where there is none, no place of the 512 GiB may (R3, R26). -/
theorem State.freeFrame_fits {s : State} {z : Bool} {f size a : Nat} (h : s.freeFrame z f size = some a) : s.frameOk z f a size = true := by
  unfold State.freeFrame at h
  split at h
  · cases h
  · exact State.frameFrom_fits h

theorem State.freeFrame_none {s : State} {z : Bool} {f size : Nat} (hz : 4096 ≤ size) (h : s.freeFrame z f size = none) (k : Nat)
    (hk : k < 2 ^ 39 / frameStep size) : s.frameOk z f (k * frameStep size) size = false := by
  unfold State.freeFrame at h
  split at h
  · simp only [State.frameOk, State.frameFits_barred ‹_› hz, Bool.false_and]
  · simpa using State.frameFrom_none h k hk

/-- A frame that has not been given back by a lease meets no memory in use, and lies where the function may use it (R3, R83, R446); it then
counts as handed out. -/
theorem State.frameBy_fits {s u : State} {z : Bool} {f size a : Nat} {g : Nat → State} (hp : s.pool = [])
    (h : s.frameBy z f size g = some (a, u)) : s.frameOk z f a size = true ∧ u = { g a with frames := (a, size) :: s.frames } := by
  simp only [State.frameBy, hp, List.find?_nil, Option.map_eq_some_iff, Prod.mk.injEq] at h
  obtain ⟨b, hb, rfl, hu⟩ := h
  exact ⟨State.freeFrame_fits hb, hu.symm⟩

end Sys2Proof.Machine
end

