-- ==== Sys2Proof/Laws/State.lean ====
section
/-!
SUPPORT. What each update of the state does to each field: true by unfolding, so that no later proof unfolds an update.
-/

namespace Sys2Proof.Machine

@[simp] theorem State.setCtx_time (s : State) (id : Nat) (c : Ctx) : (s.setCtx id c).time = s.time := rfl
@[simp] theorem State.setCtx_inbox (s : State) (id : Nat) (c : Ctx) : (s.setCtx id c).inbox = s.inbox := rfl
@[simp] theorem State.setCtx_grant (s : State) (id : Nat) (c : Ctx) : (s.setCtx id c).grant = s.grant := rfl
@[simp] theorem State.setCtx_cur (s : State) (id : Nat) (c : Ctx) : (s.setCtx id c).cur = s.cur := rfl
@[simp] theorem State.setCtx_ready (s : State) (id : Nat) (c : Ctx) : (s.setCtx id c).ready = s.ready := rfl
@[simp] theorem State.setCtx_held (s : State) (id : Nat) (c : Ctx) : (s.setCtx id c).held = s.held := rfl
@[simp] theorem State.setCtx_choice (s : State) (id : Nat) (c : Ctx) : (s.setCtx id c).choice = s.choice := rfl
@[simp] theorem State.setCtx_fresh (s : State) (id : Nat) (c : Ctx) : (s.setCtx id c).fresh = s.fresh := rfl
@[simp] theorem State.setCtx_stamp (s : State) (id : Nat) (c : Ctx) : (s.setCtx id c).stamp = s.stamp := rfl
@[simp] theorem State.setCtx_turn (s : State) (id : Nat) (c : Ctx) : (s.setCtx id c).turn = s.turn := rfl
@[simp] theorem State.setCtx_refilled (s : State) (id : Nat) (c : Ctx) : (s.setCtx id c).refilled = s.refilled := rfl
@[simp] theorem State.setCtx_ctxs (s : State) (id : Nat) (c : Ctx) : (s.setCtx id c).ctxs = Table.set s.ctxs id c := rfl
@[simp] theorem State.setCtx_cores (s : State) (id : Nat) (c : Ctx) : (s.setCtx id c).cores = s.cores := rfl
@[simp] theorem State.setCtx_clusters (s : State) (id : Nat) (c : Ctx) : (s.setCtx id c).clusters = s.clusters := rfl
@[simp] theorem State.setCtx_mem (s : State) (id : Nat) (c : Ctx) : (s.setCtx id c).mem = s.mem := rfl
@[simp] theorem State.setCtx_lines (s : State) (id : Nat) (c : Ctx) : (s.setCtx id c).lines = s.lines := rfl
@[simp] theorem State.setCtx_owners (s : State) (id : Nat) (c : Ctx) : (s.setCtx id c).owners = s.owners := rfl
@[simp] theorem State.setCtx_ptes (s : State) (id : Nat) (c : Ctx) : (s.setCtx id c).ptes = s.ptes := rfl
@[simp] theorem State.setCtx_roots (s : State) (id : Nat) (c : Ctx) : (s.setCtx id c).roots = s.roots := rfl
@[simp] theorem State.setCtx_hostGone (s : State) (id : Nat) (c : Ctx) : (s.setCtx id c).hostGone = s.hostGone := rfl
@[simp] theorem State.setCtx_hostBad (s : State) (id : Nat) (c : Ctx) : (s.setCtx id c).hostBad = s.hostBad := rfl
@[simp] theorem State.setCtx_requests (s : State) (id : Nat) (c : Ctx) : (s.setCtx id c).requests = s.requests := rfl
@[simp] theorem State.setCtx_loads (s : State) (id : Nat) (c : Ctx) : (s.setCtx id c).loads = s.loads := rfl
@[simp] theorem State.setCtx_divs (s : State) (id : Nat) (c : Ctx) : (s.setCtx id c).divs = s.divs := rfl
@[simp] theorem State.setCtx_atoms (s : State) (id : Nat) (c : Ctx) : (s.setCtx id c).atoms = s.atoms := rfl
@[simp] theorem State.setCtx_copies (s : State) (id : Nat) (c : Ctx) : (s.setCtx id c).copies = s.copies := rfl
@[simp] theorem State.setCtx_outs (s : State) (id : Nat) (c : Ctx) : (s.setCtx id c).outs = s.outs := rfl
@[simp] theorem State.setCtx_flags (s : State) (id : Nat) (c : Ctx) : (s.setCtx id c).flags = s.flags := rfl
@[simp] theorem State.setCtx_replies (s : State) (id : Nat) (c : Ctx) : (s.setCtx id c).replies = s.replies := rfl
@[simp] theorem State.setCtx_spoiled (s : State) (id : Nat) (c : Ctx) : (s.setCtx id c).spoiled = s.spoiled := rfl
@[simp] theorem State.setCtx_rejects (s : State) (id : Nat) (c : Ctx) : (s.setCtx id c).rejects = s.rejects := rfl
@[simp] theorem State.setCtx_writes (s : State) (id : Nat) (c : Ctx) : (s.setCtx id c).writes = s.writes := rfl
@[simp] theorem State.setCtx_lastArrive (s : State) (id : Nat) (c : Ctx) : (s.setCtx id c).lastArrive = s.lastArrive := rfl
@[simp] theorem State.setCtx_retire (s : State) (id : Nat) (c : Ctx) : (s.setCtx id c).retire = s.retire := rfl
@[simp] theorem State.setCtx_groups (s : State) (id : Nat) (c : Ctx) : (s.setCtx id c).groups = s.groups := rfl
@[simp] theorem State.setCtx_slots (s : State) (id : Nat) (c : Ctx) : (s.setCtx id c).slots = s.slots := rfl
@[simp] theorem State.setCtx_walks (s : State) (id : Nat) (c : Ctx) : (s.setCtx id c).walks = s.walks := rfl
@[simp] theorem State.setCtx_launches (s : State) (id : Nat) (c : Ctx) : (s.setCtx id c).launches = s.launches := rfl
@[simp] theorem State.setCtx_parts (s : State) (id : Nat) (c : Ctx) : (s.setCtx id c).parts = s.parts := rfl
@[simp] theorem State.setCtx_insts (s : State) (id : Nat) (c : Ctx) : (s.setCtx id c).insts = s.insts := rfl
@[simp] theorem State.setCtx_loadStatus (s : State) (id : Nat) (c : Ctx) : (s.setCtx id c).loadStatus = s.loadStatus := rfl
@[simp] theorem State.setCtx_keys (s : State) (id : Nat) (c : Ctx) : (s.setCtx id c).keys = s.keys := rfl
@[simp] theorem State.setCtx_jobs (s : State) (id : Nat) (c : Ctx) : (s.setCtx id c).jobs = s.jobs := rfl
@[simp] theorem State.setCtx_rxSeq (s : State) (id : Nat) (c : Ctx) : (s.setCtx id c).rxSeq = s.rxSeq := rfl
@[simp] theorem State.setCtx_ports (s : State) (id : Nat) (c : Ctx) : (s.setCtx id c).ports = s.ports := rfl
@[simp] theorem State.setCtx_monitor (s : State) (id : Nat) (c : Ctx) : (s.setCtx id c).monitor = s.monitor := rfl
@[simp] theorem State.setCtx_spdm (s : State) (id : Nat) (c : Ctx) : (s.setCtx id c).spdm = s.spdm := rfl
@[simp] theorem State.setCtx_quiesced (s : State) (id : Nat) (c : Ctx) : (s.setCtx id c).quiesced = s.quiesced := rfl
@[simp] theorem State.setCtx_served (s : State) (id : Nat) (c : Ctx) : (s.setCtx id c).served = s.served := rfl
@[simp] theorem State.setCtx_fwStatus (s : State) (id : Nat) (c : Ctx) : (s.setCtx id c).fwStatus = s.fwStatus := rfl
@[simp] theorem State.setCtx_hostOut (s : State) (id : Nat) (c : Ctx) : (s.setCtx id c).hostOut = s.hostOut := rfl
@[simp] theorem State.setCtx_paid (s : State) (id : Nat) (c : Ctx) : (s.setCtx id c).paid = s.paid := rfl
@[simp] theorem State.setCtx_lostPairs (s : State) (id : Nat) (c : Ctx) : (s.setCtx id c).lostPairs = s.lostPairs := rfl
@[simp] theorem State.setCtx_fused (s : State) (id : Nat) (c : Ctx) : (s.setCtx id c).fused = s.fused := rfl
@[simp] theorem State.setCtx_pool (s : State) (id : Nat) (c : Ctx) : (s.setCtx id c).pool = s.pool := rfl
@[simp] theorem State.setCtx_coresOff (s : State) (id : Nat) (c : Ctx) : (s.setCtx id c).coresOff = s.coresOff := rfl
@[simp] theorem State.setCtx_portsOff (s : State) (id : Nat) (c : Ctx) : (s.setCtx id c).portsOff = s.portsOff := rfl
@[simp] theorem State.setCtx_power (s : State) (id : Nat) (c : Ctx) : (s.setCtx id c).power = s.power := rfl
@[simp] theorem State.setCtx_seen (s : State) (id : Nat) (c : Ctx) : (s.setCtx id c).seen = s.seen := rfl
@[simp] theorem State.setCtx_frames (s : State) (id : Nat) (c : Ctx) : (s.setCtx id c).frames = s.frames := rfl
@[simp] theorem State.setCtx_halves (s : State) (id : Nat) (c : Ctx) : (s.setCtx id c).halves = s.halves := rfl

@[simp] theorem State.setCore_time (s : State) (n : Nat) (k : Core) : (s.setCore n k).time = s.time := rfl
@[simp] theorem State.setCore_inbox (s : State) (n : Nat) (k : Core) : (s.setCore n k).inbox = s.inbox := rfl
@[simp] theorem State.setCore_grant (s : State) (n : Nat) (k : Core) : (s.setCore n k).grant = s.grant := rfl
@[simp] theorem State.setCore_cur (s : State) (n : Nat) (k : Core) : (s.setCore n k).cur = s.cur := rfl
@[simp] theorem State.setCore_ready (s : State) (n : Nat) (k : Core) : (s.setCore n k).ready = s.ready := rfl
@[simp] theorem State.setCore_held (s : State) (n : Nat) (k : Core) : (s.setCore n k).held = s.held := rfl
@[simp] theorem State.setCore_choice (s : State) (n : Nat) (k : Core) : (s.setCore n k).choice = s.choice := rfl
@[simp] theorem State.setCore_fresh (s : State) (n : Nat) (k : Core) : (s.setCore n k).fresh = s.fresh := rfl
@[simp] theorem State.setCore_stamp (s : State) (n : Nat) (k : Core) : (s.setCore n k).stamp = s.stamp := rfl
@[simp] theorem State.setCore_turn (s : State) (n : Nat) (k : Core) : (s.setCore n k).turn = s.turn := rfl
@[simp] theorem State.setCore_refilled (s : State) (n : Nat) (k : Core) : (s.setCore n k).refilled = s.refilled := rfl
@[simp] theorem State.setCore_ctxs (s : State) (n : Nat) (k : Core) : (s.setCore n k).ctxs = s.ctxs := rfl
@[simp] theorem State.setCore_cores (s : State) (n : Nat) (k : Core) : (s.setCore n k).cores = Table.set s.cores n k := rfl
@[simp] theorem State.setCore_clusters (s : State) (n : Nat) (k : Core) : (s.setCore n k).clusters = s.clusters := rfl
@[simp] theorem State.setCore_mem (s : State) (n : Nat) (k : Core) : (s.setCore n k).mem = s.mem := rfl
@[simp] theorem State.setCore_lines (s : State) (n : Nat) (k : Core) : (s.setCore n k).lines = s.lines := rfl
@[simp] theorem State.setCore_owners (s : State) (n : Nat) (k : Core) : (s.setCore n k).owners = s.owners := rfl
@[simp] theorem State.setCore_ptes (s : State) (n : Nat) (k : Core) : (s.setCore n k).ptes = s.ptes := rfl
@[simp] theorem State.setCore_roots (s : State) (n : Nat) (k : Core) : (s.setCore n k).roots = s.roots := rfl
@[simp] theorem State.setCore_hostGone (s : State) (n : Nat) (k : Core) : (s.setCore n k).hostGone = s.hostGone := rfl
@[simp] theorem State.setCore_hostBad (s : State) (n : Nat) (k : Core) : (s.setCore n k).hostBad = s.hostBad := rfl
@[simp] theorem State.setCore_requests (s : State) (n : Nat) (k : Core) : (s.setCore n k).requests = s.requests := rfl
@[simp] theorem State.setCore_loads (s : State) (n : Nat) (k : Core) : (s.setCore n k).loads = s.loads := rfl
@[simp] theorem State.setCore_divs (s : State) (n : Nat) (k : Core) : (s.setCore n k).divs = s.divs := rfl
@[simp] theorem State.setCore_atoms (s : State) (n : Nat) (k : Core) : (s.setCore n k).atoms = s.atoms := rfl
@[simp] theorem State.setCore_copies (s : State) (n : Nat) (k : Core) : (s.setCore n k).copies = s.copies := rfl
@[simp] theorem State.setCore_outs (s : State) (n : Nat) (k : Core) : (s.setCore n k).outs = s.outs := rfl
@[simp] theorem State.setCore_flags (s : State) (n : Nat) (k : Core) : (s.setCore n k).flags = s.flags := rfl
@[simp] theorem State.setCore_replies (s : State) (n : Nat) (k : Core) : (s.setCore n k).replies = s.replies := rfl
@[simp] theorem State.setCore_spoiled (s : State) (n : Nat) (k : Core) : (s.setCore n k).spoiled = s.spoiled := rfl
@[simp] theorem State.setCore_rejects (s : State) (n : Nat) (k : Core) : (s.setCore n k).rejects = s.rejects := rfl
@[simp] theorem State.setCore_writes (s : State) (n : Nat) (k : Core) : (s.setCore n k).writes = s.writes := rfl
@[simp] theorem State.setCore_lastArrive (s : State) (n : Nat) (k : Core) : (s.setCore n k).lastArrive = s.lastArrive := rfl
@[simp] theorem State.setCore_retire (s : State) (n : Nat) (k : Core) : (s.setCore n k).retire = s.retire := rfl
@[simp] theorem State.setCore_groups (s : State) (n : Nat) (k : Core) : (s.setCore n k).groups = s.groups := rfl
@[simp] theorem State.setCore_slots (s : State) (n : Nat) (k : Core) : (s.setCore n k).slots = s.slots := rfl
@[simp] theorem State.setCore_walks (s : State) (n : Nat) (k : Core) : (s.setCore n k).walks = s.walks := rfl
@[simp] theorem State.setCore_launches (s : State) (n : Nat) (k : Core) : (s.setCore n k).launches = s.launches := rfl
@[simp] theorem State.setCore_parts (s : State) (n : Nat) (k : Core) : (s.setCore n k).parts = s.parts := rfl
@[simp] theorem State.setCore_insts (s : State) (n : Nat) (k : Core) : (s.setCore n k).insts = s.insts := rfl
@[simp] theorem State.setCore_loadStatus (s : State) (n : Nat) (k : Core) : (s.setCore n k).loadStatus = s.loadStatus := rfl
@[simp] theorem State.setCore_keys (s : State) (n : Nat) (k : Core) : (s.setCore n k).keys = s.keys := rfl
@[simp] theorem State.setCore_jobs (s : State) (n : Nat) (k : Core) : (s.setCore n k).jobs = s.jobs := rfl
@[simp] theorem State.setCore_rxSeq (s : State) (n : Nat) (k : Core) : (s.setCore n k).rxSeq = s.rxSeq := rfl
@[simp] theorem State.setCore_ports (s : State) (n : Nat) (k : Core) : (s.setCore n k).ports = s.ports := rfl
@[simp] theorem State.setCore_monitor (s : State) (n : Nat) (k : Core) : (s.setCore n k).monitor = s.monitor := rfl
@[simp] theorem State.setCore_spdm (s : State) (n : Nat) (k : Core) : (s.setCore n k).spdm = s.spdm := rfl
@[simp] theorem State.setCore_quiesced (s : State) (n : Nat) (k : Core) : (s.setCore n k).quiesced = s.quiesced := rfl
@[simp] theorem State.setCore_served (s : State) (n : Nat) (k : Core) : (s.setCore n k).served = s.served := rfl
@[simp] theorem State.setCore_fwStatus (s : State) (n : Nat) (k : Core) : (s.setCore n k).fwStatus = s.fwStatus := rfl
@[simp] theorem State.setCore_hostOut (s : State) (n : Nat) (k : Core) : (s.setCore n k).hostOut = s.hostOut := rfl
@[simp] theorem State.setCore_paid (s : State) (n : Nat) (k : Core) : (s.setCore n k).paid = s.paid := rfl
@[simp] theorem State.setCore_lostPairs (s : State) (n : Nat) (k : Core) : (s.setCore n k).lostPairs = s.lostPairs := rfl
@[simp] theorem State.setCore_fused (s : State) (n : Nat) (k : Core) : (s.setCore n k).fused = s.fused := rfl
@[simp] theorem State.setCore_pool (s : State) (n : Nat) (k : Core) : (s.setCore n k).pool = s.pool := rfl
@[simp] theorem State.setCore_coresOff (s : State) (n : Nat) (k : Core) : (s.setCore n k).coresOff = s.coresOff := rfl
@[simp] theorem State.setCore_portsOff (s : State) (n : Nat) (k : Core) : (s.setCore n k).portsOff = s.portsOff := rfl
@[simp] theorem State.setCore_power (s : State) (n : Nat) (k : Core) : (s.setCore n k).power = s.power := rfl
@[simp] theorem State.setCore_seen (s : State) (n : Nat) (k : Core) : (s.setCore n k).seen = s.seen := rfl
@[simp] theorem State.setCore_frames (s : State) (n : Nat) (k : Core) : (s.setCore n k).frames = s.frames := rfl
@[simp] theorem State.setCore_halves (s : State) (n : Nat) (k : Core) : (s.setCore n k).halves = s.halves := rfl

@[simp] theorem State.setCluster_time (s : State) (n : Nat) (k : Cluster) : (s.setCluster n k).time = s.time := rfl
@[simp] theorem State.setCluster_inbox (s : State) (n : Nat) (k : Cluster) : (s.setCluster n k).inbox = s.inbox := rfl
@[simp] theorem State.setCluster_grant (s : State) (n : Nat) (k : Cluster) : (s.setCluster n k).grant = s.grant := rfl
@[simp] theorem State.setCluster_cur (s : State) (n : Nat) (k : Cluster) : (s.setCluster n k).cur = s.cur := rfl
@[simp] theorem State.setCluster_ready (s : State) (n : Nat) (k : Cluster) : (s.setCluster n k).ready = s.ready := rfl
@[simp] theorem State.setCluster_held (s : State) (n : Nat) (k : Cluster) : (s.setCluster n k).held = s.held := rfl
@[simp] theorem State.setCluster_choice (s : State) (n : Nat) (k : Cluster) : (s.setCluster n k).choice = s.choice := rfl
@[simp] theorem State.setCluster_fresh (s : State) (n : Nat) (k : Cluster) : (s.setCluster n k).fresh = s.fresh := rfl
@[simp] theorem State.setCluster_stamp (s : State) (n : Nat) (k : Cluster) : (s.setCluster n k).stamp = s.stamp := rfl
@[simp] theorem State.setCluster_turn (s : State) (n : Nat) (k : Cluster) : (s.setCluster n k).turn = s.turn := rfl
@[simp] theorem State.setCluster_refilled (s : State) (n : Nat) (k : Cluster) : (s.setCluster n k).refilled = s.refilled := rfl
@[simp] theorem State.setCluster_ctxs (s : State) (n : Nat) (k : Cluster) : (s.setCluster n k).ctxs = s.ctxs := rfl
@[simp] theorem State.setCluster_cores (s : State) (n : Nat) (k : Cluster) : (s.setCluster n k).cores = s.cores := rfl
@[simp] theorem State.setCluster_clusters (s : State) (n : Nat) (k : Cluster) : (s.setCluster n k).clusters = Table.set s.clusters n k := rfl
@[simp] theorem State.setCluster_mem (s : State) (n : Nat) (k : Cluster) : (s.setCluster n k).mem = s.mem := rfl
@[simp] theorem State.setCluster_lines (s : State) (n : Nat) (k : Cluster) : (s.setCluster n k).lines = s.lines := rfl
@[simp] theorem State.setCluster_owners (s : State) (n : Nat) (k : Cluster) : (s.setCluster n k).owners = s.owners := rfl
@[simp] theorem State.setCluster_ptes (s : State) (n : Nat) (k : Cluster) : (s.setCluster n k).ptes = s.ptes := rfl
@[simp] theorem State.setCluster_roots (s : State) (n : Nat) (k : Cluster) : (s.setCluster n k).roots = s.roots := rfl
@[simp] theorem State.setCluster_hostGone (s : State) (n : Nat) (k : Cluster) : (s.setCluster n k).hostGone = s.hostGone := rfl
@[simp] theorem State.setCluster_hostBad (s : State) (n : Nat) (k : Cluster) : (s.setCluster n k).hostBad = s.hostBad := rfl
@[simp] theorem State.setCluster_requests (s : State) (n : Nat) (k : Cluster) : (s.setCluster n k).requests = s.requests := rfl
@[simp] theorem State.setCluster_loads (s : State) (n : Nat) (k : Cluster) : (s.setCluster n k).loads = s.loads := rfl
@[simp] theorem State.setCluster_divs (s : State) (n : Nat) (k : Cluster) : (s.setCluster n k).divs = s.divs := rfl
@[simp] theorem State.setCluster_atoms (s : State) (n : Nat) (k : Cluster) : (s.setCluster n k).atoms = s.atoms := rfl
@[simp] theorem State.setCluster_copies (s : State) (n : Nat) (k : Cluster) : (s.setCluster n k).copies = s.copies := rfl
@[simp] theorem State.setCluster_outs (s : State) (n : Nat) (k : Cluster) : (s.setCluster n k).outs = s.outs := rfl
@[simp] theorem State.setCluster_flags (s : State) (n : Nat) (k : Cluster) : (s.setCluster n k).flags = s.flags := rfl
@[simp] theorem State.setCluster_replies (s : State) (n : Nat) (k : Cluster) : (s.setCluster n k).replies = s.replies := rfl
@[simp] theorem State.setCluster_spoiled (s : State) (n : Nat) (k : Cluster) : (s.setCluster n k).spoiled = s.spoiled := rfl
@[simp] theorem State.setCluster_rejects (s : State) (n : Nat) (k : Cluster) : (s.setCluster n k).rejects = s.rejects := rfl
@[simp] theorem State.setCluster_writes (s : State) (n : Nat) (k : Cluster) : (s.setCluster n k).writes = s.writes := rfl
@[simp] theorem State.setCluster_lastArrive (s : State) (n : Nat) (k : Cluster) : (s.setCluster n k).lastArrive = s.lastArrive := rfl
@[simp] theorem State.setCluster_retire (s : State) (n : Nat) (k : Cluster) : (s.setCluster n k).retire = s.retire := rfl
@[simp] theorem State.setCluster_groups (s : State) (n : Nat) (k : Cluster) : (s.setCluster n k).groups = s.groups := rfl
@[simp] theorem State.setCluster_slots (s : State) (n : Nat) (k : Cluster) : (s.setCluster n k).slots = s.slots := rfl
@[simp] theorem State.setCluster_walks (s : State) (n : Nat) (k : Cluster) : (s.setCluster n k).walks = s.walks := rfl
@[simp] theorem State.setCluster_launches (s : State) (n : Nat) (k : Cluster) : (s.setCluster n k).launches = s.launches := rfl
@[simp] theorem State.setCluster_parts (s : State) (n : Nat) (k : Cluster) : (s.setCluster n k).parts = s.parts := rfl
@[simp] theorem State.setCluster_insts (s : State) (n : Nat) (k : Cluster) : (s.setCluster n k).insts = s.insts := rfl
@[simp] theorem State.setCluster_loadStatus (s : State) (n : Nat) (k : Cluster) : (s.setCluster n k).loadStatus = s.loadStatus := rfl
@[simp] theorem State.setCluster_keys (s : State) (n : Nat) (k : Cluster) : (s.setCluster n k).keys = s.keys := rfl
@[simp] theorem State.setCluster_jobs (s : State) (n : Nat) (k : Cluster) : (s.setCluster n k).jobs = s.jobs := rfl
@[simp] theorem State.setCluster_rxSeq (s : State) (n : Nat) (k : Cluster) : (s.setCluster n k).rxSeq = s.rxSeq := rfl
@[simp] theorem State.setCluster_ports (s : State) (n : Nat) (k : Cluster) : (s.setCluster n k).ports = s.ports := rfl
@[simp] theorem State.setCluster_monitor (s : State) (n : Nat) (k : Cluster) : (s.setCluster n k).monitor = s.monitor := rfl
@[simp] theorem State.setCluster_spdm (s : State) (n : Nat) (k : Cluster) : (s.setCluster n k).spdm = s.spdm := rfl
@[simp] theorem State.setCluster_quiesced (s : State) (n : Nat) (k : Cluster) : (s.setCluster n k).quiesced = s.quiesced := rfl
@[simp] theorem State.setCluster_served (s : State) (n : Nat) (k : Cluster) : (s.setCluster n k).served = s.served := rfl
@[simp] theorem State.setCluster_fwStatus (s : State) (n : Nat) (k : Cluster) : (s.setCluster n k).fwStatus = s.fwStatus := rfl
@[simp] theorem State.setCluster_hostOut (s : State) (n : Nat) (k : Cluster) : (s.setCluster n k).hostOut = s.hostOut := rfl
@[simp] theorem State.setCluster_paid (s : State) (n : Nat) (k : Cluster) : (s.setCluster n k).paid = s.paid := rfl
@[simp] theorem State.setCluster_lostPairs (s : State) (n : Nat) (k : Cluster) : (s.setCluster n k).lostPairs = s.lostPairs := rfl
@[simp] theorem State.setCluster_fused (s : State) (n : Nat) (k : Cluster) : (s.setCluster n k).fused = s.fused := rfl
@[simp] theorem State.setCluster_pool (s : State) (n : Nat) (k : Cluster) : (s.setCluster n k).pool = s.pool := rfl
@[simp] theorem State.setCluster_coresOff (s : State) (n : Nat) (k : Cluster) : (s.setCluster n k).coresOff = s.coresOff := rfl
@[simp] theorem State.setCluster_portsOff (s : State) (n : Nat) (k : Cluster) : (s.setCluster n k).portsOff = s.portsOff := rfl
@[simp] theorem State.setCluster_power (s : State) (n : Nat) (k : Cluster) : (s.setCluster n k).power = s.power := rfl
@[simp] theorem State.setCluster_seen (s : State) (n : Nat) (k : Cluster) : (s.setCluster n k).seen = s.seen := rfl
@[simp] theorem State.setCluster_frames (s : State) (n : Nat) (k : Cluster) : (s.setCluster n k).frames = s.frames := rfl
@[simp] theorem State.setCluster_halves (s : State) (n : Nat) (k : Cluster) : (s.setCluster n k).halves = s.halves := rfl

@[simp] theorem State.setPart_time (s : State) (f : Nat) (p : Part) : (s.setPart f p).time = s.time := rfl
@[simp] theorem State.setPart_inbox (s : State) (f : Nat) (p : Part) : (s.setPart f p).inbox = s.inbox := rfl
@[simp] theorem State.setPart_grant (s : State) (f : Nat) (p : Part) : (s.setPart f p).grant = s.grant := rfl
@[simp] theorem State.setPart_cur (s : State) (f : Nat) (p : Part) : (s.setPart f p).cur = s.cur := rfl
@[simp] theorem State.setPart_ready (s : State) (f : Nat) (p : Part) : (s.setPart f p).ready = s.ready := rfl
@[simp] theorem State.setPart_held (s : State) (f : Nat) (p : Part) : (s.setPart f p).held = s.held := rfl
@[simp] theorem State.setPart_choice (s : State) (f : Nat) (p : Part) : (s.setPart f p).choice = s.choice := rfl
@[simp] theorem State.setPart_fresh (s : State) (f : Nat) (p : Part) : (s.setPart f p).fresh = s.fresh := rfl
@[simp] theorem State.setPart_stamp (s : State) (f : Nat) (p : Part) : (s.setPart f p).stamp = s.stamp := rfl
@[simp] theorem State.setPart_turn (s : State) (f : Nat) (p : Part) : (s.setPart f p).turn = s.turn := rfl
@[simp] theorem State.setPart_refilled (s : State) (f : Nat) (p : Part) : (s.setPart f p).refilled = s.refilled := rfl
@[simp] theorem State.setPart_ctxs (s : State) (f : Nat) (p : Part) : (s.setPart f p).ctxs = s.ctxs := rfl
@[simp] theorem State.setPart_cores (s : State) (f : Nat) (p : Part) : (s.setPart f p).cores = s.cores := rfl
@[simp] theorem State.setPart_clusters (s : State) (f : Nat) (p : Part) : (s.setPart f p).clusters = s.clusters := rfl
@[simp] theorem State.setPart_mem (s : State) (f : Nat) (p : Part) : (s.setPart f p).mem = s.mem := rfl
@[simp] theorem State.setPart_lines (s : State) (f : Nat) (p : Part) : (s.setPart f p).lines = s.lines := rfl
@[simp] theorem State.setPart_owners (s : State) (f : Nat) (p : Part) : (s.setPart f p).owners = s.owners := rfl
@[simp] theorem State.setPart_ptes (s : State) (f : Nat) (p : Part) : (s.setPart f p).ptes = s.ptes := rfl
@[simp] theorem State.setPart_roots (s : State) (f : Nat) (p : Part) : (s.setPart f p).roots = s.roots := rfl
@[simp] theorem State.setPart_hostGone (s : State) (f : Nat) (p : Part) : (s.setPart f p).hostGone = s.hostGone := rfl
@[simp] theorem State.setPart_hostBad (s : State) (f : Nat) (p : Part) : (s.setPart f p).hostBad = s.hostBad := rfl
@[simp] theorem State.setPart_requests (s : State) (f : Nat) (p : Part) : (s.setPart f p).requests = s.requests := rfl
@[simp] theorem State.setPart_loads (s : State) (f : Nat) (p : Part) : (s.setPart f p).loads = s.loads := rfl
@[simp] theorem State.setPart_divs (s : State) (f : Nat) (p : Part) : (s.setPart f p).divs = s.divs := rfl
@[simp] theorem State.setPart_atoms (s : State) (f : Nat) (p : Part) : (s.setPart f p).atoms = s.atoms := rfl
@[simp] theorem State.setPart_copies (s : State) (f : Nat) (p : Part) : (s.setPart f p).copies = s.copies := rfl
@[simp] theorem State.setPart_outs (s : State) (f : Nat) (p : Part) : (s.setPart f p).outs = s.outs := rfl
@[simp] theorem State.setPart_flags (s : State) (f : Nat) (p : Part) : (s.setPart f p).flags = s.flags := rfl
@[simp] theorem State.setPart_replies (s : State) (f : Nat) (p : Part) : (s.setPart f p).replies = s.replies := rfl
@[simp] theorem State.setPart_spoiled (s : State) (f : Nat) (p : Part) : (s.setPart f p).spoiled = s.spoiled := rfl
@[simp] theorem State.setPart_rejects (s : State) (f : Nat) (p : Part) : (s.setPart f p).rejects = s.rejects := rfl
@[simp] theorem State.setPart_writes (s : State) (f : Nat) (p : Part) : (s.setPart f p).writes = s.writes := rfl
@[simp] theorem State.setPart_lastArrive (s : State) (f : Nat) (p : Part) : (s.setPart f p).lastArrive = s.lastArrive := rfl
@[simp] theorem State.setPart_retire (s : State) (f : Nat) (p : Part) : (s.setPart f p).retire = s.retire := rfl
@[simp] theorem State.setPart_groups (s : State) (f : Nat) (p : Part) : (s.setPart f p).groups = s.groups := rfl
@[simp] theorem State.setPart_slots (s : State) (f : Nat) (p : Part) : (s.setPart f p).slots = s.slots := rfl
@[simp] theorem State.setPart_walks (s : State) (f : Nat) (p : Part) : (s.setPart f p).walks = s.walks := rfl
@[simp] theorem State.setPart_launches (s : State) (f : Nat) (p : Part) : (s.setPart f p).launches = s.launches := rfl
@[simp] theorem State.setPart_parts (s : State) (f : Nat) (p : Part) : (s.setPart f p).parts = Table.set s.parts f p := rfl
@[simp] theorem State.setPart_insts (s : State) (f : Nat) (p : Part) : (s.setPart f p).insts = s.insts := rfl
@[simp] theorem State.setPart_loadStatus (s : State) (f : Nat) (p : Part) : (s.setPart f p).loadStatus = s.loadStatus := rfl
@[simp] theorem State.setPart_keys (s : State) (f : Nat) (p : Part) : (s.setPart f p).keys = s.keys := rfl
@[simp] theorem State.setPart_jobs (s : State) (f : Nat) (p : Part) : (s.setPart f p).jobs = s.jobs := rfl
@[simp] theorem State.setPart_rxSeq (s : State) (f : Nat) (p : Part) : (s.setPart f p).rxSeq = s.rxSeq := rfl
@[simp] theorem State.setPart_ports (s : State) (f : Nat) (p : Part) : (s.setPart f p).ports = s.ports := rfl
@[simp] theorem State.setPart_monitor (s : State) (f : Nat) (p : Part) : (s.setPart f p).monitor = s.monitor := rfl
@[simp] theorem State.setPart_spdm (s : State) (f : Nat) (p : Part) : (s.setPart f p).spdm = s.spdm := rfl
@[simp] theorem State.setPart_quiesced (s : State) (f : Nat) (p : Part) : (s.setPart f p).quiesced = s.quiesced := rfl
@[simp] theorem State.setPart_served (s : State) (f : Nat) (p : Part) : (s.setPart f p).served = s.served := rfl
@[simp] theorem State.setPart_fwStatus (s : State) (f : Nat) (p : Part) : (s.setPart f p).fwStatus = s.fwStatus := rfl
@[simp] theorem State.setPart_hostOut (s : State) (f : Nat) (p : Part) : (s.setPart f p).hostOut = s.hostOut := rfl
@[simp] theorem State.setPart_paid (s : State) (f : Nat) (p : Part) : (s.setPart f p).paid = s.paid := rfl
@[simp] theorem State.setPart_lostPairs (s : State) (f : Nat) (p : Part) : (s.setPart f p).lostPairs = s.lostPairs := rfl
@[simp] theorem State.setPart_fused (s : State) (f : Nat) (p : Part) : (s.setPart f p).fused = s.fused := rfl
@[simp] theorem State.setPart_pool (s : State) (f : Nat) (p : Part) : (s.setPart f p).pool = s.pool := rfl
@[simp] theorem State.setPart_coresOff (s : State) (f : Nat) (p : Part) : (s.setPart f p).coresOff = s.coresOff := rfl
@[simp] theorem State.setPart_portsOff (s : State) (f : Nat) (p : Part) : (s.setPart f p).portsOff = s.portsOff := rfl
@[simp] theorem State.setPart_power (s : State) (f : Nat) (p : Part) : (s.setPart f p).power = s.power := rfl
@[simp] theorem State.setPart_seen (s : State) (f : Nat) (p : Part) : (s.setPart f p).seen = s.seen := rfl
@[simp] theorem State.setPart_frames (s : State) (f : Nat) (p : Part) : (s.setPart f p).frames = s.frames := rfl
@[simp] theorem State.setPart_halves (s : State) (f : Nat) (p : Part) : (s.setPart f p).halves = s.halves := rfl

@[simp] theorem State.setMe_time (s : State) (c : Ctx) : (s.setMe c).time = s.time := rfl
@[simp] theorem State.setMe_inbox (s : State) (c : Ctx) : (s.setMe c).inbox = s.inbox := rfl
@[simp] theorem State.setMe_grant (s : State) (c : Ctx) : (s.setMe c).grant = s.grant := rfl
@[simp] theorem State.setMe_cur (s : State) (c : Ctx) : (s.setMe c).cur = { s.cur with verdict := .effect } := rfl
@[simp] theorem State.setMe_ready (s : State) (c : Ctx) : (s.setMe c).ready = s.ready := rfl
@[simp] theorem State.setMe_held (s : State) (c : Ctx) : (s.setMe c).held = s.held := rfl
@[simp] theorem State.setMe_choice (s : State) (c : Ctx) : (s.setMe c).choice = s.choice := rfl
@[simp] theorem State.setMe_fresh (s : State) (c : Ctx) : (s.setMe c).fresh = s.fresh := rfl
@[simp] theorem State.setMe_stamp (s : State) (c : Ctx) : (s.setMe c).stamp = s.stamp := rfl
@[simp] theorem State.setMe_turn (s : State) (c : Ctx) : (s.setMe c).turn = s.turn := rfl
@[simp] theorem State.setMe_refilled (s : State) (c : Ctx) : (s.setMe c).refilled = s.refilled := rfl
@[simp] theorem State.setMe_ctxs (s : State) (c : Ctx) : (s.setMe c).ctxs = Table.set s.ctxs s.cur.id c := rfl
@[simp] theorem State.setMe_cores (s : State) (c : Ctx) : (s.setMe c).cores = s.cores := rfl
@[simp] theorem State.setMe_clusters (s : State) (c : Ctx) : (s.setMe c).clusters = s.clusters := rfl
@[simp] theorem State.setMe_mem (s : State) (c : Ctx) : (s.setMe c).mem = s.mem := rfl
@[simp] theorem State.setMe_lines (s : State) (c : Ctx) : (s.setMe c).lines = s.lines := rfl
@[simp] theorem State.setMe_owners (s : State) (c : Ctx) : (s.setMe c).owners = s.owners := rfl
@[simp] theorem State.setMe_ptes (s : State) (c : Ctx) : (s.setMe c).ptes = s.ptes := rfl
@[simp] theorem State.setMe_roots (s : State) (c : Ctx) : (s.setMe c).roots = s.roots := rfl
@[simp] theorem State.setMe_hostGone (s : State) (c : Ctx) : (s.setMe c).hostGone = s.hostGone := rfl
@[simp] theorem State.setMe_hostBad (s : State) (c : Ctx) : (s.setMe c).hostBad = s.hostBad := rfl
@[simp] theorem State.setMe_requests (s : State) (c : Ctx) : (s.setMe c).requests = s.requests := rfl
@[simp] theorem State.setMe_loads (s : State) (c : Ctx) : (s.setMe c).loads = s.loads := rfl
@[simp] theorem State.setMe_divs (s : State) (c : Ctx) : (s.setMe c).divs = s.divs := rfl
@[simp] theorem State.setMe_atoms (s : State) (c : Ctx) : (s.setMe c).atoms = s.atoms := rfl
@[simp] theorem State.setMe_copies (s : State) (c : Ctx) : (s.setMe c).copies = s.copies := rfl
@[simp] theorem State.setMe_outs (s : State) (c : Ctx) : (s.setMe c).outs = s.outs := rfl
@[simp] theorem State.setMe_flags (s : State) (c : Ctx) : (s.setMe c).flags = s.flags := rfl
@[simp] theorem State.setMe_replies (s : State) (c : Ctx) : (s.setMe c).replies = s.replies := rfl
@[simp] theorem State.setMe_spoiled (s : State) (c : Ctx) : (s.setMe c).spoiled = s.spoiled := rfl
@[simp] theorem State.setMe_rejects (s : State) (c : Ctx) : (s.setMe c).rejects = s.rejects := rfl
@[simp] theorem State.setMe_writes (s : State) (c : Ctx) : (s.setMe c).writes = s.writes := rfl
@[simp] theorem State.setMe_lastArrive (s : State) (c : Ctx) : (s.setMe c).lastArrive = s.lastArrive := rfl
@[simp] theorem State.setMe_retire (s : State) (c : Ctx) : (s.setMe c).retire = s.retire := rfl
@[simp] theorem State.setMe_groups (s : State) (c : Ctx) : (s.setMe c).groups = s.groups := rfl
@[simp] theorem State.setMe_slots (s : State) (c : Ctx) : (s.setMe c).slots = s.slots := rfl
@[simp] theorem State.setMe_walks (s : State) (c : Ctx) : (s.setMe c).walks = s.walks := rfl
@[simp] theorem State.setMe_launches (s : State) (c : Ctx) : (s.setMe c).launches = s.launches := rfl
@[simp] theorem State.setMe_parts (s : State) (c : Ctx) : (s.setMe c).parts = s.parts := rfl
@[simp] theorem State.setMe_insts (s : State) (c : Ctx) : (s.setMe c).insts = s.insts := rfl
@[simp] theorem State.setMe_loadStatus (s : State) (c : Ctx) : (s.setMe c).loadStatus = s.loadStatus := rfl
@[simp] theorem State.setMe_keys (s : State) (c : Ctx) : (s.setMe c).keys = s.keys := rfl
@[simp] theorem State.setMe_jobs (s : State) (c : Ctx) : (s.setMe c).jobs = s.jobs := rfl
@[simp] theorem State.setMe_rxSeq (s : State) (c : Ctx) : (s.setMe c).rxSeq = s.rxSeq := rfl
@[simp] theorem State.setMe_ports (s : State) (c : Ctx) : (s.setMe c).ports = s.ports := rfl
@[simp] theorem State.setMe_monitor (s : State) (c : Ctx) : (s.setMe c).monitor = s.monitor := rfl
@[simp] theorem State.setMe_spdm (s : State) (c : Ctx) : (s.setMe c).spdm = s.spdm := rfl
@[simp] theorem State.setMe_quiesced (s : State) (c : Ctx) : (s.setMe c).quiesced = s.quiesced := rfl
@[simp] theorem State.setMe_served (s : State) (c : Ctx) : (s.setMe c).served = s.served := rfl
@[simp] theorem State.setMe_fwStatus (s : State) (c : Ctx) : (s.setMe c).fwStatus = s.fwStatus := rfl
@[simp] theorem State.setMe_hostOut (s : State) (c : Ctx) : (s.setMe c).hostOut = s.hostOut := rfl
@[simp] theorem State.setMe_paid (s : State) (c : Ctx) : (s.setMe c).paid = s.paid := rfl
@[simp] theorem State.setMe_lostPairs (s : State) (c : Ctx) : (s.setMe c).lostPairs = s.lostPairs := rfl
@[simp] theorem State.setMe_fused (s : State) (c : Ctx) : (s.setMe c).fused = s.fused := rfl
@[simp] theorem State.setMe_pool (s : State) (c : Ctx) : (s.setMe c).pool = s.pool := rfl
@[simp] theorem State.setMe_coresOff (s : State) (c : Ctx) : (s.setMe c).coresOff = s.coresOff := rfl
@[simp] theorem State.setMe_portsOff (s : State) (c : Ctx) : (s.setMe c).portsOff = s.portsOff := rfl
@[simp] theorem State.setMe_power (s : State) (c : Ctx) : (s.setMe c).power = s.power := rfl
@[simp] theorem State.setMe_seen (s : State) (c : Ctx) : (s.setMe c).seen = s.seen := rfl
@[simp] theorem State.setMe_frames (s : State) (c : Ctx) : (s.setMe c).frames = s.frames := rfl
@[simp] theorem State.setMe_halves (s : State) (c : Ctx) : (s.setMe c).halves = s.halves := rfl

@[simp] theorem State.put_time (s : State) (n : Nat) (p : Payload) : (s.put n p).time = s.time := rfl
@[simp] theorem State.put_inbox (s : State) (n : Nat) (p : Payload) : (s.put n p).inbox = s.inbox := rfl
@[simp] theorem State.put_grant (s : State) (n : Nat) (p : Payload) : (s.put n p).grant = s.grant := rfl
@[simp] theorem State.put_cur (s : State) (n : Nat) (p : Payload) : (s.put n p).cur = { s.cur with verdict := .effect } := rfl
@[simp] theorem State.put_ready (s : State) (n : Nat) (p : Payload) : (s.put n p).ready = s.ready := rfl
@[simp] theorem State.put_held (s : State) (n : Nat) (p : Payload) : (s.put n p).held = s.held := rfl
@[simp] theorem State.put_choice (s : State) (n : Nat) (p : Payload) : (s.put n p).choice = s.choice := rfl
@[simp] theorem State.put_fresh (s : State) (n : Nat) (p : Payload) : (s.put n p).fresh = s.fresh := rfl
@[simp] theorem State.put_stamp (s : State) (n : Nat) (p : Payload) : (s.put n p).stamp = s.stamp := rfl
@[simp] theorem State.put_turn (s : State) (n : Nat) (p : Payload) : (s.put n p).turn = s.turn := rfl
@[simp] theorem State.put_refilled (s : State) (n : Nat) (p : Payload) : (s.put n p).refilled = s.refilled := rfl
@[simp] theorem State.put_ctxs (s : State) (n : Nat) (p : Payload) : (s.put n p).ctxs = Table.set s.ctxs s.cur.id { s.me with pend := s.me.pend ++ [⟨s.me.step + n, p⟩] } := rfl
@[simp] theorem State.put_cores (s : State) (n : Nat) (p : Payload) : (s.put n p).cores = s.cores := rfl
@[simp] theorem State.put_clusters (s : State) (n : Nat) (p : Payload) : (s.put n p).clusters = s.clusters := rfl
@[simp] theorem State.put_mem (s : State) (n : Nat) (p : Payload) : (s.put n p).mem = s.mem := rfl
@[simp] theorem State.put_lines (s : State) (n : Nat) (p : Payload) : (s.put n p).lines = s.lines := rfl
@[simp] theorem State.put_owners (s : State) (n : Nat) (p : Payload) : (s.put n p).owners = s.owners := rfl
@[simp] theorem State.put_ptes (s : State) (n : Nat) (p : Payload) : (s.put n p).ptes = s.ptes := rfl
@[simp] theorem State.put_roots (s : State) (n : Nat) (p : Payload) : (s.put n p).roots = s.roots := rfl
@[simp] theorem State.put_hostGone (s : State) (n : Nat) (p : Payload) : (s.put n p).hostGone = s.hostGone := rfl
@[simp] theorem State.put_hostBad (s : State) (n : Nat) (p : Payload) : (s.put n p).hostBad = s.hostBad := rfl
@[simp] theorem State.put_requests (s : State) (n : Nat) (p : Payload) : (s.put n p).requests = s.requests := rfl
@[simp] theorem State.put_loads (s : State) (n : Nat) (p : Payload) : (s.put n p).loads = s.loads := rfl
@[simp] theorem State.put_divs (s : State) (n : Nat) (p : Payload) : (s.put n p).divs = s.divs := rfl
@[simp] theorem State.put_atoms (s : State) (n : Nat) (p : Payload) : (s.put n p).atoms = s.atoms := rfl
@[simp] theorem State.put_copies (s : State) (n : Nat) (p : Payload) : (s.put n p).copies = s.copies := rfl
@[simp] theorem State.put_outs (s : State) (n : Nat) (p : Payload) : (s.put n p).outs = s.outs := rfl
@[simp] theorem State.put_flags (s : State) (n : Nat) (p : Payload) : (s.put n p).flags = s.flags := rfl
@[simp] theorem State.put_replies (s : State) (n : Nat) (p : Payload) : (s.put n p).replies = s.replies := rfl
@[simp] theorem State.put_spoiled (s : State) (n : Nat) (p : Payload) : (s.put n p).spoiled = s.spoiled := rfl
@[simp] theorem State.put_rejects (s : State) (n : Nat) (p : Payload) : (s.put n p).rejects = s.rejects := rfl
@[simp] theorem State.put_writes (s : State) (n : Nat) (p : Payload) : (s.put n p).writes = s.writes := rfl
@[simp] theorem State.put_lastArrive (s : State) (n : Nat) (p : Payload) : (s.put n p).lastArrive = s.lastArrive := rfl
@[simp] theorem State.put_retire (s : State) (n : Nat) (p : Payload) : (s.put n p).retire = s.retire := rfl
@[simp] theorem State.put_groups (s : State) (n : Nat) (p : Payload) : (s.put n p).groups = s.groups := rfl
@[simp] theorem State.put_slots (s : State) (n : Nat) (p : Payload) : (s.put n p).slots = s.slots := rfl
@[simp] theorem State.put_walks (s : State) (n : Nat) (p : Payload) : (s.put n p).walks = s.walks := rfl
@[simp] theorem State.put_launches (s : State) (n : Nat) (p : Payload) : (s.put n p).launches = s.launches := rfl
@[simp] theorem State.put_parts (s : State) (n : Nat) (p : Payload) : (s.put n p).parts = s.parts := rfl
@[simp] theorem State.put_insts (s : State) (n : Nat) (p : Payload) : (s.put n p).insts = s.insts := rfl
@[simp] theorem State.put_loadStatus (s : State) (n : Nat) (p : Payload) : (s.put n p).loadStatus = s.loadStatus := rfl
@[simp] theorem State.put_keys (s : State) (n : Nat) (p : Payload) : (s.put n p).keys = s.keys := rfl
@[simp] theorem State.put_jobs (s : State) (n : Nat) (p : Payload) : (s.put n p).jobs = s.jobs := rfl
@[simp] theorem State.put_rxSeq (s : State) (n : Nat) (p : Payload) : (s.put n p).rxSeq = s.rxSeq := rfl
@[simp] theorem State.put_ports (s : State) (n : Nat) (p : Payload) : (s.put n p).ports = s.ports := rfl
@[simp] theorem State.put_monitor (s : State) (n : Nat) (p : Payload) : (s.put n p).monitor = s.monitor := rfl
@[simp] theorem State.put_spdm (s : State) (n : Nat) (p : Payload) : (s.put n p).spdm = s.spdm := rfl
@[simp] theorem State.put_quiesced (s : State) (n : Nat) (p : Payload) : (s.put n p).quiesced = s.quiesced := rfl
@[simp] theorem State.put_served (s : State) (n : Nat) (p : Payload) : (s.put n p).served = s.served := rfl
@[simp] theorem State.put_fwStatus (s : State) (n : Nat) (p : Payload) : (s.put n p).fwStatus = s.fwStatus := rfl
@[simp] theorem State.put_hostOut (s : State) (n : Nat) (p : Payload) : (s.put n p).hostOut = s.hostOut := rfl
@[simp] theorem State.put_paid (s : State) (n : Nat) (p : Payload) : (s.put n p).paid = s.paid := rfl
@[simp] theorem State.put_lostPairs (s : State) (n : Nat) (p : Payload) : (s.put n p).lostPairs = s.lostPairs := rfl
@[simp] theorem State.put_fused (s : State) (n : Nat) (p : Payload) : (s.put n p).fused = s.fused := rfl
@[simp] theorem State.put_pool (s : State) (n : Nat) (p : Payload) : (s.put n p).pool = s.pool := rfl
@[simp] theorem State.put_coresOff (s : State) (n : Nat) (p : Payload) : (s.put n p).coresOff = s.coresOff := rfl
@[simp] theorem State.put_portsOff (s : State) (n : Nat) (p : Payload) : (s.put n p).portsOff = s.portsOff := rfl
@[simp] theorem State.put_power (s : State) (n : Nat) (p : Payload) : (s.put n p).power = s.power := rfl
@[simp] theorem State.put_seen (s : State) (n : Nat) (p : Payload) : (s.put n p).seen = s.seen := rfl
@[simp] theorem State.put_frames (s : State) (n : Nat) (p : Payload) : (s.put n p).frames = s.frames := rfl
@[simp] theorem State.put_halves (s : State) (n : Nat) (p : Payload) : (s.put n p).halves = s.halves := rfl

@[simp] theorem State.setPte_time (s : State) (k : Nat) (w : Word) : (s.setPte k w).time = s.time := rfl
@[simp] theorem State.setPte_inbox (s : State) (k : Nat) (w : Word) : (s.setPte k w).inbox = s.inbox := rfl
@[simp] theorem State.setPte_grant (s : State) (k : Nat) (w : Word) : (s.setPte k w).grant = s.grant := rfl
@[simp] theorem State.setPte_cur (s : State) (k : Nat) (w : Word) : (s.setPte k w).cur = s.cur := rfl
@[simp] theorem State.setPte_ready (s : State) (k : Nat) (w : Word) : (s.setPte k w).ready = s.ready := rfl
@[simp] theorem State.setPte_held (s : State) (k : Nat) (w : Word) : (s.setPte k w).held = s.held := rfl
@[simp] theorem State.setPte_choice (s : State) (k : Nat) (w : Word) : (s.setPte k w).choice = s.choice := rfl
@[simp] theorem State.setPte_fresh (s : State) (k : Nat) (w : Word) : (s.setPte k w).fresh = s.fresh := rfl
@[simp] theorem State.setPte_stamp (s : State) (k : Nat) (w : Word) : (s.setPte k w).stamp = s.stamp := rfl
@[simp] theorem State.setPte_turn (s : State) (k : Nat) (w : Word) : (s.setPte k w).turn = s.turn := rfl
@[simp] theorem State.setPte_refilled (s : State) (k : Nat) (w : Word) : (s.setPte k w).refilled = s.refilled := rfl
@[simp] theorem State.setPte_ctxs (s : State) (k : Nat) (w : Word) : (s.setPte k w).ctxs = s.ctxs := rfl
@[simp] theorem State.setPte_cores (s : State) (k : Nat) (w : Word) : (s.setPte k w).cores = s.cores := rfl
@[simp] theorem State.setPte_clusters (s : State) (k : Nat) (w : Word) : (s.setPte k w).clusters = s.clusters := rfl
@[simp] theorem State.setPte_mem (s : State) (k : Nat) (w : Word) : (s.setPte k w).mem = s.mem := rfl
@[simp] theorem State.setPte_lines (s : State) (k : Nat) (w : Word) : (s.setPte k w).lines = s.lines := rfl
@[simp] theorem State.setPte_owners (s : State) (k : Nat) (w : Word) : (s.setPte k w).owners = s.owners := rfl
@[simp] theorem State.setPte_ptes (s : State) (k : Nat) (w : Word) : (s.setPte k w).ptes = Table.set s.ptes k w := rfl
@[simp] theorem State.setPte_roots (s : State) (k : Nat) (w : Word) : (s.setPte k w).roots = s.roots := rfl
@[simp] theorem State.setPte_hostGone (s : State) (k : Nat) (w : Word) : (s.setPte k w).hostGone = s.hostGone := rfl
@[simp] theorem State.setPte_hostBad (s : State) (k : Nat) (w : Word) : (s.setPte k w).hostBad = s.hostBad := rfl
@[simp] theorem State.setPte_requests (s : State) (k : Nat) (w : Word) : (s.setPte k w).requests = s.requests := rfl
@[simp] theorem State.setPte_loads (s : State) (k : Nat) (w : Word) : (s.setPte k w).loads = s.loads := rfl
@[simp] theorem State.setPte_divs (s : State) (k : Nat) (w : Word) : (s.setPte k w).divs = s.divs := rfl
@[simp] theorem State.setPte_atoms (s : State) (k : Nat) (w : Word) : (s.setPte k w).atoms = s.atoms := rfl
@[simp] theorem State.setPte_copies (s : State) (k : Nat) (w : Word) : (s.setPte k w).copies = s.copies := rfl
@[simp] theorem State.setPte_outs (s : State) (k : Nat) (w : Word) : (s.setPte k w).outs = s.outs := rfl
@[simp] theorem State.setPte_flags (s : State) (k : Nat) (w : Word) : (s.setPte k w).flags = s.flags := rfl
@[simp] theorem State.setPte_replies (s : State) (k : Nat) (w : Word) : (s.setPte k w).replies = s.replies := rfl
@[simp] theorem State.setPte_spoiled (s : State) (k : Nat) (w : Word) : (s.setPte k w).spoiled = s.spoiled := rfl
@[simp] theorem State.setPte_rejects (s : State) (k : Nat) (w : Word) : (s.setPte k w).rejects = s.rejects := rfl
@[simp] theorem State.setPte_writes (s : State) (k : Nat) (w : Word) : (s.setPte k w).writes = s.writes := rfl
@[simp] theorem State.setPte_lastArrive (s : State) (k : Nat) (w : Word) : (s.setPte k w).lastArrive = s.lastArrive := rfl
@[simp] theorem State.setPte_retire (s : State) (k : Nat) (w : Word) : (s.setPte k w).retire = s.retire := rfl
@[simp] theorem State.setPte_groups (s : State) (k : Nat) (w : Word) : (s.setPte k w).groups = s.groups := rfl
@[simp] theorem State.setPte_slots (s : State) (k : Nat) (w : Word) : (s.setPte k w).slots = s.slots := rfl
@[simp] theorem State.setPte_walks (s : State) (k : Nat) (w : Word) : (s.setPte k w).walks = s.walks := rfl
@[simp] theorem State.setPte_launches (s : State) (k : Nat) (w : Word) : (s.setPte k w).launches = s.launches := rfl
@[simp] theorem State.setPte_parts (s : State) (k : Nat) (w : Word) : (s.setPte k w).parts = s.parts := rfl
@[simp] theorem State.setPte_insts (s : State) (k : Nat) (w : Word) : (s.setPte k w).insts = s.insts := rfl
@[simp] theorem State.setPte_loadStatus (s : State) (k : Nat) (w : Word) : (s.setPte k w).loadStatus = s.loadStatus := rfl
@[simp] theorem State.setPte_keys (s : State) (k : Nat) (w : Word) : (s.setPte k w).keys = s.keys := rfl
@[simp] theorem State.setPte_jobs (s : State) (k : Nat) (w : Word) : (s.setPte k w).jobs = s.jobs := rfl
@[simp] theorem State.setPte_rxSeq (s : State) (k : Nat) (w : Word) : (s.setPte k w).rxSeq = s.rxSeq := rfl
@[simp] theorem State.setPte_ports (s : State) (k : Nat) (w : Word) : (s.setPte k w).ports = s.ports := rfl
@[simp] theorem State.setPte_monitor (s : State) (k : Nat) (w : Word) : (s.setPte k w).monitor = s.monitor := rfl
@[simp] theorem State.setPte_spdm (s : State) (k : Nat) (w : Word) : (s.setPte k w).spdm = s.spdm := rfl
@[simp] theorem State.setPte_quiesced (s : State) (k : Nat) (w : Word) : (s.setPte k w).quiesced = s.quiesced := rfl
@[simp] theorem State.setPte_served (s : State) (k : Nat) (w : Word) : (s.setPte k w).served = s.served := rfl
@[simp] theorem State.setPte_fwStatus (s : State) (k : Nat) (w : Word) : (s.setPte k w).fwStatus = s.fwStatus := rfl
@[simp] theorem State.setPte_hostOut (s : State) (k : Nat) (w : Word) : (s.setPte k w).hostOut = s.hostOut := rfl
@[simp] theorem State.setPte_paid (s : State) (k : Nat) (w : Word) : (s.setPte k w).paid = s.paid := rfl
@[simp] theorem State.setPte_lostPairs (s : State) (k : Nat) (w : Word) : (s.setPte k w).lostPairs = s.lostPairs := rfl
@[simp] theorem State.setPte_fused (s : State) (k : Nat) (w : Word) : (s.setPte k w).fused = s.fused := rfl
@[simp] theorem State.setPte_pool (s : State) (k : Nat) (w : Word) : (s.setPte k w).pool = s.pool := rfl
@[simp] theorem State.setPte_coresOff (s : State) (k : Nat) (w : Word) : (s.setPte k w).coresOff = s.coresOff := rfl
@[simp] theorem State.setPte_portsOff (s : State) (k : Nat) (w : Word) : (s.setPte k w).portsOff = s.portsOff := rfl
@[simp] theorem State.setPte_power (s : State) (k : Nat) (w : Word) : (s.setPte k w).power = s.power := rfl
@[simp] theorem State.setPte_seen (s : State) (k : Nat) (w : Word) : (s.setPte k w).seen = s.seen := rfl
@[simp] theorem State.setPte_frames (s : State) (k : Nat) (w : Word) : (s.setPte k w).frames = s.frames := rfl
@[simp] theorem State.setPte_halves (s : State) (k : Nat) (w : Word) : (s.setPte k w).halves = s.halves := rfl

@[simp] theorem State.holdFor_time (s : State) (w : Wait) : (s.holdFor w).time = s.time := rfl
@[simp] theorem State.holdFor_inbox (s : State) (w : Wait) : (s.holdFor w).inbox = s.inbox := rfl
@[simp] theorem State.holdFor_grant (s : State) (w : Wait) : (s.holdFor w).grant = s.grant := rfl
@[simp] theorem State.holdFor_cur (s : State) (w : Wait) : (s.holdFor w).cur = { s.cur with verdict := .held } := rfl
@[simp] theorem State.holdFor_ready (s : State) (w : Wait) : (s.holdFor w).ready = s.ready := rfl
@[simp] theorem State.holdFor_held (s : State) (w : Wait) : (s.holdFor w).held = s.held := rfl
@[simp] theorem State.holdFor_choice (s : State) (w : Wait) : (s.holdFor w).choice = s.choice := rfl
@[simp] theorem State.holdFor_fresh (s : State) (w : Wait) : (s.holdFor w).fresh = s.fresh := rfl
@[simp] theorem State.holdFor_stamp (s : State) (w : Wait) : (s.holdFor w).stamp = s.stamp := rfl
@[simp] theorem State.holdFor_turn (s : State) (w : Wait) : (s.holdFor w).turn = s.turn := rfl
@[simp] theorem State.holdFor_refilled (s : State) (w : Wait) : (s.holdFor w).refilled = s.refilled := rfl
@[simp] theorem State.holdFor_ctxs (s : State) (w : Wait) : (s.holdFor w).ctxs = Table.set s.ctxs s.cur.id { s.ctx s.cur.id with wait := some w } := rfl
@[simp] theorem State.holdFor_cores (s : State) (w : Wait) : (s.holdFor w).cores = s.cores := rfl
@[simp] theorem State.holdFor_clusters (s : State) (w : Wait) : (s.holdFor w).clusters = s.clusters := rfl
@[simp] theorem State.holdFor_mem (s : State) (w : Wait) : (s.holdFor w).mem = s.mem := rfl
@[simp] theorem State.holdFor_lines (s : State) (w : Wait) : (s.holdFor w).lines = s.lines := rfl
@[simp] theorem State.holdFor_owners (s : State) (w : Wait) : (s.holdFor w).owners = s.owners := rfl
@[simp] theorem State.holdFor_ptes (s : State) (w : Wait) : (s.holdFor w).ptes = s.ptes := rfl
@[simp] theorem State.holdFor_roots (s : State) (w : Wait) : (s.holdFor w).roots = s.roots := rfl
@[simp] theorem State.holdFor_hostGone (s : State) (w : Wait) : (s.holdFor w).hostGone = s.hostGone := rfl
@[simp] theorem State.holdFor_hostBad (s : State) (w : Wait) : (s.holdFor w).hostBad = s.hostBad := rfl
@[simp] theorem State.holdFor_requests (s : State) (w : Wait) : (s.holdFor w).requests = s.requests := rfl
@[simp] theorem State.holdFor_loads (s : State) (w : Wait) : (s.holdFor w).loads = s.loads := rfl
@[simp] theorem State.holdFor_divs (s : State) (w : Wait) : (s.holdFor w).divs = s.divs := rfl
@[simp] theorem State.holdFor_atoms (s : State) (w : Wait) : (s.holdFor w).atoms = s.atoms := rfl
@[simp] theorem State.holdFor_copies (s : State) (w : Wait) : (s.holdFor w).copies = s.copies := rfl
@[simp] theorem State.holdFor_outs (s : State) (w : Wait) : (s.holdFor w).outs = s.outs := rfl
@[simp] theorem State.holdFor_flags (s : State) (w : Wait) : (s.holdFor w).flags = s.flags := rfl
@[simp] theorem State.holdFor_replies (s : State) (w : Wait) : (s.holdFor w).replies = s.replies := rfl
@[simp] theorem State.holdFor_spoiled (s : State) (w : Wait) : (s.holdFor w).spoiled = s.spoiled := rfl
@[simp] theorem State.holdFor_rejects (s : State) (w : Wait) : (s.holdFor w).rejects = s.rejects := rfl
@[simp] theorem State.holdFor_writes (s : State) (w : Wait) : (s.holdFor w).writes = s.writes := rfl
@[simp] theorem State.holdFor_lastArrive (s : State) (w : Wait) : (s.holdFor w).lastArrive = s.lastArrive := rfl
@[simp] theorem State.holdFor_retire (s : State) (w : Wait) : (s.holdFor w).retire = s.retire := rfl
@[simp] theorem State.holdFor_groups (s : State) (w : Wait) : (s.holdFor w).groups = s.groups := rfl
@[simp] theorem State.holdFor_slots (s : State) (w : Wait) : (s.holdFor w).slots = s.slots := rfl
@[simp] theorem State.holdFor_walks (s : State) (w : Wait) : (s.holdFor w).walks = s.walks := rfl
@[simp] theorem State.holdFor_launches (s : State) (w : Wait) : (s.holdFor w).launches = s.launches := rfl
@[simp] theorem State.holdFor_parts (s : State) (w : Wait) : (s.holdFor w).parts = s.parts := rfl
@[simp] theorem State.holdFor_insts (s : State) (w : Wait) : (s.holdFor w).insts = s.insts := rfl
@[simp] theorem State.holdFor_loadStatus (s : State) (w : Wait) : (s.holdFor w).loadStatus = s.loadStatus := rfl
@[simp] theorem State.holdFor_keys (s : State) (w : Wait) : (s.holdFor w).keys = s.keys := rfl
@[simp] theorem State.holdFor_jobs (s : State) (w : Wait) : (s.holdFor w).jobs = s.jobs := rfl
@[simp] theorem State.holdFor_rxSeq (s : State) (w : Wait) : (s.holdFor w).rxSeq = s.rxSeq := rfl
@[simp] theorem State.holdFor_ports (s : State) (w : Wait) : (s.holdFor w).ports = s.ports := rfl
@[simp] theorem State.holdFor_monitor (s : State) (w : Wait) : (s.holdFor w).monitor = s.monitor := rfl
@[simp] theorem State.holdFor_spdm (s : State) (w : Wait) : (s.holdFor w).spdm = s.spdm := rfl
@[simp] theorem State.holdFor_quiesced (s : State) (w : Wait) : (s.holdFor w).quiesced = s.quiesced := rfl
@[simp] theorem State.holdFor_served (s : State) (w : Wait) : (s.holdFor w).served = s.served := rfl
@[simp] theorem State.holdFor_fwStatus (s : State) (w : Wait) : (s.holdFor w).fwStatus = s.fwStatus := rfl
@[simp] theorem State.holdFor_hostOut (s : State) (w : Wait) : (s.holdFor w).hostOut = s.hostOut := rfl
@[simp] theorem State.holdFor_paid (s : State) (w : Wait) : (s.holdFor w).paid = s.paid := rfl
@[simp] theorem State.holdFor_lostPairs (s : State) (w : Wait) : (s.holdFor w).lostPairs = s.lostPairs := rfl
@[simp] theorem State.holdFor_fused (s : State) (w : Wait) : (s.holdFor w).fused = s.fused := rfl
@[simp] theorem State.holdFor_pool (s : State) (w : Wait) : (s.holdFor w).pool = s.pool := rfl
@[simp] theorem State.holdFor_coresOff (s : State) (w : Wait) : (s.holdFor w).coresOff = s.coresOff := rfl
@[simp] theorem State.holdFor_portsOff (s : State) (w : Wait) : (s.holdFor w).portsOff = s.portsOff := rfl
@[simp] theorem State.holdFor_power (s : State) (w : Wait) : (s.holdFor w).power = s.power := rfl
@[simp] theorem State.holdFor_seen (s : State) (w : Wait) : (s.holdFor w).seen = s.seen := rfl
@[simp] theorem State.holdFor_frames (s : State) (w : Wait) : (s.holdFor w).frames = s.frames := rfl
@[simp] theorem State.holdFor_halves (s : State) (w : Wait) : (s.holdFor w).halves = s.halves := rfl

@[simp] theorem State.holdFull_time (s : State) : s.holdFull.time = s.time := rfl
@[simp] theorem State.holdFull_inbox (s : State) : s.holdFull.inbox = s.inbox := rfl
@[simp] theorem State.holdFull_grant (s : State) : s.holdFull.grant = s.grant := rfl
@[simp] theorem State.holdFull_cur (s : State) : s.holdFull.cur = { s.cur with verdict := .held } := rfl
@[simp] theorem State.holdFull_ready (s : State) : s.holdFull.ready = s.ready := rfl
@[simp] theorem State.holdFull_held (s : State) : s.holdFull.held = s.held := rfl
@[simp] theorem State.holdFull_choice (s : State) : s.holdFull.choice = s.choice := rfl
@[simp] theorem State.holdFull_fresh (s : State) : s.holdFull.fresh = s.fresh := rfl
@[simp] theorem State.holdFull_stamp (s : State) : s.holdFull.stamp = s.stamp := rfl
@[simp] theorem State.holdFull_turn (s : State) : s.holdFull.turn = s.turn := rfl
@[simp] theorem State.holdFull_refilled (s : State) : s.holdFull.refilled = s.refilled := rfl
@[simp] theorem State.holdFull_ctxs (s : State) : s.holdFull.ctxs = s.ctxs := rfl
@[simp] theorem State.holdFull_cores (s : State) : s.holdFull.cores = s.cores := rfl
@[simp] theorem State.holdFull_clusters (s : State) : s.holdFull.clusters = s.clusters := rfl
@[simp] theorem State.holdFull_mem (s : State) : s.holdFull.mem = s.mem := rfl
@[simp] theorem State.holdFull_lines (s : State) : s.holdFull.lines = s.lines := rfl
@[simp] theorem State.holdFull_owners (s : State) : s.holdFull.owners = s.owners := rfl
@[simp] theorem State.holdFull_ptes (s : State) : s.holdFull.ptes = s.ptes := rfl
@[simp] theorem State.holdFull_roots (s : State) : s.holdFull.roots = s.roots := rfl
@[simp] theorem State.holdFull_hostGone (s : State) : s.holdFull.hostGone = s.hostGone := rfl
@[simp] theorem State.holdFull_hostBad (s : State) : s.holdFull.hostBad = s.hostBad := rfl
@[simp] theorem State.holdFull_requests (s : State) : s.holdFull.requests = s.requests := rfl
@[simp] theorem State.holdFull_loads (s : State) : s.holdFull.loads = s.loads := rfl
@[simp] theorem State.holdFull_divs (s : State) : s.holdFull.divs = s.divs := rfl
@[simp] theorem State.holdFull_atoms (s : State) : s.holdFull.atoms = s.atoms := rfl
@[simp] theorem State.holdFull_copies (s : State) : s.holdFull.copies = s.copies := rfl
@[simp] theorem State.holdFull_outs (s : State) : s.holdFull.outs = s.outs := rfl
@[simp] theorem State.holdFull_flags (s : State) : s.holdFull.flags = s.flags := rfl
@[simp] theorem State.holdFull_replies (s : State) : s.holdFull.replies = s.replies := rfl
@[simp] theorem State.holdFull_spoiled (s : State) : s.holdFull.spoiled = s.spoiled := rfl
@[simp] theorem State.holdFull_rejects (s : State) : s.holdFull.rejects = s.rejects := rfl
@[simp] theorem State.holdFull_writes (s : State) : s.holdFull.writes = s.writes := rfl
@[simp] theorem State.holdFull_lastArrive (s : State) : s.holdFull.lastArrive = s.lastArrive := rfl
@[simp] theorem State.holdFull_retire (s : State) : s.holdFull.retire = s.retire := rfl
@[simp] theorem State.holdFull_groups (s : State) : s.holdFull.groups = s.groups := rfl
@[simp] theorem State.holdFull_slots (s : State) : s.holdFull.slots = s.slots := rfl
@[simp] theorem State.holdFull_walks (s : State) : s.holdFull.walks = s.walks := rfl
@[simp] theorem State.holdFull_launches (s : State) : s.holdFull.launches = s.launches := rfl
@[simp] theorem State.holdFull_parts (s : State) : s.holdFull.parts = s.parts := rfl
@[simp] theorem State.holdFull_insts (s : State) : s.holdFull.insts = s.insts := rfl
@[simp] theorem State.holdFull_loadStatus (s : State) : s.holdFull.loadStatus = s.loadStatus := rfl
@[simp] theorem State.holdFull_keys (s : State) : s.holdFull.keys = s.keys := rfl
@[simp] theorem State.holdFull_jobs (s : State) : s.holdFull.jobs = s.jobs := rfl
@[simp] theorem State.holdFull_rxSeq (s : State) : s.holdFull.rxSeq = s.rxSeq := rfl
@[simp] theorem State.holdFull_ports (s : State) : s.holdFull.ports = s.ports := rfl
@[simp] theorem State.holdFull_monitor (s : State) : s.holdFull.monitor = s.monitor := rfl
@[simp] theorem State.holdFull_spdm (s : State) : s.holdFull.spdm = s.spdm := rfl
@[simp] theorem State.holdFull_quiesced (s : State) : s.holdFull.quiesced = s.quiesced := rfl
@[simp] theorem State.holdFull_served (s : State) : s.holdFull.served = s.served := rfl
@[simp] theorem State.holdFull_fwStatus (s : State) : s.holdFull.fwStatus = s.fwStatus := rfl
@[simp] theorem State.holdFull_hostOut (s : State) : s.holdFull.hostOut = s.hostOut := rfl
@[simp] theorem State.holdFull_paid (s : State) : s.holdFull.paid = s.paid := rfl
@[simp] theorem State.holdFull_lostPairs (s : State) : s.holdFull.lostPairs = s.lostPairs := rfl
@[simp] theorem State.holdFull_fused (s : State) : s.holdFull.fused = s.fused := rfl
@[simp] theorem State.holdFull_pool (s : State) : s.holdFull.pool = s.pool := rfl
@[simp] theorem State.holdFull_coresOff (s : State) : s.holdFull.coresOff = s.coresOff := rfl
@[simp] theorem State.holdFull_portsOff (s : State) : s.holdFull.portsOff = s.portsOff := rfl
@[simp] theorem State.holdFull_power (s : State) : s.holdFull.power = s.power := rfl
@[simp] theorem State.holdFull_seen (s : State) : s.holdFull.seen = s.seen := rfl
@[simp] theorem State.holdFull_frames (s : State) : s.holdFull.frames = s.frames := rfl
@[simp] theorem State.holdFull_halves (s : State) : s.holdFull.halves = s.halves := rfl

end Sys2Proof.Machine
end

