-- ==== Sys2Proof/Laws/Table.lean ====
section
/-!
SUPPORT. Keyed tables and byte memory: what a read gives after a write, and that every operation on memory keeps its canonical
form.
-/

namespace Sys2Proof

variable {α : Type}

/-! ### Tables -/

@[simp] theorem Table.get_set_same (d : α) (t : Table α) (k : Nat) (v : α) : Table.get d (Table.set t k v) k = v := by
  induction t with
  | nil => simp [Table.set, Table.get]
  | cons p t ih =>
    obtain ⟨j, x⟩ := p
    simp only [Table.set]
    split
    · simp [Table.get]
    · split
      · simp [Table.get]
      · rename_i h1 h2
        simp [Table.get, h1, h2, ih]

theorem Table.get_set_other (d : α) (t : Table α) {k j : Nat} (v : α) (h : j ≠ k) :
    Table.get d (Table.set t k v) j = Table.get d t j := by
  induction t with
  | nil =>
    simp only [Table.set, Table.get]
    split <;> simp_all
  | cons p t ih =>
    obtain ⟨i, x⟩ := p
    simp only [Table.set]
    split
    · rename_i h1
      simp only [Table.get, h, if_false]
      split
      · rw [if_pos (by omega)]
      · rfl
    · split
      · rename_i h1 h2
        subst h2
        simp [Table.get, h]
      · simp only [Table.get, ih]

theorem Table.get_set (d : α) (t : Table α) (k j : Nat) (v : α) :
    Table.get d (Table.set t k v) j = if j = k then v else Table.get d t j := by
  split
  · subst_vars; simp
  · rename_i h; exact Table.get_set_other d t v h

@[simp] theorem Table.find_set_same (t : Table α) (k : Nat) (v : α) : Table.find (Table.set t k v) k = some v := by
  induction t with
  | nil => simp [Table.set, Table.find]
  | cons p t ih =>
    obtain ⟨j, x⟩ := p
    simp only [Table.set]
    split
    · simp [Table.find]
    · split
      · simp [Table.find]
      · rename_i h1 h2
        simp [Table.find, h1, h2, ih]

theorem Table.find_set_other (t : Table α) {k j : Nat} (v : α) (h : j ≠ k) :
    Table.find (Table.set t k v) j = Table.find t j := by
  induction t with
  | nil =>
    simp only [Table.set, Table.find]
    split <;> simp_all
  | cons p t ih =>
    obtain ⟨i, x⟩ := p
    simp only [Table.set]
    split
    · rename_i h1
      simp only [Table.find, h, if_false]
      split
      · rw [if_pos (by omega)]
      · rfl
    · split
      · rename_i h1 h2
        subst h2
        simp [Table.find, h]
      · simp only [Table.find, ih]

/-! ### Memory -/

theorem Memory.wfFrom_mono {lo lo' : Nat} {m : Memory} (h : lo' ≤ lo) (w : Memory.wfFrom lo m = true) :
    Memory.wfFrom lo' m = true := by
  cases m with
  | nil => rfl
  | cons p m =>
    obtain ⟨a, b⟩ := p
    simp only [Memory.wfFrom, Bool.and_eq_true, decide_eq_true_eq] at w ⊢
    exact ⟨⟨by omega, w.1.2⟩, w.2⟩

theorem Memory.wfFrom_write {lo : Nat} {m : Memory} (x : Nat) (v : Byte) (h : lo ≤ x) (w : Memory.wfFrom lo m = true) :
    Memory.wfFrom lo (m.write x v) = true := by
  induction m generalizing lo with
  | nil =>
    simp only [Memory.write]
    split <;> simp_all [Memory.wfFrom]
  | cons p m ih =>
    obtain ⟨a, b⟩ := p
    simp only [Memory.wfFrom, Bool.and_eq_true, decide_eq_true_eq] at w
    obtain ⟨⟨w1, w2⟩, w3⟩ := w
    have w2' : ¬b = 0#8 := w2
    simp only [Memory.write]
    split
    · rename_i h1
      split
      · simp [Memory.wfFrom, w1, w2', w3]
      · rename_i hv
        have hv' : ¬v = 0#8 := hv
        simp only [Memory.wfFrom, h, w3, decide_true, Bool.true_and, Bool.and_true, Bool.and_eq_true, decide_eq_true_eq]
        exact ⟨hv, by omega, w2⟩
    · split
      · rename_i h1 h2
        subst h2
        split
        · exact Memory.wfFrom_mono (by omega) w3
        · rename_i hv
          simp only [Memory.wfFrom, h, w3, decide_true, Bool.true_and, Bool.and_true, decide_eq_true_eq]
          exact hv
      · rename_i h1 h2
        simp only [Memory.wfFrom, w1, w2, decide_true, Bool.true_and, ne_eq, not_false_eq_true]
        exact ih (by omega) w3

/-- Writing a byte keeps the canonical form. -/
theorem Memory.wf_write {m : Memory} (x : Nat) (v : Byte) (w : m.wf = true) : (m.write x v).wf = true :=
  Memory.wfFrom_write x v (Nat.zero_le x) w

/-- Writing cells keeps the canonical form. -/
theorem Memory.wf_writeCells {m : Memory} (cs : List Host.Cell) (w : m.wf = true) : (m.writeCells cs).wf = true := by
  induction cs generalizing m with
  | nil => exact w
  | cons c cs ih =>
    obtain ⟨a, b⟩ := c
    exact ih (Memory.wf_write a b w)

theorem Memory.wfFrom_filter {lo : Nat} {m : Memory} (p : Host.Cell → Bool) (w : Memory.wfFrom lo m = true) :
    Memory.wfFrom lo (m.filter p) = true := by
  induction m generalizing lo with
  | nil => rfl
  | cons c m ih =>
    obtain ⟨a, b⟩ := c
    simp only [Memory.wfFrom, Bool.and_eq_true, decide_eq_true_eq] at w
    obtain ⟨⟨w1, w2⟩, w3⟩ := w
    have w2' : ¬b = 0#8 := w2
    simp only [List.filter_cons]
    split
    · simp [Memory.wfFrom, w1, w2', ih w3]
    · exact Memory.wfFrom_mono (by omega) (ih w3)

/-- Taking bytes out keeps the canonical form. -/
theorem Memory.wf_filter {m : Memory} (p : Host.Cell → Bool) (w : m.wf = true) : Memory.wf (m.filter p) = true :=
  Memory.wfFrom_filter p w

theorem Memory.read_below {lo : Nat} {m : Memory} {x : Nat} (h : x < lo) (w : Memory.wfFrom lo m = true) : Memory.read m x = 0 := by
  cases m with
  | nil => rfl
  | cons p m =>
    obtain ⟨a, b⟩ := p
    simp only [Memory.wfFrom, Bool.and_eq_true, decide_eq_true_eq] at w
    simp only [Memory.read]
    rw [if_pos (by omega)]

theorem Memory.read_write_from {lo : Nat} {m : Memory} (x y : Nat) (v : Byte) (w : Memory.wfFrom lo m = true) :
    Memory.read (Memory.write m x v) y = if y = x then v else Memory.read m y := by
  induction m generalizing lo with
  | nil =>
    simp only [Memory.write]
    split
    · rename_i hv; simp only [Memory.read]; split <;> simp_all
    · simp only [Memory.read]
      by_cases h1 : y = x
      · simp [h1]
      · simp [h1]
  | cons p m ih =>
    obtain ⟨a, b⟩ := p
    simp only [Memory.wfFrom, Bool.and_eq_true, decide_eq_true_eq] at w
    obtain ⟨⟨w1, w2⟩, w3⟩ := w
    have w2' : ¬b = 0#8 := w2
    have ih := ih w3
    have below : ∀ z, z < a + 1 → Memory.read m z = 0 := fun z hz => Memory.read_below hz w3
    simp only [Memory.write]
    split
    · rename_i h1
      by_cases hv : v = 0
      · rw [if_pos hv]
        by_cases hy : y = x
        · rw [if_pos hy, hv, hy]
          simp only [Memory.read]
          rw [if_pos h1]
        · rw [if_neg hy]
      · rw [if_neg hv]
        by_cases hy : y = x
        · rw [if_pos hy, hy]
          simp only [Memory.read]
          rw [if_neg (Nat.lt_irrefl x)]
          simp
        · rw [if_neg hy]
          simp only [Memory.read]
          by_cases hl : y < x
          · rw [if_pos hl, if_pos (by omega)]
          · rw [if_neg hl, if_neg hy]
    · split
      · rename_i h1 h2
        subst h2
        by_cases hv : v = 0
        · rw [if_pos hv]
          by_cases hy : y = x
          · rw [if_pos hy, hv, hy]
            exact below x (by omega)
          · rw [if_neg hy]
            simp only [Memory.read]
            by_cases hl : y < x
            · rw [if_pos hl]
              exact below y (by omega)
            · rw [if_neg hl, if_neg hy]
        · rw [if_neg hv]
          simp only [Memory.read]
          by_cases hy : y = x
          · rw [if_pos hy, if_neg (by omega), if_pos hy]
          · rw [if_neg hy, if_neg hy]
            by_cases hl : y < x
            · rw [if_pos hl, if_pos hl]
            · rw [if_neg hl, if_neg hl, if_neg hy]
      · rename_i h1 h2
        simp only [Memory.read, ih]
        by_cases hy : y = x
        · subst hy; simp [h1, h2]
        · simp [hy]

/-- What a read gives after a write, in canonical memory. -/
theorem Memory.read_write {m : Memory} (x y : Nat) (v : Byte) (w : m.wf = true) :
    Memory.read (Memory.write m x v) y = if y = x then v else Memory.read m y := Memory.read_write_from x y v w

end Sys2Proof
end

