-- ==== Sys2Proof/Laws/Memory.lean ====
section
/-!
SUPPORT. What the shared operations do to memory: those that write keep its canonical form, the others leave it as it is.
-/

namespace Sys2Proof.Machine

/-- A fold keeps what each of its steps keeps. -/
theorem foldl_keeps {β : Type} {P : State → Prop} {f : State → β → State} (h : ∀ s x, P s → P (f s x)) (xs : List β)
    {s : State} (hs : P s) : P (xs.foldl f s) := by
  induction xs generalizing s with
  | nil => exact hs
  | cons x xs ih => exact ih (h s x hs)

/-- A fold leaves memory as it is where each of its steps does. -/
theorem foldl_mem {β : Type} {f : State → β → State} (h : ∀ s x, (f s x).mem = s.mem) (xs : List β) (s : State) :
    (xs.foldl f s).mem = s.mem := by
  induction xs generalizing s with
  | nil => rfl
  | cons x xs ih => exact (ih (f s x)).trans (h s x)

/-! ### Operations that write -/

theorem State.rekeyLine_wf {s : State} (k line : Nat) (w : s.mem.wf = true) : (s.rekeyLine k line).mem.wf = true := by
  have h := fun cs => Memory.wf_writeCells cs w
  unfold State.rekeyLine
  split
  · split
    · exact w
    · dsimp only
      exact h _
  · dsimp only
    exact h _
  · exact w

theorem State.rawLine_wf {s : State} (slot tweak line : Nat) (w : s.mem.wf = true) :
    (s.rawLine slot tweak line).mem.wf = true := by
  have h := fun cs => Memory.wf_writeCells cs w
  unfold State.rawLine
  split
  · dsimp only
    exact h _
  · exact w

theorem State.poke_wf {s : State} (slot : Nat) (c : Host.Cell) (w : s.mem.wf = true) : (s.poke slot c).mem.wf = true := by
  unfold State.poke
  refine Memory.wf_write _ _ ?_
  split
  · exact State.rawLine_wf _ _ _ w
  · split
    · exact State.rekeyLine_wf _ _ w
    · split <;> exact w

theorem State.pokeCells_wf {s : State} (slot : Nat) (cs : List Host.Cell) (w : s.mem.wf = true) :
    (s.pokeCells slot cs).mem.wf = true := by
  induction cs generalizing s with
  | nil => exact w
  | cons c cs ih => exact ih (State.poke_wf slot c w)

/-- Putting data into memory keeps its canonical form. -/
theorem State.memWrite_wf {s : State} (slot : Nat) (cs : List Host.Cell) (w : s.mem.wf = true) :
    (s.memWrite slot cs).mem.wf = true := State.pokeCells_wf slot cs w

theorem State.moveTo_wf {s : State} (level : Nat) (u : Write) (w : s.mem.wf = true) : (s.moveTo level u).mem.wf = true := by
  unfold State.moveTo
  split
  · exact State.memWrite_wf _ _ w
  · exact w

@[simp] theorem State.sweepWrites_mem (s : State) : s.sweepWrites.mem = s.mem := rfl

theorem State.forceOut_wf {s : State} (level : Nat) (as : List Nat) (w : s.mem.wf = true) :
    (s.forceOut level as).mem.wf = true := by
  unfold State.forceOut
  exact foldl_keeps (P := fun u => u.mem.wf = true) (fun u x h => State.moveTo_wf level x h) _ w

/-- A write that is visible at once keeps the canonical form. -/
theorem State.writeAt_wf {s : State} (tid ctx iss scope key : Nat) (cs : List Host.Cell) (rel : List Nat)
    (w : s.mem.wf = true) : (s.writeAt tid ctx iss scope key cs rel).mem.wf = true := by
  simp only [State.writeAt, State.writeAs, State.sweepWrites_mem]
  split
  · exact State.memWrite_wf _ _ (State.forceOut_wf _ _ w)
  · exact State.forceOut_wf _ _ w

/-- An engine's write keeps the canonical form. -/
theorem State.writeChip_wf {s : State} (key : Nat) (cs : List Host.Cell) (w : s.mem.wf = true) :
    (s.writeChip key cs).mem.wf = true := State.memWrite_wf _ _ (State.forceOut_wf _ _ w)

/-- Wiping a range keeps the canonical form. -/
theorem State.wipe_wf {s : State} (lo n : Nat) (w : s.mem.wf = true) : (s.wipe lo n).mem.wf = true :=
  Memory.wf_filter _ (Memory.wf_filter _ (State.forceOut_wf _ _ w))

/-- So does a frame that the firmware gives. -/
theorem State.newFrame_wf {s u : State} {f n a : Nat} (w : s.mem.wf = true) (h : s.newFrame f n = some (a, u)) : u.mem.wf = true := by
  unfold State.newFrame State.frameBy at h
  split at h
  · simp only [Option.some.injEq, Prod.mk.injEq] at h
    rw [← h.2]
    exact w
  · simp only [Option.map_eq_some_iff, Prod.mk.injEq] at h
    obtain ⟨_, _, _, rfl⟩ := h
    exact State.wipe_wf _ _ w

/-- And so do several. -/
theorem State.newFrames_wf {s : State} {f n : Nat} {q : List Nat × State} (w : s.mem.wf = true) (h : s.newFrames f n = some q) :
    q.2.mem.wf = true := by
  induction n generalizing s q with
  | zero =>
    simp only [State.newFrames, Option.some.injEq] at h
    rw [← h]
    exact w
  | succ n ih =>
    simp only [State.newFrames, Option.bind_eq_some_iff, Option.map_eq_some_iff] at h
    obtain ⟨p, hp, r, hr, rfl⟩ := h
    exact ih (q := r) (State.newFrame_wf w hp) hr

/-! ### Operations that leave memory as it is -/

@[simp] theorem State.placeWrite_mem (s : State) (u : Write) : (s.placeWrite u).mem = s.mem := rfl

/-- A frame for a first touch leaves memory as it is. -/
theorem State.zeroFrame_mem {s u : State} {f n a : Nat} (h : s.zeroFrame f n = some (a, u)) : u.mem = s.mem := by
  unfold State.zeroFrame State.frameBy at h
  split at h
  · simp only [Option.some.injEq, Prod.mk.injEq] at h
    rw [← h.2]
  · simp only [Option.map_eq_some_iff, Prod.mk.injEq] at h
    obtain ⟨_, _, _, rfl⟩ := h
    rfl

theorem State.takeReserved_mem {s u : State} {l n a : Nat} (h : s.takeReserved l n = some (a, u)) : u.mem = s.mem := by
  unfold State.takeReserved at h
  split at h
  · exact absurd h (by simp)
  · simp only [Option.map_eq_some_iff, Prod.mk.injEq] at h
    obtain ⟨_, _, _, rfl⟩ := h
    rfl

@[simp] theorem State.keepFrame_mem (s : State) (l : Leaf) : (s.keepFrame l).mem = s.mem := by
  unfold State.keepFrame
  simp only
  split <;> rfl

@[simp] theorem State.firstTouch_mem (s : State) (o : Option Nat) (f g : Nat) (l : Leaf) : (s.firstTouch o f g l).mem = s.mem := by
  unfold State.firstTouch
  split
  · rfl
  · rename_i h
    rw [Option.or_eq_some_iff] at h
    rcases h with h | ⟨_, h⟩
    · cases o with
      | none => exact absurd h (by simp)
      | some n => simpa using State.takeReserved_mem h
    · simpa using State.zeroFrame_mem h

@[simp] theorem State.firstLevel_mem (s : State) (c : Nat) (e : Nat × Nat × Nat × Nat) : (s.firstLevel c e).mem = s.mem := by
  unfold State.firstLevel
  simp only
  split <;> rfl

@[simp] theorem State.tagGranules_mem (s : State) (c f sp a n : Nat) : (s.tagGranules c f sp a n).mem = s.mem := rfl
@[simp] theorem State.done_mem (s : State) : s.done.mem = s.mem := rfl
@[simp] theorem State.event_mem (s : State) (f c w : Nat) : (s.event f c w).mem = s.mem := rfl

@[simp] theorem State.touch_mem (s : State) (c f sp va : Nat) (l : Leaf) (wr : Bool) : (s.touch c f sp va l wr).mem = s.mem := by
  unfold State.touch
  simp only
  repeat' split
  all_goals simp

@[simp] theorem State.prepare_mem (s : State) (t : Task) (c sp va : Nat) (wr : Bool) : (s.prepare t c sp va wr).mem = s.mem := by
  unfold State.prepare
  split
  · split
    · rfl
    · split
      · split <;> simp
      · simp
  · rfl

@[simp] theorem State.prepareReads_mem (t : Task) (c sp : Nat) (s : State) (cs : List (Nat × Nat)) :
    (State.prepareReads t c sp s cs).mem = s.mem := by
  unfold State.prepareReads
  exact foldl_mem (fun u x => State.prepare_mem u t c sp x.1 false) cs s

theorem State.writePlaces_mem {t : Task} {c sp : Nat} {s s' : State} {cs : List (Nat × Nat)} {ls : List Nat}
    (h : State.writePlaces t c sp s cs = .ok (ls, s')) : s'.mem = s.mem := by
  induction cs generalizing s ls s' with
  | nil =>
    simp only [State.writePlaces, Except.ok.injEq, Prod.mk.injEq] at h
    rw [← h.2]
  | cons x cs ih =>
    obtain ⟨a, n⟩ := x
    simp only [State.writePlaces] at h
    split at h
    · exact absurd h (by simp)
    · split at h
      · split at h
        · exact absurd h (by simp)
        · rename_i heq
          simp only [Except.ok.injEq, Prod.mk.injEq] at h
          rw [← h.2, ih heq]
          simp
      · exact absurd h (by simp)

@[simp] theorem State.addLate_mem (s : State) (tid : Nat) (l : Late) : (s.addLate tid l).mem = s.mem := by
  unfold State.addLate
  simp only
  split
  · split
    · split <;> rfl
    · rfl
  · rfl

@[simp] theorem State.leaveGroup_mem (s : State) (id tid iss : Nat) (pc : Word) (fl : Bool) (ls : List Nat) (g : Nat) :
    (s.leaveGroup id tid iss pc fl ls g).mem = s.mem := by
  unfold State.leaveGroup
  split <;> rfl

@[simp] theorem State.leaveArray_mem (s : State) (id tid : Nat) (fl : Bool) : (s.leaveArray id tid fl).mem = s.mem := rfl
@[simp] theorem State.unrelease_mem (s : State) (id : Nat) : (s.unrelease id).mem = s.mem := rfl

/-- Ending a task leaves memory as it is. -/
@[simp] theorem State.retireTask_mem (s : State) (id code : Nat) (fpc tval : Word) (p m t : Bool) :
    (s.retireTask id code fpc tval p m t).mem = s.mem := by
  unfold State.retireTask
  simp only
  split
  · rfl
  · exact foldl_mem (fun u g => State.leaveGroup_mem u _ _ _ _ _ _ g) _ s

/-- Taking an exception leaves memory as it is. -/
@[simp] theorem State.takeTrap_mem (s : State) (id : Nat) (t : Trap) : (s.takeTrap id t).mem = s.mem := by
  unfold State.takeTrap
  simp only
  split
  · split <;> rfl
  · split
    · rfl
    · simp

@[simp] theorem State.trap_mem (s : State) (c : Nat) (a b : Word) : (s.trap c a b).mem = s.mem := by simp [State.trap]
@[simp] theorem State.trapOpen_mem (s : State) (c : Nat) (a : Word) : (s.trapOpen c a).mem = s.mem := by simp [State.trapOpen]
@[simp] theorem State.trapBare_mem (s : State) (c : Nat) : (s.trapBare c).mem = s.mem := by simp [State.trapBare]
@[simp] theorem State.trapPoison_mem (s : State) (v : Bool) (n : Nat) : (s.trapPoison v n).mem = s.mem := by
  simp [State.trapPoison]
@[simp] theorem State.trapCap_mem (s : State) (e : CapFault) : (s.trapCap e).mem = s.mem := by simp [State.trapCap]

@[simp] theorem State.barrierFault_mem (s : State) (id : Nat) (w : Word) : (s.barrierFault id w).mem = s.mem := by
  simp [State.barrierFault]

@[simp] theorem State.dueLate_mem (s : State) (id : Nat) (l : Late) : (s.dueLate id l).mem = s.mem := by
  simp [State.dueLate]

@[simp] theorem State.deliverPending_mem (s : State) (id : Nat) (l : Late) : (s.deliverPending id l).mem = s.mem := by
  simp [State.deliverPending]

/-- The return from a handler leaves memory as it is. -/
@[simp] theorem State.returnFrom_mem (s : State) (id : Nat) : (s.returnFrom id).mem = s.mem := by
  unfold State.returnFrom
  simp only
  split
  · rfl
  · split
    · simp
    · split <;> simp

/-! ### Barrier records -/

theorem State.recWrite_wf {s : State} (tid ctx iss scope : Nat) (a : Acc) (ls rel : List Nat) (f : BarRec → BarRec)
    (w : s.mem.wf = true) : (s.recWrite tid ctx iss scope a ls rel f).mem.wf = true := State.writeAt_wf _ _ _ _ _ _ _ w

/-- An engine's update of a barrier record keeps the canonical form. -/
theorem State.updateBar_wf {s : State} (tid ctx iss : Nat) (a : Acc) (rel : List Nat) (f : BarRec → BarRec)
    (w : s.mem.wf = true) : (s.updateBar tid ctx iss a rel f).mem.wf = true := by
  unfold State.updateBar
  split
  · exact w
  · split
    · exact w
    · rename_i h
      rw [State.tagGranules_mem]
      exact State.recWrite_wf _ _ _ _ _ _ _ _ (by rw [State.writePlaces_mem h]; exact w)

/-! ### What instructions issue -/

@[simp] theorem State.issueLoad_mem (s : State) (sp k : Nat) (ps : List (Nat × Nat × Nat)) (d : LoadDest) (a b : Bool) :
    (s.issueLoad sp k ps d a b).mem = s.mem := rfl

@[simp] theorem State.lateHere_mem (s : State) (c va iss : Nat) (n : Bool) : (s.lateHere c va iss n).mem = s.mem := by
  simp [State.lateHere]

theorem placeParts_mem (t : Task) (id sp : Nat) (s : State) (ps : List (Nat × List Byte)) :
    (placeParts t id sp s ps).1.mem = s.mem := by
  induction ps generalizing s with
  | nil => rfl
  | cons p ps ih =>
    obtain ⟨a, bs⟩ := p
    simp only [placeParts]
    split
    · rfl
    · rename_i h
      simp only
      rw [ih, State.writePlaces_mem h]

/-- A store leaves memory as it is: its write enters the private buffer. -/
@[simp] theorem State.issueStore_mem (s : State) (sp k : Nat) (ps : List (Nat × List Byte)) (wh : Bool) :
    (s.issueStore sp k ps wh).mem = s.mem := by
  have hp : ∀ (u : State) (a b c d : Nat) (e : List Host.Cell) (g : List (Nat × Nat)) (w : Bool),
      (u.putWrite a b c d e g w).mem = u.mem := fun _ _ _ _ _ _ _ _ => rfl
  have h0 : ∀ (u : State) (t : Task), (ps.foldl (fun u p => u.tagGranules (coreOf s.cur.id) t.func sp p.1 p.2.length) u).mem = u.mem :=
    fun u t => foldl_mem (fun v x => State.tagGranules_mem v _ _ _ _ _) ps u
  unfold State.issueStore
  split
  · rfl
  · simp only
    split
    · split
      · simp
      · simp [placeParts_mem, h0, hp]
    · simp [placeParts_mem, h0, hp]

@[simp] theorem State.issueAtom_mem (s : State) (a : Acc) (op : AtomOp) (x y : Word) (u sc : Nat) (d : Option Nat) (asc : Bool) :
    (s.issueAtom a op x y u sc d asc).mem = s.mem := by
  simp only [State.issueAtom, State.issueAtomAt]
  split
  · rfl
  · split <;> rfl

theorem State.placeWrites_mem (ws : List Write) (s : State) : (ws.foldl State.placeWrite s).mem = s.mem :=
  foldl_mem (f := State.placeWrite) (fun u x => State.placeWrite_mem u x) ws s

/-- Attaching an operation to a barrier record keeps the canonical form. -/
theorem State.attachBar_wf {s s' : State} {b : Option Acc} {n : Nat} {r : Bool} {o : Option Acc} (w : s.mem.wf = true)
    (h : s.attachBar b n r = some (s', o)) : s'.mem.wf = true := by
  unfold State.attachBar at h
  split at h
  · split at h
    · simp only [Option.some.injEq, Prod.mk.injEq] at h
      rw [← h.1]
      simpa using w
    · rename_i hp
      split at h
      · exact absurd h (by simp)
      simp only at h
      split at h
      · exact absurd h (by simp)
      · simp only [Option.some.injEq, Prod.mk.injEq] at h
        rw [← h.1]
        rw [State.tagGranules_mem]
        exact State.recWrite_wf _ _ _ _ _ _ _ _ (by rw [State.placeWrites_mem, State.writePlaces_mem hp]; exact w)
  · simp only [Option.some.injEq, Prod.mk.injEq] at h
    rw [← h.1]
    exact w

end Sys2Proof.Machine
end

