-- ==== Sys2Proof/Laws/Ops.lean ====
section
/-!
SUPPORT. What the shared operations can do, said once: contexts and results, taking an exception, and what readers of memory see
when only a context changes.
-/

namespace Sys2Proof.Machine

/-! ### Contexts and results -/

@[simp] theorem State.ctx_setCtx_same (s : State) (i : Nat) (c : Ctx) : (s.setCtx i c).ctx i = c := by
  simp [State.ctx]

theorem State.ctx_setCtx (s : State) (i j : Nat) (c : Ctx) : (s.setCtx i c).ctx j = if j = i then c else s.ctx j := by
  simp [State.ctx, Table.get_set]

@[simp] theorem State.ctx_setMe_same (s : State) (c : Ctx) : (s.setMe c).ctx s.cur.id = c := by simp [State.ctx]

theorem State.ctx_setMe (s : State) (c : Ctx) (j : Nat) : (s.setMe c).ctx j = if j = s.cur.id then c else s.ctx j := by
  simp [State.ctx, Table.get_set]

theorem State.me_setMe (s : State) (c : Ctx) : (s.setMe c).me = c.land := by simp [State.me]

/-- Results that have landed are no longer pending: all that is left is due after the step. -/
theorem Ctx.land_due (c : Ctx) {r : Res} (h : r ∈ c.land.pend) : c.step < r.due := by
  simp only [Ctx.land, List.mem_filter, decide_eq_true_eq] at h
  exact h.2

@[simp] theorem Ctx.setG_step (c : Ctx) (n : Nat) (v : Word) (p : Bool) : (c.setG n v p).step = c.step := by
  unfold Ctx.setG; split <;> rfl

@[simp] theorem Ctx.setK_step (c : Ctx) (n : Nat) (x : Cap) : (c.setK n x).step = c.step := by
  unfold Ctx.setK; split <;> rfl

@[simp] theorem Ctx.apply_step (c : Ctx) (p : Payload) : (c.apply p).step = c.step := by
  cases p <;> simp [Ctx.apply]
  split <;> rfl

@[simp] theorem Ctx.applyAll_step (rs : List Res) (c : Ctx) : (Ctx.applyAll rs c).step = c.step := by
  induction rs generalizing c with
  | nil => rfl
  | cons r rs ih => simp [Ctx.applyAll, ih]

@[simp] theorem Ctx.land_step (c : Ctx) : c.land.step = c.step := by simp [Ctx.land]

/-- Where nothing is due, nothing lands. -/
theorem Ctx.land_eq_self {c : Ctx} (h : ∀ r ∈ c.pend, c.step < r.due) : c.land = c := by
  have h1 : c.pend.filter (fun r => decide (r.due ≤ c.step)) = [] := by
    rw [List.filter_eq_nil_iff]
    intro r hr
    have := h r hr
    simp only [decide_eq_true_eq, Nat.not_le]
    omega
  have h2 : c.pend.filter (fun r => decide (c.step < r.due)) = c.pend := by
    rw [List.filter_eq_self]
    intro r hr
    simp [h r hr]
  simp only [Ctx.land, h1, h2, Ctx.applyAll]

/-- Landing twice is landing once. -/
@[simp] theorem Ctx.land_land (c : Ctx) : c.land.land = c.land :=
  Ctx.land_eq_self fun _ hr => by simpa using Ctx.land_due c hr

/-- A result that is due later leaves what the context's other slots read (R120, R158). -/
theorem State.me_put {s : State} {n : Nat} (p : Payload) (h : 1 ≤ n) :
    (s.put n p).me = { s.me with pend := s.me.pend ++ [⟨s.me.step + n, p⟩] } := by
  simp only [State.put, State.me_setMe]
  apply Ctx.land_eq_self
  intro r hr
  simp only [List.mem_append, List.mem_singleton] at hr
  rcases hr with hr | rfl
  · have := Ctx.land_due (s.ctx s.cur.id) hr
    simpa [State.me] using this
  · simp only
    omega

@[simp] theorem State.me_done (s : State) : s.done.me = s.me := by simp [State.done, State.me_setMe, State.me]

/-! ### Readers of memory -/

/-- Two states that keep the same bytes: memory, its lines and the key slots are the same. -/
def State.SameBytes (s t : State) : Prop := t.mem = s.mem ∧ t.lines = s.lines ∧ t.keys = s.keys

theorem State.SameBytes.keyFor {s t : State} (h : s.SameBytes t) : t.keyFor = s.keyFor := by
  funext slot line
  simp only [State.keyFor, h.2.2]

theorem State.SameBytes.peekKey {s t : State} (h : s.SameBytes t) : t.peekKey = s.peekKey := by
  funext k a
  simp only [State.peekKey, h.1, h.2.1]

theorem State.SameBytes.rawByte {s t : State} (h : s.SameBytes t) : t.rawByte = s.rawByte := by
  funext a
  simp only [State.rawByte, h.1, h.2.1]

theorem State.SameBytes.peek {s t : State} (h : s.SameBytes t) : t.peek = s.peek := by
  funext slot a
  simp only [State.peek, h.keyFor, h.peekKey, h.1]

theorem State.SameBytes.rekeyLine {s t : State} (h : s.SameBytes t) (k line : Nat) :
    (s.rekeyLine k line).SameBytes (t.rekeyLine k line) := by
  unfold State.rekeyLine
  rw [h.2.1, h.peekKey, h.1]
  split
  · split
    · exact h
    · exact ⟨rfl, rfl, h.2.2⟩
  · exact ⟨rfl, rfl, h.2.2⟩
  · exact ⟨rfl, rfl, h.2.2⟩

theorem State.SameBytes.rawLine {s t : State} (h : s.SameBytes t) (slot tweak line : Nat) :
    (s.rawLine slot tweak line).SameBytes (t.rawLine slot tweak line) := by
  unfold State.rawLine
  rw [h.2.1, h.rawByte, h.1]
  split
  · exact ⟨rfl, rfl, h.2.2⟩
  · exact ⟨rfl, rfl, h.2.2⟩

theorem State.SameBytes.poke {s t : State} (h : s.SameBytes t) (slot : Nat) (c : Host.Cell) :
    (s.poke slot c).SameBytes (t.poke slot c) := by
  have put : ∀ {u v : State}, u.SameBytes v →
      State.SameBytes { u with mem := u.mem.write c.1 c.2 } { v with mem := v.mem.write c.1 c.2 } :=
    fun g => ⟨by simp only [g.1], g.2.1, g.2.2⟩
  unfold State.poke
  simp only
  apply put
  split
  · exact h.rawLine _ _ _
  · split
    · rw [h.keyFor]
      exact h.rekeyLine _ _
    · rw [h.2.1]
      split
      · exact h
      · exact ⟨h.1, rfl, h.2.2⟩

theorem State.SameBytes.pokeCells {s t : State} (h : s.SameBytes t) (slot : Nat) (cs : List Host.Cell) :
    (s.pokeCells slot cs).SameBytes (t.pokeCells slot cs) := by
  induction cs generalizing s t with
  | nil => exact h
  | cons c cs ih => exact ih (h.poke slot c)

theorem State.SameBytes.foldl {α : Type} {f : State → α → State} (hf : ∀ {s t : State} (x : α), s.SameBytes t → (f s x).SameBytes (f t x))
    (xs : List α) {s t : State} (h : s.SameBytes t) : (xs.foldl f s).SameBytes (xs.foldl f t) := by
  induction xs generalizing s t with
  | nil => exact h
  | cons x xs ih => exact ih (hf x h)

/-- What a reader sees depends on memory, its lines, the key slots and the buffered writes alone. -/
theorem State.see_congr {s t : State} (hm : t.mem = s.mem) (hl : t.lines = s.lines) (hk : t.keys = s.keys)
    (hw : t.writes = s.writes) (v : Viewer) (slot a : Nat) : t.see v slot a = s.see v slot a := by
  have h : (s.viewOf v (a / 128)).SameBytes (t.viewOf v (a / 128)) := by
    unfold State.viewOf
    rw [hw]
    exact State.SameBytes.foldl
      (f := fun (u : State) (w : Write) => u.pokeCells w.key (w.cells.filter fun c => decide (c.1 / 128 = a / 128)))
      (fun _ g => g.pokeCells _ _) _ ⟨hm, hl, hk⟩
  simp only [State.see, h.peek]

theorem State.OnlyMe.bytesKept {s t : State} (h : s.OnlyMe t) : s.BytesKept t := by
  obtain ⟨c, k, rfl⟩ := h
  exact fun v slot a => State.see_congr (s := s) (t := { s.setCtx s.cur.id c with cur := k }) rfl rfl rfl rfl v slot a

theorem State.onlyMe_setMe (s : State) (c : Ctx) : s.OnlyMe (s.setMe c) := ⟨c, { s.cur with verdict := .effect }, rfl⟩

theorem latestWrite_append_none {v : Viewer} {a : Nat} {w : Write} (h : cellAt a w.cells = none) (ws : List Write) :
    latestWrite v a (ws ++ [w]) = latestWrite v a ws := by
  induction ws with
  | nil => simp [latestWrite, h]
  | cons u us ih => simp only [List.cons_append, latestWrite, ih]

/-! ### Taking an exception -/

/-- Everything that taking an exception can do (R402, R407–R409): it waits for interlocked results or for room in the retirement
tracker, goes to the handler, or ends the task. -/
theorem State.takeTrap_cases (s : State) (id : Nat) (t : Trap) :
    s.takeTrap id t = s.setCtx id { s.ctx id with trapReq := some t } ∨
    (∃ a, (s.ctx id).frame = none ∧ s.handler (s.ctx id) t.code = some a ∧ s.outstanding id = false ∧
      s.takeTrap id t = s.setCtx id ((s.ctx id).enter t a)) ∨
    (((s.ctx id).frame ≠ none ∨ s.handler (s.ctx id) t.code = none) ∧
      s.takeTrap id t = s.retireTask id t.code t.fpc t.tval t.pf (decide (t.code = 0x60)) false) := by
  unfold State.takeTrap
  simp only
  by_cases hf : (s.ctx id).frame.isSome = true
  · rw [if_pos hf]
    simp only
    split
    · exact .inl rfl
    · exact .inr (.inr ⟨.inl (by intro h; rw [h] at hf; exact absurd hf (by simp)), rfl⟩)
  · rw [if_neg hf]
    have hn : (s.ctx id).frame = none := by simpa using hf
    cases hh : s.handler (s.ctx id) t.code with
    | none =>
      simp only
      split
      · exact .inl rfl
      · exact .inr (.inr ⟨.inr (by simp), rfl⟩)
    | some a =>
      simp only
      split
      · exact .inl rfl
      · rename_i ho
        exact .inr (.inl ⟨a, hn, by simp, by simpa using ho, rfl⟩)

end Sys2Proof.Machine
end

