-- ==== Sys2Proof/Laws/PerInstr.lean ====
section
/-!
SUPPORT. Of every instruction: its encoding fits the slot word. One lemma for each constructor; the steps of other agents have no
encoding.
-/

namespace Sys2Proof.Laws.EncodingFits

/-- The opcode has 7 bits and the body 24, and a literal stands only where the opcode map takes one (R118, R121). -/
def Statement (i : Instr) : Prop :=
  ∀ e, enc i = some e → e.op < 128 ∧ e.body < 2 ^ 24 ∧ (e.lit.isSome = true → litAllowed e.kind e.op e.body = true)

theorem none_fits {i : Instr} (h : enc i = none) : Statement i := fun e he => by
  rw [h] at he
  cases he

theorem hint_literal (k : SlotKind) (o : Fin 16) (w : Nat) : litAllowed k (112 + o.val) w = true := by
  cases k
  case a =>
    simp only [litAllowed]
    rw [if_neg (by omega), if_neg (by omega), if_neg (by omega), if_neg (by omega), if_neg (by omega)]
  all_goals
    simp [litAllowed]
    omega

theorem field_lt {n : Nat} (i : Imm n) : i.field < 2 ^ n := by
  cases i with
  | short x => exact x.isLt
  | long x => exact Nat.two_pow_pos n

theorem barBit_le (b : Option (Fin 32)) : barBit b ≤ 1 := by cases b <;> simp [barBit]

theorem barBit_of_lit {b : Option (Fin 32)} (h : (barLit b).isSome = true) : barBit b = 1 := by
  cases b <;> simp_all [barBit, barLit]

theorem br (d : Imm 18) : Statement (.br d) := by
  intro en he
  obtain rfl : (⟨.c, 0, d.field, d.lit⟩ : Encoding) = en := Option.some.inj he
  have := field_lt d
  exact ⟨by simp only; omega, by simp only; omega, by intro _; rfl⟩
theorem bl (g : Fin 64) (d : Imm 18) : Statement (.bl g d) := by
  intro en he
  obtain rfl : (⟨.c, 1, g.val * 262144 + d.field, d.lit⟩ : Encoding) = en := Option.some.inj he
  have := field_lt d
  exact ⟨by simp only; omega, by simp only; omega, by intro _; rfl⟩
theorem beqz (g : Fin 64) (d : Imm 18) : Statement (.beqz g d) := by
  intro en he
  obtain rfl : (⟨.c, 2, g.val * 262144 + d.field, d.lit⟩ : Encoding) = en := Option.some.inj he
  have := field_lt d
  exact ⟨by simp only; omega, by simp only; omega, by intro _; rfl⟩
theorem bnez (g : Fin 64) (d : Imm 18) : Statement (.bnez g d) := by
  intro en he
  obtain rfl : (⟨.c, 3, g.val * 262144 + d.field, d.lit⟩ : Encoding) = en := Option.some.inj he
  have := field_lt d
  exact ⟨by simp only; omega, by simp only; omega, by intro _; rfl⟩
theorem bltz (g : Fin 64) (d : Imm 18) : Statement (.bltz g d) := by
  intro en he
  obtain rfl : (⟨.c, 4, g.val * 262144 + d.field, d.lit⟩ : Encoding) = en := Option.some.inj he
  have := field_lt d
  exact ⟨by simp only; omega, by simp only; omega, by intro _; rfl⟩
theorem bgez (g : Fin 64) (d : Imm 18) : Statement (.bgez g d) := by
  intro en he
  obtain rfl : (⟨.c, 5, g.val * 262144 + d.field, d.lit⟩ : Encoding) = en := Option.some.inj he
  have := field_lt d
  exact ⟨by simp only; omega, by simp only; omega, by intro _; rfl⟩
theorem bgtz (g : Fin 64) (d : Imm 18) : Statement (.bgtz g d) := by
  intro en he
  obtain rfl : (⟨.c, 6, g.val * 262144 + d.field, d.lit⟩ : Encoding) = en := Option.some.inj he
  have := field_lt d
  exact ⟨by simp only; omega, by simp only; omega, by intro _; rfl⟩
theorem blez (g : Fin 64) (d : Imm 18) : Statement (.blez g d) := by
  intro en he
  obtain rfl : (⟨.c, 7, g.val * 262144 + d.field, d.lit⟩ : Encoding) = en := Option.some.inj he
  have := field_lt d
  exact ⟨by simp only; omega, by simp only; omega, by intro _; rfl⟩
theorem bmz (d : Imm 18) : Statement (.bmz d) := by
  intro en he
  obtain rfl : (⟨.c, 8, d.field, d.lit⟩ : Encoding) = en := Option.some.inj he
  have := field_lt d
  exact ⟨by simp only; omega, by simp only; omega, by intro _; rfl⟩
theorem jr (a : Fin 64) : Statement (.jr a) := by
  intro en he
  obtain rfl : (⟨.c, 9, a.val * 4096, none⟩ : Encoding) = en := Option.some.inj he
  exact ⟨by simp only; omega, by simp only; omega, by intro hl; exact absurd hl Bool.false_ne_true⟩
theorem jlr (d a : Fin 64) : Statement (.jlr d a) := by
  intro en he
  obtain rfl : (⟨.c, 10, d.val * 262144 + a.val * 4096, none⟩ : Encoding) = en := Option.some.inj he
  exact ⟨by simp only; omega, by simp only; omega, by intro hl; exact absurd hl Bool.false_ne_true⟩
theorem tail : Statement .tail := by
  intro en he
  obtain rfl : (⟨.c, 11, 0, none⟩ : Encoding) = en := Option.some.inj he
  exact ⟨by simp only; omega, by simp only; omega, by intro hl; exact absurd hl Bool.false_ne_true⟩
theorem next (d : Fin 64) : Statement (.next d) := by
  intro en he
  obtain rfl : (⟨.c, 12, d.val * 262144, none⟩ : Encoding) = en := Option.some.inj he
  exact ⟨by simp only; omega, by simp only; omega, by intro hl; exact absurd hl Bool.false_ne_true⟩
theorem steal (d : Fin 64) : Statement (.steal d) := by
  intro en he
  obtain rfl : (⟨.c, 13, d.val * 262144, none⟩ : Encoding) = en := Option.some.inj he
  exact ⟨by simp only; omega, by simp only; omega, by intro hl; exact absurd hl Bool.false_ne_true⟩
theorem chkG (a : Fin 64) : Statement (.chkG a) := by
  intro en he
  obtain rfl : (⟨.c, 14, a.val * 4096, none⟩ : Encoding) = en := Option.some.inj he
  exact ⟨by simp only; omega, by simp only; omega, by intro hl; exact absurd hl Bool.false_ne_true⟩
theorem chkV (a : Fin 64) : Statement (.chkV a) := by
  intro en he
  obtain rfl : (⟨.c, 14, 2048 + a.val * 4096, none⟩ : Encoding) = en := Option.some.inj he
  exact ⟨by simp only; omega, by simp only; omega, by intro hl; exact absurd hl Bool.false_ne_true⟩
theorem trap (i : BitVec 12) : Statement (.trap i) := by
  intro en he
  obtain rfl : (⟨.c, 15, i.toNat, none⟩ : Encoding) = en := Option.some.inj he
  have := i.isLt
  exact ⟨by simp only; omega, by simp only; omega, by intro hl; exact absurd hl Bool.false_ne_true⟩
theorem eret : Statement .eret := by
  intro en he
  obtain rfl : (⟨.c, 16, 0, none⟩ : Encoding) = en := Option.some.inj he
  exact ⟨by simp only; omega, by simp only; omega, by intro hl; exact absurd hl Bool.false_ne_true⟩
theorem mfsr (d : Fin 64) (n : BitVec 12) : Statement (.mfsr d n) := by
  intro en he
  obtain rfl : (⟨.c, 17, d.val * 262144 + n.toNat, none⟩ : Encoding) = en := Option.some.inj he
  have := n.isLt
  exact ⟨by simp only; omega, by simp only; omega, by intro hl; exact absurd hl Bool.false_ne_true⟩
theorem mtsr (a : Fin 64) (n : BitVec 12) : Statement (.mtsr a n) := by
  intro en he
  obtain rfl : (⟨.c, 18, a.val * 4096 + n.toNat, none⟩ : Encoding) = en := Option.some.inj he
  have := n.isLt
  exact ⟨by simp only; omega, by simp only; omega, by intro hl; exact absurd hl Bool.false_ne_true⟩
theorem featq (d a : Fin 64) (i : BitVec 12) : Statement (.featq d a i) := by
  intro en he
  obtain rfl : (⟨.c, 19, d.val * 262144 + a.val * 4096 + i.toNat, none⟩ : Encoding) = en := Option.some.inj he
  have := i.isLt
  exact ⟨by simp only; omega, by simp only; omega, by intro hl; exact absurd hl Bool.false_ne_true⟩
theorem idle : Statement .idle := by
  intro en he
  obtain rfl : (⟨.c, 20, 0, none⟩ : Encoding) = en := Option.some.inj he
  exact ⟨by simp only; omega, by simp only; omega, by intro hl; exact absurd hl Bool.false_ne_true⟩
theorem dbrk (i : BitVec 12) : Statement (.dbrk i) := by
  intro en he
  obtain rfl : (⟨.c, 21, i.toNat, none⟩ : Encoding) = en := Option.some.inj he
  have := i.isLt
  exact ⟨by simp only; omega, by simp only; omega, by intro hl; exact absurd hl Bool.false_ne_true⟩
theorem prack : Statement .prack := by
  intro en he
  obtain rfl : (⟨.c, 22, 0, none⟩ : Encoding) = en := Option.some.inj he
  exact ⟨by simp only; omega, by simp only; omega, by intro hl; exact absurd hl Bool.false_ne_true⟩
theorem mcrd (d a : Fin 64) (w : BitVec 12) : Statement (.mcrd d a w) := by
  intro en he
  obtain rfl : (⟨.c, 23, d.val * 262144 + a.val * 4096 + w.toNat, none⟩ : Encoding) = en := Option.some.inj he
  have := w.isLt
  exact ⟨by simp only; omega, by simp only; omega, by intro hl; exact absurd hl Bool.false_ne_true⟩
theorem add (d a b : Fin 64) : Statement (.add d a b) := by
  intro en he
  obtain rfl : (⟨.x, 0, d.val * 262144 + a.val * 4096 + b.val * 64, none⟩ : Encoding) = en := Option.some.inj he
  exact ⟨by simp only; omega, by simp only; omega, by intro hl; exact absurd hl Bool.false_ne_true⟩
theorem sub (d a b : Fin 64) : Statement (.sub d a b) := by
  intro en he
  obtain rfl : (⟨.x, 1, d.val * 262144 + a.val * 4096 + b.val * 64, none⟩ : Encoding) = en := Option.some.inj he
  exact ⟨by simp only; omega, by simp only; omega, by intro hl; exact absurd hl Bool.false_ne_true⟩
theorem addi (d a : Fin 64) (i : Imm 12) : Statement (.addi d a i) := by
  intro en he
  obtain rfl : (⟨.x, 2, d.val * 262144 + a.val * 4096 + i.field, i.lit⟩ : Encoding) = en := Option.some.inj he
  have := field_lt i
  exact ⟨by simp only; omega, by simp only; omega, by intro _; rfl⟩
theorem and (d a b : Fin 64) : Statement (.and d a b) := by
  intro en he
  obtain rfl : (⟨.x, 3, d.val * 262144 + a.val * 4096 + b.val * 64, none⟩ : Encoding) = en := Option.some.inj he
  exact ⟨by simp only; omega, by simp only; omega, by intro hl; exact absurd hl Bool.false_ne_true⟩
theorem or (d a b : Fin 64) : Statement (.or d a b) := by
  intro en he
  obtain rfl : (⟨.x, 4, d.val * 262144 + a.val * 4096 + b.val * 64, none⟩ : Encoding) = en := Option.some.inj he
  exact ⟨by simp only; omega, by simp only; omega, by intro hl; exact absurd hl Bool.false_ne_true⟩
theorem xor (d a b : Fin 64) : Statement (.xor d a b) := by
  intro en he
  obtain rfl : (⟨.x, 5, d.val * 262144 + a.val * 4096 + b.val * 64, none⟩ : Encoding) = en := Option.some.inj he
  exact ⟨by simp only; omega, by simp only; omega, by intro hl; exact absurd hl Bool.false_ne_true⟩
theorem andi (d a : Fin 64) (i : Imm 12) : Statement (.andi d a i) := by
  intro en he
  obtain rfl : (⟨.x, 6, d.val * 262144 + a.val * 4096 + i.field, i.lit⟩ : Encoding) = en := Option.some.inj he
  have := field_lt i
  exact ⟨by simp only; omega, by simp only; omega, by intro _; rfl⟩
theorem ori (d a : Fin 64) (i : Imm 12) : Statement (.ori d a i) := by
  intro en he
  obtain rfl : (⟨.x, 7, d.val * 262144 + a.val * 4096 + i.field, i.lit⟩ : Encoding) = en := Option.some.inj he
  have := field_lt i
  exact ⟨by simp only; omega, by simp only; omega, by intro _; rfl⟩
theorem xori (d a : Fin 64) (i : Imm 12) : Statement (.xori d a i) := by
  intro en he
  obtain rfl : (⟨.x, 8, d.val * 262144 + a.val * 4096 + i.field, i.lit⟩ : Encoding) = en := Option.some.inj he
  have := field_lt i
  exact ⟨by simp only; omega, by simp only; omega, by intro _; rfl⟩
theorem shl (d a b : Fin 64) : Statement (.shl d a b) := by
  intro en he
  obtain rfl : (⟨.x, 9, d.val * 262144 + a.val * 4096 + b.val * 64, none⟩ : Encoding) = en := Option.some.inj he
  exact ⟨by simp only; omega, by simp only; omega, by intro hl; exact absurd hl Bool.false_ne_true⟩
theorem shr (d a b : Fin 64) : Statement (.shr d a b) := by
  intro en he
  obtain rfl : (⟨.x, 10, d.val * 262144 + a.val * 4096 + b.val * 64, none⟩ : Encoding) = en := Option.some.inj he
  exact ⟨by simp only; omega, by simp only; omega, by intro hl; exact absurd hl Bool.false_ne_true⟩
theorem sar (d a b : Fin 64) : Statement (.sar d a b) := by
  intro en he
  obtain rfl : (⟨.x, 11, d.val * 262144 + a.val * 4096 + b.val * 64, none⟩ : Encoding) = en := Option.some.inj he
  exact ⟨by simp only; omega, by simp only; omega, by intro hl; exact absurd hl Bool.false_ne_true⟩
theorem shli (d a c : Fin 64) : Statement (.shli d a c) := by
  intro en he
  obtain rfl : (⟨.x, 12, d.val * 262144 + a.val * 4096 + c.val, none⟩ : Encoding) = en := Option.some.inj he
  exact ⟨by simp only; omega, by simp only; omega, by intro hl; exact absurd hl Bool.false_ne_true⟩
theorem shri (d a c : Fin 64) : Statement (.shri d a c) := by
  intro en he
  obtain rfl : (⟨.x, 13, d.val * 262144 + a.val * 4096 + c.val, none⟩ : Encoding) = en := Option.some.inj he
  exact ⟨by simp only; omega, by simp only; omega, by intro hl; exact absurd hl Bool.false_ne_true⟩
theorem sari (d a c : Fin 64) : Statement (.sari d a c) := by
  intro en he
  obtain rfl : (⟨.x, 14, d.val * 262144 + a.val * 4096 + c.val, none⟩ : Encoding) = en := Option.some.inj he
  exact ⟨by simp only; omega, by simp only; omega, by intro hl; exact absurd hl Bool.false_ne_true⟩
theorem mul (d a b : Fin 64) : Statement (.mul d a b) := by
  intro en he
  obtain rfl : (⟨.x, 15, d.val * 262144 + a.val * 4096 + b.val * 64, none⟩ : Encoding) = en := Option.some.inj he
  exact ⟨by simp only; omega, by simp only; omega, by intro hl; exact absurd hl Bool.false_ne_true⟩
theorem mulh (d a b : Fin 64) : Statement (.mulh d a b) := by
  intro en he
  obtain rfl : (⟨.x, 16, d.val * 262144 + a.val * 4096 + b.val * 64, none⟩ : Encoding) = en := Option.some.inj he
  exact ⟨by simp only; omega, by simp only; omega, by intro hl; exact absurd hl Bool.false_ne_true⟩
theorem mulhn (d a b : Fin 64) : Statement (.mulhn d a b) := by
  intro en he
  obtain rfl : (⟨.x, 17, d.val * 262144 + a.val * 4096 + b.val * 64, none⟩ : Encoding) = en := Option.some.inj he
  exact ⟨by simp only; omega, by simp only; omega, by intro hl; exact absurd hl Bool.false_ne_true⟩
theorem div (d a b : Fin 64) : Statement (.div d a b) := by
  intro en he
  obtain rfl : (⟨.x, 18, d.val * 262144 + a.val * 4096 + b.val * 64, none⟩ : Encoding) = en := Option.some.inj he
  exact ⟨by simp only; omega, by simp only; omega, by intro hl; exact absurd hl Bool.false_ne_true⟩
theorem divn (d a b : Fin 64) : Statement (.divn d a b) := by
  intro en he
  obtain rfl : (⟨.x, 19, d.val * 262144 + a.val * 4096 + b.val * 64, none⟩ : Encoding) = en := Option.some.inj he
  exact ⟨by simp only; omega, by simp only; omega, by intro hl; exact absurd hl Bool.false_ne_true⟩
theorem rem (d a b : Fin 64) : Statement (.rem d a b) := by
  intro en he
  obtain rfl : (⟨.x, 20, d.val * 262144 + a.val * 4096 + b.val * 64, none⟩ : Encoding) = en := Option.some.inj he
  exact ⟨by simp only; omega, by simp only; omega, by intro hl; exact absurd hl Bool.false_ne_true⟩
theorem remn (d a b : Fin 64) : Statement (.remn d a b) := by
  intro en he
  obtain rfl : (⟨.x, 21, d.val * 262144 + a.val * 4096 + b.val * 64, none⟩ : Encoding) = en := Option.some.inj he
  exact ⟨by simp only; omega, by simp only; omega, by intro hl; exact absurd hl Bool.false_ne_true⟩
theorem cmpeq (d a b : Fin 64) : Statement (.cmpeq d a b) := by
  intro en he
  obtain rfl : (⟨.x, 22, d.val * 262144 + a.val * 4096 + b.val * 64, none⟩ : Encoding) = en := Option.some.inj he
  exact ⟨by simp only; omega, by simp only; omega, by intro hl; exact absurd hl Bool.false_ne_true⟩
theorem cmpne (d a b : Fin 64) : Statement (.cmpne d a b) := by
  intro en he
  obtain rfl : (⟨.x, 23, d.val * 262144 + a.val * 4096 + b.val * 64, none⟩ : Encoding) = en := Option.some.inj he
  exact ⟨by simp only; omega, by simp only; omega, by intro hl; exact absurd hl Bool.false_ne_true⟩
theorem cmplt (d a b : Fin 64) : Statement (.cmplt d a b) := by
  intro en he
  obtain rfl : (⟨.x, 24, d.val * 262144 + a.val * 4096 + b.val * 64, none⟩ : Encoding) = en := Option.some.inj he
  exact ⟨by simp only; omega, by simp only; omega, by intro hl; exact absurd hl Bool.false_ne_true⟩
theorem cmpltn (d a b : Fin 64) : Statement (.cmpltn d a b) := by
  intro en he
  obtain rfl : (⟨.x, 25, d.val * 262144 + a.val * 4096 + b.val * 64, none⟩ : Encoding) = en := Option.some.inj he
  exact ⟨by simp only; omega, by simp only; omega, by intro hl; exact absurd hl Bool.false_ne_true⟩
theorem cmple (d a b : Fin 64) : Statement (.cmple d a b) := by
  intro en he
  obtain rfl : (⟨.x, 26, d.val * 262144 + a.val * 4096 + b.val * 64, none⟩ : Encoding) = en := Option.some.inj he
  exact ⟨by simp only; omega, by simp only; omega, by intro hl; exact absurd hl Bool.false_ne_true⟩
theorem cmplen (d a b : Fin 64) : Statement (.cmplen d a b) := by
  intro en he
  obtain rfl : (⟨.x, 27, d.val * 262144 + a.val * 4096 + b.val * 64, none⟩ : Encoding) = en := Option.some.inj he
  exact ⟨by simp only; omega, by simp only; omega, by intro hl; exact absurd hl Bool.false_ne_true⟩
theorem cmpeqi (d a : Fin 64) (i : Imm 12) : Statement (.cmpeqi d a i) := by
  intro en he
  obtain rfl : (⟨.x, 28, d.val * 262144 + a.val * 4096 + i.field, i.lit⟩ : Encoding) = en := Option.some.inj he
  have := field_lt i
  exact ⟨by simp only; omega, by simp only; omega, by intro _; rfl⟩
theorem cmplti (d a : Fin 64) (i : Imm 12) : Statement (.cmplti d a i) := by
  intro en he
  obtain rfl : (⟨.x, 29, d.val * 262144 + a.val * 4096 + i.field, i.lit⟩ : Encoding) = en := Option.some.inj he
  have := field_lt i
  exact ⟨by simp only; omega, by simp only; omega, by intro _; rfl⟩
theorem sel (d a b c : Fin 64) : Statement (.sel d a b c) := by
  intro en he
  obtain rfl : (⟨.x, 30, d.val * 262144 + a.val * 4096 + b.val * 64 + c.val, none⟩ : Encoding) = en := Option.some.inj he
  exact ⟨by simp only; omega, by simp only; omega, by intro hl; exact absurd hl Bool.false_ne_true⟩
theorem min (d a b : Fin 64) : Statement (.min d a b) := by
  intro en he
  obtain rfl : (⟨.x, 31, d.val * 262144 + a.val * 4096 + b.val * 64, none⟩ : Encoding) = en := Option.some.inj he
  exact ⟨by simp only; omega, by simp only; omega, by intro hl; exact absurd hl Bool.false_ne_true⟩
theorem max (d a b : Fin 64) : Statement (.max d a b) := by
  intro en he
  obtain rfl : (⟨.x, 32, d.val * 262144 + a.val * 4096 + b.val * 64, none⟩ : Encoding) = en := Option.some.inj he
  exact ⟨by simp only; omega, by simp only; omega, by intro hl; exact absurd hl Bool.false_ne_true⟩
theorem minn (d a b : Fin 64) : Statement (.minn d a b) := by
  intro en he
  obtain rfl : (⟨.x, 33, d.val * 262144 + a.val * 4096 + b.val * 64, none⟩ : Encoding) = en := Option.some.inj he
  exact ⟨by simp only; omega, by simp only; omega, by intro hl; exact absurd hl Bool.false_ne_true⟩
theorem maxn (d a b : Fin 64) : Statement (.maxn d a b) := by
  intro en he
  obtain rfl : (⟨.x, 34, d.val * 262144 + a.val * 4096 + b.val * 64, none⟩ : Encoding) = en := Option.some.inj he
  exact ⟨by simp only; omega, by simp only; omega, by intro hl; exact absurd hl Bool.false_ne_true⟩
theorem clz (d a : Fin 64) : Statement (.clz d a) := by
  intro en he
  obtain rfl : (⟨.x, 35, d.val * 262144 + a.val * 4096, none⟩ : Encoding) = en := Option.some.inj he
  exact ⟨by simp only; omega, by simp only; omega, by intro hl; exact absurd hl Bool.false_ne_true⟩
theorem ctz (d a : Fin 64) : Statement (.ctz d a) := by
  intro en he
  obtain rfl : (⟨.x, 36, d.val * 262144 + a.val * 4096, none⟩ : Encoding) = en := Option.some.inj he
  exact ⟨by simp only; omega, by simp only; omega, by intro hl; exact absurd hl Bool.false_ne_true⟩
theorem popc (d a : Fin 64) : Statement (.popc d a) := by
  intro en he
  obtain rfl : (⟨.x, 37, d.val * 262144 + a.val * 4096, none⟩ : Encoding) = en := Option.some.inj he
  exact ⟨by simp only; omega, by simp only; omega, by intro hl; exact absurd hl Bool.false_ne_true⟩
theorem sext (d a w : Fin 64) : Statement (.sext d a w) := by
  intro en he
  obtain rfl : (⟨.x, 38, d.val * 262144 + a.val * 4096 + w.val, none⟩ : Encoding) = en := Option.some.inj he
  exact ⟨by simp only; omega, by simp only; omega, by intro hl; exact absurd hl Bool.false_ne_true⟩
theorem zext (d a w : Fin 64) : Statement (.zext d a w) := by
  intro en he
  obtain rfl : (⟨.x, 39, d.val * 262144 + a.val * 4096 + w.val, none⟩ : Encoding) = en := Option.some.inj he
  exact ⟨by simp only; omega, by simp only; omega, by intro hl; exact absurd hl Bool.false_ne_true⟩
theorem extr (d a h o : Fin 64) : Statement (.extr d a h o) := by
  intro en he
  obtain rfl : (⟨.x, 40, d.val * 262144 + a.val * 4096 + h.val * 64 + o.val, none⟩ : Encoding) = en := Option.some.inj he
  exact ⟨by simp only; omega, by simp only; omega, by intro hl; exact absurd hl Bool.false_ne_true⟩
theorem inshi (d a : Fin 64) (i : BitVec 32) : Statement (.inshi d a i) := by
  intro en he
  obtain rfl : (⟨.x, 41, d.val * 262144 + a.val * 4096, some i⟩ : Encoding) = en := Option.some.inj he
  have := i.isLt
  exact ⟨by simp only; omega, by simp only; omega, by intro _; rfl⟩
theorem cnarrow (d a : Fin 32) (b c : Fin 64) : Statement (.cnarrow d a b c) := by
  intro en he
  obtain rfl : (⟨.x, 42, d.val * 262144 + a.val * 4096 + b.val * 64 + c.val, none⟩ : Encoding) = en := Option.some.inj he
  exact ⟨by simp only; omega, by simp only; omega, by intro hl; exact absurd hl Bool.false_ne_true⟩
theorem cperm (d a : Fin 32) (m : BitVec 12) : Statement (.cperm d a m) := by
  intro en he
  obtain rfl : (⟨.x, 43, d.val * 262144 + a.val * 4096 + m.toNat, none⟩ : Encoding) = en := Option.some.inj he
  have := m.isLt
  exact ⟨by simp only; omega, by simp only; omega, by intro hl; exact absurd hl Bool.false_ne_true⟩
theorem cget (d : Fin 64) (a : Fin 32) (s : BitVec 12) : Statement (.cget d a s) := by
  intro en he
  obtain rfl : (⟨.x, 44, d.val * 262144 + a.val * 4096 + s.toNat, none⟩ : Encoding) = en := Option.some.inj he
  have := s.isLt
  exact ⟨by simp only; omega, by simp only; omega, by intro hl; exact absurd hl Bool.false_ne_true⟩
theorem cmov (d a : Fin 32) : Statement (.cmov d a) := by
  intro en he
  obtain rfl : (⟨.x, 45, d.val * 262144 + a.val * 4096, none⟩ : Encoding) = en := Option.some.inj he
  exact ⟨by simp only; omega, by simp only; omega, by intro hl; exact absurd hl Bool.false_ne_true⟩
theorem cclr (d : Fin 32) : Statement (.cclr d) := by
  intro en he
  obtain rfl : (⟨.x, 46, d.val * 262144, none⟩ : Encoding) = en := Option.some.inj he
  exact ⟨by simp only; omega, by simp only; omega, by intro hl; exact absurd hl Bool.false_ne_true⟩
theorem cchk (d : Fin 64) (a : Fin 32) (b c : Fin 64) : Statement (.cchk d a b c) := by
  intro en he
  obtain rfl : (⟨.x, 47, d.val * 262144 + a.val * 4096 + b.val * 64 + c.val, none⟩ : Encoding) = en := Option.some.inj he
  exact ⟨by simp only; omega, by simp only; omega, by intro hl; exact absurd hl Bool.false_ne_true⟩
theorem ldI8 (d : Fin 64) (k : Fin 32) (g : Fin 64) (i : Imm 7) : Statement (.ldI8 d k g i) := by
  intro en he
  obtain rfl : (⟨.m, 0, d.val * 262144 + k.val * 8192 + g.val * 128 + i.field, i.lit⟩ : Encoding) = en := Option.some.inj he
  have := field_lt i
  exact ⟨by simp only; omega, by simp only; omega, by intro _; rfl⟩
theorem ldN8 (d : Fin 64) (k : Fin 32) (g : Fin 64) (i : Imm 7) : Statement (.ldN8 d k g i) := by
  intro en he
  obtain rfl : (⟨.m, 1, d.val * 262144 + k.val * 8192 + g.val * 128 + i.field, i.lit⟩ : Encoding) = en := Option.some.inj he
  have := field_lt i
  exact ⟨by simp only; omega, by simp only; omega, by intro _; rfl⟩
theorem ldI16 (d : Fin 64) (k : Fin 32) (g : Fin 64) (i : Imm 7) : Statement (.ldI16 d k g i) := by
  intro en he
  obtain rfl : (⟨.m, 2, d.val * 262144 + k.val * 8192 + g.val * 128 + i.field, i.lit⟩ : Encoding) = en := Option.some.inj he
  have := field_lt i
  exact ⟨by simp only; omega, by simp only; omega, by intro _; rfl⟩
theorem ldN16 (d : Fin 64) (k : Fin 32) (g : Fin 64) (i : Imm 7) : Statement (.ldN16 d k g i) := by
  intro en he
  obtain rfl : (⟨.m, 3, d.val * 262144 + k.val * 8192 + g.val * 128 + i.field, i.lit⟩ : Encoding) = en := Option.some.inj he
  have := field_lt i
  exact ⟨by simp only; omega, by simp only; omega, by intro _; rfl⟩
theorem ldI32 (d : Fin 64) (k : Fin 32) (g : Fin 64) (i : Imm 7) : Statement (.ldI32 d k g i) := by
  intro en he
  obtain rfl : (⟨.m, 4, d.val * 262144 + k.val * 8192 + g.val * 128 + i.field, i.lit⟩ : Encoding) = en := Option.some.inj he
  have := field_lt i
  exact ⟨by simp only; omega, by simp only; omega, by intro _; rfl⟩
theorem ldN32 (d : Fin 64) (k : Fin 32) (g : Fin 64) (i : Imm 7) : Statement (.ldN32 d k g i) := by
  intro en he
  obtain rfl : (⟨.m, 5, d.val * 262144 + k.val * 8192 + g.val * 128 + i.field, i.lit⟩ : Encoding) = en := Option.some.inj he
  have := field_lt i
  exact ⟨by simp only; omega, by simp only; omega, by intro _; rfl⟩
theorem ldI64 (d : Fin 64) (k : Fin 32) (g : Fin 64) (i : Imm 7) : Statement (.ldI64 d k g i) := by
  intro en he
  obtain rfl : (⟨.m, 6, d.val * 262144 + k.val * 8192 + g.val * 128 + i.field, i.lit⟩ : Encoding) = en := Option.some.inj he
  have := field_lt i
  exact ⟨by simp only; omega, by simp only; omega, by intro _; rfl⟩
theorem stI8 (d : Fin 64) (k : Fin 32) (g : Fin 64) (i : Imm 7) : Statement (.stI8 d k g i) := by
  intro en he
  obtain rfl : (⟨.m, 7, d.val * 262144 + k.val * 8192 + g.val * 128 + i.field, i.lit⟩ : Encoding) = en := Option.some.inj he
  have := field_lt i
  exact ⟨by simp only; omega, by simp only; omega, by intro _; rfl⟩
theorem stI16 (d : Fin 64) (k : Fin 32) (g : Fin 64) (i : Imm 7) : Statement (.stI16 d k g i) := by
  intro en he
  obtain rfl : (⟨.m, 8, d.val * 262144 + k.val * 8192 + g.val * 128 + i.field, i.lit⟩ : Encoding) = en := Option.some.inj he
  have := field_lt i
  exact ⟨by simp only; omega, by simp only; omega, by intro _; rfl⟩
theorem stI32 (d : Fin 64) (k : Fin 32) (g : Fin 64) (i : Imm 7) : Statement (.stI32 d k g i) := by
  intro en he
  obtain rfl : (⟨.m, 9, d.val * 262144 + k.val * 8192 + g.val * 128 + i.field, i.lit⟩ : Encoding) = en := Option.some.inj he
  have := field_lt i
  exact ⟨by simp only; omega, by simp only; omega, by intro _; rfl⟩
theorem stI64 (d : Fin 64) (k : Fin 32) (g : Fin 64) (i : Imm 7) : Statement (.stI64 d k g i) := by
  intro en he
  obtain rfl : (⟨.m, 10, d.val * 262144 + k.val * 8192 + g.val * 128 + i.field, i.lit⟩ : Encoding) = en := Option.some.inj he
  have := field_lt i
  exact ⟨by simp only; omega, by simp only; omega, by intro _; rfl⟩
theorem lds (d : Fin 64) (k : Fin 32) (g : Fin 64) (i : Imm 7) : Statement (.lds d k g i) := by
  intro en he
  obtain rfl : (⟨.m, 11, d.val * 262144 + k.val * 8192 + g.val * 128 + i.field, i.lit⟩ : Encoding) = en := Option.some.inj he
  have := field_lt i
  exact ⟨by simp only; omega, by simp only; omega, by intro _; rfl⟩
theorem vld (d : Fin 64) (k : Fin 32) (g : Fin 64) (i : Imm 7) : Statement (.vld d k g i) := by
  intro en he
  obtain rfl : (⟨.m, 12, d.val * 262144 + k.val * 8192 + g.val * 128 + i.field, i.lit⟩ : Encoding) = en := Option.some.inj he
  have := field_lt i
  exact ⟨by simp only; omega, by simp only; omega, by intro _; rfl⟩
theorem vst (d : Fin 64) (k : Fin 32) (g : Fin 64) (i : Imm 7) : Statement (.vst d k g i) := by
  intro en he
  obtain rfl : (⟨.m, 13, d.val * 262144 + k.val * 8192 + g.val * 128 + i.field, i.lit⟩ : Encoding) = en := Option.some.inj he
  have := field_lt i
  exact ⟨by simp only; omega, by simp only; omega, by intro _; rfl⟩
theorem vlds (d : Fin 64) (k : Fin 32) (g : Fin 64) (i : Imm 7) : Statement (.vlds d k g i) := by
  intro en he
  obtain rfl : (⟨.m, 14, d.val * 262144 + k.val * 8192 + g.val * 128 + i.field, i.lit⟩ : Encoding) = en := Option.some.inj he
  have := field_lt i
  exact ⟨by simp only; omega, by simp only; omega, by intro _; rfl⟩
theorem vldx (d : Fin 64) (k : Fin 32) (x : Fin 64) (w : Fin 4) (s : Fin 2) (c : Fin 8) (z : Fin 2) (l : Lit) : Statement (.vldx d k x w s c z l) := by
  intro en he
  obtain rfl : (⟨.m, 15, d.val * 262144 + k.val * 8192 + x.val * 128 + w.val * 32 + s.val * 16 + c.val * 2 + z.val, l⟩ : Encoding) = en := Option.some.inj he
  exact ⟨by simp only; omega, by simp only; omega, by intro _; rfl⟩
theorem vstx (d : Fin 64) (k : Fin 32) (x : Fin 64) (w : Fin 4) (s : Fin 2) (c : Fin 8) (z : Fin 2) (l : Lit) : Statement (.vstx d k x w s c z l) := by
  intro en he
  obtain rfl : (⟨.m, 16, d.val * 262144 + k.val * 8192 + x.val * 128 + w.val * 32 + s.val * 16 + c.val * 2 + z.val, l⟩ : Encoding) = en := Option.some.inj he
  exact ⟨by simp only; omega, by simp only; omega, by intro _; rfl⟩
theorem vldm (d : Fin 8) (k : Fin 32) (g : Fin 64) (i : Imm 7) : Statement (.vldm d k g i) := by
  intro en he
  obtain rfl : (⟨.m, 17, d.val * 262144 + k.val * 8192 + g.val * 128 + i.field, i.lit⟩ : Encoding) = en := Option.some.inj he
  have := field_lt i
  exact ⟨by simp only; omega, by simp only; omega, by intro _; rfl⟩
theorem vstm (d : Fin 8) (k : Fin 32) (g : Fin 64) (i : Imm 7) : Statement (.vstm d k g i) := by
  intro en he
  obtain rfl : (⟨.m, 18, d.val * 262144 + k.val * 8192 + g.val * 128 + i.field, i.lit⟩ : Encoding) = en := Option.some.inj he
  have := field_lt i
  exact ⟨by simp only; omega, by simp only; omega, by intro _; rfl⟩
theorem cld (d k : Fin 32) (g : Fin 64) (i : Imm 7) : Statement (.cld d k g i) := by
  intro en he
  obtain rfl : (⟨.m, 19, d.val * 262144 + k.val * 8192 + g.val * 128 + i.field, i.lit⟩ : Encoding) = en := Option.some.inj he
  have := field_lt i
  exact ⟨by simp only; omega, by simp only; omega, by intro _; rfl⟩
theorem cst (d k : Fin 32) (g : Fin 64) (i : Imm 7) : Statement (.cst d k g i) := by
  intro en he
  obtain rfl : (⟨.m, 20, d.val * 262144 + k.val * 8192 + g.val * 128 + i.field, i.lit⟩ : Encoding) = en := Option.some.inj he
  have := field_lt i
  exact ⟨by simp only; omega, by simp only; omega, by intro _; rfl⟩
theorem tlock (k : Fin 32) (a b : Fin 64) : Statement (.tlock k a b) := by
  intro en he
  obtain rfl : (⟨.m, 21, k.val * 8192 + a.val * 128 + b.val * 2, none⟩ : Encoding) = en := Option.some.inj he
  exact ⟨by simp only; omega, by simp only; omega, by intro hl; exact absurd hl Bool.false_ne_true⟩
theorem tunlk (k : Fin 32) (a b : Fin 64) : Statement (.tunlk k a b) := by
  intro en he
  obtain rfl : (⟨.m, 22, k.val * 8192 + a.val * 128 + b.val * 2, none⟩ : Encoding) = en := Option.some.inj he
  exact ⟨by simp only; omega, by simp only; omega, by intro hl; exact absurd hl Bool.false_ne_true⟩
theorem cbset (h : Fin 16) (a b : Fin 64) : Statement (.cbset h a b) := by
  intro en he
  obtain rfl : (⟨.m, 23, h.val * 1048576 + a.val * 4096 + b.val * 64, none⟩ : Encoding) = en := Option.some.inj he
  exact ⟨by simp only; omega, by simp only; omega, by intro hl; exact absurd hl Bool.false_ne_true⟩
theorem cbwaitC (h : Fin 16) (n : BitVec 8) : Statement (.cbwaitC h n) := by
  intro en he
  obtain rfl : (⟨.m, 24, h.val * 1048576 + n.toNat * 4096, none⟩ : Encoding) = en := Option.some.inj he
  have := n.isLt
  exact ⟨by simp only; omega, by simp only; omega, by intro hl; exact absurd hl Bool.false_ne_true⟩
theorem cbwaitP (h : Fin 16) (n : BitVec 8) : Statement (.cbwaitP h n) := by
  intro en he
  obtain rfl : (⟨.m, 25, h.val * 1048576 + n.toNat * 4096, none⟩ : Encoding) = en := Option.some.inj he
  have := n.isLt
  exact ⟨by simp only; omega, by simp only; omega, by intro hl; exact absurd hl Bool.false_ne_true⟩
theorem cbadvC (h : Fin 16) (n : BitVec 8) : Statement (.cbadvC h n) := by
  intro en he
  obtain rfl : (⟨.m, 26, h.val * 1048576 + n.toNat * 4096, none⟩ : Encoding) = en := Option.some.inj he
  have := n.isLt
  exact ⟨by simp only; omega, by simp only; omega, by intro hl; exact absurd hl Bool.false_ne_true⟩
theorem cbadvP (h : Fin 16) (n : BitVec 8) : Statement (.cbadvP h n) := by
  intro en he
  obtain rfl : (⟨.m, 27, h.val * 1048576 + n.toNat * 4096, none⟩ : Encoding) = en := Option.some.inj he
  have := n.isLt
  exact ⟨by simp only; omega, by simp only; omega, by intro hl; exact absurd hl Bool.false_ne_true⟩
theorem vaddF (d a b : Fin 64) (m t : Fin 8) (x : Lit) : Statement (.vaddF d a b m t x) := by
  intro en he
  obtain rfl : (⟨.v, 0, d.val * 262144 + a.val * 4096 + b.val * 64 + m.val * 8 + t.val, x⟩ : Encoding) = en := Option.some.inj he
  exact ⟨by simp only; omega, by simp only; omega, by intro _; rfl⟩
theorem vsubF (d a b : Fin 64) (m t : Fin 8) (x : Lit) : Statement (.vsubF d a b m t x) := by
  intro en he
  obtain rfl : (⟨.v, 1, d.val * 262144 + a.val * 4096 + b.val * 64 + m.val * 8 + t.val, x⟩ : Encoding) = en := Option.some.inj he
  exact ⟨by simp only; omega, by simp only; omega, by intro _; rfl⟩
theorem vmulF (d a b : Fin 64) (m t : Fin 8) (x : Lit) : Statement (.vmulF d a b m t x) := by
  intro en he
  obtain rfl : (⟨.v, 2, d.val * 262144 + a.val * 4096 + b.val * 64 + m.val * 8 + t.val, x⟩ : Encoding) = en := Option.some.inj he
  exact ⟨by simp only; omega, by simp only; omega, by intro _; rfl⟩
theorem vfma (d a b : Fin 64) (m t : Fin 8) (x : Lit) : Statement (.vfma d a b m t x) := by
  intro en he
  obtain rfl : (⟨.v, 3, d.val * 262144 + a.val * 4096 + b.val * 64 + m.val * 8 + t.val, x⟩ : Encoding) = en := Option.some.inj he
  exact ⟨by simp only; omega, by simp only; omega, by intro _; rfl⟩
theorem vfnma (d a b : Fin 64) (m t : Fin 8) (x : Lit) : Statement (.vfnma d a b m t x) := by
  intro en he
  obtain rfl : (⟨.v, 4, d.val * 262144 + a.val * 4096 + b.val * 64 + m.val * 8 + t.val, x⟩ : Encoding) = en := Option.some.inj he
  exact ⟨by simp only; omega, by simp only; omega, by intro _; rfl⟩
theorem vminF (d a b : Fin 64) (m t : Fin 8) (x : Lit) : Statement (.vminF d a b m t x) := by
  intro en he
  obtain rfl : (⟨.v, 5, d.val * 262144 + a.val * 4096 + b.val * 64 + m.val * 8 + t.val, x⟩ : Encoding) = en := Option.some.inj he
  exact ⟨by simp only; omega, by simp only; omega, by intro _; rfl⟩
theorem vmaxF (d a b : Fin 64) (m t : Fin 8) (x : Lit) : Statement (.vmaxF d a b m t x) := by
  intro en he
  obtain rfl : (⟨.v, 6, d.val * 262144 + a.val * 4096 + b.val * 64 + m.val * 8 + t.val, x⟩ : Encoding) = en := Option.some.inj he
  exact ⟨by simp only; omega, by simp only; omega, by intro _; rfl⟩
theorem vabs (d a : Fin 64) (m t : Fin 8) (x : Lit) : Statement (.vabs d a m t x) := by
  intro en he
  obtain rfl : (⟨.v, 7, d.val * 262144 + a.val * 4096 + m.val * 8 + t.val, x⟩ : Encoding) = en := Option.some.inj he
  exact ⟨by simp only; omega, by simp only; omega, by intro _; rfl⟩
theorem vneg (d a : Fin 64) (m t : Fin 8) (x : Lit) : Statement (.vneg d a m t x) := by
  intro en he
  obtain rfl : (⟨.v, 8, d.val * 262144 + a.val * 4096 + m.val * 8 + t.val, x⟩ : Encoding) = en := Option.some.inj he
  exact ⟨by simp only; omega, by simp only; omega, by intro _; rfl⟩
theorem vrcp (d a : Fin 64) (m t : Fin 8) (x : Lit) : Statement (.vrcp d a m t x) := by
  intro en he
  obtain rfl : (⟨.v, 9, d.val * 262144 + a.val * 4096 + m.val * 8 + t.val, x⟩ : Encoding) = en := Option.some.inj he
  exact ⟨by simp only; omega, by simp only; omega, by intro _; rfl⟩
theorem vrsq (d a : Fin 64) (m t : Fin 8) (x : Lit) : Statement (.vrsq d a m t x) := by
  intro en he
  obtain rfl : (⟨.v, 10, d.val * 262144 + a.val * 4096 + m.val * 8 + t.val, x⟩ : Encoding) = en := Option.some.inj he
  exact ⟨by simp only; omega, by simp only; omega, by intro _; rfl⟩
theorem vexp2 (d a : Fin 64) (m t : Fin 8) (x : Lit) : Statement (.vexp2 d a m t x) := by
  intro en he
  obtain rfl : (⟨.v, 11, d.val * 262144 + a.val * 4096 + m.val * 8 + t.val, x⟩ : Encoding) = en := Option.some.inj he
  exact ⟨by simp only; omega, by simp only; omega, by intro _; rfl⟩
theorem vlog2 (d a : Fin 64) (m t : Fin 8) (x : Lit) : Statement (.vlog2 d a m t x) := by
  intro en he
  obtain rfl : (⟨.v, 12, d.val * 262144 + a.val * 4096 + m.val * 8 + t.val, x⟩ : Encoding) = en := Option.some.inj he
  exact ⟨by simp only; omega, by simp only; omega, by intro _; rfl⟩
theorem vcmpEqF (d : Fin 8) (a b : Fin 64) (m t : Fin 8) (x : Lit) : Statement (.vcmpEqF d a b m t x) := by
  intro en he
  obtain rfl : (⟨.v, 13, d.val * 2097152 + a.val * 4096 + b.val * 64 + m.val * 8 + t.val, x⟩ : Encoding) = en := Option.some.inj he
  exact ⟨by simp only; omega, by simp only; omega, by intro _; rfl⟩
theorem vcmpLtF (d : Fin 8) (a b : Fin 64) (m t : Fin 8) (x : Lit) : Statement (.vcmpLtF d a b m t x) := by
  intro en he
  obtain rfl : (⟨.v, 14, d.val * 2097152 + a.val * 4096 + b.val * 64 + m.val * 8 + t.val, x⟩ : Encoding) = en := Option.some.inj he
  exact ⟨by simp only; omega, by simp only; omega, by intro _; rfl⟩
theorem vcmpLeF (d : Fin 8) (a b : Fin 64) (m t : Fin 8) (x : Lit) : Statement (.vcmpLeF d a b m t x) := by
  intro en he
  obtain rfl : (⟨.v, 15, d.val * 2097152 + a.val * 4096 + b.val * 64 + m.val * 8 + t.val, x⟩ : Encoding) = en := Option.some.inj he
  exact ⟨by simp only; omega, by simp only; omega, by intro _; rfl⟩
theorem vaddI (d a b : Fin 64) (m t : Fin 8) (x : Lit) : Statement (.vaddI d a b m t x) := by
  intro en he
  obtain rfl : (⟨.v, 16, d.val * 262144 + a.val * 4096 + b.val * 64 + m.val * 8 + t.val, x⟩ : Encoding) = en := Option.some.inj he
  exact ⟨by simp only; omega, by simp only; omega, by intro _; rfl⟩
theorem vsubI (d a b : Fin 64) (m t : Fin 8) (x : Lit) : Statement (.vsubI d a b m t x) := by
  intro en he
  obtain rfl : (⟨.v, 17, d.val * 262144 + a.val * 4096 + b.val * 64 + m.val * 8 + t.val, x⟩ : Encoding) = en := Option.some.inj he
  exact ⟨by simp only; omega, by simp only; omega, by intro _; rfl⟩
theorem vmulI (d a b : Fin 64) (m t : Fin 8) (x : Lit) : Statement (.vmulI d a b m t x) := by
  intro en he
  obtain rfl : (⟨.v, 18, d.val * 262144 + a.val * 4096 + b.val * 64 + m.val * 8 + t.val, x⟩ : Encoding) = en := Option.some.inj he
  exact ⟨by simp only; omega, by simp only; omega, by intro _; rfl⟩
theorem vmad (d a b : Fin 64) (m t : Fin 8) (x : Lit) : Statement (.vmad d a b m t x) := by
  intro en he
  obtain rfl : (⟨.v, 19, d.val * 262144 + a.val * 4096 + b.val * 64 + m.val * 8 + t.val, x⟩ : Encoding) = en := Option.some.inj he
  exact ⟨by simp only; omega, by simp only; omega, by intro _; rfl⟩
theorem vadds (d a b : Fin 64) (m t : Fin 8) (x : Lit) : Statement (.vadds d a b m t x) := by
  intro en he
  obtain rfl : (⟨.v, 20, d.val * 262144 + a.val * 4096 + b.val * 64 + m.val * 8 + t.val, x⟩ : Encoding) = en := Option.some.inj he
  exact ⟨by simp only; omega, by simp only; omega, by intro _; rfl⟩
theorem vsubs (d a b : Fin 64) (m t : Fin 8) (x : Lit) : Statement (.vsubs d a b m t x) := by
  intro en he
  obtain rfl : (⟨.v, 21, d.val * 262144 + a.val * 4096 + b.val * 64 + m.val * 8 + t.val, x⟩ : Encoding) = en := Option.some.inj he
  exact ⟨by simp only; omega, by simp only; omega, by intro _; rfl⟩
theorem vminI (d a b : Fin 64) (m t : Fin 8) (x : Lit) : Statement (.vminI d a b m t x) := by
  intro en he
  obtain rfl : (⟨.v, 22, d.val * 262144 + a.val * 4096 + b.val * 64 + m.val * 8 + t.val, x⟩ : Encoding) = en := Option.some.inj he
  exact ⟨by simp only; omega, by simp only; omega, by intro _; rfl⟩
theorem vmaxI (d a b : Fin 64) (m t : Fin 8) (x : Lit) : Statement (.vmaxI d a b m t x) := by
  intro en he
  obtain rfl : (⟨.v, 23, d.val * 262144 + a.val * 4096 + b.val * 64 + m.val * 8 + t.val, x⟩ : Encoding) = en := Option.some.inj he
  exact ⟨by simp only; omega, by simp only; omega, by intro _; rfl⟩
theorem vand (d a b : Fin 64) (m t : Fin 8) (x : Lit) : Statement (.vand d a b m t x) := by
  intro en he
  obtain rfl : (⟨.v, 24, d.val * 262144 + a.val * 4096 + b.val * 64 + m.val * 8 + t.val, x⟩ : Encoding) = en := Option.some.inj he
  exact ⟨by simp only; omega, by simp only; omega, by intro _; rfl⟩
theorem vor (d a b : Fin 64) (m t : Fin 8) (x : Lit) : Statement (.vor d a b m t x) := by
  intro en he
  obtain rfl : (⟨.v, 25, d.val * 262144 + a.val * 4096 + b.val * 64 + m.val * 8 + t.val, x⟩ : Encoding) = en := Option.some.inj he
  exact ⟨by simp only; omega, by simp only; omega, by intro _; rfl⟩
theorem vxor (d a b : Fin 64) (m t : Fin 8) (x : Lit) : Statement (.vxor d a b m t x) := by
  intro en he
  obtain rfl : (⟨.v, 26, d.val * 262144 + a.val * 4096 + b.val * 64 + m.val * 8 + t.val, x⟩ : Encoding) = en := Option.some.inj he
  exact ⟨by simp only; omega, by simp only; omega, by intro _; rfl⟩
theorem vshl (d a b : Fin 64) (m t : Fin 8) (x : Lit) : Statement (.vshl d a b m t x) := by
  intro en he
  obtain rfl : (⟨.v, 27, d.val * 262144 + a.val * 4096 + b.val * 64 + m.val * 8 + t.val, x⟩ : Encoding) = en := Option.some.inj he
  exact ⟨by simp only; omega, by simp only; omega, by intro _; rfl⟩
theorem vshr (d a b : Fin 64) (m t : Fin 8) (x : Lit) : Statement (.vshr d a b m t x) := by
  intro en he
  obtain rfl : (⟨.v, 28, d.val * 262144 + a.val * 4096 + b.val * 64 + m.val * 8 + t.val, x⟩ : Encoding) = en := Option.some.inj he
  exact ⟨by simp only; omega, by simp only; omega, by intro _; rfl⟩
theorem vcmpEqI (d : Fin 8) (a b : Fin 64) (m t : Fin 8) (x : Lit) : Statement (.vcmpEqI d a b m t x) := by
  intro en he
  obtain rfl : (⟨.v, 29, d.val * 2097152 + a.val * 4096 + b.val * 64 + m.val * 8 + t.val, x⟩ : Encoding) = en := Option.some.inj he
  exact ⟨by simp only; omega, by simp only; omega, by intro _; rfl⟩
theorem vcmpLtI (d : Fin 8) (a b : Fin 64) (m t : Fin 8) (x : Lit) : Statement (.vcmpLtI d a b m t x) := by
  intro en he
  obtain rfl : (⟨.v, 30, d.val * 2097152 + a.val * 4096 + b.val * 64 + m.val * 8 + t.val, x⟩ : Encoding) = en := Option.some.inj he
  exact ⟨by simp only; omega, by simp only; omega, by intro _; rfl⟩
theorem vcmpLeI (d : Fin 8) (a b : Fin 64) (m t : Fin 8) (x : Lit) : Statement (.vcmpLeI d a b m t x) := by
  intro en he
  obtain rfl : (⟨.v, 31, d.val * 2097152 + a.val * 4096 + b.val * 64 + m.val * 8 + t.val, x⟩ : Encoding) = en := Option.some.inj he
  exact ⟨by simp only; omega, by simp only; omega, by intro _; rfl⟩
theorem vcvt (d a : Fin 64) (y z : Fin 2) (s m t : Fin 8) (x : Lit) : Statement (.vcvt d a y z s m t x) := by
  intro en he
  obtain rfl : (⟨.v, 32, d.val * 262144 + a.val * 4096 + y.val * 2048 + z.val * 1024 + s.val * 64 + m.val * 8 + t.val, x⟩ : Encoding) = en := Option.some.inj he
  exact ⟨by simp only; omega, by simp only; omega, by intro _; rfl⟩
theorem vpack (d a b : Fin 64) (m t : Fin 8) (x : Lit) : Statement (.vpack d a b m t x) := by
  intro en he
  obtain rfl : (⟨.v, 33, d.val * 262144 + a.val * 4096 + b.val * 64 + m.val * 8 + t.val, x⟩ : Encoding) = en := Option.some.inj he
  exact ⟨by simp only; omega, by simp only; omega, by intro _; rfl⟩
theorem vunpk (d a b : Fin 64) (m t : Fin 8) (x : Lit) : Statement (.vunpk d a b m t x) := by
  intro en he
  obtain rfl : (⟨.v, 34, d.val * 262144 + a.val * 4096 + b.val * 64 + m.val * 8 + t.val, x⟩ : Encoding) = en := Option.some.inj he
  exact ⟨by simp only; omega, by simp only; omega, by intro _; rfl⟩
theorem vsplit (d a b : Fin 64) (x : BitVec 32) : Statement (.vsplit d a b x) := by
  intro en he
  obtain rfl : (⟨.v, 35, d.val * 262144 + a.val * 4096 + b.val * 64, some x⟩ : Encoding) = en := Option.some.inj he
  have := x.isLt
  exact ⟨by simp only; omega, by simp only; omega, by intro _; rfl⟩
theorem vclz (d a : Fin 64) (m t : Fin 8) (x : Lit) : Statement (.vclz d a m t x) := by
  intro en he
  obtain rfl : (⟨.v, 36, d.val * 262144 + a.val * 4096 + m.val * 8 + t.val, x⟩ : Encoding) = en := Option.some.inj he
  exact ⟨by simp only; omega, by simp only; omega, by intro _; rfl⟩
theorem vrcmb (d a g : Fin 64) (x : BitVec 32) : Statement (.vrcmb d a g x) := by
  intro en he
  obtain rfl : (⟨.v, 37, d.val * 262144 + a.val * 4096 + g.val * 64, some x⟩ : Encoding) = en := Option.some.inj he
  have := x.isLt
  exact ⟨by simp only; omega, by simp only; omega, by intro _; rfl⟩
theorem vamax (d a : Fin 64) (m t : Fin 8) (x : Lit) : Statement (.vamax d a m t x) := by
  intro en he
  obtain rfl : (⟨.v, 38, d.val * 262144 + a.val * 4096 + m.val * 8 + t.val, x⟩ : Encoding) = en := Option.some.inj he
  exact ⟨by simp only; omega, by simp only; omega, by intro _; rfl⟩
theorem vrsumF (d a : Fin 64) (m t : Fin 8) (x : Lit) : Statement (.vrsumF d a m t x) := by
  intro en he
  obtain rfl : (⟨.v, 39, d.val * 262144 + a.val * 4096 + m.val * 8 + t.val, x⟩ : Encoding) = en := Option.some.inj he
  exact ⟨by simp only; omega, by simp only; omega, by intro _; rfl⟩
theorem vrmaxF (d a : Fin 64) (m t : Fin 8) (x : Lit) : Statement (.vrmaxF d a m t x) := by
  intro en he
  obtain rfl : (⟨.v, 40, d.val * 262144 + a.val * 4096 + m.val * 8 + t.val, x⟩ : Encoding) = en := Option.some.inj he
  exact ⟨by simp only; omega, by simp only; omega, by intro _; rfl⟩
theorem vrsumI (d a : Fin 64) (m t : Fin 8) (x : Lit) : Statement (.vrsumI d a m t x) := by
  intro en he
  obtain rfl : (⟨.v, 41, d.val * 262144 + a.val * 4096 + m.val * 8 + t.val, x⟩ : Encoding) = en := Option.some.inj he
  exact ⟨by simp only; omega, by simp only; omega, by intro _; rfl⟩
theorem vrmaxI (d a : Fin 64) (m t : Fin 8) (x : Lit) : Statement (.vrmaxI d a m t x) := by
  intro en he
  obtain rfl : (⟨.v, 42, d.val * 262144 + a.val * 4096 + m.val * 8 + t.val, x⟩ : Encoding) = en := Option.some.inj he
  exact ⟨by simp only; omega, by simp only; omega, by intro _; rfl⟩
theorem vmov (d a : Fin 64) (m t : Fin 8) (x : Lit) : Statement (.vmov d a m t x) := by
  intro en he
  obtain rfl : (⟨.v, 43, d.val * 262144 + a.val * 4096 + m.val * 8 + t.val, x⟩ : Encoding) = en := Option.some.inj he
  exact ⟨by simp only; omega, by simp only; omega, by intro _; rfl⟩
theorem vsel (d a b : Fin 64) (m t : Fin 8) (x : Lit) : Statement (.vsel d a b m t x) := by
  intro en he
  obtain rfl : (⟨.v, 44, d.val * 262144 + a.val * 4096 + b.val * 64 + m.val * 8 + t.val, x⟩ : Encoding) = en := Option.some.inj he
  exact ⟨by simp only; omega, by simp only; omega, by intro _; rfl⟩
theorem vbcst (d a : Fin 64) (m t : Fin 8) : Statement (.vbcst d a m t) := by
  intro en he
  obtain rfl : (⟨.v, 45, d.val * 262144 + a.val * 4096 + m.val * 8 + t.val, none⟩ : Encoding) = en := Option.some.inj he
  exact ⟨by simp only; omega, by simp only; omega, by intro hl; exact absurd hl Bool.false_ne_true⟩
theorem vext (d a n : Fin 64) (t : Fin 8) (x : Lit) : Statement (.vext d a n t x) := by
  intro en he
  obtain rfl : (⟨.v, 46, d.val * 262144 + a.val * 4096 + n.val * 64 + t.val, x⟩ : Encoding) = en := Option.some.inj he
  exact ⟨by simp only; omega, by simp only; omega, by intro _; rfl⟩
theorem vins (d a n : Fin 64) (t : Fin 8) : Statement (.vins d a n t) := by
  intro en he
  obtain rfl : (⟨.v, 47, d.val * 262144 + a.val * 4096 + n.val * 64 + t.val, none⟩ : Encoding) = en := Option.some.inj he
  exact ⟨by simp only; omega, by simp only; omega, by intro hl; exact absurd hl Bool.false_ne_true⟩
theorem mskpsh (a : Fin 8) : Statement (.mskpsh a) := by
  intro en he
  obtain rfl : (⟨.v, 48, a.val * 262144, none⟩ : Encoding) = en := Option.some.inj he
  exact ⟨by simp only; omega, by simp only; omega, by intro hl; exact absurd hl Bool.false_ne_true⟩
theorem mskinv : Statement .mskinv := by
  intro en he
  obtain rfl : (⟨.v, 49, 0, none⟩ : Encoding) = en := Option.some.inj he
  exact ⟨by simp only; omega, by simp only; omega, by intro hl; exact absurd hl Bool.false_ne_true⟩
theorem mskpop : Statement .mskpop := by
  intro en he
  obtain rfl : (⟨.v, 50, 0, none⟩ : Encoding) = en := Option.some.inj he
  exact ⟨by simp only; omega, by simp only; omega, by intro hl; exact absurd hl Bool.false_ne_true⟩
theorem mskand (d a b : Fin 8) : Statement (.mskand d a b) := by
  intro en he
  obtain rfl : (⟨.v, 51, d.val * 2097152 + a.val * 262144 + b.val * 32768, none⟩ : Encoding) = en := Option.some.inj he
  exact ⟨by simp only; omega, by simp only; omega, by intro hl; exact absurd hl Bool.false_ne_true⟩
theorem mskor (d a b : Fin 8) : Statement (.mskor d a b) := by
  intro en he
  obtain rfl : (⟨.v, 52, d.val * 2097152 + a.val * 262144 + b.val * 32768, none⟩ : Encoding) = en := Option.some.inj he
  exact ⟨by simp only; omega, by simp only; omega, by intro hl; exact absurd hl Bool.false_ne_true⟩
theorem mskmov (d a : Fin 8) : Statement (.mskmov d a) := by
  intro en he
  obtain rfl : (⟨.v, 53, d.val * 2097152 + a.val * 262144, none⟩ : Encoding) = en := Option.some.inj he
  exact ⟨by simp only; omega, by simp only; omega, by intro hl; exact absurd hl Bool.false_ne_true⟩
theorem viota (d : Fin 64) (m t : Fin 8) : Statement (.viota d m t) := by
  intro en he
  obtain rfl : (⟨.v, 54, d.val * 262144 + m.val * 8 + t.val, none⟩ : Encoding) = en := Option.some.inj he
  exact ⟨by simp only; omega, by simp only; omega, by intro hl; exact absurd hl Bool.false_ne_true⟩
theorem vscalb (d a b : Fin 64) (m t : Fin 8) (x : Lit) : Statement (.vscalb d a b m t x) := by
  intro en he
  obtain rfl : (⟨.v, 55, d.val * 262144 + a.val * 4096 + b.val * 64 + m.val * 8 + t.val, x⟩ : Encoding) = en := Option.some.inj he
  exact ⟨by simp only; omega, by simp only; omega, by intro _; rfl⟩
theorem xcfg (a b : Fin 8) : Statement (.xcfg a b) := by
  intro en he
  obtain rfl : (⟨.z, 0, a.val * 2097152 + b.val * 262144, none⟩ : Encoding) = en := Option.some.inj he
  exact ⟨by simp only; omega, by simp only; omega, by intro hl; exact absurd hl Bool.false_ne_true⟩
theorem xcfgSl (s : Fin 8) : Statement (.xcfgSl s) := by
  intro en he
  obtain rfl : (⟨.z, 0, 11927552 + s.val * 16384, none⟩ : Encoding) = en := Option.some.inj he
  exact ⟨by simp only; omega, by simp only; omega, by intro hl; exact absurd hl Bool.false_ne_true⟩
theorem xacq : Statement .xacq := by
  intro en he
  obtain rfl : (⟨.z, 1, 0, none⟩ : Encoding) = en := Option.some.inj he
  exact ⟨by simp only; omega, by simp only; omega, by intro hl; exact absurd hl Bool.false_ne_true⟩
theorem xrel : Statement .xrel := by
  intro en he
  obtain rfl : (⟨.z, 2, 0, none⟩ : Encoding) = en := Option.some.inj he
  exact ⟨by simp only; omega, by simp only; omega, by intro hl; exact absurd hl Bool.false_ne_true⟩
theorem xpushA (k : Fin 32) (a b : Fin 64) : Statement (.xpushA k a b) := by
  intro en he
  obtain rfl : (⟨.z, 3, k.val * 524288 + a.val * 8192 + b.val * 128, none⟩ : Encoding) = en := Option.some.inj he
  exact ⟨by simp only; omega, by simp only; omega, by intro hl; exact absurd hl Bool.false_ne_true⟩
theorem xpushW (k : Fin 32) (a b : Fin 64) : Statement (.xpushW k a b) := by
  intro en he
  obtain rfl : (⟨.z, 4, k.val * 524288 + a.val * 8192 + b.val * 128, none⟩ : Encoding) = en := Option.some.inj he
  exact ⟨by simp only; omega, by simp only; omega, by intro hl; exact absurd hl Bool.false_ne_true⟩
theorem xflip : Statement .xflip := by
  intro en he
  obtain rfl : (⟨.z, 5, 0, none⟩ : Encoding) = en := Option.some.inj he
  exact ⟨by simp only; omega, by simp only; omega, by intro hl; exact absurd hl Bool.false_ne_true⟩
theorem xshift : Statement .xshift := by
  intro en he
  obtain rfl : (⟨.z, 6, 0, none⟩ : Encoding) = en := Option.some.inj he
  exact ⟨by simp only; omega, by simp only; omega, by intro hl; exact absurd hl Bool.false_ne_true⟩
theorem xscl (r : Fin 64) (s : Fin 8) : Statement (.xscl r s) := by
  intro en he
  obtain rfl : (⟨.z, 7, r.val * 262144 + s.val * 32768, none⟩ : Encoding) = en := Option.some.inj he
  exact ⟨by simp only; omega, by simp only; omega, by intro hl; exact absurd hl Bool.false_ne_true⟩
theorem xacc (t : Fin 8) (a b : Fin 64) : Statement (.xacc t a b) := by
  intro en he
  obtain rfl : (⟨.z, 8, t.val * 2097152 + a.val * 32768 + b.val * 512, none⟩ : Encoding) = en := Option.some.inj he
  exact ⟨by simp only; omega, by simp only; omega, by intro hl; exact absurd hl Bool.false_ne_true⟩
theorem xdrain (t : Fin 8) (a b : Fin 64) (m : Fin 8) : Statement (.xdrain t a b m) := by
  intro en he
  obtain rfl : (⟨.z, 9, t.val * 2097152 + a.val * 32768 + b.val * 512 + m.val * 64, none⟩ : Encoding) = en := Option.some.inj he
  exact ⟨by simp only; omega, by simp only; omega, by intro hl; exact absurd hl Bool.false_ne_true⟩
theorem xzero (t : Fin 8) : Statement (.xzero t) := by
  intro en he
  obtain rfl : (⟨.z, 10, t.val * 2097152, none⟩ : Encoding) = en := Option.some.inj he
  exact ⟨by simp only; omega, by simp only; omega, by intro hl; exact absurd hl Bool.false_ne_true⟩
theorem xwait : Statement .xwait := by
  intro en he
  obtain rfl : (⟨.z, 11, 0, none⟩ : Encoding) = en := Option.some.inj he
  exact ⟨by simp only; omega, by simp only; omega, by intro hl; exact absurd hl Bool.false_ne_true⟩
theorem xres (r : Fin 64) : Statement (.xres r) := by
  intro en he
  obtain rfl : (⟨.z, 12, r.val * 262144, none⟩ : Encoding) = en := Option.some.inj he
  exact ⟨by simp only; omega, by simp only; omega, by intro hl; exact absurd hl Bool.false_ne_true⟩
theorem xmpc (r : Fin 64) : Statement (.xmpc r) := by
  intro en he
  obtain rfl : (⟨.z, 13, r.val * 262144, none⟩ : Encoding) = en := Option.some.inj he
  exact ⟨by simp only; omega, by simp only; omega, by intro hl; exact absurd hl Bool.false_ne_true⟩
theorem xhdr (t : Fin 8) (a b : Fin 64) (m : Fin 8) : Statement (.xhdr t a b m) := by
  intro en he
  obtain rfl : (⟨.z, 14, t.val * 2097152 + a.val * 32768 + b.val * 512 + m.val * 64, none⟩ : Encoding) = en := Option.some.inj he
  exact ⟨by simp only; omega, by simp only; omega, by intro hl; exact absurd hl Bool.false_ne_true⟩
theorem xsete (t : Fin 8) (a : Fin 64) : Statement (.xsete t a) := by
  intro en he
  obtain rfl : (⟨.z, 15, t.val * 2097152 + a.val * 32768, none⟩ : Encoding) = en := Option.some.inj he
  exact ⟨by simp only; omega, by simp only; omega, by intro hl; exact absurd hl Bool.false_ne_true⟩
theorem xclrf (t : Fin 8) : Statement (.xclrf t) := by
  intro en he
  obtain rfl : (⟨.z, 16, t.val * 2097152, none⟩ : Encoding) = en := Option.some.inj he
  exact ⟨by simp only; omega, by simp only; omega, by intro hl; exact absurd hl Bool.false_ne_true⟩
theorem xmark (t : Fin 8) (a b : Fin 64) (m : Fin 2) : Statement (.xmark t a b m) := by
  intro en he
  obtain rfl : (⟨.z, 17, t.val * 2097152 + a.val * 32768 + b.val * 512 + m.val * 64, none⟩ : Encoding) = en := Option.some.inj he
  exact ⟨by simp only; omega, by simp only; omega, by intro hl; exact absurd hl Bool.false_ne_true⟩
theorem fadd (k : Fin 32) (a : Fin 64) (s : Fin 8) : Statement (.fadd k a s) := by
  intro en he
  obtain rfl : (⟨.a, 0, k.val * 524288 + a.val * 8192 + s.val * 1024, none⟩ : Encoding) = en := Option.some.inj he
  exact ⟨by simp only; omega, by simp only; omega, by intro hl; exact absurd hl Bool.false_ne_true⟩
theorem fwait (k : Fin 32) (a : Fin 64) (s : Fin 8) : Statement (.fwait k a s) := by
  intro en he
  obtain rfl : (⟨.a, 1, k.val * 524288 + a.val * 8192 + s.val * 1024, none⟩ : Encoding) = en := Option.some.inj he
  exact ⟨by simp only; omega, by simp only; omega, by intro hl; exact absurd hl Bool.false_ne_true⟩
theorem binit (k : Fin 32) (a : Fin 64) (s : Fin 8) : Statement (.binit k a s) := by
  intro en he
  obtain rfl : (⟨.a, 2, k.val * 524288 + a.val * 8192 + s.val * 1024, none⟩ : Encoding) = en := Option.some.inj he
  exact ⟨by simp only; omega, by simp only; omega, by intro hl; exact absurd hl Bool.false_ne_true⟩
theorem barrive (k : Fin 32) (a : Fin 64) (s : Fin 8) : Statement (.barrive k a s) := by
  intro en he
  obtain rfl : (⟨.a, 3, k.val * 524288 + a.val * 8192 + s.val * 1024, none⟩ : Encoding) = en := Option.some.inj he
  exact ⟨by simp only; omega, by simp only; omega, by intro hl; exact absurd hl Bool.false_ne_true⟩
theorem bwait (k : Fin 32) (a : Fin 64) (s : Fin 8) : Statement (.bwait k a s) := by
  intro en he
  obtain rfl : (⟨.a, 4, k.val * 524288 + a.val * 8192 + s.val * 1024, none⟩ : Encoding) = en := Option.some.inj he
  exact ⟨by simp only; omega, by simp only; omega, by intro hl; exact absurd hl Bool.false_ne_true⟩
theorem babort (k : Fin 32) (a : Fin 64) (s : Fin 8) : Statement (.babort k a s) := by
  intro en he
  obtain rfl : (⟨.a, 5, k.val * 524288 + a.val * 8192 + s.val * 1024, none⟩ : Encoding) = en := Option.some.inj he
  exact ⟨by simp only; omega, by simp only; omega, by intro hl; exact absurd hl Bool.false_ne_true⟩
theorem gjoin (k : Fin 32) (a : Fin 64) : Statement (.gjoin k a) := by
  intro en he
  obtain rfl : (⟨.a, 6, 2048 + k.val * 524288 + a.val * 8192, none⟩ : Encoding) = en := Option.some.inj he
  exact ⟨by simp only; omega, by simp only; omega, by intro hl; exact absurd hl Bool.false_ne_true⟩
theorem gleave (k : Fin 32) (a : Fin 64) : Statement (.gleave k a) := by
  intro en he
  obtain rfl : (⟨.a, 7, 2048 + k.val * 524288 + a.val * 8192, none⟩ : Encoding) = en := Option.some.inj he
  exact ⟨by simp only; omega, by simp only; omega, by intro hl; exact absurd hl Bool.false_ne_true⟩
theorem fence (s : Fin 8) : Statement (.fence s) := by
  intro en he
  obtain rfl : (⟨.a, 8, s.val * 2097152, none⟩ : Encoding) = en := Option.some.inj he
  exact ⟨by simp only; omega, by simp only; omega, by intro hl; exact absurd hl Bool.false_ne_true⟩
theorem qfence (q : BitVec 19) : Statement (.qfence q) := by
  intro en he
  obtain rfl : (⟨.a, 9, q.toNat, none⟩ : Encoding) = en := Option.some.inj he
  have := q.isLt
  exact ⟨by simp only; omega, by simp only; omega, by intro hl; exact absurd hl Bool.false_ne_true⟩
theorem ald (d : Fin 64) (k : Fin 32) (a : Fin 64) (s : Fin 8) (z : Fin 2) (l : Lit) : Statement (.ald d k a s z l) := by
  intro en he
  obtain rfl : (⟨.a, 10, d.val * 262144 + k.val * 8192 + a.val * 128 + s.val * 2 + z.val, l⟩ : Encoding) = en := Option.some.inj he
  exact ⟨by simp only; omega, by simp only; omega, by intro _; rfl⟩
theorem ast (d : Fin 64) (k : Fin 32) (a : Fin 64) (s : Fin 8) (z : Fin 2) (l : Lit) : Statement (.ast d k a s z l) := by
  intro en he
  obtain rfl : (⟨.a, 11, d.val * 262144 + k.val * 8192 + a.val * 128 + s.val * 2 + z.val, l⟩ : Encoding) = en := Option.some.inj he
  exact ⟨by simp only; omega, by simp only; omega, by intro _; rfl⟩
theorem aadd (d : Fin 64) (k : Fin 32) (a : Fin 64) (u s : Fin 8) (z : Fin 2) (l : Lit) : Statement (.aadd d k a u s z l) := by
  intro en he
  obtain rfl : (⟨.a, 12, d.val * 262144 + k.val * 8192 + a.val * 128 + u.val * 16 + s.val * 2 + z.val, l⟩ : Encoding) = en := Option.some.inj he
  exact ⟨by simp only; omega, by simp only; omega, by intro _; rfl⟩
theorem aand (d : Fin 64) (k : Fin 32) (a : Fin 64) (u s : Fin 8) (z : Fin 2) (l : Lit) : Statement (.aand d k a u s z l) := by
  intro en he
  obtain rfl : (⟨.a, 13, d.val * 262144 + k.val * 8192 + a.val * 128 + u.val * 16 + s.val * 2 + z.val, l⟩ : Encoding) = en := Option.some.inj he
  exact ⟨by simp only; omega, by simp only; omega, by intro _; rfl⟩
theorem aor (d : Fin 64) (k : Fin 32) (a : Fin 64) (u s : Fin 8) (z : Fin 2) (l : Lit) : Statement (.aor d k a u s z l) := by
  intro en he
  obtain rfl : (⟨.a, 14, d.val * 262144 + k.val * 8192 + a.val * 128 + u.val * 16 + s.val * 2 + z.val, l⟩ : Encoding) = en := Option.some.inj he
  exact ⟨by simp only; omega, by simp only; omega, by intro _; rfl⟩
theorem axor (d : Fin 64) (k : Fin 32) (a : Fin 64) (u s : Fin 8) (z : Fin 2) (l : Lit) : Statement (.axor d k a u s z l) := by
  intro en he
  obtain rfl : (⟨.a, 15, d.val * 262144 + k.val * 8192 + a.val * 128 + u.val * 16 + s.val * 2 + z.val, l⟩ : Encoding) = en := Option.some.inj he
  exact ⟨by simp only; omega, by simp only; omega, by intro _; rfl⟩
theorem amin (d : Fin 64) (k : Fin 32) (a : Fin 64) (u s : Fin 8) (z : Fin 2) (l : Lit) : Statement (.amin d k a u s z l) := by
  intro en he
  obtain rfl : (⟨.a, 16, d.val * 262144 + k.val * 8192 + a.val * 128 + u.val * 16 + s.val * 2 + z.val, l⟩ : Encoding) = en := Option.some.inj he
  exact ⟨by simp only; omega, by simp only; omega, by intro _; rfl⟩
theorem amax (d : Fin 64) (k : Fin 32) (a : Fin 64) (u s : Fin 8) (z : Fin 2) (l : Lit) : Statement (.amax d k a u s z l) := by
  intro en he
  obtain rfl : (⟨.a, 17, d.val * 262144 + k.val * 8192 + a.val * 128 + u.val * 16 + s.val * 2 + z.val, l⟩ : Encoding) = en := Option.some.inj he
  exact ⟨by simp only; omega, by simp only; omega, by intro _; rfl⟩
theorem aminn (d : Fin 64) (k : Fin 32) (a : Fin 64) (u s : Fin 8) (z : Fin 2) (l : Lit) : Statement (.aminn d k a u s z l) := by
  intro en he
  obtain rfl : (⟨.a, 18, d.val * 262144 + k.val * 8192 + a.val * 128 + u.val * 16 + s.val * 2 + z.val, l⟩ : Encoding) = en := Option.some.inj he
  exact ⟨by simp only; omega, by simp only; omega, by intro _; rfl⟩
theorem amaxn (d : Fin 64) (k : Fin 32) (a : Fin 64) (u s : Fin 8) (z : Fin 2) (l : Lit) : Statement (.amaxn d k a u s z l) := by
  intro en he
  obtain rfl : (⟨.a, 19, d.val * 262144 + k.val * 8192 + a.val * 128 + u.val * 16 + s.val * 2 + z.val, l⟩ : Encoding) = en := Option.some.inj he
  exact ⟨by simp only; omega, by simp only; omega, by intro _; rfl⟩
theorem axchg (d : Fin 64) (k : Fin 32) (a : Fin 64) (u s : Fin 8) (z : Fin 2) (l : Lit) : Statement (.axchg d k a u s z l) := by
  intro en he
  obtain rfl : (⟨.a, 20, d.val * 262144 + k.val * 8192 + a.val * 128 + u.val * 16 + s.val * 2 + z.val, l⟩ : Encoding) = en := Option.some.inj he
  exact ⟨by simp only; omega, by simp only; omega, by intro _; rfl⟩
theorem acas (d : Fin 64) (k : Fin 32) (a : Fin 64) (u s : Fin 8) (z : Fin 2) (l : Lit) : Statement (.acas d k a u s z l) := by
  intro en he
  obtain rfl : (⟨.a, 21, d.val * 262144 + k.val * 8192 + a.val * 128 + u.val * 16 + s.val * 2 + z.val, l⟩ : Encoding) = en := Option.some.inj he
  exact ⟨by simp only; omega, by simp only; omega, by intro _; rfl⟩
theorem amaxrs (d : Fin 64) (k : Fin 32) (a : Fin 64) (u s : Fin 8) (z : Fin 2) (l : Lit) : Statement (.amaxrs d k a u s z l) := by
  intro en he
  obtain rfl : (⟨.a, 22, d.val * 262144 + k.val * 8192 + a.val * 128 + u.val * 16 + s.val * 2 + z.val, l⟩ : Encoding) = en := Option.some.inj he
  exact ⟨by simp only; omega, by simp only; omega, by intro _; rfl⟩
theorem ascAdd (d : Fin 64) (k : Fin 32) (a : Fin 64) (z : Fin 2) (l : Lit) : Statement (.ascAdd d k a z l) := by
  intro en he
  obtain rfl : (⟨.a, 23, 4 + d.val * 262144 + k.val * 8192 + a.val * 128 + z.val, l⟩ : Encoding) = en := Option.some.inj he
  exact ⟨by simp only; omega, by simp only; omega, by intro _; rfl⟩
theorem ascXchg (d : Fin 64) (k : Fin 32) (a : Fin 64) (z : Fin 2) (l : Lit) : Statement (.ascXchg d k a z l) := by
  intro en he
  obtain rfl : (⟨.a, 23, 20 + d.val * 262144 + k.val * 8192 + a.val * 128 + z.val, l⟩ : Encoding) = en := Option.some.inj he
  exact ⟨by simp only; omega, by simp only; omega, by intro _; rfl⟩
theorem ascCas (d : Fin 64) (k : Fin 32) (a : Fin 64) (z : Fin 2) (l : Lit) : Statement (.ascCas d k a z l) := by
  intro en he
  obtain rfl : (⟨.a, 23, 36 + d.val * 262144 + k.val * 8192 + a.val * 128 + z.val, l⟩ : Encoding) = en := Option.some.inj he
  exact ⟨by simp only; omega, by simp only; omega, by intro _; rfl⟩
theorem ascLd (d : Fin 64) (k : Fin 32) (a : Fin 64) (z : Fin 2) (l : Lit) : Statement (.ascLd d k a z l) := by
  intro en he
  obtain rfl : (⟨.a, 23, 52 + d.val * 262144 + k.val * 8192 + a.val * 128 + z.val, l⟩ : Encoding) = en := Option.some.inj he
  exact ⟨by simp only; omega, by simp only; omega, by intro _; rfl⟩
theorem ascSt (d : Fin 64) (k : Fin 32) (a : Fin 64) (z : Fin 2) (l : Lit) : Statement (.ascSt d k a z l) := by
  intro en he
  obtain rfl : (⟨.a, 23, 68 + d.val * 262144 + k.val * 8192 + a.val * 128 + z.val, l⟩ : Encoding) = en := Option.some.inj he
  exact ⟨by simp only; omega, by simp only; omega, by intro _; rfl⟩
theorem ascMax (d : Fin 64) (k : Fin 32) (a : Fin 64) (z : Fin 2) (l : Lit) : Statement (.ascMax d k a z l) := by
  intro en he
  obtain rfl : (⟨.a, 23, 84 + d.val * 262144 + k.val * 8192 + a.val * 128 + z.val, l⟩ : Encoding) = en := Option.some.inj he
  exact ⟨by simp only; omega, by simp only; omega, by intro _; rfl⟩
theorem cpy (s d : Fin 32) (a : Fin 64) (b : Option (Fin 32)) : Statement (.cpy s d a b) := by
  intro en he
  obtain rfl : (⟨.a, 24, s.val * 524288 + d.val * 16384 + a.val * 256 + barBit b * 128, barLit b⟩ : Encoding) = en := Option.some.inj he
  have := barBit_le b
  exact ⟨by simp only; omega, by simp only; omega, by intro hl; have := barBit_of_lit hl; simp only [litAllowed]; simp; omega⟩
theorem cpys (s d : Fin 32) (a : Fin 64) (b : Option (Fin 32)) : Statement (.cpys s d a b) := by
  intro en he
  obtain rfl : (⟨.a, 25, s.val * 524288 + d.val * 16384 + a.val * 256 + barBit b * 128, barLit b⟩ : Encoding) = en := Option.some.inj he
  have := barBit_le b
  exact ⟨by simp only; omega, by simp only; omega, by intro hl; have := barBit_of_lit hl; simp only [litAllowed]; simp; omega⟩
theorem cpyg (s d : Fin 32) (a : Fin 64) (b : Option (Fin 32)) : Statement (.cpyg s d a b) := by
  intro en he
  obtain rfl : (⟨.a, 26, s.val * 524288 + d.val * 16384 + a.val * 256 + barBit b * 128, barLit b⟩ : Encoding) = en := Option.some.inj he
  have := barBit_le b
  exact ⟨by simp only; omega, by simp only; omega, by intro hl; have := barBit_of_lit hl; simp only [litAllowed]; simp; omega⟩
theorem cpycb (s : Fin 32) (h : Fin 16) (a : Fin 64) (b : Option (Fin 32)) : Statement (.cpycb s h a b) := by
  intro en he
  obtain rfl : (⟨.a, 27, s.val * 524288 + h.val * 16384 + a.val * 256 + barBit b * 128, barLit b⟩ : Encoding) = en := Option.some.inj he
  have := barBit_le b
  exact ⟨by simp only; omega, by simp only; omega, by intro hl; have := barBit_of_lit hl; simp only [litAllowed]; simp; omega⟩
theorem rput (e : Fin 16) (c k : Fin 32) (a : Fin 64) (b : Option (Fin 32)) : Statement (.rput e c k a b) := by
  intro en he
  obtain rfl : (⟨.a, 28, e.val * 1048576 + c.val * 32768 + k.val * 1024 + a.val * 16 + barBit b * 8, barLit b⟩ : Encoding) = en := Option.some.inj he
  have := barBit_le b
  exact ⟨by simp only; omega, by simp only; omega, by intro hl; have := barBit_of_lit hl; simp only [litAllowed]; simp; omega⟩
theorem rputf (e : Fin 16) (c k : Fin 32) (a : Fin 64) (b : Option (Fin 32)) : Statement (.rputf e c k a b) := by
  intro en he
  obtain rfl : (⟨.a, 29, e.val * 1048576 + c.val * 32768 + k.val * 1024 + a.val * 16 + barBit b * 8, barLit b⟩ : Encoding) = en := Option.some.inj he
  have := barBit_le b
  exact ⟨by simp only; omega, by simp only; omega, by intro hl; have := barBit_of_lit hl; simp only [litAllowed]; simp; omega⟩
theorem rputs (e : Fin 16) (c k : Fin 32) (a : Fin 64) (b : Option (Fin 32)) : Statement (.rputs e c k a b) := by
  intro en he
  obtain rfl : (⟨.a, 30, e.val * 1048576 + c.val * 32768 + k.val * 1024 + a.val * 16 + barBit b * 8, barLit b⟩ : Encoding) = en := Option.some.inj he
  have := barBit_le b
  exact ⟨by simp only; omega, by simp only; omega, by intro hl; have := barBit_of_lit hl; simp only [litAllowed]; simp; omega⟩
theorem rsemadd (e : Fin 16) (k : Fin 32) (a : Fin 64) : Statement (.rsemadd e k a) := by
  intro en he
  obtain rfl : (⟨.a, 31, e.val * 1048576 + k.val * 1024 + a.val * 16, none⟩ : Encoding) = en := Option.some.inj he
  exact ⟨by simp only; omega, by simp only; omega, by intro hl; exact absurd hl Bool.false_ne_true⟩
theorem rpull (e : Fin 16) (c k : Fin 32) (a : Fin 64) (b : Option (Fin 32)) : Statement (.rpull e c k a b) := by
  intro en he
  obtain rfl : (⟨.a, 32, e.val * 1048576 + c.val * 32768 + k.val * 1024 + a.val * 16 + barBit b * 8, barLit b⟩ : Encoding) = en := Option.some.inj he
  have := barBit_le b
  exact ⟨by simp only; omega, by simp only; omega, by intro hl; have := barBit_of_lit hl; simp only [litAllowed]; simp; omega⟩
theorem rputsf (e : Fin 16) (c k : Fin 32) (a : Fin 64) (b : Option (Fin 32)) : Statement (.rputsf e c k a b) := by
  intro en he
  obtain rfl : (⟨.a, 33, e.val * 1048576 + c.val * 32768 + k.val * 1024 + a.val * 16 + barBit b * 8, barLit b⟩ : Encoding) = en := Option.some.inj he
  have := barBit_le b
  exact ⟨by simp only; omega, by simp only; omega, by intro hl; have := barBit_of_lit hl; simp only [litAllowed]; simp; omega⟩
theorem nop : Statement .nop := none_fits rfl
theorem hint (k : SlotKind) (o : Fin 16) (p : BitVec 24) (l : Lit) : Statement (.hint k o p l) := by
  intro en he
  obtain rfl : (⟨k, 112 + o.val, p.toNat, l⟩ : Encoding) = en := Option.some.inj he
  have := p.isLt
  exact ⟨by simp only; omega, by simp only; omega, by exact fun _ => hint_literal k o p.toNat⟩
theorem imageLoad (f : Nat) (img : List (BitVec 8)) : Statement (.imageLoad f img) := none_fits rfl
theorem unload (inst : Nat) : Statement (.unload inst) := none_fits rfl
theorem unloadComplete (inst : Nat) : Statement (.unloadComplete inst) := none_fits rfl
theorem launchSlotWrite (f : Nat) (q : SlotRef) (w : Nat) (v : BitVec 64) : Statement (.launchSlotWrite f q w v) := none_fits rfl
theorem walkStart (q : SlotRef) : Statement (.walkStart q) := none_fits rfl
theorem skeinNodeVisit (q : SlotRef) (n : Nat) : Statement (.skeinNodeVisit q n) := none_fits rfl
theorem joinNodeVisit (q : SlotRef) (n : Nat) : Statement (.joinNodeVisit q n) := none_fits rfl
theorem conditionalNodeVisit (q : SlotRef) (n : Nat) : Statement (.conditionalNodeVisit q n) := none_fits rfl
theorem whileNodeVisit (q : SlotRef) (n : Nat) : Statement (.whileNodeVisit q n) := none_fits rfl
theorem flagNodeVisit (q : SlotRef) (n : Nat) : Statement (.flagNodeVisit q n) := none_fits rfl
theorem leaseEstablish (l : Nat) (granted : Bool) : Statement (.leaseEstablish l granted) := none_fits rfl
theorem routerTableLoad (l : Nat) : Statement (.routerTableLoad l) := none_fits rfl
theorem taskPlace (l : Nat) : Statement (.taskPlace l) := none_fits rfl
theorem completionRecordWrite (core : Nat) (task : Nat) : Statement (.completionRecordWrite core task) := none_fits rfl
theorem skeinNodeComplete (l : Nat) : Statement (.skeinNodeComplete l) := none_fits rfl
theorem descriptorWrite (f : Nat) (d : BitVec 1024) : Statement (.descriptorWrite f d) := none_fits rfl
theorem create (f : Nat) : Statement (.create f) := none_fits rfl
theorem wheelMaskWrite (p : Nat) (mask : BitVec 256) : Statement (.wheelMaskWrite p mask) := none_fits rfl
theorem tokenRefill : Statement .tokenRefill := none_fits rfl
theorem releaseRequest (f : Nat) (destroy : Bool) : Statement (.releaseRequest f destroy) := none_fits rfl
theorem functionLevelReset (f : Nat) : Statement (.functionLevelReset f) := none_fits rfl
theorem releaseQuiesced (f : Nat) : Statement (.releaseQuiesced f) := none_fits rfl
theorem zeroingComplete (f : Nat) : Statement (.zeroingComplete f) := none_fits rfl
theorem registerWrite (r : FwReg) (v : Nat) : Statement (.registerWrite r v) := none_fits rfl
theorem arbiterCycle (core : Nat) : Statement (.arbiterCycle core) := none_fits rfl
theorem resultLand (id : Nat) : Statement (.resultLand id) := none_fits rfl
theorem loadReturn (n : Nat) : Statement (.loadReturn n) := none_fits rfl
theorem divideComplete (n : Nat) : Statement (.divideComplete n) := none_fits rfl
theorem mkeyCreate (f : Nat) : Statement (.mkeyCreate f) := none_fits rfl
theorem slotZeroise (slot : Nat) : Statement (.slotZeroise slot) := none_fits rfl
theorem rotate (slot : Nat) (ranges : List (Nat × Nat)) : Statement (.rotate slot ranges) := none_fits rfl
theorem rotationSweepLine (slot : Nat) : Statement (.rotationSweepLine slot) := none_fits rfl
theorem updateStage (img : List (BitVec 8)) : Statement (.updateStage img) := none_fits rfl
theorem updateSwitch (handover : List (BitVec 8)) (version : Nat) : Statement (.updateSwitch handover version) := none_fits rfl
theorem heartbeat : Statement .heartbeat := none_fits rfl
theorem updateTrialTimeout : Statement .updateTrialTimeout := none_fits rfl
theorem updateCommit : Statement .updateCommit := none_fits rfl
theorem bootrecClear (mask : BitVec 64) : Statement (.bootrecClear mask) := none_fits rfl
theorem spindleQuiesce (die : Nat) : Statement (.spindleQuiesce die) := none_fits rfl
theorem getVersion (f : Nat) : Statement (.getVersion f) := none_fits rfl
theorem getCapabilities (f : Nat) : Statement (.getCapabilities f) := none_fits rfl
theorem negotiateAlgorithms (f : Nat) : Statement (.negotiateAlgorithms f) := none_fits rfl
theorem getDigests (f : Nat) : Statement (.getDigests f) := none_fits rfl
theorem getCertificate (f : Nat) (certSlot : Nat) : Statement (.getCertificate f certSlot) := none_fits rfl
theorem challenge (f : Nat) : Statement (.challenge f) := none_fits rfl
theorem getMeasurements (f : Nat) (index : Nat) : Statement (.getMeasurements f index) := none_fits rfl
theorem keyExchange (f : Nat) : Statement (.keyExchange f) := none_fits rfl
theorem finish (f : Nat) (sess : Nat) : Statement (.finish f sess) := none_fits rfl
theorem spdmHeartbeat (f : Nat) (sess : Nat) : Statement (.spdmHeartbeat f sess) := none_fits rfl
theorem keyUpdate (f : Nat) (sess : Nat) : Statement (.keyUpdate f sess) := none_fits rfl
theorem endSession (f : Nat) (sess : Nat) : Statement (.endSession f sess) := none_fits rfl
theorem chunkGet (f : Nat) : Statement (.chunkGet f) := none_fits rfl
theorem sealProvision (f : Nat) (sess : Nat) (slot : Nat) (olines : BitVec 48) (key : BitVec 512) (pdigest : BitVec 256) (rot : Bool) : Statement (.sealProvision f sess slot olines key pdigest rot) := none_fits rfl
theorem sealRevoke (f : Nat) (sess : Nat) (slot : Nat) : Statement (.sealRevoke f sess slot) := none_fits rfl
theorem spdmUnsupportedRequest (f : Nat) : Statement (.spdmUnsupportedRequest f) := none_fits rfl
theorem sealedSlotTransfer (slot : Nat) (peer : Measured) (load : Option SealedKey) : Statement (.sealedSlotTransfer slot peer load) := none_fits rfl
theorem slotTransferConfirm (slot : Nat) : Statement (.slotTransferConfirm slot) := none_fits rfl
theorem xpushAPerform (core : Nat) : Statement (.xpushAPerform core) := none_fits rfl
theorem xpushWPerform (core : Nat) : Statement (.xpushWPerform core) := none_fits rfl
theorem xflipPerform (core : Nat) : Statement (.xflipPerform core) := none_fits rfl
theorem xsclPerform (core : Nat) : Statement (.xsclPerform core) := none_fits rfl
theorem xshiftPerform (core : Nat) : Statement (.xshiftPerform core) := none_fits rfl
theorem xaccPerform (core : Nat) : Statement (.xaccPerform core) := none_fits rfl
theorem xdrainPerform (core : Nat) : Statement (.xdrainPerform core) := none_fits rfl
theorem xzeroPerform (core : Nat) : Statement (.xzeroPerform core) := none_fits rfl
theorem xsetePerform (core : Nat) : Statement (.xsetePerform core) := none_fits rfl
theorem xclrfPerform (core : Nat) : Statement (.xclrfPerform core) := none_fits rfl
theorem xmarkPerform (core : Nat) : Statement (.xmarkPerform core) := none_fits rfl
theorem xcfgPerform (core : Nat) : Statement (.xcfgPerform core) := none_fits rfl
theorem arrayAcquire (core : Nat) : Statement (.arrayAcquire core) := none_fits rfl
theorem xrelComplete (id : Nat) : Statement (.xrelComplete id) := none_fits rfl
theorem fwaitComplete (id : Nat) : Statement (.fwaitComplete id) := none_fits rfl
theorem bwaitComplete (id : Nat) : Statement (.bwaitComplete id) := none_fits rfl
theorem cbwaitComplete (id : Nat) : Statement (.cbwaitComplete id) := none_fits rfl
theorem xwaitComplete (id : Nat) : Statement (.xwaitComplete id) := none_fits rfl
theorem tlockComplete (id : Nat) : Statement (.tlockComplete id) := none_fits rfl
theorem copyBeat (n : Nat) : Statement (.copyBeat n) := none_fits rfl
theorem cbEscape (core : Nat) : Statement (.cbEscape core) := none_fits rfl
theorem heatSweep (cluster : Nat) : Statement (.heatSweep cluster) := none_fits rfl
theorem shootdown (f : Nat) (space : Nat) (va : Nat) : Statement (.shootdown f space va) := none_fits rfl
theorem dirtyHarvest (f : Nat) (va : Nat) : Statement (.dirtyHarvest f va) := none_fits rfl
theorem discardReclaim (f : Nat) (va : Nat) : Statement (.discardReclaim f va) := none_fits rfl
theorem writePropagate (n : Nat) : Statement (.writePropagate n) := none_fits rfl
theorem atomicPerform (n : Nat) : Statement (.atomicPerform n) := none_fits rfl
theorem qntFlush (n : Nat) : Statement (.qntFlush n) := none_fits rfl
theorem ascPerform (n : Nat) : Statement (.ascPerform n) := none_fits rfl
theorem fenceComplete (id : Nat) : Statement (.fenceComplete id) := none_fits rfl
theorem qfenceComplete (id : Nat) : Statement (.qfenceComplete id) := none_fits rfl
theorem groupDrainComplete (l1 : Nat) (slot : Nat) : Statement (.groupDrainComplete l1 slot) := none_fits rfl
theorem remoteChannelEntry (n : Nat) : Statement (.remoteChannelEntry n) := none_fits rfl
theorem put (src : PortSrc) : Statement (.put src) := none_fits rfl
theorem putf (src : PortSrc) : Statement (.putf src) := none_fits rfl
theorem putfFlagAdd (n : Nat) : Statement (.putfFlagAdd n) := none_fits rfl
theorem semadd (src : PortSrc) : Statement (.semadd src) := none_fits rfl
theorem pullreq (src : PortSrc) : Statement (.pullreq src) := none_fits rfl
theorem pulldata (n : PortOp) (data : List (BitVec 8)) : Statement (.pulldata n data) := none_fits rfl
theorem ack (n : PortOp) (r : Nat) : Statement (.ack n r) := none_fits rfl
theorem nack (n : PortOp) (r : Nat) (reason : Nat) : Statement (.nack n r reason) := none_fits rfl
theorem rankEntryWrite (l1 : Nat) (job : Nat) (rank : Nat) (v : BitVec 64) : Statement (.rankEntryWrite l1 job rank v) := none_fits rfl
theorem holdDrainReport (l1 : Nat) (job : Nat) (rank : Nat) : Statement (.holdDrainReport l1 job rank) := none_fits rfl
theorem flitTagFail (f : TagFail) : Statement (.flitTagFail f) := none_fits rfl
theorem linkRekey (port : Nat) : Statement (.linkRekey port) := none_fits rfl
theorem rankLost (l1 : Nat) (job : Nat) (rank : Nat) : Statement (.rankLost l1 job rank) := none_fits rfl
theorem pageRequestResponse (f : Nat) (page : Nat) (gen : BitVec 6) (epoch : BitVec 3) (ok : Bool) : Statement (.pageRequestResponse f page gen epoch ok) := none_fits rfl
theorem hostTranslationInvalidate (f : Nat) (page : Nat) : Statement (.hostTranslationInvalidate f page) := none_fits rfl
theorem hostWrite (f : Nat) (space : Nat) (addr : Nat) (data : List (BitVec 8)) : Statement (.hostWrite f space addr data) := none_fits rfl
theorem hostRead (f : Nat) (space : Nat) (addr : Nat) (len : Nat) : Statement (.hostRead f space addr len) := none_fits rfl
theorem intpost (f : Nat) (w : BitVec 64) : Statement (.intpost f w) := none_fits rfl
theorem trapEntry (id : Nat) : Statement (.trapEntry id) := none_fits rfl
theorem timer (id : Nat) : Statement (.timer id) := none_fits rfl
theorem interrupt (id : Nat) : Statement (.interrupt id) := none_fits rfl
theorem preemptRequest (id : Nat) : Statement (.preemptRequest id) := none_fits rfl
theorem preempt (id : Nat) : Statement (.preempt id) := none_fits rfl
theorem gracefulPreemptRequest (id : Nat) (g : BitVec 32) : Statement (.gracefulPreemptRequest id g) := none_fits rfl
theorem graceExpire (id : Nat) : Statement (.graceExpire id) := none_fits rfl
theorem switchIn (id : Nat) : Statement (.switchIn id) := none_fits rfl
theorem debugAttach (id : Nat) : Statement (.debugAttach id) := none_fits rfl
theorem debugResume (id : Nat) : Statement (.debugResume id) := none_fits rfl
theorem debugRead (id : Nat) (plane : Bool) (off : Nat) : Statement (.debugRead id plane off) := none_fits rfl
theorem machineCheck (unit : Nat) (addr : BitVec 64) (who : CheckBy) : Statement (.machineCheck unit addr who) := none_fits rfl
theorem clusterGate (c : Nat) : Statement (.clusterGate c) := none_fits rfl
theorem clusterWake (c : Nat) : Statement (.clusterWake c) := none_fits rfl
theorem capWrite (c : Nat) (v : Nat) : Statement (.capWrite c v) := none_fits rfl
theorem freqChange (c : Nat) (r : Sensors) : Statement (.freqChange c r) := none_fits rfl
theorem deviceStart (t : StartTest) : Statement (.deviceStart t) := none_fits rfl
theorem powerLoss : Statement .powerLoss := none_fits rfl
theorem linkReturn (port : Nat) : Statement (.linkReturn port) := none_fits rfl
theorem spindleResume (die : Nat) : Statement (.spindleResume die) := none_fits rfl
theorem reEncryptingMove (src : Nat) (dst : MoveTo) : Statement (.reEncryptingMove src dst) := none_fits rfl
theorem debugDetach (id : Nat) : Statement (.debugDetach id) := none_fits rfl
theorem lostChannelPair (i : Nat) : Statement (.lostChannelPair i) := none_fits rfl

end Sys2Proof.Laws.EncodingFits
end

