-- ==== Sys2Proof/Tests/Slice0.lean ====
section
/-!
SUPPORT. Small tests: each well-formedness check refuses an ill-formed term; words written out from the manual's encodings decode;
single steps whose result the manual gives; and, for each statement with hypotheses, concrete states and operands that meet them.
-/

namespace Sys2Proof.Tests

open Sys2Proof Sys2Proof.Machine

set_option Elab.async false

/-! ### Well-formedness: one ill-formed term for each check -/

/-- A class-F type above 3, a class-B type above 5, a scope above 4, a use above 5 (R127–R129). -/
theorem test_wf_codes : wf (.vaddF 1 2 3 0 4 none) = false ∧ wf (.vpack 1 2 3 0 6 none) = false ∧ wf (.fence 5) = false ∧
    wf (.aadd 1 2 3 6 0 0 none) = false ∧ wf (.xcfg 6 0) = false ∧ wf (.vcvt 1 2 0 1 4 0 0 none) = false := by decide

/-- A block that runs past g63, alone and with its barrier offset (R125, R143). -/
theorem test_wf_blocks : wf (.fadd 1 63 0) = false ∧ wf (.cpy 1 2 62 none) = false ∧ wf (.cpy 1 2 61 (some 3)) = false ∧
    wf (.cpy 1 2 61 none) = true ∧ wf (.barrive 1 63 0) = true := by decide

/-- Destinations that may not be named (R124, R183, R194). -/
theorem test_wf_destinations : wf (.next 1) = false ∧ wf (.next 6) = false ∧ wf (.next 5) = true ∧ wf (.cmov 0 1) = false ∧
    wf (.cld 0 1 2 (.short 0)) = false ∧ wf (.vldm 0 1 2 (.short 0)) = false ∧ wf (.mskand 0 1 2) = false ∧
    wf (.vcmpEqI 0 1 2 0 2 none) = false ∧ wf (.xres 62) = false ∧ wf (.acas 63 1 2 0 0 0 none) = false := by decide

/-- Special registers, fields and selectors (R181, R186, R421, R433). -/
theorem test_wf_selectors : wf (.mfsr 1 0x11) = false ∧ wf (.mtsr 1 0x00C) = false ∧ wf (.mtsr 1 0x00D) = true ∧ wf (.mcrd 1 2 8) = false ∧
    wf (.extr 1 2 3 4) = false ∧ wf (.cget 1 2 6) = false ∧ wf (.qfence 0) = false ∧ wf (.xhdr 1 2 0 3) = false ∧
    wf (.xhdr 1 2 4 0) = false := by decide

/-- Uses without a result, lane numbers, sizes and modifiers (R129, R130, R138, R393). -/
theorem test_wf_vectors : wf (.axchg 1 2 3 2 0 0 none) = false ∧ wf (.vext 1 2 32 3 none) = false ∧ wf (.vins 1 2 40 7) = false ∧
    wf (.vldx 1 2 3 3 0 0 0 none) = false ∧ wf (.vsplit 1 2 3 0x0F) = false ∧ wf (.vrcmb 1 2 3 0x39) = false ∧
    wf (.vabs 1 2 0 2 (some 0x1000)) = false ∧ wf (.vaddI 1 2 3 0 2 (some 1)) = false := by decide

/-! ### Words of the manual, one at least for each family -/

/-- C slot (R132, R133): a branch, TAIL, MFSR, MTSR, FEATQ, DBRK, MCRD, TRAP. -/
theorem test_decode_control : decodeSlot .c 0x031C0000 none = .ok (.bnez 7 (.short 0)) ∧ decodeSlot .c 0x0B000000 none = .ok .tail ∧
    decodeSlot .c 0x1120000A none = .ok (.mfsr 8 0x00A) ∧ decodeSlot .c 0x1200900D none = .ok (.mtsr 9 0x00D) ∧
    decodeSlot .c 0x13146001 none = .ok (.featq 5 6 1) ∧ decodeSlot .c 0x1500002A none = .ok (.dbrk 0x2A) ∧
    decodeSlot .c 0x17107002 none = .ok (.mcrd 4 7 2) ∧ decodeSlot .c 0x0F000005 none = .ok (.trap 5) := by decide

/-- X slot (R134, R135): ADDI −1 from its fields. -/
theorem test_decode_scalar : decodeSlot .x 0x021C7FFF none = .ok (.addi 7 7 (.short (-1))) := by decide

/-- M slot (R136, R137): a scalar, a vector and an indexed load, CBSET. -/
theorem test_decode_memory : decodeSlot .m 0x0424017E none = .ok (.ldI32 9 0 2 (.short (-2))) ∧
    decodeSlot .m 0x0C0C4202 none = .ok (.vld 3 2 4 (.short 2)) ∧ decodeSlot .m 0x0F142334 none = .ok (.vldx 5 1 6 1 1 2 0 none) ∧
    decodeSlot .m 0x1730A2C0 none = .ok (.cbset 3 10 11) := by decide

/-- P and Q slots (R138, R139): arithmetic with a modifier, a compare, masks, a conversion, lane access, a split. -/
theorem test_decode_vector : decodeSlot .v 0x80101082 (some 0x702) = .ok (.vaddF 4 1 2 0 2 (some 0x702)) ∧
    decodeSlot .v 0x03141082 none = .ok (.vfma 5 1 2 0 2 none) ∧ decodeSlot .v 0x0E601082 none = .ok (.vcmpLtF 3 1 2 0 2 none) ∧
    decodeSlot .v 0x2D109002 none = .ok (.vbcst 4 9 0 2) ∧ decodeSlot .v 0x30080000 none = .ok (.mskpsh 2) ∧
    decodeSlot .v 0x33298000 none = .ok (.mskand 1 2 3) ∧ decodeSlot .v 0xA32810C0 (some 0x51) = .ok (.vsplit 10 1 3 0x51) := by decide

/-- Z slot (R140, R141). -/
theorem test_decode_matrix : decodeSlot .z 0x00480000 none = .ok (.xcfg 2 2) ∧ decodeSlot .z 0x00B78000 none = .ok (.xcfgSl 6) ∧
    decodeSlot .z 0x03194580 none = .ok (.xpushA 3 10 11) ∧ decodeSlot .z 0x04218680 none = .ok (.xpushW 4 12 13) ∧
    decodeSlot .z 0x071D8000 none = .ok (.xscl 7 3) ∧ decodeSlot .z 0x08471E00 none = .ok (.xacc 2 14 15) := by decide

/-- A slot (R142–R144): copies, atomics, groups, fences and remote instructions. -/
theorem test_decode_engines : decodeSlot .a 0x18089400 none = .ok (.cpy 1 2 20 none) ∧
    decodeSlot .a 0x98089480 (some 5) = .ok (.cpy 1 2 20 (some 5)) ∧ decodeSlot .a 0x8A102305 (some 8) = .ok (.ald 4 1 6 2 1 (some 8)) ∧
    decodeSlot .a 0x06194800 none = .ok (.gjoin 3 10) ∧ decodeSlot .a 0x08400000 none = .ok (.fence 2) ∧
    decodeSlot .a 0x09000001 none = .ok (.qfence 1) ∧ decodeSlot .a 0x1D121540 none = .ok (.rputf 1 4 5 20 none) ∧
    decodeSlot .a 0x1F2015E0 none = .ok (.rsemadd 2 5 30) := by decide

/-- Words refused: a reserved value as 0x01, a literal not taken as 0x02 (R121). -/
theorem test_decode_refused : decodeSlot .x 0x45000000 none = .error .reserved ∧ decodeSlot .x 0x80041083 (some 0) = .error .literal ∧
    decodeSlot .a 0x08A00000 none = .error .reserved := by decide

/-- The empty bundle, and an X word alone (R117, R118). -/
theorem test_decode_bundle : decodeBundle false 0 [] = .ok ⟨[(0, .nop)], 1⟩ ∧
    decodeBundle false 2 [0xFF, 0x7F, 0x1C, 0x02] = .ok ⟨[(1, .addi 7 7 (.short (-1)))], 5⟩ := by decide

/-! ### Small states -/

/-- A task of function 0. -/
def task0 : Machine.Task :=
  { tid := 1, func := 0, l1 := 0, child := 0, expl := false, inst := 7, launch := 5, serial := 0, skein := 0, persist := false, iters := 0
    dims := [], order := [], ranges := [] }
/-- A capability: base, length, permissions, space. -/
def cap (b l p sp : Nat) : Cap := ⟨BitVec.ofNat 128 (b + l * 2 ^ 57 + p * 2 ^ 104 + sp * 2 ^ 116), true⟩
/-- A capability of SPACE 2 with every permission. -/
def full : Cap := cap 0x1000 0x400 0xFFF 2
/-- A context with the task, some g registers and capabilities. -/
def cx (g : Table GReg) (k : Table Cap) : Ctx := { task := some task0, pc := 0x1000, step := 10, iss := 20, g := g, k := k }
/-- A READY partition that owns every channel, with tokens left. -/
def pt : Part := { state := 1, clusters := 0xFFFF, mask := BitVec.allOnes 512 <<< 256, mleft := 1000, fleft := 1000 }
/-- The state whose context 0 is the given one. -/
def st (c : Ctx) : State := { State.reset with ctxs := [(0, c)], fresh := 100, stamp := 50, parts := [(0, pt)] }
/-- An image whose trap table gives a code a handler. -/
def handlerImage (code : Nat) : Image :=
  { func := 0, l1 := 0, home := 2 ^ 56, base := 0x8000, size := 64, entries := [0x40], digest := [], traps := [(code, 0)], roots := [], skeins := []
    policies := [], wheel := [], router := [], lineMap := ([], 0), unloading := false }
/-- A frame of a context in handler mode. -/
def fr (pc cause : Word) : Frame := ⟨pc, cause, 0, 0, none, [], [], none, none, none, none, []⟩
/-- The state with a handler for a code. -/
def hst (code : Nat) (c : Ctx) : State := { st c with insts := [(7, handlerImage code)] }

/-- Whether a step answers a next state. -/
def goes (x : Result) : Bool := match x with | .next _ => true | _ => false
theorem goes_next {x : Result} (h : goes x = true) : ∃ t, x = .next t := by
  cases x with
  | next t => exact ⟨t, rfl⟩
  | fault _ => cases h
  | refused _ => cases h
/-- Whether a computation succeeds. -/
def isOk {ε α : Type} (x : Except ε α) : Bool := match x with | .ok _ => true | .error _ => false

/-! ### Results that the manual gives -/

/-- −7 / 2 = −3 remainder −1 (R178). -/
theorem test_divide : divide true (-7) 2 = (-3, -1) ∧ divide false 7 2 = (3, 1) ∧ divide true 7 0 = (-1, 7) := by decide

/-- A sum wraps at 2^64 and lands one step later; the destination may be a source (R176, R158). -/
theorem test_add : (match exec (.add 3 3 4) (st (cx [(3, ⟨-1, false⟩), (4, ⟨2, false⟩)] [])) with
    | .next t => ((({ t.ctx 0 with step := 11 } : Ctx).land).gr 3, (t.ctx 0).gr 3)
    | _ => ({}, {})) = (⟨1, false⟩, ⟨-1, false⟩) := by decide

/-- A branch on zero is noted with its target, from the branch's own address (R189, R190). -/
theorem test_branch : (match exec (.beqz 3 (.short (-16))) (st (cx [] [])) with
    | .next t => (t.ctx 0).br
    | _ => none) = some ⟨true, 0xFF0, 0x1000, false⟩ := by decide

/-- TRAP outside handler mode enters the handler (R408, R424). -/
theorem test_trap : (match exec (.trap 5) (hst 0x50 (cx [] [])) with
    | .next t => ((t.ctx 0).pc, (t.ctx 0).cause, (t.ctx 0).tval, (t.ctx 0).frame.map (·.pc))
    | _ => (0, 0, 0, none)) = (0x8040, 0x50, 5, some 0x1001) := by decide

/-! ### Hypotheses that states and operands meet -/

theorem wit_divides : (2 : Word) ≠ 0 ∧ ¬ ((-7 : Word) = BitVec.intMin 64 ∧ (2 : Word) = -1) ∧ 0 ≤ (7 : Word).toInt ∧ (-7 : Word).toInt ≤ 0 ∧
    (st (cx [] [])).task = some task0 ∧ (∀ x ∈ (st (cx [] [])).divs, x.id ≠ (st (cx [] [])).fresh) ∧
    Table.get 0 (cx [] []).won 4 ≤ 100 ∧ 100 < Table.get 0 ({ cx [] [] with won := [(4, 200)] } : Ctx).won 4 := by decide

theorem wit_scalarFrame : ∃ t, scalarDest (.add 1 2 3) = some 1 ∧ exec (.add 1 2 3) (st (cx [] [])) = .next t := ⟨_, rfl, rfl⟩
theorem wit_scalarFrame_g0 : ∃ t, scalarDest (.mfsr 0 0x00A) = some 0 ∧ exec (.mfsr 0 0x00A) (st (cx [] [])) = .next t := ⟨_, rfl, rfl⟩

/-- A range that ends exactly at LEN, and one of SPACE 8. -/
theorem wit_capabilityResults :
    (∀ s : State, s = st (cx [(2, ⟨0x300, false⟩), (3, ⟨0x100, false⟩)] [(1, full), (2, cap 0x1000 0x400 0xFFF 8)]) →
      (s.me.kr 1).tag = true ∧ (s.me.kr 1).holds pDERIVE = true ∧ s.gp 2 = false ∧ s.gp 3 = false ∧ 0 ≤ (s.gv 2).toInt ∧
      (s.gv 2).toInt + (s.gv 3).toNat ≤ (s.me.kr 1).len ∧ ((s.me.kr 1).base : Int) + (s.gv 2).toInt + (s.gv 3).toNat ≤ 2 ^ 57 ∧
      (s.me.kr 1).space ≠ 8 ∧ (s.me.kr 2).space = 8 ∧ (s.gv 2).toInt % 16 = 0 ∧ (s.gv 3).toInt % 16 = 0) := by
  rintro s rfl; decide

theorem wit_derivedCapability : 0x300 + 0x100 ≤ full.len ∧ full.base + 0x300 + 0x100 ≤ 2 ^ 57 ∧ full.base + 0x300 < 2 ^ 57 := by decide

/-- The fault cases of CNARROW and CPERM: poison, no tag, no DERIVE, out of bounds by one, misaligned in SPACE 8, and one that would
end 8 past 2^57. -/
theorem wit_capabilityFaults :
    (∀ s : State, s = st (cx [(2, ⟨0x301, false⟩), (3, ⟨0x100, false⟩), (4, ⟨0, true⟩), (5, ⟨8, false⟩)]
        [(1, full), (2, cap 0 0x400 0x1FF 2), (3, cap 0 0x400 0xFFF 8), (4, cap (2 ^ 57 - 0x100) 0x400 0xFFF 2)]) →
      s.gp 4 = true ∧ s.gp 2 = false ∧ s.gp 3 = false ∧ (s.me.kr 9).tag = false ∧
      (s.me.kr 2).tag = true ∧ (s.me.kr 2).perm.testBit 9 = false ∧ (s.me.kr 1).perm.testBit 9 = true ∧
      ((s.me.kr 1).len : Int) < (s.gv 2).toInt + (s.gv 3).toNat ∧
      (s.me.kr 3).tag = true ∧ (s.me.kr 3).perm.testBit 9 = true ∧ (s.me.kr 3).space = 8 ∧ 0 ≤ (s.gv 5).toInt ∧
      (s.gv 5).toInt + (s.gv 3).toNat ≤ (s.me.kr 3).len ∧ (s.gv 5).toNat % 16 ≠ 0 ∧
      s.gp 5 = false ∧ (s.me.kr 4).tag = true ∧ (s.me.kr 4).perm.testBit 9 = true ∧ (s.me.kr 4).space ≠ 8 ∧
      (s.gv 5).toInt + (s.gv 3).toNat ≤ (s.me.kr 4).len ∧ 2 ^ 57 < (s.me.kr 4).base + (s.gv 5).toNat + (s.gv 3).toNat) := by
  rintro s rfl; decide

/-- The linking jumps fetch the length of the delay bundle behind them. -/
theorem wit_controlTransfers :
    (∀ s : State, s = { (State.reset.placeCode [0x02, 0xFF, 0x7F, 0x1C, 0x02]) with cur := { len := 5 } } → s.gp 3 = false ∧
      s.bundleLen (s.task.elim 0 s.codeFunc) (s.me.pc + BitVec.ofNat 64 s.cur.len).toNat = some 1 ∧
      (s.me.pc + BitVec.ofNat 64 s.cur.len).toNat / 64 = s.me.pc.toNat / 64) ∧
    (∀ ls ∈ [[], [0x40, 0x41]], ∀ s : State, s = { (st { cx [] [] with pc := 0x103C, lines := ls }).putCode 0 0x1040 [0, 0] with cur := { len := 5 } } →
      (s.bundleLen (s.task.elim 0 s.codeFunc) (s.me.pc + BitVec.ofNat 64 s.cur.len).toNat).isSome = true ∧
      (s.me.pc + BitVec.ofNat 64 s.cur.len).toNat / 64 ≠ s.me.pc.toNat / 64 ∧
      ((s.me.pc + BitVec.ofNat 64 s.cur.len).toNat / 64 ∈ s.me.lines ↔ ls ≠ [])) := by
  refine ⟨?_, ?_⟩
  · rintro s rfl; decide +kernel
  · rintro ls hl s rfl; revert ls; decide +kernel

theorem wit_transferAfterDelay : (cx [] []).delay = none ∧ ({ cx [] [] with delay := some ⟨true, 0x40, 0x1000, false⟩ } : Ctx).delay =
    some ⟨true, 0x40, 0x1000, false⟩ ∧ ({ cx [] [] with delay := some ⟨true, 0, 0x1000, true⟩ } : Ctx).delay = some ⟨true, 0, 0x1000, true⟩ :=
  by decide

/-- A running task in and out of handler mode, with a request open and none, with a debugger and without. -/
theorem wit_systemInstructions :
    (∀ s : State, s = st { cx [(4, ⟨0, true⟩)] [] with frame := some (fr 0 0), prq := some 5, dbg := true } →
      s.task = some task0 ∧ s.gp 4 = true ∧ s.gp 3 = false ∧ s.me.frame.isSome = true ∧ s.me.prq.isSome = true ∧ s.me.dbg = true ∧
        (s.me.vr 3).p = false) ∧
    (∀ s : State, s = st (cx [] []) → s.me.frame = none ∧ s.me.prq = none ∧ s.me.dbg = false) ∧
    (∀ s : State, s = st { cx [] [] with v := [(3, ⟨0, true⟩)] } → (s.me.vr 3).p = true) := by
  refine ⟨?_, ?_, ?_⟩ <;> (rintro s rfl; decide)

theorem wit_tail : (st (cx [] [])).task = some task0 ∧
    ((st (cx [] [])).retire.filter fun r => decide (r.core = (st (cx [] [])).cur.id / 4)).length < 64 ∧
    64 ≤ ((List.replicate 64 (⟨0, 0, task0, 0, 0, 0, false, false, 0, true, []⟩ : Retire)).filter fun r => decide (r.core = 0)).length := by decide

theorem wit_next : (st { cx [] [] with lo := 3, hi := 4 }).me.task = some task0 ∧
    (st { cx [] [] with lo := 3, hi := 4 }).me.lo.toNat < (st { cx [] [] with lo := 3, hi := 4 }).me.hi.toNat ∧
    (st (cx [] [])).me.hi.toNat ≤ (st (cx [] [])).me.lo.toNat := by decide

/-- One dimension of three values counted up, one counted down, an empty one; the last serial of a product of two. -/
theorem wit_iterations : (⟨0, 5, 2, 0⟩ : Dim).count = 3 ∧ (⟨5, 0, -2, 0⟩ : Dim).count = 3 ∧ (⟨5, 5, 1, 0⟩ : Dim).count = 0 ∧
    iterations [⟨0, 5, 2, 0⟩, ⟨5, 0, -2, 0⟩] = 9 ∧
    (positions [⟨0, 5, 2, 0⟩, ⟨5, 0, -2, 0⟩] [1, 0] 8).find? (fun p => decide (p.1 = 1)) = some (1, 2) ∧
    coordinate [⟨0, 5, 2, 0⟩, ⟨5, 0, -2, 0⟩] [0, 1] 7 1 = 3 := by decide

/-- A thief with an empty range and a victim with three serials left, in one cluster. -/
theorem wit_steals :
    (∀ s : State, s = { State.reset with ctxs := [(0, { cx [] [] with task := some { task0 with persist := true }, steal := some 4 }),
        (5, { cx [] [] with task := some { task0 with tid := 2, persist := true }, lo := 2, hi := 5 })] } →
      (s.ctx 0).steal = some 4 ∧ (s.ctx 0).lo = (s.ctx 0).hi ∧ (s.ctxs.Pairwise fun p q => p.1 < q.1) ∧
      pickVictim 5 (clusterOf (coreOf 0)) s.ctxs none = some (5, 3)) ∧
    pickVictim 5 0 (st { cx [] [] with steal := some 4 }).ctxs none = none := by
  refine ⟨?_, by decide⟩
  rintro s rfl; decide

theorem wit_specialRegisters : (st (cx [(4, ⟨0, true⟩)] [])).me.task = some task0 ∧ (st (cx [(4, ⟨0, true⟩)] [])).gp 4 = true ∧
    (st (cx [(4, ⟨0, true⟩)] [])).gp 3 = false := by decide

/-- TRAP before and within the delay bundle of a taken transfer. -/
theorem wit_trapInstruction :
    (∀ s : State, s = hst 0x50 { cx [] [] with delay := some ⟨true, 0x40, 0xFF0, false⟩ } →
      (s.ctx s.cur.id).frame = none ∧ s.handler (s.ctx s.cur.id) 0x50 = some 0x8040 ∧ s.outstanding s.cur.id = false) ∧
    (∀ s : State, s = hst 0x50 (cx [] []) → s.handler (s.ctx s.cur.id) 0x50 = some 0x8040 ∧ (s.ctx s.cur.id).delay = none) := by
  refine ⟨?_, ?_⟩ <;> (rintro s rfl; decide)

/-- The faults: poisoned branch, index and data registers, a failing check, a core without an owner, an owner without a mode. -/
theorem wit_operandFaults :
    (∀ s : State, s = st (cx [(2, ⟨0, true⟩), (3, ⟨0x3FF, false⟩)] [(1, full)]) →
      s.gp 2 = true ∧ s.gp 3 = false ∧ scalarLoadForm (.ldI64 4 1 3 (.short 0)) = some (8, true, 4, 1, 3, .short 0) ∧
      s.loadCheck s.cur.id (s.me.kr 1) memSpaces (s.offset 3 8 (.short 0)).toInt 8 pR 8 true = .error ⟨0x11, 0x3FF⟩ ∧
      scalarStoreForm (.stI64 2 1 3 (.short 0)) = some (8, 2, 1, 3, .short 0) ∧
      s.capCheck s.cur.id (s.me.kr 1) memSpaces (s.offset 3 8 (.short 0)).toInt 8 pW 8 true true = .error ⟨0x11, 0x3FF⟩ ∧
      s.me.lost = false ∧ (s.core 0).owner ≠ some s.cur.id) ∧
    (∀ s : State, s = { st (cx [] []) with cores := [(0, { owner := some 0, np := 1 })] } →
      (s.core (s.cur.id / 4)).owner = some s.cur.id ∧ (s.core 0).np + (s.core 0).ns ≠ 0 ∧ (s.core 0).cfgd = false ∧ s.vp 3 = false) ∧
    (st { cx [] [] with mpc := 0x4000 }).me.lost = true := by
  refine ⟨?_, ?_, by decide⟩ <;> (rintro s rfl; and_intros <;> first | decide +kernel | rfl)

/-- Loads of each kind whose last byte is the last of the capability. -/
theorem wit_loads :
    (∀ s : State, s = st (cx [(3, ⟨0x3F8, false⟩), (5, ⟨0x300, false⟩)] [(1, full), (2, cap 0x1000 0x400 0xFFF 8)]) →
      s.gp 3 = false ∧ scalarLoadForm (.ldI64 4 1 3 (.short 0)) = some (8, true, 4, 1, 3, .short 0) ∧
      s.loadCheck s.cur.id (s.me.kr 1) [0, 1, 2, 3, 5] (s.gv 3 + (0 : BitVec 7).signExtend 64 * 8).toInt 8 1 8 true = .ok ⟨2, 0x13F8, 8, 0⟩ ∧
      s.loadCheck s.cur.id (s.me.kr 1) [0, 1, 2, 3, 5] (s.gv 5).toInt 256 1 64 true = .ok ⟨2, 0x1300, 256, 0⟩ ∧
      s.capCheck s.cur.id (s.me.kr 2) [8] (s.gv 5).toInt 16 1 16 = .ok ⟨8, 0x1300, 16, 0⟩) ∧
    (∀ s : State, s = st { cx [] [(1, full)] with v := [(6, ⟨0x04, false⟩)], stack := [3] } →
      (s.me.vr 6).p = false ∧ ((List.range 64).filter s.me.top.getLsbD) = [0, 1] ∧
      isOk (laneChecks (fun o => s.loadCheck s.cur.id (s.me.kr 1) [0, 1, 2, 3, 5] o.toInt 4 1 4 true)
        (fun j => BitVec.ofInt 64 (toInt 8 false (elem 8 (s.me.vr 6).v j))) [0, 1]) = true) ∧
    (∀ s : State, s = st (cx [] [(1, full)]) → isOk (laneChecks (fun o => s.loadCheck s.cur.id (s.me.kr 1) [0, 1, 2, 3, 5] o.toInt 4 1 4 true)
        (fun _ => (2 : Word)) [0, 1]) = false ∧
      (s.me.vr 5).p = false ∧
      isOk (laneChecks (fun o => s.capCheck s.cur.id (s.me.kr 1) [0, 1, 2, 3, 5] o.toInt 4 2 4 true true) (fun _ => (4 : Word)) [0, 1]) = true ∧
      isOk (laneChecks (fun o => s.capCheck s.cur.id (s.me.kr 1) [0, 1, 2, 3, 5] o.toInt 4 2 4 true true) (fun _ => (2 : Word)) [0, 1]) = false) := by
  refine ⟨?_, ?_, ?_⟩ <;> (rintro s rfl; and_intros <;> first | decide +kernel | rfl)

/-- A scalar and a capability store; the page of SPACE 8 is mapped and writable. -/
theorem wit_stores :
    (∀ s : State, s = st (cx [(3, ⟨0x3F8, false⟩), (5, ⟨0x300, false⟩)] [(1, full), (2, cap 0x1000 0x400 0xFFF 8)]) →
      s.gp 3 = false ∧ s.gp 4 = false ∧ scalarStoreForm (.stI64 4 1 3 (.short 0)) = some (8, 4, 1, 3, .short 0) ∧
      s.capCheck s.cur.id (s.me.kr 1) [0, 1, 2, 3, 5] (s.gv 3).toInt 8 2 8 true true = .ok ⟨2, 0x13F8, 8, 0⟩ ∧
      s.capCheck s.cur.id (s.me.kr 2) [8] (s.gv 5).toInt 16 1026 16 = .ok ⟨8, 0x1300, 16, 0⟩ ∧ s.task = some task0) ∧
    (∀ s : State, s = (st (cx [] [])).putCode 0 0x1300 [] →
      isOk (State.writePlaces { task0 with ranges := [(0, 0x1000, 0x1000)] } 0 8 (s.setMe { s.me with iss := s.me.iss + 1 }) (chunks 0x1300 16)) = true) := by
  refine ⟨?_, ?_⟩
  · rintro s rfl; and_intros <;> first | decide +kernel | rfl
  · intro s h; rw [h]; decide +kernel

/-- A store to L2 that lands, and one to an unmapped page that does not. -/
theorem wit_storeEffect :
    (st (cx [] [])).Canonical ∧ isOk (State.writePlaces task0 0 2 (st (cx [] [])) (chunks 0x1000 8)) = true ∧
    isOk (State.writePlaces task0 0 0 (st (cx [] [])) (chunks 0x1000 8)) = false ∧
    ctxOfTid task0.tid (st (cx [] [])).ctxs = some 0 ∧ (st (cx [] [])).me.late = none := by
  and_intros <;> first | decide +kernel | rfl

/-- Every branch of the check at its boundary: the last byte, one past it, one below 0, a wrong space, permission, alignment. -/
theorem wit_capabilityCheck :
    (st (cx [] [])).capCheck 0 full [2] 0x3FF 1 pR 1 = .ok ⟨2, 0x13FF, 1, 0⟩ ∧
    (st (cx [] [])).capCheck 0 full [2] 0x400 1 pR 1 = .error ⟨0x11, 0x400⟩ ∧
    (st (cx [] [])).capCheck 0 full [2] (-1) 1 pR 1 = .error ⟨0x11, -1⟩ ∧
    (st (cx [] [])).capCheck 0 full [0] 0 1 pR 1 = .error ⟨0x13, 0⟩ ∧
    (st (cx [] [])).capCheck 0 { full with tag := false } [0] 0 1 pR 1 = .error ⟨0x10, 0⟩ ∧
    (st (cx [] [])).capCheck 0 (cap 0 0x400 1 2) [2] 0 1 pW 1 = .error ⟨0x12, 0⟩ ∧
    (st (cx [] [])).capCheck 0 full [2] 4 8 pR 8 = .error ⟨0x14, 4⟩ := by
  and_intros <;> first | decide +kernel | rfl

/-- A lock of one page within the limits; a handle with three slots filled and five free. -/
theorem wit_locksAndBuffers :
    (∀ s : State, s = st (cx [(3, ⟨16, false⟩), (4, ⟨0x3F0, false⟩)] [(1, cap 0x1000 0x400 0xFFF 0)]) →
      s.gp 3 = false ∧ s.gp 4 = false ∧ (s.me.kr 1).tag = true ∧ (s.me.kr 1).space ∈ [0, 1, 7, 8] ∧ (s.me.kr 1).holds pR = true ∧
      0 ≤ (s.gv 3).toInt ∧ (s.gv 3).toInt + (s.gv 4).toNat ≤ (s.me.kr 1).len ∧ s.me.locks.length < 4 ∧
      s.lockedEntries (s.cur.id / 4) + (populatedPages (s.pages s.func (s.me.kr 1).space
        ((s.me.kr 1).base + (s.gv 3).toInt.toNat) (s.gv 4).toNat)).length ≤ 32) ∧
    (∀ s : State, s = st (cx [(4, ⟨0x8000000000000001, false⟩), (5, ⟨0x108, false⟩)] []) →
      (s.gv 4).getLsbD 63 = true ∧ field (s.gv 4) 61 16 = 0 ∧ (s.gv 5).getLsbD 63 = false ∧ field (s.gv 5) 62 18 = 0 ∧
      field (s.gv 5) 17 8 ≠ 0 ∧ (s.gv 3).toNat % 64 = 0 ∧ (s.gv 3).toNat + 64 * field (s.gv 5) 17 8 * 8 ≤ 0x300000 ∧
      s.foreign (s.cur.id / 4) s.func 3 (s.gv 3).toNat (64 * field (s.gv 5) 17 8 * 8) = false ∧ s.cbBusy s.cur.id 2 = false) ∧
    (∀ h : Handle, h = { pcnt := 3, ccnt := 0, count := 8, slot := 1 } → 3 ≤ h.filled ∧ h.filled < 4 ∧ ((5 : Nat) : Int) ≤ h.room ∧ h.room < (6 : Nat)) := by
  refine ⟨?_, ?_, ?_⟩ <;> (rintro s rfl; and_intros <;> first | decide +kernel | rfl)

theorem wit_ringAddress : (∀ h : Handle, h = { pcnt := 3, count := 8, slot := 1 } → h.loan = false ∧ 0 < h.slot ∧ 7 < 0 + h.main) ∧
    ((cx [] []).hr 2).pcnt < 2 ^ 16 ∧ ((cx [] []).hr 2).filled + 1 < 2 ^ 16 := by
  refine ⟨?_, by decide, by decide⟩
  rintro h rfl; decide

/-- An atomic in L2 on unpoisoned registers; a task with a wheel position. -/
theorem wit_atomics :
    (∀ s : State, s = { st (cx [(3, ⟨0x3F8, false⟩)] [(1, full)]) with
        parts := [(0, { state := 1, wheel := 1 })], insts := [(7, { handlerImage 0 with wheel := [(0, 0)] })] } →
      s.gp 3 = false ∧ s.gp 4 = false ∧ (s.me.gr 5).p = false ∧ s.inAtomUnit < 16 ∧
      (∀ p ∈ [1, 2, 8], s.capCheck s.cur.id (s.me.kr 1) [0, 1, 2, 3] (s.gv 3 + litVal none).toInt 8 p 8 = .ok ⟨2, 0x13F8, 8, 0⟩ ∧
        s.loadCheck s.cur.id (s.me.kr 1) [0, 1, 2, 3] (s.gv 3 + litVal none).toInt 8 p 8 = .ok ⟨2, 0x13F8, 8, 0⟩) ∧
      s.task = some task0 ∧ s.wheelPositions task0 ≠ []) := by
  rintro s rfl; and_intros <;> first | decide +kernel | rfl

/-- A flag, a barrier record with a latch entry for BWAIT. -/
theorem wit_flagsAndBarriers :
    (∀ s : State, s = st { cx [(3, ⟨0x10, false⟩), (4, ⟨2, false⟩)] [(1, full)] with arrive := [((⟨2, 0x1010, 16, 0⟩ : Acc).where, 4)] } →
      s.me.firstPoison [3, 4] = none ∧ s.me.firstPoison [3] = none ∧
      s.loadCheck s.cur.id (s.me.kr 1) [0, 1, 2, 3] (s.me.gr 3).v.toInt 8 128 8 = .ok ⟨2, 0x1010, 8, 0⟩ ∧
      s.loadCheck s.cur.id (s.me.kr 1) [0, 1, 2, 3] (s.me.gr 3).v.toInt 16 8 16 = .ok ⟨2, 0x1010, 16, 0⟩ ∧
      s.inAtomUnit < 16 ∧ (s.waitPay task0 s.cur.id ⟨2, 0x1010, 8, 0⟩).2 = true ∧
      s.arriving s.tid ⟨2, 0x1010, 16, 0⟩ = false ∧ s.waitFree task0 s.cur.id ⟨2, 0x1010, 8, 0⟩ s.me.iss = true ∧
      isOk (s.waitRead task0 s.cur.id ⟨2, 0x1010, 8, 0⟩ s.me.iss) = true ∧ (s.me.gr 5).v = 0 ∧ (s.me.gr 4).v ≠ 0 ∧
      s.me.arrive.find? (fun p => decide (p.1 = (⟨2, 0x1010, 16, 0⟩ : Acc).where)) = some ((⟨2, 0x1010, 16, 0⟩ : Acc).where, 4)) ∧
    (∀ s : State, s = { st (cx [] []) with atoms := List.replicate 16 ⟨9, 1, 0, 5, 0, ⟨2, 0x1010, 16, 0⟩, .barrive, 0, 0, 0, 2, none, false, 0, [], none, {}⟩ } →
      16 ≤ s.inAtomUnit ∧ s.arriving s.tid ⟨2, 0x1010, 16, 0⟩ = true) ∧
    (cx [] []).arrive.find? (fun p => decide (p.1 = (⟨2, 0x1010, 16, 0⟩ : Acc).where)) = none := by
  refine ⟨?_, ?_, by decide⟩ <;> (rintro s rfl; and_intros <;> first | decide +kernel | rfl)

/-- A record that can be written, not bound, bound with the context a member and not, and draining. -/
theorem wit_groups :
    (∀ s : State, s = { st (cx [(3, ⟨0x10, false⟩)] [(1, full)]) with parts := [(0, { state := 1, clusters := 1 })] } →
      s.task = some task0 ∧ s.gp 3 = false ∧ s.inAtomUnit < 16 ∧
      s.loadCheck s.cur.id (s.me.kr 1) [0, 1, 2, 3] (s.gv 3).toInt 16 8 16 = .ok ⟨2, 0x1010, 16, 0⟩ ∧
      s.hostWaits 0 2 0x1010 16 = false ∧ s.hostWaits 0 0 0x1010 16 = false ∧
      isOk (State.writePlaces task0 s.cur.id 0 s [(0x1010, 16)]) = false ∧ s.joinReason task0 (s.groupFor task0 ⟨0, 0x1010, 16, 0⟩ none) = none ∧
      s.loadCheck s.cur.id (cap 0x1000 0x400 0xFFF 0) [0, 1, 2, 3] (s.gv 3).toInt 16 8 16 = .ok ⟨0, 0x1010, 16, 0⟩ ∧
      groupAt task0.l1 (flatL2 0 + 0x1010) s.groups = none ∧ s.me.groups.length < 4 ∧
      (s.groups.filter fun p => decide (p.2.l1 = task0.l1)).length < s.groupSlots task0.l1) ∧
    isOk (State.writePlaces task0 0 2 (st (cx [] [])) [(0x1010, 16)]) = true ∧
    (∀ (m : List (Nat × Nat)) (d : Bool) (g : Group), g = ⟨0, 9, ⟨2, 0x1010, 16, 0⟩, m, d⟩ → groupAt 0 9 [(0, g)] = some (0, g)) ∧
    ((0, 1) : Nat × Nat) ∈ [(0, 1)] ∧ ((0, 1) : Nat × Nat) ∉ [(1, 1)] := by
  refine ⟨?_, by decide +kernel, ?_, by decide, by decide⟩
  · rintro s rfl; and_intros <;> first | decide +kernel | rfl
  · rintro m d g rfl; rfl

/-- A fence with nothing to wait for; one with a buffered write to wait for. -/
theorem wit_fences :
    (∀ s : State, s = st (cx [] []) → s.fenceReady s.cur.id 2 = true ∧ (s.ctx s.cur.id).late = none ∧ s.queuesDone s.cur.id 1 = true ∧
      (∀ r ∈ s.rejects, r.tid = s.tid → 2 < r.scope) ∧ (s.writes.Pairwise fun a b => a.id ≠ b.id)) ∧
    (∀ s : State, s = { st (cx [] []) with writes := [⟨1, 1, 0, 3, 0, 0, 0, 0, [(5, 1)], [], [], 1, none, 0, [], true⟩], copies := [⟨2, 1, 0, 3, 0, 0, 0, 0, 0, [], none, none, [], 0, [], {}⟩] } →
      s.fenceReady s.cur.id 2 = false ∧ s.queuesDone s.cur.id 1 = false) := by
  refine ⟨?_, ?_⟩ <;> (rintro s rfl; and_intros <;> first | decide +kernel | rfl)

/-- A barrier of two, in each of the cases. -/
theorem wit_barrierRecord :
    (∀ b : BarRec, b = { barRec 0 with expected := 2 } → b.gen < 2 ^ 32 ∧ b.arrived = 0 ∧ b.pending = 0 ∧ b.aborted = false ∧ b.expected = 2) ∧
    ({ barRec 0 with pending := 1 } : BarRec).pending ≠ 0 ∧ ({ barRec 0 with aborted := true } : BarRec).aborted = true := by
  refine ⟨?_, by decide, by decide⟩
  rintro b rfl; decide

/-- A plain copy of 64 bytes inside L2, and a ring copy of one slot. -/
theorem wit_copies :
    (∀ s : State, s = st { cx [(12, ⟨64, false⟩), (13, ⟨0, false⟩), (11, ⟨128, false⟩)] [(1, full), (2, full)] with
        h := [(2, { count := 8, slot := 1 })] } → s.me.firstPoison (block 10 3) = none ∧ s.barAcc none 0 = .ok none ∧
      (s.copies.filter fun c => decide (c.ctx = s.cur.id)).length < 16 ∧ (s.me.hr 2).slot ≠ 0 ∧ 1 ≤ (s.me.hr 2).main ∧ ((1 : Nat) : Int) ≤ (s.me.hr 2).room ∧
      isOk (s.checkRows (s.me.kr 1) (s.me.kr 2) [⟨s.blk 10 0, s.blk 10 1, (s.blk 10 2).toNat⟩]) = true ∧
      isOk (s.checkRing (s.me.kr 1) 64 (ringRows (s.me.hr 2) 0 64 1 0)) = true ∧
      s.loadCheck s.cur.id (s.me.kr 2) [0, 1, 2, 3, 5, 7] 0 4 1 4 true = .ok ⟨2, 0x1000, 4, 0⟩ ∧ s.hostWaits 0 2 0x1000 4 = false ∧
      s.acquirePending s.cur.id s.me.iss = false ∧ s.listFault task0 2 0x1000 1 = none ∧ isOk (s.readPlaces task0 s.cur.id 2 (chunks 0x1000 4)) = true ∧
      s.ownStore s.cur.id s.me.iss [] = false ∧ s.spcLocked [] = false ∧ isOk (s.checkEach (s.me.kr 1) (s.me.kr 2) (s.gatherRows 10 [])) = true ∧
      (s.payPart (requestNo 5 1) 0 .memory (hbmTokens [2 ^ 60 + 0x40])).2 = true ∧
      (s.attachBar none 1 false).isSome = true) := by
  rintro s rfl; and_intros <;> first | decide +kernel | rfl

/-- A task whose function has a job, a peer register it accepts, and a put of 64 bytes. -/
theorem wit_remotes :
    (∀ s : State, s = { st { cx [(12, ⟨64, false⟩)] [(1, full), (2, cap 0 0x400 0xFFF 6)] with e := [(4, 0x801)] } with
        parts := [(0, { state := 1 })]
        jobs := [(0, { valid := true, job := 3, func := 0, nranks := 2, heapLen := 0x400, ranks := [(0, 0x8000000000000000), (1, 0x8000000000000000)] })] } →
      ((s.jobOf task0).map fun x => (x.2.peerOk (s.me.er 4), s.holdFullAt x.2 (peerRank (s.me.er 4)) 0)) = some (true, false) ∧
      s.me.firstPoison (block 10 3) = none ∧ (s.blk 10 2).toNat ≤ 2 ^ 26 ∧
      isOk (s.checkRemote (s.me.kr 1) (s.me.kr 2) false ⟨s.blk 10 0, s.blk 10 1, (s.blk 10 2).toNat⟩) = true ∧
      (s.remoteQueue s.cur.id 4).length < 16 ∧ s.barAcc none 0 = .ok none ∧ (s.attachBar none 1 true).isSome = true) := by
  rintro s rfl; and_intros <;> first | decide +kernel | rfl

/-- Unpoisoned sources of a split and of a compare; a full and an empty mask stack. -/
theorem wit_vectors :
    (∀ s : State, s = st { cx [] [] with stack := List.replicate 16 1 } → 16 ≤ s.me.stack.length ∧ s.vp 1 = false ∧ s.vp 2 = false) ∧
    (st (cx [] [])).me.stack = [] ∧ (st (cx [] [])).me.stack.length < 16 ∧ (st { cx [] [] with stack := [5, 7] }).me.stack = [5, 7] ∧
    (st { cx [] [] with v := [(1, ⟨0, true⟩)] }).vp 1 = true ∧
    elemWI 2 = 32 ∧ laneWI 2 = 32 ∧ elemWF 3 = 64 ∧ laneWF 3 = 64 := by
  refine ⟨?_, by decide⟩
  rintro s rfl; decide

/-- Elements of 8 bits in lanes of 32, nothing pending; and a result of another register pending. -/
theorem wit_lanewise : (8 : Nat) ∈ [8, 16, 32, 64] ∧ (32 : Nat) ∈ [32, 64] ∧ 8 ≤ 32 ∧ (∀ r ∈ (st (cx [] [])).me.pend, r.val.reg ≠ some (.v 4)) ∧
    (∀ r ∈ ({ cx [] [] with pend := [⟨12, .g 3 1 false⟩] } : Ctx).pend, r.val.reg ≠ some (.v 4)) := by decide

theorem wit_vectorFrame : ∃ t, vectorDest (.vaddI 4 1 2 0 2 none) = some 4 ∧ exec (.vaddI 4 1 2 0 2 none) (st (cx [] [])) = .next t :=
  ⟨_, rfl, rfl⟩

/-- An owner with a mode, a row and a partial in the array; a free array; a tile in slice mode. -/
theorem wit_matrix :
    (∀ s : State, s = { st (cx [(3, ⟨0x1C, false⟩), (4, ⟨0, false⟩)] [(1, cap 0 0x400 0xFFF 3), (2, cap 0 0x400 0xFFF 4)]) with
        cores := [(0, { owner := some 0, cfgd := true, np := 1, ns := 1, wa := 2, wb := 2, mode := [(1, ⟨5, 5, true⟩)] })] } →
      (s.core 0).owner = some s.cur.id ∧ s.me.lost = false ∧ (s.core 0).queue.length < 32 ∧ (s.core 0).cfgd = true ∧ 1 ≤ (s.core 0).np ∧
      (s.core 0).ns ≠ 2 ∧ (s.core 0).ns ≠ 0 ∧ s.matrixBusy s.cur.id = false ∧ s.acquirePending s.cur.id s.me.iss = false ∧ s.tileForeign 2 = false ∧ ((s.core 0).modeOf 1).sl = true ∧
      (s.core 0).modeDiffers 1 = true ∧ s.gp 4 = false ∧ field (s.gv 4) 7 3 = 0 ∧ field (s.gv 4) 63 32 = 0 ∧ field (s.gv 4) 15 14 = 0 ∧
      (s.core 0).np + (field (s.gv 4) 2 0 + 1) ≤ 8 ∧
      isOk (checkAll (fun j : Nat => s.capCheck s.cur.id (s.me.kr 1) [3] ((s.gv 4).toInt + j * field (s.gv 4) 31 8) (32 * widthB 2) 1 32)
        (List.range (field (s.gv 4) 2 0 + 1))) = true ∧
      isOk (s.capCheck s.cur.id (s.me.kr 2) [4] (s.gv 4).toInt (4 * widthB 2 * ones 8 (field (s.gv 4) 15 8)) 1 4) = true ∧
      s.sealedLines s.cur.id 0 4 = [] ∧ field (s.gv 4) 63 16 = 0 ∧ field (s.gv 3) 63 10 = 0 ∧ (∀ j ∈ [1], s.tileForeign j = false)) ∧
    (∀ co : Core, co = { owner := some 0, cfgd := true, ns := 1, wa := 2, wb := 2, mode := [(1, ⟨2, 2, false⟩)] } → co.modeDiffers 1 = false ∧
      co.sl = false ∧ co.np + 0 = 0) ∧
    (∀ s : State, s = { st (cx [] []) with loads := [⟨9, 1, 0, 5, 0, 5, 0, [], .xmpc 4 none false, false, false, [], []⟩] } →
      s.loads[0]?.isSome = true ∧ s.matrixBefore 0 5 = false ∧ (s.keepMpc 0).loads = [⟨9, 1, 0, 5, 0, 5, 0, [], .xmpc 4 (some 0) false, false, false, [], []⟩]) ∧
    (∀ s : State, s = { st { cx [] [] with mpc := 0x4000 } with loads := [⟨9, 1, 0, 5, 0, 5, 0, [], .xmpc 4 none false, false, false, [], []⟩] } →
      (s.keepLost 0).loads = [⟨9, 1, 0, 5, 0, 5, 0, [], .xmpc 4 none true, false, false, [], []⟩]) ∧
    ((st (cx [] [])).core 0).owner = none ∧ ((st (cx [] [])).core 0).queue = [] ∧ ((st (cx [] [])).core 0).waiters = [] := by
  refine ⟨?_, ?_, ?_, ?_, by decide, by decide, by decide⟩ <;> (rintro s rfl; and_intros <;> first | decide +kernel | rfl)

theorem wit_decodeEncode : wf (.addi 7 7 (.short (-1))) = true ∧ enc (.addi 7 7 (.short (-1))) = some ⟨.x, 2, 0x1C7FFF, none⟩ ∧
    decodeSlot .x 0x021C7FFF none = .ok (.addi 7 7 (.short (-1))) := by decide

/-- Two scalar instructions in the X and Y slots. -/
theorem wit_decodeBundle : (∀ e : Encoding, enc (.addi 7 7 (.short (-1))) = some e → slotKindOf 1 = e.kind ∧ slotKindOf 2 = e.kind) ∧
    (movesStack (.addi 7 7 (.short (-1))) && movesStack (.add 1 2 3)) = false ∧ isTransfer (.addi 7 7 (.short (-1))) = false ∧
    isTransfer (.br (.short 0)) = true := by
  refine ⟨?_, by decide⟩
  intro e h
  have : e = ⟨.x, 2, 0x1C7FFF, none⟩ := by
    have h2 : enc (.addi 7 7 (.short (-1))) = some ⟨.x, 2, 0x1C7FFF, none⟩ := by decide
    rw [h2] at h
    exact (Option.some.inj h).symm
  subst this; decide

/-- A granted context whose fetch gives ADDI alone: its bundle commits, and the pc moves past it. -/
theorem wit_step :
    (∀ s : State, s = State.reset.placeCode [0x02, 0xFF, 0x7F, 0x1C, 0x02] → s.grant = some 0 ∧
      (s.ctx 0).late = none ∧ (s.ctx 0).wait = none ∧ (s.ctx 0).after = none ∧ (s.ctx 0).task.isSome = true ∧
      State.fetch { s with grant := none } ((s.ctx 0).task.elim 0 s.codeFunc) (s.ctx 0).delay.isSome (s.ctx 0).pc.toNat =
        .bundle ⟨[(1, .addi 7 7 (.short (-1)))], 5⟩ ∧
      State.interlocked { s with grant := none } ((s.ctx 0).task.elim 0 (·.tid)) (s.ctx 0).land.pend [.addi 7 7 (.short (-1))] = false ∧
      (match step s with | .next t => (t.ctx 0).pc | _ => 0) = (s.ctx 0).pc + 5) := by
  intro s h; rw [h]; decide +kernel

/-- TAIL alone: the bundle has ended the task. -/
theorem wit_step_ended : ∀ s : State, s = { State.reset.placeCode [0x01, 0x00, 0x00, 0x00, 0x0B] with } → s.grant = some 0 ∧ (s.ctx 0).after = none ∧
    State.fetch { s with grant := none } ((s.ctx 0).task.elim 0 s.codeFunc) (s.ctx 0).delay.isSome (s.ctx 0).pc.toNat = .bundle ⟨[(0, .tail)], 5⟩ ∧
    (match exec .tail (State.at { s with grant := none } 0 0 5 .tail) with | .next u => decide (u.cur.verdict = .ended) | _ => false) = true := by
  intro s h; rw [h]; decide +kernel

theorem wit_stepKeepsMemory : (State.reset.placeCode [0x02, 0xFF, 0x7F, 0x1C, 0x02]).Canonical ∧
    ∃ t, step (State.reset.placeCode [0x02, 0xFF, 0x7F, 0x1C, 0x02]) = .next t :=
  ⟨by unfold State.Canonical; decide +kernel, goes_next (by decide +kernel)⟩

/-- A timer that is due, and the lowest of two posted sources. -/
theorem wit_interrupts :
    (∀ s : State, s = { hst 0x4A { cx [] [] with tcmp := 5 } with time := 5 } → s.asyncBoundary 0 = true ∧ s.outstanding 0 = false ∧
      (s.ctx 0).tcmp ≠ 0 ∧ (s.ctx 0).tcmp.toNat ≤ s.time ∧ s.handler (s.ctx 0) 0x4A = some 0x8040) ∧
    (∀ s : State, s = hst 0x49 { cx [] [] with ipend := 0x8002, ien := 0xFFFF } → s.asyncBoundary 0 = true ∧ s.outstanding 0 = false ∧
      (s.ctx 0).ipend.getLsbD 1 = true ∧ (s.ctx 0).ien.getLsbD 1 = true ∧ (∀ m, m < 1 → ((s.ctx 0).ipend.getLsbD m && (s.ctx 0).ien.getLsbD m) = false) ∧
      s.timerReady 0 = false ∧ s.handler (s.ctx 0) 0x49 = some 0x8040) ∧
    (∀ s : State, s = hst 0x49 { cx [] [] with ipend := 0x8000, ien := 0x8000 } → (s.ctx 0).ipend.getLsbD 15 = true ∧
      (s.ctx 0).ien.getLsbD 15 = true ∧ (∀ m, m < 15 → ((s.ctx 0).ipend.getLsbD m && (s.ctx 0).ien.getLsbD m) = false)) := by
  refine ⟨?_, ?_, ?_⟩ <;> (rintro s rfl; and_intros <;> decide)

/-- An exception with a handler, and one in handler mode with room in the tracker. -/
theorem wit_preciseTrap :
    (∀ s : State, s = hst 0x28 (cx [] []) → (s.ctx 0).frame = none ∧ s.handler (s.ctx 0) 0x28 = some 0x8040 ∧ s.outstanding 0 = false) ∧
    (∀ s : State, s = st { cx [] [] with frame := some (fr 0 0) } →
      s.task = some task0 ∧ (s.ctx 0).frame.isSome = true ∧ s.trackerFull 0 = false) ∧
    (st (cx [] [])).handler ((st (cx [] [])).ctx 0) 0x28 = none := by
  refine ⟨?_, ?_, by decide⟩ <;> (rintro s rfl; decide)

/-- A frame with a latched result, built by an exception in a delay bundle. -/
theorem wit_return :
    (∀ c : Ctx, c = { cx [] [] with pend := [⟨12, .g 3 1 false⟩] } → (∀ r ∈ c.pend, c.step ≤ r.due) ∧
      (c.enter ⟨0x28, true, false, false, false, 1, 0x40, c.pc, c.pc⟩ 0x8040).frame.isSome = true) ∧
    (cx [] []).pend = [] ∧
    (∀ s : State, s = st { cx [] [] with frame := some (fr 0x1000 0x28) } → (s.ctx 0).frame = some (fr 0x1000 0x28) ∧ (fr 0x1000 0x28).pf = none ∧
      s.preempting 0 = false) ∧
    (∀ f : Frame, f = { fr 0x1000 0x28 with pf := some ⟨0x20, 0, 0, 3, [], true⟩ } → ∀ p ∈ [Preempt.none, .requested], ∀ s : State,
      s = st { cx [] [] with frame := some f, preempt := p } → (s.ctx 0).frame = some f ∧ f.pf = some ⟨0x20, 0, 0, 3, [], true⟩ ∧
      s.preempting 0 = decide (p = .requested)) := by
  refine ⟨?_, by decide, ?_, ?_⟩
  · rintro c rfl; decide
  · rintro s rfl; decide
  · rintro f rfl p hp s rfl; revert p; decide

/-- A task to be pre-empted with every engine quiet; one that is out; a grace period that has ended; an INTPOST word. -/
theorem wit_preemption :
    (∀ s : State, s = st { cx [] [] with preempt := .requested } → (s.ctx 0).task = some task0 ∧ (s.ctx 0).preempt = .requested ∧
      s.preempting 0 = true ∧ (s.ctx 0).preemptible = true ∧ (s.ctx 0).locking = false ∧ s.quiet 0 task0.tid = true ∧
      (State.newFrames (s.settleTiles 0 (s.ctx 0).touched) 0 (areaFrames (s.ctx 0).touched.length)).isSome = true ∧
      (State.newFrames (State.settleTiles { s with parts := [(0, { pt with mask := 0 })] } 0 (s.ctx 0).touched) 0
        (areaFrames (s.ctx 0).touched.length)).isSome = false) ∧
    (∀ s : State, s = st { cx [] [] with preempt := .out, saved := some (fr 0x1000 0x48) } →
      (s.ctx 0).preempt = .out ∧ (s.ctx 0).saved = some (fr 0x1000 0x48) ∧ (fr 0x1000 0x48).pf = none ∧ (s.ctx 0).owned = none) ∧
    (∀ s : State, s = { st { cx [] [] with preempt := .out, saved := some (fr 0x1000 0x48), owned := some ⟨2, 2, false, 0, true⟩ } with
        cores := [(0, { owner := some 1 })] } → (s.ctx 0).owned.isSome = true ∧ (s.core 0).arrayFree = false) ∧
    ((st (cx [] [])).part 0).state = 1 ∧ (State.reset.part 0).state ≠ 1 ∧
    (∀ s : State, s = st { cx [] [] with prq := some 0 } → (s.ctx 0).prq = some 0 ∧ 0 ≤ s.time ∧ (s.ctx 0).preempt = .none) ∧
    ((0x1FF_8001 : BitVec 64).toNat < 2 ^ 25 ∧ (0x1FF_8001 : BitVec 64).toNat / 2 ^ 16 = 511) ∧
    (st { cx [] [] with trapReq := some ⟨0x28, false, false, false, false, 0, 0, 0, 0⟩ }).ctx 0 =
      { cx [] [] with trapReq := some ⟨0x28, false, false, false, false, 0, 0, 0, 0⟩ } := by
  refine ⟨?_, ?_, ?_, by decide, by decide, ?_, by decide, by decide⟩ <;> (rintro s rfl; decide +kernel)

/-! ### Engines -/

/-- A plain write, copy, atomic and load of the task. -/
def wr (level : Nat) : Write := ⟨9, 1, 0, 5, 0, level, 3, 0, [(2 ^ 60 + 8, 1)], [], [], 1, none, 0, [], true⟩
def cp (sp d : Nat) (bs : List Beat) : Copy := ⟨9, 1, 0, 5, 0, sp, 0, d, 0, bs, none, none, [], 0, [], {}⟩
def at8 (op : AtomOp) (use sc : Nat) (asc : Bool) : Atom := ⟨9, 1, 0, 5, 0, ⟨2, 0x40, 8, 0⟩, op, 3, 4, use, sc, some 4, asc, 0, [], none, {}⟩
def ldd (sp : Nat) (d : LoadDest) : Load := ⟨9, 1, 0, 5, 0, sp, 0, [(0, 0x40, 8)], d, false, false, [], []⟩

/-- The state with a page of function 0 mapped at an address. -/
def mp (s : State) (va : Nat) : State := (s.mapPage 0 0 va 0).getD s

/-- A divide, writes at each level, copies with and without beats and one that faults, atomics, a turn of the wheel, readouts. -/
theorem wit_operations :
    (∀ s : State, s = { st (cx [] []) with divs := [⟨9, 1, 0, 4, 7, false, 40⟩] } →
      s.divs.find? (fun x => decide (x.id = 9)) = some ⟨9, 1, 0, 4, 7, false, 40⟩ ∧ (s.ctx 0).task = some task0 ∧ task0.tid = 1 ∧ s.frozen 0 = false) ∧
    (∀ s : State, s = st { cx [] [] with trapReq := some ⟨0x28, false, false, false, false, 0, 0, 0, 0⟩ } → s.frozen 0 = true) ∧
    (∀ l ∈ [0, 1, 2], ∀ s : State, s = { st (cx [] []) with writes := [wr l] } →
      s.writes.find? (fun x => decide (x.id = 9)) = some (wr l) ∧ s.canMove (wr l) = true ∧
      (s.pay 9 (s.funcOf 1) .memory (hbmTokens ((wr l).cells.map (·.1)))).2 = true) ∧
    (∀ s : State, s = { st (cx [] []) with writes := [wr 0, { wr 0 with id := 10, iss := 6 }] } →
      s.canMove { wr 0 with id := 10, iss := 6 } = false) ∧
    (∀ c ∈ [cp 3 2 [], cp 3 2 [⟨0x40, 0x80, 8⟩], cp 3 0 [⟨0x40, 0x80, 8⟩]], ∀ s : State, s = { st (cx [] []) with copies := [c] } →
      s.copies.find? (fun x => decide (x.id = 9)) = some c ∧ s.taskOf 1 = some task0 ∧ s.copyFree c = true ∧
      s.copyBarWaits c c.beats.length true = false) ∧
    (∀ s : State, s = { st (cx [] []) with copies := [cp 3 2 [⟨0x40, 0x80, 8⟩]] } →
      s.beatFault task0 (cp 3 2 [⟨0x40, 0x80, 8⟩]) ⟨0x40, 0x80, 8⟩ = none ∧ isOk (s.readPlaces task0 0 3 (chunks 0x40 8)) = true ∧
      s.beatWaits task0 (cp 3 2 [⟨0x40, 0x80, 8⟩]) ⟨0x40, 0x80, 8⟩ [] = false ∧
      s.beatFault task0 (cp 3 0 []) ⟨0x40, 0x80, 8⟩ = some (0x20, 0x80)) ∧
    (∀ a ∈ [at8 .add 0 2 false, at8 .add 4 1 false], ∀ s : State, s = { st (cx [] []) with atoms := [a] } →
      s.atoms.find? (fun x => decide (x.id = 9)) = some a ∧ s.atomFree a = true ∧ s.haltedFor a.tid = false) ∧
    (∀ s : State, s = { st (cx [] []) with parts := [(0, { pt with state := 2 })] } → s.haltedFor 1 = true) ∧
    (∀ s : State, s = { st (cx [] []) with atoms := [at8 .add 5 2 false], loads := [{ ldd 2 (.g 3 8 false) with iss := 4 }] } →
      s.atomFree (at8 .add 5 2 false) = false ∧ s.atomOpen (at8 .add 5 2 false) = false ∧ s.taskOf 1 = some task0 ∧
      s.isOut 0 1 = false ∧ s.acquirePending 0 5 = false ∧ s.hostWaits 0 2 0x40 8 = false) ∧
    (∀ s : State, s = { st (cx [] []) with
        atoms := [at8 .add 0 2 true], parts := [(0, { pt with wheel := 1 })], insts := [(7, { handlerImage 0 with wheel := [(0, 0)] })] } →
      s.time % 4 = 0 ∧ Table.find s.served (s.time / 4 % 256) = none ∧ pickAsc 127 s.ascReady = some (at8 .add 0 2 true)) ∧
    (∀ d ∈ [.word 4 7 false, .xmpc 4 none false, .xmpc 4 none true, .xres 4 none], ∀ s : State, s = { st (cx [] []) with loads := [ldd 2 d] } →
      s.loads.find? (fun x => decide (x.id = 9)) = some (ldd 2 d) ∧
      (∀ e ∈ (s.core 0).queue, e.ctx = 0 → 5 ≤ e.iss)) ∧
    (∀ s : State, s = { st (cx [] []) with loads := [ldd 2 (.xhdr 4 1 0 0)], cores := [(0, { queue := [⟨1, 0, 5, .hdr 9⟩] })] } →
      (s.core 0).queue = [⟨1, 0, 5, .hdr 9⟩]) := by
  refine ⟨?_, ?_, ?_, ?_, ?_, ?_, ?_, ?_, ?_, ?_, ?_, ?_⟩
  · rintro s rfl; decide +kernel
  · rintro s rfl; decide +kernel
  · intro l hl s hs; subst hs; revert l; decide +kernel
  · rintro s rfl; decide +kernel
  · intro c hc s hs; subst hs; revert c; decide +kernel
  · rintro s rfl; decide +kernel
  · intro a ha s hs; subst hs; revert a; decide +kernel
  · rintro s rfl; decide +kernel
  · rintro s rfl; decide +kernel
  · rintro s rfl; decide +kernel
  · intro d hd s hs; subst hs; revert d; decide +kernel
  · rintro s rfl; decide +kernel

/-- A signed load of 8 bytes whose bytes and tokens are found, and one outside the lease; an add at CORE. -/
theorem wit_values :
    (∀ s : State, s = { st (cx [] []) with loads := [ldd 2 (.g 3 8 true)] } →
      s.loads.find? (fun x => decide (x.id = 9)) = some (ldd 2 (.g 3 8 true)) ∧ s.taskOf 1 = some task0 ∧ (s.ctx 0).task = some task0 ∧
      s.loadFree (ldd 2 (.g 3 8 true)) = true ∧ isOk (s.readPlaces task0 0 2 (chunks 0x40 8)) = true ∧
      (s.pay 9 0 .memory (hbmTokens (((List.range 8).map fun i => some (2 ^ 60 + i)).filterMap fun x => x))).2 = true) ∧
    (∀ b ∈ [true, false], ∀ s : State, s = { st (cx [] []) with loads := [{ ldd 0 (.g 3 8 true) with soft := b }] } →
      s.loadFree { ldd 0 (.g 3 8 true) with soft := b } = true ∧
      s.readPlaces task0 0 0 (chunks 0x40 8) = .error (0x20, 0x40)) ∧
    (∀ (s : State) (a : Atom), a = { at8 .add 0 0 false with locs := (List.range 8).map (flatL2 0 + 0x40 + ·) } →
      s = { st (cx [] []) with atoms := [a] } →
      s.mem.wf = true ∧ s.atoms.find? (fun x => decide (x.id = 9)) = some a ∧ s.atomFree a = true ∧
      (s.pay 9 0 .memory (a.tokens a.locs)).2 = true ∧ (∀ w ∈ s.writes, w.stamp < s.stamp) ∧ a.op = .add ∧ a.locs.length = 8) := by
  refine ⟨?_, ?_, ?_⟩
  · rintro s rfl; decide +kernel
  · intro b hb s hs; subst hs; revert b; decide +kernel
  · rintro s a rfl rfl; decide +kernel

/-- A context that waits. -/
def wt (w : Wait) : State := st { cx [] [] with wait := some w }

/-- Each wait, ended and not. -/
theorem wit_waits :
    (∀ s : State, s = wt (.fwait ⟨2, 0x40, 8, 0⟩ 0 2 5 0) →
      s.waitFree task0 0 ⟨2, 0x40, 8, 0⟩ 5 = true ∧ (s.waitRead task0 0 ⟨2, 0x40, 8, 0⟩ 5).map (·.1) = .ok 0 ∧ (0 : Nat) < 1 ∧ (s.waitPay task0 0 ⟨2, 0x40, 8, 0⟩).2 = true ∧
      (barRec 0).gen = 0 ∧ (barRec 0).aborted = false ∧ (barRec 0).error = false ∧ (s.ctx 0).delay = none ∧
      s.waitFree task0 0 ⟨0, 0x40, 8, 0⟩ 5 = true ∧ isOk (s.waitRead task0 0 ⟨0, 0x40, 8, 0⟩ 5) = false) ∧
    (∀ s : State, s = { wt (.fwait ⟨2, 0x40, 8, 0⟩ 0 2 5 0) with atoms := [{ at8 .ald 0 2 false with iss := 4 }] } →
      s.waitFree task0 0 ⟨2, 0x40, 8, 0⟩ 5 = false) ∧
    (∀ s : State, s = { mp (st { cx [] [] with task := some { task0 with ranges := [(0, 0x1000, 0x1000)] } }) 0x1000 with parts := [(0, { pt with mleft := 0 })] } →
      (s.waitPay { task0 with ranges := [(0, 0x1000, 0x1000)] } 0 ⟨0, 0x1000, 8, 0⟩).2 = false) ∧
    (∀ s : State, s = wt .xrel → s.matrixBusy 0 = false ∧ s.yields 0 = false ∧ s.fenceReady 0 2 = true ∧ s.queuesDone 0 1 = true ∧ (s.ctx 0).late = none ∧
      (∀ r ∈ s.rejects, r.tid = 1 → 2 < r.scope)) ∧
    (∀ s : State, s = { wt .xrel with cores := [(0, { queue := [⟨1, 0, 5, .flip⟩] })] } →
      s.matrixBusy 0 = true ∧ s.fenceReady 0 2 = false) ∧
    (∀ s : State, s = mp (st { cx [] [] with task := some { task0 with ranges := [(0, 0x1000, 0x1000)] } }) 0x1000 →
      s.hostWaits 0 0 0x1000 64 = false ∧ s.lockedEntries 0 + (populatedPages (s.pages 0 0 0x1000 64)).length = 1 ∧
      (s.pages 0 0 0x1000 64).filterMap (s.lockFault { task0 with ranges := [(0, 0x1000, 0x1000)] } ⟨0, 0x1000, 64, 0⟩) = [] ∧
      (s.pages 0 0 0x1000 64).filterMap (s.lockFault task0 ⟨0, 0x1000, 64, 0⟩) ≠ []) ∧
    (∀ s : State, s = st { cx [] [] with locks := [⟨0, 0x1000, 0x20000, (List.range 32).map fun i => (0x1000 + 0x1000 * i, 0x1000)⟩] } → 32 < s.lockedEntries 0 + 1) ∧
    (∀ s : State, s = { st (cx [] []) with groups := [(3, ⟨0, 0, ⟨2, 0, 16, 0⟩, [], true⟩)] } →
      Table.find s.groups 3 = some ⟨0, 0, ⟨2, 0, 16, 0⟩, [], true⟩ ∧ s.groupBusy 3 = false ∧ s.atoms = []) ∧
    (∀ s : State, s = { st { cx [] [] with wait := some .xacq } with cores := [(0, { waiters := [0] })] } →
      0 < s.coreCount ∧ (s.core 0).owner = none ∧ (s.core 0).queue = [] ∧ (s.core 0).waiters = [0] ∧ (s.ctx 0).wantsArray = true ∧ (s.ctx 0).preempt ≠ .out) ∧
    (wt (.fence 2)).yields 0 = false ∧ (st { cx [] [] with wait := some (.fence 2), preempt := .requested }).yields 0 = true ∧
    (∀ s : State, s = { st { cx [] [] with wait := some (.cbP 1 1), h := [(1, { slot := 1, count := 1, pcnt := 1 })] } with
        cores := [(0, { escape := 256 })], parts := [(0, { pt with tbudget := 5 })] } →
      256 ≤ (s.core 0).escape ∧ s.deadlocked 0 = true ∧ (1 : Nat) ≤ ((s.ctx 0).land.hr 1).filled) ∧
    ((st (cx [] [])).core 0).escape < 256 := by
  and_intros <;> first | decide +kernel | (intro s h; rw [h]; decide +kernel)

/-- The core with one matrix entry at the head of its queue. -/
def xq (op : XOp) (k : Core) : State := { st (cx [] []) with cores := [(0, { k with queue := [⟨1, 0, 5, op⟩] })] }

/-- Each kind of matrix entry at the head of the queue, and one that waits for an acquire. -/
theorem wit_matrixQueue :
    (∀ op ∈ [XOp.pushA [0] 64, .pushW 0 0 1 2 [], .flip, .scl 0 0, .shift 2, .acc 0 0 0 0 false 0, .drain 0 0 0 0 0 1 20, .zero 0 2 2 false,
        .sete 0 3, .clrf 0, .mark 0 true 0 1, .cfg], ∀ s : State, s = xq op { fifo := [[1]], banks := [[1]] } →
      0 < s.coreCount ∧ (s.core 0).queue = [⟨1, 0, 5, op⟩] ∧ (s.core 0).fifo = [[1]] ∧ (s.core 0).banks = [[1]] ∧ s.writes = [] ∧
      s.entryWaits ⟨1, 0, 5, op⟩ = false ∧ s.haltedFor 1 = false) ∧
    5 ∈ ({ cx [] [] with drains := [5] } : Ctx).drains ∧ 5 ∉ (cx [] []).drains ∧
    (∀ s : State, s = xq (.pushA [0] 64) {} → s.ownStore 0 5 [1, 2] = false ∧ XOp.pushA [0] 64 ≠ .flip ∧ XOp.pushA [0] 64 ≠ .cfg ∧ (s.core 0).fifo = [] ∧ (s.core 0).banks = []) ∧
    (∀ s : State, s = { xq (.pushA [0] 64) {} with writes := [{ wr 0 with iss := 4, cover := some 3, cells := (bufPlaces 0 3 0 64).map fun a => (a, 1) }] } →
      s.ownStore 0 5 (bufPlaces 0 3 0 64) = true) ∧
    (∀ s : State, s = { xq .flip {} with atoms := [{ at8 .ald 0 2 false with iss := 4 }] } → s.entryWaits ⟨1, 0, 5, .flip⟩ = true) := by
  refine ⟨?_, by decide, by decide, ?_, ?_, ?_⟩
  · intro op ho s hs; subst hs; revert op; decide +kernel
  · rintro s rfl; decide +kernel
  · rintro s rfl; decide +kernel
  · rintro s rfl; decide +kernel


/-! ### The pod fabric -/

/-- A job of function 0 whose ranks 0 (its own) and 1 (another package) may be reached through port 0, with one segment. -/
def jb : Job :=
  { valid := true, job := 1, func := 0, nranks := 2, heapBase := 0x1000, heapLen := 0x1000
    ranks := [(0, 1#64 <<< 63 ||| 1#64 <<< 34), (1, 1#64 <<< 63 ||| 1#64 <<< 34 ||| 1#64)]
    segs := [(0, (0x3F#128 <<< 96) ||| (0x1000#128 <<< 57))] }
/-- A remote operation of the task to a rank. -/
def rm (k : RemKind) (r : Nat) : Remote := ⟨9, 1, 0, 5, 0, 0, r, 2, k, 2, 0, 0x40, 0x10, 8, some 0x20, 3, none, 5, [], {}⟩
def ou (k : RemKind) (r : Nat) (st : RemStage) (ls : List Leg) : Out := ⟨rm k r, st, [], ls, false, false, 0, 1, 0, 0⟩
/-- A package with the job, a mapped heap page and one operation. -/
def fs (o : Out) : State := { mp (st (cx [] [])) 0x1000 with jobs := [(0, jb)], outs := [o] }
/-- The same job with one rank held, or lost. -/
def fsj (o : Out) (f : Job → Job) : State := { fs o with jobs := [(0, f jb)] }

/-- Operations that may enter their channel: to a held rank, to a lost one, to another package; and one whose local read fails. -/
theorem wit_channelEntry :
    (∀ (s : State) (j : Job) (o : Out), o = ou .put 1 .queue [] → j = { jb with ranks := [(1, 3#64 <<< 62 ||| 1#64 <<< 34 ||| 1#64)] } → s = fsj o (fun _ => j) →
      s.entryFree j o (j.legs (rm .put 1)) = true ∧ ([o].filter fun x => (j.legs x.op).isEmpty) = [] ∧ j.held (j.legs (rm .put 1)) = true ∧ o.stage ≠ .sent) ∧
    (∀ (s : State) (j : Job) (o : Out), o = ou .put 1 .queue [] → j = { jb with lost := [1] } → s = fsj o (fun _ => j) →
      s.findOut 9 = some o ∧ s.entryFree j o [] = true ∧ ([o].filter fun x => (j.legs x.op).isEmpty) = [o]) ∧
    (∀ k ∈ [RemKind.put, .putf, .semadd, .pull], ∀ s : State, s = fs (ou k 1 .queue []) →
      s.findOut 9 = some (ou k 1 .queue []) ∧ s.jobOfTid 1 = some jb ∧ s.taskOf 1 = some task0 ∧
      (s.outs.filter fun x => decide (x.op.batch = 5)) = [ou k 1 .queue []] ∧ ([ou k 1 .queue []].head?.map fun x => x.op.id) = some 9 ∧
      (([ou k 1 .queue []] : List Out).flatMap fun x => jb.legs x.op) = [⟨false, 1, false, 0, .sent⟩] ∧
      s.entryFree jb (ou k 1 .queue []) [⟨false, 1, false, 0, .sent⟩] = true ∧ ([ou k 1 .queue []].filter fun x => (jb.legs x.op).isEmpty) = [] ∧
      jb.held [⟨false, 1, false, 0, .sent⟩] = false ∧ (s.sendRows jb [⟨ou k 1 .queue [], [⟨false, 1, false, 0, .sent⟩], [], []⟩]).isSome = true ∧
      (s.payBoth 9 0 1 2).2 = true ∧ isOk (s.rowPlaces task0 jb [ou k 1 .queue []]) = true ∧ s.ownStore 0 5 [2 ^ 60 + 0x40] = false ∧
      s.spcLocked [2 ^ 60 + 0x40] = false) ∧
    (∀ o : Out, o = { ou .put 1 .queue [] with op := { rm .put 1 with lspace := 0 } } → isOk ((fs o).rowPlaces task0 jb [o]) = false) := by
  refine ⟨?_, ?_, ?_, ?_⟩
  · intro s j o ho hj h; subst ho; subst hj; rw [h]; decide +kernel
  · intro s j o ho hj h; subst ho; subst hj; rw [h]; decide +kernel
  · intro k hk s hs; rw [hs]; clear hs; revert k; decide +kernel
  · rintro o rfl; decide +kernel

/-- Heads at the port: of the own channel and of another package, which pass or fail its checks; a flag add; answers. -/
theorem wit_port :
    (∀ k ∈ [RemKind.put, .putf, .semadd, .pull], ∀ s : State, s = fs (ou k 0 .sent [⟨false, 0, true, 0, .sent⟩]) →
      (s.ownHead 9 k).isSome = true ∧ (jb.rank 0).part = 0 ∧
      (∀ p ∈ [(0, true), (1, true), (2, true), (3, false)], s.portCheck 0 1 0x10 8 p.1 p.2 = .ok jb) ∧ s.portCheck 0 1 0x20 8 segFLAG true = .ok jb ∧
      s.spoiled.contains (0, 0, 5) = false ∧ s.releaseReady (rm k 0) = true ∧ s.portWaits (s.wordPlaces 0 0x1010) true = false ∧
      s.portWaits ((s.heapPlaces jb 0x10 8).filterMap fun x => x) true = false ∧
      s.spcLocked ((s.heapPlaces jb 0x10 8).filterMap fun x => x) = false ∧
      (s.pay 9 0 .memory 2).2 = true ∧ (s.pay 9 0 .memory (heapTokens 0x1010 8)).2 = true ∧
      (s.pay 9 0 .memory (placeTokens (s.heapPlaces jb 0x10 8))).2 = true) ∧
    (∀ s : State, s = fsj (ou .put 0 .sent [⟨false, 0, true, 0, .sent⟩]) (fun j => { j with segs := [] }) →
      (s.ownHead 9 .put).isSome = true ∧ s.portCheck 0 1 0x10 8 segPUT true = .error 2 ∧ s.portCheck 0 1 0x20 8 segFLAG true = .error 2) ∧
    (∀ s : State, s = fs (ou .put 1 .sent []) → ∀ h : Head, h = ⟨0, 1, 1, 1, 0, 0, 3, 0, 0x10, 8, [], 0, 0, 0, 0⟩ →
      s.inTurn h = true ∧ s.portCheck h.part h.job h.hoff h.len segPUT true = .ok jb ∧ s.portCheck h.part h.job h.hoff 8 segSEM true = .ok jb ∧
      s.portCheck h.part h.job h.hoff h.len segPULL false = .ok jb ∧ s.portCheck h.part h.job h.flag 8 segFLAG true = .ok jb ∧ s.flags = [] ∧
      s.portCheck h.part 7 h.hoff h.len segPUT true = .error 1 ∧
      s.portCheck h.part 7 h.hoff 8 segSEM true = .error 1 ∧ s.portCheck h.part 7 h.hoff h.len segPULL false = .error 1 ∧ s.findOut 7 = none) ∧
    (∀ s : State, s = fsj (ou .put 1 .sent []) (fun j => { j with segs := [(0, (0x21#128 <<< 96) ||| (0x1000#128 <<< 57))] }) →
      s.portCheck 0 1 0x10 8 segPUT true = .ok { jb with segs := [(0, (0x21#128 <<< 96) ||| (0x1000#128 <<< 57))] } ∧
      s.portCheck 0 1 0x20 8 segFLAG true = .error 4) ∧
    (∀ s : State, s = { fs (ou .putf 0 .sent [⟨false, 0, true, 0, .flag⟩]) with flags := [⟨4, .chan 9, 0, 0x1020, 3, 2, false⟩] } →
      s.flags.find? (fun x => decide (x.id = 4)) = some ⟨4, .chan 9, 0, 0x1020, 3, 2, false⟩ ∧ s.portWaits (s.wordPlaces 0 0x1020) true = false ∧
      (s.pay 4 0 .memory 2).2 = true ∧
      s.findOut 9 = some (ou .putf 0 .sent [⟨false, 0, true, 0, .flag⟩]) ∧ s.releaseReady (rm .putf 0) = true) ∧
    (∀ s : State, s = fs (ou .pull 1 .sent [⟨false, 1, false, 0, .sent⟩]) →
      s.hostWaits 0 2 0x40 8 = false ∧ isOk (State.writePlaces task0 0 2 s (chunks 0x40 8)) = true ∧
      (ou .pull 1 .sent [⟨false, 1, false, 0, .sent⟩]).leg 0 = some ⟨false, 1, false, 0, .sent⟩) ∧
    (∀ s : State, s = fs (ou .pull 1 .sent [⟨false, 1, false, 0, .performed⟩]) → ({ ou .pull 1 .sent [⟨false, 1, false, 0, .performed⟩] with written := 8 } : Out).nextBeat = none ∧
      s.outBarWaits (rm .pull 1) false = false ∧
      s.outBarWaits (rm .put 1) true = false ∧
      ({ ou .pull 1 .sent [⟨false, 1, false, 0, .performed⟩] with data := [1, 2] } : Out).nextBeat.isSome = true) ∧
    (∀ o : Out, o = ou .put 0 .sent [⟨false, 0, true, 0, .rejected 2⟩] → o.leg 0 = some ⟨false, 0, true, 0, .rejected 2⟩) ∧
    (∀ o : Out, o = ou .put 0 .sent [⟨false, 0, true, 0, .performed⟩] → o.leg 0 = some ⟨false, 0, true, 0, .performed⟩ ∧ o.nack = false) := by
  refine ⟨?_, ?_, ?_, ?_, ?_, ?_, ?_, ?_, ?_⟩
  · intro k hk s hs; rw [hs]; clear hs; revert k; decide +kernel
  · intro s hs; rw [hs]; decide +kernel
  · rintro s hs h rfl; rw [hs]; decide +kernel
  · intro s hs; rw [hs]; decide +kernel
  · intro s hs; rw [hs]; decide +kernel
  · intro s hs; rw [hs]; decide +kernel
  · intro s hs; rw [hs]; decide +kernel
  · rintro o rfl; decide
  · rintro o rfl; decide

/-- A held rank that is drained, a failing link, a page request, a partition that is not READY, a mapped page, a sweep that is due. -/
theorem wit_fabricManagement :
    (∀ s : State, s = fsj (ou .put 1 (.hold 0) []) (fun j => { j with ranks := [(1, 3#64 <<< 62 ||| 1#64 <<< 34 ||| 1#64)] }) → ((s.job 0 0).rank 1).hold = true ∧
      1 ∉ (s.job 0 0).reported ∧ (∀ o ∈ s.outs, o.stage = .sent → s.inJob 0 0 o = false)) ∧
    (rankEntry 0x8000000000000001).ports = 0 ∧ (rankEntry 0x8000000400000001).ports ≠ 0 ∧
    (∀ p : Port, p = { fails := 2 } → 2 ≤ p.fails ∧ p.up = true) ∧ 0 < State.reset.portTotal ∧
    (∀ p : Port, p = { fails := 1, again := 3, flits := 2 ^ 48 - 6 } → p.fails < 2 ∧ p.up = true ∧ p.flits + (p.again + 2) < 2 ^ 48 ∧
      2 ^ 48 ≤ p.flits + (p.again + 3)) ∧ ({ fails := 1, up := false } : Port).up = false ∧
    (2 ^ 39 - 8) + 8 ≤ 2 ^ 39 ∧ 2 ^ 39 < 2 ^ 39 + 8 ∧ 2 ^ 39 < 2 ^ 57 ∧
    (∀ s : State, s = { State.reset with requests := [(0, 5, 3, 9)] } → ∃ r ∈ s.requests, r.1 = 0 ∧ r.2.1 = 5 ∧ r.2.2.1 = (3#6).toNat ∧
      r.2.2.2 % 8 = (1#3).toNat) ∧
    (∀ r ∈ State.reset.requests, ¬ (r.1 = 0 ∧ r.2.1 = 5 ∧ r.2.2.1 = (3#6).toNat ∧ r.2.2.2 % 8 = (1#3).toNat)) ∧
    State.reset.leaseOn 0 5 = none ∧ (State.reset.part 0).state ≠ 1 ∧ State.reset.translating 0 = false ∧
    ((st {}).part 0).state = 1 ∧ ((mp (st {}) 0x1000).leaf 0 0 0x1000).any (fun l => !l.disc && l.framed) = true ∧
    (∀ s : State, s = mp (st {}) 0x1000 → ((s.setPte ((s.leaf 0 0 0x1000).elim 0 (·.key)) 0xB0).leaf 0 0 0x1000).any (·.disc) = true) ∧
    (∀ s : State, s = { State.reset with clusters := [(0, { sweeps := 1 })] } → (s.cluster 0).sweeps ≠ 0 ∧ 0 < s.clusterCount) ∧
    State.reset.monitor.started = false ∧ ({ st {} with monitor := { started := true } } : State).monitor.started = true ∧
    pageHolds (0x5000, 0x1000) 0x4FFF = false ∧ pageHolds (0x5000, 0x1000) 0x5000 = true ∧
    (∀ o : Out, o = ou .put 1 .sent [⟨false, 1, false, 0, .sent⟩] → o.op.kind ≠ .pull ∧ (∃ l ∈ o.legs, l.rank = 1) ∧
      (o.legs.filter fun l => decide (l.rank ≠ 1)) = [] ∧ o.nack = false ∧ o.done = false) ∧
    (∀ o : Out, o = ou .put 1 .sent [⟨false, 1, false, 0, .sent⟩, ⟨true, 0, false, 0, .sent⟩] → (o.legs.filter fun l => decide (l.rank ≠ 1)) ≠ []) ∧
    (∀ (o : Out) (j : Job), o = ou .pull 1 .sent [⟨false, 1, false, 0, .sent⟩] → j = { jb with lost := [1] } →
      (∃ l ∈ o.legs, l.rank = 1 ∧ l.state ≠ .performed) ∧ jb.legs o.op ≠ [] ∧ 1 ∈ j.targets o.op ∧ j.legs o.op = []) := by
  and_intros <;> first | decide +kernel | (intro s h; rw [h]; decide +kernel) | (rintro o j rfl rfl; decide +kernel)

/-! ### Spindle -/

/-- A launch slot with a graph of four nodes at 0x1000 and a flag at 0x1800. -/
def sl : Slot := { inst := 7, start := 0, nodes := 4, en := true, graph := 0x1000, step := 1, thresh := 0, flag := 0x1800 }
def wk (v : Nat) : Walk := ⟨⟨0, 0, 0⟩, 0, 7, 0x1000, 4, [0], v, none, []⟩
/-- An image with a skein of 3 iterations of one dimension from 0 to 3, without a lease, with a template of nothing. -/
def skImage : Image := { handlerImage 0 with roots := [0], skeins := [BitVec.ofNat 1024 (2 ^ 16 + (3 * 2 ^ 32 + 2 ^ 64) * 2 ^ 128)] }
/-- The state with the slot, the image and a node written at the start of the graph. -/
def sp (x : Nat) (v : Nat) : State :=
  { (mp (st (cx [] [])) 0x1000).spinWrite 0 0x1000 64 x with insts := [(7, skImage)], slots := [(0, sl)], walks := [(0, wk v)] }
/-- A node with its three successors none. -/
def nd (k a b : Nat) : Nat := k + 0xFFFFFFFFFFFF * 2 ^ 16 + a * 2 ^ 64 + b * 2 ^ 128

/-- A slot of a READY function, enabled and not; a flag at its threshold; an image that is, and is not, being unloaded. -/
theorem wit_slots :
    (∀ s : State, s = { sp 0 0 with walks := [] } → slotExists ⟨0, 0, 0⟩ = true ∧ s.monitor.update ≠ .trial ∧ s.slot ⟨0, 0, 0⟩ = sl ∧
      slotFunc ⟨0, 0, 0⟩ sl = 0 ∧ (s.part 0).state = 1 ∧ s.enError ⟨0, 0, 0⟩ sl = 0 ∧ s.enError ⟨0, 0, 0⟩ { sl with step := 0 } = 4 ∧
      Table.find s.walks 0 = none ∧ 0 ∉ s.quiesced ∧ s.spinWord 0 0x1800 8 = some 0 ∧ (s.leaf 0 0 0x1800).isSome = true ∧
      s.spinReady 0 0x1800 = true ∧ (Table.find s.insts 7).any (fun i => !i.unloading) = true ∧ sl.thresh ≤ 0 ∧ (0 : Nat) < 1 ∧
      (Table.find { s with insts := [(7, { skImage with unloading := true })] }.insts 7).any (·.unloading) = true) := by
  intro s h; rw [h]; decide +kernel

/-- A node of each kind, a join's last arrival and an earlier one, the last visit of a walk. -/
theorem wit_nodes :
    (∀ d ∈ [nd 2 1 0, nd 2 2 0, nd 3 0x1800 0, nd 4 0x1800 5, nd 5 0x1800 5, nd 1 0 0x1000], ∀ s : State, s = sp d 0 →
      Table.find s.walks 0 = some (wk 0) ∧ 0 ∈ (wk 0).paths ∧ 0 ∉ s.quiesced ∧ (s.part 0).state = 1 ∧ s.spinWord 0 0x1000 64 = some d ∧
      (node d).ok 4 = true ∧ (wk 0).visits + 1 < 2 ^ 24 ∧ (wk 0).graph + 64 * 0 < 2 ^ 57) ∧
    (node (nd 2 1 0)).work + 1 = (node (nd 2 1 0)).a ∧ (node (nd 2 2 0)).work + 1 ≠ (node (nd 2 2 0)).a ∧ (node (nd 4 0x1800 5)).work < (node (nd 4 0x1800 5)).b ∧
    (∀ s : State, s = sp (nd 3 0x1800 0) 0 → s.hostWaits 0 0 0x1800 8 = false ∧ s.spinReady 0 0x1800 = true ∧ s.spinWord 0 0x1800 8 = some 0) ∧
    (∀ s : State, s = sp (nd 1 0 0x1000) 0 → ∀ sk : BitVec 1024, skImage.skeins[0]? = some sk →
      s.skeinOk (wk 0) skImage 0 sk.toNat = true ∧ leaseRanges skImage.roots sk.toNat (List.range (bitsAt sk.toNat 88 4)) = some [] ∧
      seedLeased skImage.roots (bitsAt sk.toNat 32 16) [] = true ∧ iterations (skeinDims sk.toNat) = 3 ∧
      (node (nd 1 0 0x1000)).b % 2 ^ 57 + 64 * 3 ≤ 2 ^ 57) ∧
    skImage.skeins[1]? = none ∧
    (∀ s : State, s = sp (nd 2 1 0) (2 ^ 24 - 1) → (wk (2 ^ 24 - 1)).visits + 1 = 2 ^ 24 ∧ (wk 0).failed = none ∧ (wk 0).slot = ⟨0, 0, 0⟩ ∧
      s.launches = [] ∧ (node (nd 2 1 0)).err = 0xFFFF ∧ (node (2 + 2 ^ 48)).err = 1) := by
  refine ⟨?_, by decide, by decide, by decide, ?_, ?_, by decide, ?_⟩
  · intro d hd s hs; rw [hs]; clear hs; revert d; decide +kernel
  · intro s h; rw [h]; decide +kernel
  · intro s hs sk h; rw [hs]
    obtain rfl : BitVec.ofNat 1024 (2 ^ 16 + (3 * 2 ^ 32 + 2 ^ 64) * 2 ^ 128) = sk := Option.some.inj h
    decide +kernel
  · intro s h; rw [h]; decide +kernel

/-- A launch of 3 tasks. -/
def ln (g : Nat) (stage : LaunchStage) : Launch :=
  { id := 5, walk := 0, node := 0, die := 0, func := 0, l1 := 0, child := 0, expl := false, inst := 7, skein := 0, entry := 0, root := 0
    dims := [⟨0, 3, 1, 0⟩], order := [0], n := 3, persist := false, count := 3, weight := 1, matrix := false, rmode := false, rcap := 0
    crec := 0x1000, summ := 0, succ := [], err := 0xFFFF, ranges := [], stage := stage, lease := g, next := 0, turn := 0, seq := 0
    launched := 0, normal := 0, faulted := 0, dropped := 0, left := 0, first := 0, recs := 0 }
/-- The state with the launch, its image loaded, its contexts free. -/
def ls (l : Launch) (r : Option Nat) : State :=
  { sp 0 0 with ctxs := [], launches := [(5, l)], parts := [(0, { pt with resident := r })] }
def re : Retire := { core := 0, ctx := 0, task := task0, code := 0, fpc := 0, tval := 0, pend := false, mchk := false, left := 0, tail := true, need := [] }

/-- A launch that waits for its lease, for its tables, for a context, for its last record; a drained entry. -/
theorem wit_launches :
    (∀ s : State, s = ls (ln 64 .lease) none → Table.find s.launches 5 = some (ln 64 .lease) ∧ (ln 64 .lease).die ∉ s.quiesced ∧
      s.inService (ln 64 .lease) = true ∧ s.freeGen 0 = some 0 ∧ s.missing (ln 64 .lease) = [] ∧ (s.takeLease (ln 64 .lease) 0).isSome = true ∧
      State.takeLease { s with parts := [(0, { pt with mask := 0 })] } { ln 64 .lease with ranges := [(0, 0x9000, 0x1000)] } 0 = none) ∧
    (∀ s : State, s = ls (ln 3 .placing) none → (s.part 0).resident ≠ some 7 ∧ s.otherResident 0 7 = false ∧
      (s.turnOf 0).map (·.id) = some 5 ∧ s.placeable 0 = false ∧ (Table.find s.insts 7).isSome = true) ∧
    (∀ s : State, s = ls (ln 3 .placing) (some 7) → s.spot (ln 3 .placing) = some 0 ∧ (ln 3 .placing).next < (ln 3 .placing).count ∧
      (s.part 0).resident = some 7 ∧ s.inService (ln 3 .placing) = true ∧ (s.part (ln 3 .placing).tenantFunc).state = 1 ∧ (s.turnOf (ln 3 .placing).tenantFunc).map (·.id) = some 5) ∧
    (∀ s : State, s = { ls (ln 3 .placing) (some 7) with retire := [re] } →
      s.retire.find? (fun x => decide (x.core = 0) && decide (x.task.tid = 1)) = some re ∧ s.drained re = true ∧ s.withRejects re = re ∧
      (ln 3 .placing).recordAt re = some 0x1000 ∧
      ((ln 3 .placing).count1 re).normal + ((ln 3 .placing).count1 re).faulted ≠ ((ln 3 .placing).count1 re).count) ∧
    { ln 3 .placing with rmode := true }.recordAt re = none ∧
    (∀ l : Launch, l = { ln 3 .placing with next := 3, normal := 2 } → (l.count1 re).normal + (l.count1 re).faulted = (l.count1 re).count) ∧
    (∀ l : Launch, l = { ln 3 .placing with next := 3, normal := 2, faulted := 1 } → l.count ≤ l.normal + l.faulted ∧ l.faulted ≠ 0) ∧
    (∀ l : Launch, l = { ln 3 .placing with next := 3, normal := 3 } → l.count ≤ l.normal + l.faulted ∧ l.faulted = 0) ∧
    re.code < 256 ∧ re.ctx < 256 ∧ re.core < 2 ^ 24 ∧ re.task.skein < 2 ^ 80 := by
  and_intros <;> first | decide +kernel | (intro s h; rw [h]; decide +kernel)

/-- A missing host page of a lease range: the tables of SPACE 1 are those of SPACE 0 here. -/
theorem wit_missing : ∀ (s u : State) (l : Launch), l = { ln 64 .lease with ranges := [(1, 0x1000, 0x1000)] } → u = ls l none →
    s = { u with
      roots := u.roots ++ [(1, Table.get 0 u.roots 0)]
      hostGone := [(0, (u.leaf 0 0 0x1000).elim 0 fun x => x.hostPage 0x1000)] } →
    s.missing l = [(u.leaf 0 0 0x1000).elim 0 fun x => x.hostPage 0x1000] ∧ s.freeGen 0 = some 0 := by
  rintro s u l rfl rfl rfl; decide +kernel

/-- A core with a ready context and no grant outstanding. -/
theorem wit_arbiter :
    (∀ s : State, s = { st (cx [] []) with ready := [0], parts := [(0, { pt with weight := 2 })] } → s.grant = none ∧ (∃ id ∈ s.ready, id / 4 = 0) ∧
      (s.chooseTenant {} [0]).isSome = true ∧ (∃ id ∈ [0], 0 < (s.part (s.tenantOf id)).weight) ∧ (s.part 0).level ≠ 1) ∧
    (∀ p : Part, p = { level := 1, parent := 0 } → p.level = 1 ∧ p.parent ≠ 16) := by
  refine ⟨?_, ?_⟩ <;> (rintro s rfl; decide +kernel)

/-! ### Partitions, the monitor, images and power -/

/-- A descriptor that keeps the rules, and two that break them; a partition of each state; a wheel mask; a due refill. -/
theorem wit_partitions :
    (∀ (s : State) (d : BitVec 1024) (n : Part), s = State.reset → d = BitVec.ofNat 1024 (1 * 2 ^ 280 + 5 * 2 ^ 328) →
      n = (s.part 0).withFields d.toNat → s.monitor.update ≠ .trial ∧ descReserved d.toNat = true ∧ s.descOk 0 n = true ∧ (s.part 0).state = 0 ∧
      descReserved 1 = false ∧ s.descOk 0 { n with parent := 3 } = false ∧ s.descOk 0 (s.part 0) = true) ∧
    (∀ s : State, s = { State.reset with parts := [(0, { state := 1, wheel := 1 }), (16, { state := 1, level := 1 })] } →
      (s.part 0).state = 1 ∧ (s.part 1).state = 0 ∧ (∀ g, g < 16 → g ≠ 1 → (s.part g).wheel &&& 2 = 0) ∧
      (s.part 0).wheel &&& 1 ≠ 0 ∧ (∃ g ∈ childrenOf 0, (s.part g).state = 1)) ∧
    (∀ s : State, s = { State.reset with refilled := 5 } → s.time % 32000 = 0 ∧ s.refilled ≠ s.time) ∧
    (∀ s : State, s = { st (cx [] []) with parts := [(0, { state := 2 })] } → (s.part 0).state = 2 ∧ s.tids 0 = [1] ∧ s.stopped 1 = true) ∧
    (∀ s : State, s = { st (cx [] []) with parts := [(0, { state := 2 })], loads := [ldd 2 (.g 3 8 true)] } → s.stopped 1 = false) ∧
    (∀ b ∈ [true, false], ∀ s : State, s = { State.reset with parts := [(0, { state := 3, destroy := b })] } →
      (s.part 0).state = 3 ∧ (s.part 0).zeroed = false ∧ (s.part 0).zeroLeft = 0 ∧ (∀ g ∈ childrenOf 0, (s.part g).state = 0)) := by
  refine ⟨?_, ?_, ?_, ?_, ?_, ?_⟩
  · rintro s d n rfl rfl rfl; decide +kernel
  · rintro s rfl; decide +kernel
  · rintro s rfl; decide
  · rintro s rfl; decide +kernel
  · rintro s rfl; decide +kernel
  · intro b hb s hs; subst hs; revert b; decide +kernel

/-- A firmware image without payload, version 2: it verifies where its signature does. -/
def fw : List Byte := leBytes 96 (0x57465856 + 2 * 2 ^ 32) ++ leBytes 32 (leNat (Sha.hash [])) ++ List.replicate 384 0
theorem wit_firmware : Config.signatureOk (fw.take 128) ((fw.drop 128).take 384) = true → fwSigned fw = true ∧ State.reset.fwOk fw = true ∧
    State.reset.monitor.fuses ≤ svn fw := by
  intro h
  have h1 : fwSigned fw = true := by
    unfold fwSigned
    rw [h]
    decide +kernel
  exact ⟨h1, by unfold State.fwOk; rw [h1]; decide +kernel, by decide +kernel⟩

/-- An image of one native section without entries, with its digest: it passes every check. -/
def im (d : List Byte) : List Byte :=
  leBytes 32 (0x444E5355 + 2 ^ 32 + 2 ^ 48 + 132 * 2 ^ 128 + 64 * 2 ^ 192) ++ d ++ leBytes 32 (2 + 2 ^ 8 + 128 * 2 ^ 64 + 4 * 2 ^ 128) ++ List.replicate 36 0
theorem wit_image : (State.mapImage { st {} with fresh := 101, insts := [(101, handlerImage 0)] } 0 (2 ^ 56) 164).isSome = true ∧ (st {}).home 0 164 = some (2 ^ 56) ∧
    State.home { st {} with insts := [(7, { handlerImage 0 with size := 2 ^ 56 })] } 0 164 = none ∧ ((st {}).part 0).state = 1 ∧
    (State.reset.part 0).state ≠ 1 ∧ imageStatus (im (Sha.hash (im (List.replicate 32 0)))) = 0 ∧ imageStatus (im (List.replicate 32 0)) = 5 ∧ imageStatus [] = 1 := by
  decide +kernel

/-- Key slots that are empty, active and rotating; the stages of an update; a mask of the start-up record. -/
theorem wit_monitor :
    (State.reset.keySlot 1).state = 0 ∧ State.reset.zeroiseRefused 150 = false ∧ State.reset.zeroiseRefused 0 = true ∧
    firstLine [(4, 2)] 0 = some (0, 4) ∧ nextLine [(4, 2)] 0 4 = some (0, 5) ∧ nextLine [(4, 2)] 0 5 = none ∧
    (∀ s : State, s = { State.reset with keys := [(150, { state := 2, sweep := [(4, 2)], pline := 4, nxt := 3 })] } →
      (s.keySlot 150).state = 2 ∧ (s.keySlot 150).owner = 255 ∧ firstLine (s.keySlot 150).sweep 0 = some (0, 4) ∧
      2 * hbmTokens [] - (s.keySlot 150).paid = 0 ∧ (s.takeUpTo 255 .memory 0).1 = 0 ∧ (s.keySlot 150).nxt ≠ 0 ∧ (s.keySlot 150).release = [] ∧ s.monitor.fuses ≤ 0) ∧
    (∀ m : Monitor, m = { update := .trial, switchAt := 0 } → m.update = .trial ∧ (5 : Nat) - m.switchAt ≤ 200000000 ∧ 200000000 < 200000001 - m.switchAt) ∧
    (∀ m : Monitor, m = { update := .staged } → m.update = .staged ∧ bytesAt (m.image (otherSlot m.active)) 144 16 ≤ 0 ∧
      m.fuses ≤ svn (m.image (otherSlot m.active))) ∧
    (∀ m : Monitor, m = { update := .staged, fuses := 5 } → svn (m.image (otherSlot m.active)) < m.fuses) ∧
    (Monitor.fuses {} ≤ svn [] ∧ svn [] ≤ 64) ∧ Monitor.target { code := fw } = 2 ∧ (0 : Nat) + 1 < 2 ∧ (1 : Nat) ≤ 2 ∧
    (∀ m : Monitor, m = { started := true, committing := true } → m.update ≠ .trial ∧ m.started = true ∧ 200000000 < 200000001 - m.switchAt ∧ m.committing = true) ∧
    (∀ s : State, s = { State.reset with keys := [(150, { state := 1 })] } → (s.keySlot 150).state = 1 ∧ (s.keySlot 150).release = [] ∧
      (s.keySlot 151).state = 0 ∧ s.monitor.fuses ≤ 0) ∧ (0x82#64).getLsbD 0 = false ∧ (0x82#64).toNat < 256 ∧
    Table.find State.reset.lines 4 = none ∧ State.reset.mem = [] := by
  and_intros <;> first | decide | decide +kernel | (rintro s rfl; decide +kernel)

/-- A function whose responder has come to the last stage, with one session finished and one not. -/
theorem wit_attestation : ∀ s : State, s = { State.reset with
      parts := [(0, { state := 1 })]
      spdm := [(0, { stage := 3, sessions := [(4, true), (5, false)] })]
      keys := [(150, { state := 1, owner := 0 }), (151, { state := 1, owner := 3 })]
      insts := [(7, handlerImage 0)] } →
    (s.part 0).state ≠ 0 ∧ 3 ≤ (s.responder 0).stage ∧ (s.responder 0).sessions.length < 4 ∧ (5, false) ∈ (s.responder 0).sessions ∧
    (4, true) ∈ (s.responder 0).sessions ∧ (9, true) ∉ (s.responder 0).sessions ∧ ((s.keySlot 150).state = 1 ∧ (s.keySlot 150).owner = 0) ∧
    ((s.keySlot 151).state = 1 ∧ (s.keySlot 151).owner ≠ 0) ∧ (s.loaded 0)[0]?.isSome = true ∧ (s.responder 1).stage < 1 ∧
    4 ≤ ({ sessions := [(1, true), (2, true), (3, true), (4, true)] } : Spdm).sessions.length := by
  rintro s rfl; decide +kernel

/-- A loaded image at rest and in flight; a gated cluster and an idle one; a part not yet started; a task that an error ends. -/
theorem wit_power :
    (∀ s : State, s = hst 0 { } → Table.find s.insts 7 = some (handlerImage 0) ∧ s.inFlight 7 = false) ∧
    (hst 0 (cx [] [])).inFlight 7 = true ∧
    (∀ k : Cluster, k = { state := 0, idle := 4096 } → k.state = 0 ∧ 4096 ≤ k.idle) ∧ State.reset.occupied 0 = false ∧ ({ State.reset with portsOff := 2 } : State).portTotal = 14 ∧
    (∀ k : Cluster, k = { state := 1, wakeAt := 5 } → k.state = 1 ∧ k.wakeAt ≠ 0 ∧ k.wakeAt ≤ 7) ∧
    State.reset.monitor.started = false ∧ State.reset.monitor.bootrec.length = 7 ∧ (∀ b ∈ State.reset.monitor.bootrec, b ≠ 2 ∧ b ≠ 3) ∧
    (∀ n, n < 7 → (List.replicate 7 true).getD n false = true) ∧ 5 ∉ State.reset.lostPairs ∧
    (∀ s : State, s = st (cx [] []) → (s.ctx 0).task = some task0 ∧ s.handler (s.ctx 0) 0x60 = none ∧ s.retire = []) := by
  and_intros <;> first | decide | decide +kernel | (rintro s rfl; decide +kernel)

/-- Tokens that are there for walks, launches and records; a host page that is due, and one that is not; a launch whose lease failed; a trial. -/
theorem wit_spindlePays :
    (∀ s : State, s = { sp 0 0 with walks := [] } → s.spinLocked 0 [(sl.flag, 8, false)] = false ∧
      (s.pay (walkRequest ⟨0, 0, 0⟩ 0xFFFF) 0 .memory (s.spinTokens 0 [(sl.flag, 8, false)])).2 = true) ∧
    (∀ d ∈ [nd 2 1 0, nd 4 0x1800 5, nd 5 0x1800 5, nd 1 0 0x1000], ∀ s : State, s = sp d 0 →
      ∀ c ∈ [[((wk 0).workAt 0, 8, true)], [(0x1800, 8, false)], [(0x1800, 8, false), ((wk 0).workAt 0, 8, true)],
          [(0x1800, 8, false), (0x1800, 8, true)], summaryAccs 0, []],
        s.spinLocked 0 ((0x1000, 64, false) :: c) = false ∧
        (s.pay (walkRequest (wk 0).slot 0) 0 .memory (s.spinTokens 0 ((0x1000, 64, false) :: c))).2 = true) ∧
    (∀ s u : State, u = sp (nd 3 (2 ^ 60 + 0x1800) 0) 0 → s = { u with
        roots := u.roots ++ [(1, Table.get 0 u.roots 0)]
        hostGone := [(0, (u.leaf 0 0 0x1800).elim 0 fun x => x.hostPage 0x1800)] } →
      (s.nodePage 0 (2 ^ 60 + 0x1800)).any (s.pageDue (wk 0)) = true ∧ s.freeGen 0 = some 0 ∧
      (State.nodePage { s with hostGone := [] } 0 (2 ^ 60 + 0x1800)).all (fun p => !State.pageDue { s with hostGone := [] } (wk 0) p) = true) ∧
    (∀ s : State, s = ls (ln 3 .placing) (some 7) → (s.pay (requestNo 2 5) 0 .memory (s.spinTokens 0 (seedAccs skImage (ln 3 .placing)))).2 = true ∧
      s.spinLocked 0 (seedAccs skImage (ln 3 .placing)) = false ∧ s.spinLocked 0 [(0x1000, 64, true)] = false ∧ s.spinLocked 0 (summaryAccs 0) = false ∧
      (s.pay (requestNo 2 1) 0 .memory (s.spinTokens 0 [(0x1000, 64, true)])).2 = true ∧
      (s.pay (requestNo 2 5) 0 .memory (s.spinTokens 0 (summaryAccs 0))).2 = true) ∧
    (∀ l : Launch, l = ln 64 .failed → l.stage ≠ .lease ∧ l.stage ≠ .placing) ∧
    (∀ s : State, s = { State.reset with monitor := { update := .trial } } → s.monitor.update = .trial) ∧
    ({ beat := 0, freq := 40 } : Cluster).ticks = false ∧ (State.reset.cluster 0).ticks = true := by
  refine ⟨?_, ?_, ?_, ?_, ?_, ?_, by decide, by decide⟩
  · intro s h; rw [h]; decide +kernel
  · intro d hd s hs; rw [hs]; clear hs; revert d; decide +kernel
  · rintro s u rfl h; rw [h]; decide +kernel
  · intro s h; rw [h]; decide +kernel
  · rintro l rfl; decide
  · rintro s rfl; decide

/-- An image that finds room for its code and its map, one that finds none, with and without a fault; clusters whose wake or FREQ is due; the owner
of an array; a retired task; a corrected error. -/
theorem wit_imageAndChecks :
    (∀ s : State, s = { st {} with fresh := 101 } →
      ((s.mapImage 0 (2 ^ 56) 164).bind fun u => u.putMap 0 []).isSome = true ∧
      (State.mapImage { s with parts := [(0, { pt with mask := 0 })] } 0 (2 ^ 56) 164).isSome = false) ∧
    (∀ s : State, s = { State.reset with parts := [(0, { state := 1, level := 0 })], monitor := { started := true } } →
      s.monitor.started = true ∧ (s.part 1).state = 0 ∧ (1 < 16 ∨ (s.part 0).state = 1)) ∧
    (∀ s : State, s = { State.reset with monitor := { started := true, update := .trial } } → s.monitor.update = .trial ∧ s.monitor.started = true) ∧
    (∀ p : Part, p = { state := 3, zeroed := true, areas := [(2 ^ 12, 4096)] } → p.state = 3 ∧ p.zeroed = true) ∧
    (∀ k : Cluster, k = { wakeAt := 5, due := 1000 } → k.wakeAt ≠ 0 ∧ k.wakeAt ≤ 7 ∧ ¬ (k.wakeAt = 0 ∨ 7 < k.wakeAt) ∧ k.due ≠ 0 ∧ k.due ≤ 1000) ∧ ({} : Cluster).due = 0 ∧
    (∀ s : State, s = { st (cx [] []) with cores := [(0, { owner := some 0 })] } → 0 < s.coreCount ∧ (s.core 0).owner = some 0 ∧
      (s.ctx 0).task = some task0 ∧ s.handler (s.ctx 0) 0x60 = none ∧ s.retire = [] ∧ (s.part task0.l1).mclog.length < 64) ∧
    (∀ s : State, s = { st {} with retire := [re] } → s.retire.find? (fun x => decide (x.task.tid = 1)) = some re ∧ re.code = 0) ∧
    (2 ^ 32 ≤ (2 ^ 32 : Nat) ∨ 2 ^ 32 ≤ (0 : Nat)) ∧ 0 < State.reset.clusterCount := by
  refine ⟨?_, ?_, ?_, ?_, ?_, by decide, ?_, ?_, by decide, by decide⟩
  · intro s h; rw [h]; decide +kernel
  · rintro s rfl; decide +kernel
  · rintro s rfl; decide
  · rintro p rfl; decide
  · rintro k rfl; decide
  · rintro s rfl; decide +kernel
  · rintro s rfl; decide

/-! ### Single steps of the manual's worked examples -/

/-- A context after an instruction and the landing of its results. -/
def res (i : Instr) (s : State) : Ctx :=
  match exec i s with
  | .next t => Ctx.land { t.ctx 0 with step := 99 }
  | _ => {}
def gs (a b : Word) : State := st (cx [(1, ⟨a, false⟩), (2, ⟨b, false⟩)] [])
/-- The value of a divide in flight. -/
def quot (i : Instr) (a b : Word) : Word :=
  match exec i (gs a b) with
  | .next t => t.divs.foldr (fun d _ => d.val) 0
  | _ => 77

/-- The table of R178. -/
theorem test_step_divide : quot (.div 3 1 2) 7 (-2) = -3 ∧ quot (.rem 3 1 2) 7 (-2) = 1 ∧ quot (.div 3 1 2) (-7) 2 = -3 ∧ quot (.rem 3 1 2) (-7) 2 = -1 ∧
    quot (.div 3 1 2) (1 <<< 63) (-1) = 1 <<< 63 ∧ quot (.rem 3 1 2) (1 <<< 63) (-1) = 0 ∧ quot (.div 3 1 2) (-5) 0 = -1 ∧ quot (.rem 3 1 2) (-5) 0 = -5 ∧
    quot (.divn 3 1 2) 7 0 = -1 ∧ quot (.remn 3 1 2) 7 0 = 7 ∧ quot (.divn 3 1 2) (-1) 2 = 2 ^ 63 - 1 ∧ quot (.remn 3 1 2) (-1) 2 = 1 := by decide +kernel

/-- The constant of R182; counts and bit fields of R180, R181; the products of R177. -/
theorem test_step_scalar : ((res (.addi 1 0 (.long 0x9ABCDEF0)) (gs 0 0)).gr 1).v = 0xFFFFFFFF9ABCDEF0 ∧
    ((res (.inshi 1 1 0x12345678) (gs 0xFFFFFFFF9ABCDEF0 0)).gr 1).v = 0x123456789ABCDEF0 ∧
    ((res (.clz 3 1) (gs 0 0)).gr 3).v = 64 ∧ ((res (.ctz 3 1) (gs 8 0)).gr 3).v = 3 ∧ ((res (.popc 3 1) (gs 0xF1 0)).gr 3).v = 5 ∧
    ((res (.extr 3 1 11 4) (gs 0xABCD 0)).gr 3).v = 0xBC ∧ ((res (.sar 3 1 2) (gs (1 <<< 63) 0x43)).gr 3).v = 0xF000000000000000 ∧
    ((res (.mulh 3 1 2) (gs (-1) 2)).gr 3).v = -1 ∧ ((res (.mulhn 3 1 2) (gs (-1) 2)).gr 3).v = 1 := by decide +kernel

/-- The sliced element of R273 and R300: −0.3 gives the slices −38, −51, −25; the bytes of p = 1 and p = 2. -/
theorem test_split : sliceOf 3 0 ((fmtOf 3).value 0xBFD3333333333333) = some (-25) ∧
    (∀ s : State, s = st { cx [] [] with v := [(1, ⟨BitVec.ofNat 2048 (0x3FE8000000000000 + 0xBFD3333333333333 * 2 ^ 64), false⟩)] } →
      ((res (.vsplit 10 1 3 0x50) s).vr 10).v.toNat % 2 ^ 16 = 0xDA60 ∧ ((res (.vsplit 10 1 3 0x51) s).vr 10).v.toNat % 2 ^ 16 = 0xCD00) := by
  refine ⟨by decide +kernel, ?_⟩
  rintro s rfl; decide +kernel

/-- The sum of R295: 2^24, 1, 1, 1 in tree order, with NX. -/
theorem test_sum : ∀ s : State, s = st { cx [] [] with
      stack := [15], v := [(1, ⟨BitVec.ofNat 2048 (0x4B800000 + 0x3F800000 * (2 ^ 32 + 2 ^ 64 + 2 ^ 96)), false⟩)] } →
    ((res (.vrsumF 4 1 0 2 none) s).vr 4).v.toNat % 2 ^ 32 = 0x4B800001 ∧ (res (.vrsumF 4 1 0 2 none) s).fflags = 1 := by
  rintro s rfl; decide +kernel

/-- The example of R269 and R271: the contributions, the element and its drains. -/
theorem test_accumulate : contribution 254 128 126 7 = 1792 ∧ contribution 254 120 126 5 = 5 ∧ contribution 254 117 126 (-13) = -1 ∧
    contribution 254 0 126 9 = 0 ∧ accumulate 0 [1792, 5, -1, 0] = (1796, false) ∧
    truncF32 false 1796 (-14) = 0x3DE08000 ∧ clamp 4 true (trunc0 false 1796 (-14 - (124 - 127 - 3))) = 7 ∧
    clamp 4 true (trunc0 false 1796 (-14 - (125 - 127 - 3))) = 3 ∧ clamp 4 true (trunc0 false 1796 (-14 - (123 - 127 - 3))) = 7 := by decide +kernel

/-- The iterations of the skein of R57: serials 1 and 4. -/
theorem test_iterations : coordinate [⟨0, 4, 2, 8⟩, ⟨10, 7, -1, 0⟩] [1, 0] 1 0 = 512 ∧ coordinate [⟨0, 4, 2, 8⟩, ⟨10, 7, -1, 0⟩] [1, 0] 1 1 = 10 ∧
    coordinate [⟨0, 4, 2, 8⟩, ⟨10, 7, -1, 0⟩] [1, 0] 4 0 = 0 ∧ coordinate [⟨0, 4, 2, 8⟩, ⟨10, 7, -1, 0⟩] [1, 0] 4 1 = 8 := by decide +kernel

/-- The refills of R88: a debt of 600 with a budget of 1,000. -/
theorem test_refill : ∀ p : Part, p = { nextM := 1000, mdebt := 600 } → p.refill.mleft = 750 ∧ p.refill.mdebt = 350 ∧
    p.refill.refill.mleft = 750 ∧ p.refill.refill.mdebt = 100 ∧ p.refill.refill.refill.mleft = 900 ∧ p.refill.refill.refill.mdebt = 0 := by
  rintro p rfl; decide

/-- A mantissa string of R265: BM4 of 3, −1, −8, 7. -/
theorem test_mantissas : (mantissas 4 4 0x78F3) = [3, -1, -8, 7] ∧ mantissas 3 3 0x013B = [3, -1, -4] := by decide +kernel

/-- A Narund section (R16) of one entry and two operations: ADDI, then the given C word. -/
def narundSection (w : Nat) : List Byte :=
  leBytes 4 1 ++ leBytes 4 96 ++ List.replicate 56 0 ++ leBytes 32 (10 + 2 * 2 ^ 64 + 2 ^ 96) ++ [1] ++ leBytes 4 0x021C7FFF ++ [0] ++ leBytes 4 w
/-- Its translation where no more empty bundles are chosen (R14, R15, R17, R22): TAIL in its bundle; a branch back to the first operation, with
its displacement between the native bundles and its delay bundle; the line map names both. -/
theorem test_translate :
    translateWith (fun _ => 0) (narundSection 0x0B000000) = (leBytes 64 (1 + 64 * 2 ^ 32) ++ [2, 0xFF, 0x7F, 0x1C, 0x02, 1, 0, 0, 0, 0x0B],
      leBytes 16 (64 + 69 * 2 ^ 64 + 2 ^ 96)) ∧
    (translateWith (fun _ => 0) (narundSection 0x0203FFFB)).1.drop 69 = [1, 0, 0, 0, 0x82, 0xFB, 0xFF, 0xFF, 0xFF, 0] := by decide +kernel

end Sys2Proof.Tests
end

section
/-!
PROOFS. Iterations of a skein (03_launch_and_placement.md R56, R57): how many values a dimension takes, and the digits of a serial.
-/

namespace Sys2Proof.Machine

/-! ### The number of values of a dimension -/

/-- max(0, ceil(x / b)), by the floor of the negated number as `Dim.count` has it. -/
def ceilDivNat (x b : Int) : Nat := (-((-x).fdiv b)).toNat

theorem ceilDivNat_of_nonpos {x b : Int} (hb : 0 < b) (hx : x ≤ 0) : ceilDivNat x b = 0 := by
  have hq : 0 ≤ (-x).fdiv b := Int.fdiv_nonneg (by omega) hb.le
  exact Int.toNat_of_nonpos (by omega)

/-- Of a positive number, the least count of steps `b` that reaches it. -/
theorem ceilDivNat_bounds {x b : Int} (hb : 0 < b) (hx : 0 < x) : x ≤ ceilDivNat x b * b ∧ ceilDivNat x b * b < x + b := by
  have hq : (-x).fdiv b < 0 := Int.fdiv_neg_of_neg_of_pos (by omega) hb
  have hc : (ceilDivNat x b : Int) = -((-x).fdiv b) := Int.toNat_of_nonneg (by omega)
  have hm : b * (-x).fdiv b + (-x).fmod b = -x := Int.mul_fdiv_add_fmod (-x) b
  have hr : 0 ≤ (-x).fmod b := Int.fmod_nonneg_of_pos (-x) hb
  have hl : (-x).fmod b < b := Int.fmod_lt_of_pos (-x) hb
  rw [hc, neg_mul, mul_comm]
  omega

theorem Dim.count_eq_ceilDivNat (d : Dim) : d.count = ceilDivNat (d.hi - d.lo) d.step := by
  rw [ceilDivNat, neg_sub, Dim.count]

/-- A dimension that runs downwards takes as many values as its mirror image. -/
theorem Dim.count_eq_ceilDivNat_neg (d : Dim) : d.count = ceilDivNat (d.lo - d.hi) (-d.step) := by
  rw [ceilDivNat, Int.neg_fdiv_neg, Dim.count]

theorem iterations_eq_prod (ds : List Dim) : iterations ds = (ds.map Dim.count).prod := by
  rw [iterations, List.prod_eq_foldl, List.foldl_map]

/-! ### The digits of a serial -/

/-- The radix of the digit that ORDER gives to dimension `o`. -/
def radix (ds : List Dim) (o : Nat) : Nat := (ds[o]?).elim 1 Dim.count

@[simp] theorem positions_nil (ds : List Dim) (n : Nat) : positions ds [] n = [] := rfl

@[simp] theorem positions_cons (ds : List Dim) (o : Nat) (os : List Nat) (n : Nat) :
    positions ds (o :: os) n = (o, n % radix ds o) :: positions ds os (n / radix ds o) := rfl

theorem positions_map_fst (ds : List Dim) (order : List Nat) (n : Nat) : (positions ds order n).map (·.1) = order := by
  induction order generalizing n with
  | nil => rfl
  | cons o os ih => rw [positions_cons, List.map_cons, ih]

/-- Each position is below the size of its dimension. -/
theorem positions_lt_count {ds : List Dim} (hc : ∀ d ∈ ds, 0 < d.count) {order : List Nat} (ho : ∀ o ∈ order, o < ds.length)
    (n : Nat) : ∀ p ∈ positions ds order n, ∃ d, ds[p.1]? = some d ∧ p.2 < d.count := by
  induction order generalizing n with
  | nil => simp
  | cons o os ih =>
    obtain ⟨hlt, hos⟩ := List.forall_mem_cons.1 ho
    have hd : ds[o]? = some ds[o] := List.getElem?_eq_getElem hlt
    have hr : radix ds o = ds[o].count := by rw [radix, hd, Option.elim_some]
    rw [positions_cons, List.forall_mem_cons]
    refine ⟨⟨ds[o], hd, ?_⟩, ih hos _⟩
    rw [hr]
    exact Nat.mod_lt _ (hc _ (List.getElem_mem hlt))

/-- The digits, the innermost the least, give back the serial. -/
theorem foldr_positions {ds : List Dim} {order : List Nat} {n : Nat} (h : n < (order.map (radix ds)).prod) :
    (positions ds order n).foldr (fun p acc => p.2 + radix ds p.1 * acc) 0 = n := by
  induction order generalizing n with
  | nil => exact (Nat.lt_one_iff.1 h).symm
  | cons o os ih =>
    rw [List.map_cons, List.prod_cons] at h
    rw [positions_cons, List.foldr_cons, ih (Nat.div_lt_of_lt_mul h)]
    exact Nat.mod_add_div n (radix ds o)

/-! ### Coordinates -/

@[simp] theorem coordinate_no_dims (order : List Nat) (n i : Nat) : coordinate [] order n i = 0 := by
  simp only [coordinate, List.getElem?_nil]

theorem coordinate_of_position {ds : List Dim} {order : List Nat} {n i k : Nat} {d : Dim} (hd : ds[i]? = some d)
    (hp : (positions ds order.reverse n).find? (fun p => decide (p.1 = i)) = some (i, k)) :
    coordinate ds order n i = (BitVec.ofInt 33 (d.lo + k * d.step)).signExtend 64 <<< d.shift := by
  simp only [coordinate, hd, hp]

/-- Settles O13: the counts by the bounds of a ceiling, upwards and mirrored, the digits by induction over ORDER. -/
theorem iterationCoordinates : Obligations.IterationCoordinates := by
  refine ⟨fun d => ⟨fun hs hl => ?_, fun hs hl => ?_, fun hs hl => ?_, fun hs hl => ?_⟩, iterations_eq_prod, rfl, coordinate_no_dims,
    fun ds order n ho hc hn => ⟨positions_map_fst ds order n, positions_lt_count hc ho n, foldr_positions hn⟩,
    fun _ _ _ _ _ _ hd hp => coordinate_of_position hd hp⟩
  · rw [d.count_eq_ceilDivNat]
    exact ceilDivNat_of_nonpos hs (by omega)
  · rw [d.count_eq_ceilDivNat_neg]
    exact ceilDivNat_of_nonpos (by omega) (by omega)
  · rw [d.count_eq_ceilDivNat]
    exact ceilDivNat_bounds hs (by omega)
  · rw [d.count_eq_ceilDivNat_neg]
    exact ceilDivNat_bounds (by omega) (by omega)

end Sys2Proof.Machine
end

section
/-!
PROOFS. Walks of Spindle (03_launch_and_placement.md R62, R64–R69): a visit at the limit, the end of a walk, a start that pays for its flag.
-/

namespace Sys2Proof.Machine

/-! ### Slots and walks -/

@[simp] theorem State.slot_setSlot_same (s : State) (q : SlotRef) (x : Slot) : (s.setSlot q x).slot q = x :=
  Table.get_set_same _ _ _ _

theorem State.goOn_eq (s : State) (w : Walk) :
    s.goOn w = State.settleWalk { s with walks := Table.set s.walks (slotKey w.slot) w } (slotKey w.slot) := rfl

theorem Walk.abandon_of_not_failed {w : Walk} (h : w.failed = none) (n status : Nat) :
    w.abandon n status = { w with paths := [], failed := some (status, n) } := by
  rw [Walk.abandon, h, Option.isSome_none, if_neg Bool.false_ne_true]

/-- A walk without a path and without a launch in flight leaves its status and node in its slot (R65, R66). -/
theorem State.slot_settleWalk_of_done {s : State} {key : Nat} {w : Walk} (hw : Table.find s.walks key = some w) (hp : w.paths = [])
    (hl : ∀ p ∈ s.launches, p.2.walk ≠ key) :
    (s.settleWalk key).slot w.slot = { s.slot w.slot with
      walks := ((s.slot w.slot).walks + 1) % 2 ^ 64, lastStatus := (w.failed.getD (0, 0xFFFF)).1
      lastNode := (w.failed.getD (0, 0xFFFF)).2 } := by
  have ha : (s.launches.any fun p => decide (p.2.walk = key)) = false := by simpa using hl
  simp only [State.settleWalk, hw, hp, ha, List.isEmpty_nil, Bool.not_false, Bool.and_self, if_true]
  exact State.slot_setSlot_same _ _ _

/-! ### The visit limit -/

/-- At the limit the walk fails, before the node is read and whatever the kinds of the step (R64). -/
theorem visit_at_limit {s : State} {q : SlotRef} {n : Nat} {w : Walk} (hw : Table.find s.walks (slotKey q) = some w)
    (hn : n ∈ w.paths) (hq : q.die ∉ s.quiesced) (hf : (s.part w.func).state = 1) (hv : 2 ^ 24 ≤ w.visits + 1)
    (mine : Nat → Bool) (go : Walk → Node → Result) :
    visit q n mine s go =
      .next (s.goOn (Walk.abandon { w with paths := w.paths.erase n, visits := w.visits + 1 } n 7)) := by
  have hg : ¬(w.paths.contains n = false ∨ s.quiesced.contains q.die = true ∨ (s.part w.func).state ≠ 1) := by
    simp [hn, hq, hf]
  simp only [visit, hw]
  rw [if_neg hg, if_pos hv]

/-- The steps of all kinds of nodes are visits. -/
theorem exec_nodeVisit {q : SlotRef} {n : Nat} {i : Instr}
    (hi : i ∈ [Instr.joinNodeVisit q n, .conditionalNodeVisit q n, .whileNodeVisit q n, .flagNodeVisit q n, .skeinNodeVisit q n])
    (s : State) : ∃ mine go, exec i s = visit q n mine s go := by
  simp only [List.mem_cons, List.not_mem_nil, or_false] at hi
  obtain rfl | rfl | rfl | rfl | rfl := hi
  · exact ⟨_, _, Eq.refl (execJoinNodeVisit q n s)⟩
  · exact ⟨_, _, Eq.refl (execConditionalNodeVisit q n s)⟩
  · exact ⟨_, _, Eq.refl (execWhileNodeVisit q n s)⟩
  · exact ⟨_, _, Eq.refl (execFlagNodeVisit q n s)⟩
  · exact ⟨_, _, Eq.refl (execSkeinNodeVisit q n s)⟩

/-! ### The start of a walk -/

/-- A step of Spindle that has its tokens, and meets no locked word, goes on. -/
theorem State.paying_of_paid {s u : State} {r f : Nat} {accs : List SpinAcc} (hl : s.spinLocked f accs = false)
    (hp : s.pay r f .memory (s.spinTokens f accs) = (u, true)) (go : State → Result) : s.paying r f accs go = go u := by
  simp only [State.paying, hl, hp, Bool.false_eq_true, if_false]

/-- The flag has reached THRESH, its read is paid for, and the image is being unloaded: the walk ends as it starts (R67, R69). -/
theorem execWalkStart_of_unloading {s u : State} {q : SlotRef} {v : Nat} {i : Image} (hs : slotExists q = true)
    (he : (s.slot q).en = true) (hw : Table.find s.walks (slotKey q) = none) (hq : q.die ∉ s.quiesced)
    (hf : (s.part (slotFunc q (s.slot q))).state = 1)
    (hv : s.spinWord (slotFunc q (s.slot q)) (s.slot q).flag 8 = some v)
    (hr : s.spinReady (slotFunc q (s.slot q)) (s.slot q).flag = true) (ht : (s.slot q).thresh ≤ v)
    (hi : Table.find s.insts (s.slot q).inst = some i) (hu : i.unloading = true)
    (hl : s.spinLocked (slotFunc q (s.slot q)) [((s.slot q).flag, 8, false)] = false)
    (hp : s.pay (walkRequest q 0xFFFF) (slotFunc q (s.slot q)) .memory
      (s.spinTokens (slotFunc q (s.slot q)) [((s.slot q).flag, 8, false)]) = (u, true)) :
    execWalkStart q s = .next (u.setSlot q { s.slot q with
      thresh := ((s.slot q).thresh + (s.slot q).step) % 2 ^ 64, walks := ((s.slot q).walks + 1) % 2 ^ 64
      lastStatus := 8, lastNode := 0xFFFF }) := by
  have hgo : ¬(s.quiesced.contains q.die = true) := by simpa using hq
  have hdue : ¬(v < (s.slot q).thresh ∨ s.spinReady (slotFunc q (s.slot q)) (s.slot q).flag = false) := by simp [ht, hr]
  simp only [execWalkStart, hs, he, hw, hf, hv, hgo, Bool.not_true, Bool.false_eq_true, Option.isSome_none, ne_eq, not_true,
    or_self, if_false]
  rw [if_neg hdue, State.paying_of_paid hl hp, hi, Option.all_some, if_pos hu]

/-- Settles O54: a visit at the limit abandons its walk before the node is read; a start that has paid for its flag ends at once where its
image is being unloaded. -/
theorem visitLimitAndUnload : Obligations.VisitLimitAndUnload := by
  refine ⟨?limit, ?unload⟩
  case limit =>
    intro s q n w w1 i hw hn hq hf hv hfail hwq hi hw1
    subst hwq
    obtain ⟨mine, go, hexec⟩ := exec_nodeVisit hi s
    have hwalk : Walk.abandon { w with paths := w.paths.erase n, visits := w.visits + 1 } n 7 = w1 := by
      rw [Walk.abandon_of_not_failed (by exact hfail), hw1, hv]
    have hslot : w1.slot = w.slot := by rw [hw1]
    have hstep : exec i s = .next (s.goOn w1) := by
      rw [hexec, visit_at_limit hw hn hq hf hv.ge mine go, hwalk]
    rw [State.goOn_eq, hslot] at hstep
    refine ⟨hstep, fun hl => ⟨_, hstep, ?_⟩⟩
    have hend := State.slot_settleWalk_of_done (s := { s with walks := Table.set s.walks (slotKey w.slot) w1 })
      (Table.find_set_same s.walks (slotKey w.slot) w1) (by rw [hw1]) hl
    rw [hslot] at hend
    rw [hend, hw1]
    exact ⟨rfl, rfl⟩
  case unload =>
    rintro s u q _ v i hs rfl he hw hq hf hv hr ht hi hu hl hp
    exact execWalkStart_of_unloading hs he hw hq hf hv hr ht hi hu hl hp

end Sys2Proof.Machine
end

section
/-!
PROOFS. NEXT (08_scalar_and_control_instructions.md R194): what it issues, the words that its decoding refuses, and the empty range of a task
that is not persistent.
-/

namespace Sys2Proof.Machine

/-! ### What results issued later leave readable -/

theorem State.due_of_mem_me_pend {s : State} {r : Res} (h : r ∈ s.me.pend) : s.me.step < r.due := by
  simpa [State.me] using Ctx.land_due (s.ctx s.cur.id) h

/-- What the issuing context is set to is what its other slots read, where no result in it is due yet. -/
theorem State.me_setMe_of_due {s : State} {c : Ctx} (h : ∀ r ∈ c.pend, c.step < r.due) : (s.setMe c).me = c := by
  rw [State.me_setMe, Ctx.land_eq_self h]

theorem State.me_puts {s : State} {n : Nat} (ps : List Payload) (h : 1 ≤ n) :
    (s.puts n ps).me = { s.me with pend := s.me.pend ++ ps.map fun p => ⟨s.me.step + n, p⟩ } := by
  refine State.me_setMe_of_due fun r hr => ?_
  rcases List.mem_append.1 hr with hold | hnew
  · exact State.due_of_mem_me_pend hold
  · obtain ⟨p, -, rfl⟩ := List.mem_map.1 hnew
    exact Nat.lt_add_of_pos_right h

theorem State.ctx_putG (s : State) (n : Nat) (d : Fin 64) (v : Word) (p : Bool) :
    (s.putG n d v p).ctx s.cur.id =
      { s.me with pend := s.me.pend ++ if d.val = 0 then [] else [⟨s.me.step + n, .g d.val v p⟩] } := by
  unfold State.putG
  split
  · rw [State.done, State.ctx_setMe_same, List.append_nil]
  · rw [State.put, State.ctx_setMe_same]

/-- The only result that can be pending after the write and was not before it is the one written. -/
theorem State.eq_of_mem_pend_putG {s : State} {n : Nat} {d : Fin 64} {v : Word} {p : Bool} {r : Res}
    (h : r ∈ ((s.putG n d v p).ctx s.cur.id).pend) (hr : r ∉ s.me.pend) : r = ⟨s.me.step + n, .g d.val v p⟩ := by
  rw [State.ctx_putG] at h
  have hnew := (List.mem_append.1 h).resolve_left hr
  split at hnew
  · exact absurd hnew List.not_mem_nil
  · exact List.mem_singleton.1 hnew

theorem State.gr_ctx_putG (s : State) (n : Nat) (d : Fin 64) (v : Word) (p : Bool) (a : Nat) :
    ((s.putG n d v p).ctx s.cur.id).gr a = s.me.gr a := by
  rw [State.ctx_putG]
  rfl

/-! ### The two outcomes of NEXT -/

/-- What NEXT writes for a serial: the coordinates to g1 to g4 and the serial to g6. -/
def serialResults (t : Task) (serial : Word) : List Payload :=
  ((List.range 4).map fun n => Payload.g (n + 1) (coordinate t.dims t.order serial.toNat n) false) ++ [.g 6 serial false]

/-- The next serial of the range is taken and counted as an iteration of task `t`. -/
def Ctx.takeSerial (c : Ctx) (t : Task) : Ctx := { c with lo := c.lo + 1, task := some { t with iters := t.iters + 1 } }

/-- The issuing task `t` takes its next serial, the flag of NEXT still to be written. -/
def State.takeSerial (s : State) (t : Task) : State := (s.setMe (s.me.takeSerial t)).puts 1 (serialResults t s.me.lo)

theorem exec_next (d : Fin 64) (s : State) : exec (.next d) s = execNext d s := rfl

theorem exec_next_of_none_left {s : State} {t : Task} (ht : s.me.task = some t) (h : s.me.hi.toNat ≤ s.me.lo.toNat) (d : Fin 64) :
    exec (.next d) s = .next (s.putG 1 d 0 false) := by
  rw [exec_next]
  simp only [execNext, ht]
  rw [if_neg (Nat.not_lt.2 h)]

theorem exec_next_of_left {s : State} {t : Task} (ht : s.me.task = some t) (h : s.me.lo.toNat < s.me.hi.toNat) (d : Fin 64) :
    exec (.next d) s = .next ((s.takeSerial t).putG 1 d 1 false) := by
  rw [exec_next]
  simp only [execNext, ht]
  rw [if_pos h]
  rfl

@[simp] theorem State.takeSerial_cur_id (s : State) (t : Task) : (s.takeSerial t).cur.id = s.cur.id := rfl

theorem State.me_takeSerial (s : State) (t : Task) :
    (s.takeSerial t).me = { s.me.takeSerial t with
      pend := s.me.pend ++ (serialResults t s.me.lo).map fun p => ⟨s.me.step + 1, p⟩ } := by
  have hme : (s.setMe (s.me.takeSerial t)).me = s.me.takeSerial t := State.me_setMe_of_due fun _ hr => State.due_of_mem_me_pend hr
  rw [State.takeSerial, State.me_puts _ (Nat.le_refl 1), hme]
  rfl

theorem reg_ne_g5_of_mem_serialResults {t : Task} {serial : Word} {p : Payload} (h : p ∈ serialResults t serial) :
    p.reg ≠ some (.g 5) := by
  rcases List.mem_append.1 h with hcoord | hserial
  · obtain ⟨n, hn, rfl⟩ := List.mem_map.1 hcoord
    have hlt : n < 4 := List.mem_range.1 hn
    simp only [Payload.reg, ne_eq, Option.some.injEq, Reg.g.injEq]
    omega
  · rw [List.mem_singleton.1 hserial]
    simp [Payload.reg]

/-- Whichever way NEXT goes, g5 stays, and what it issues has latency 1 and is not for g5. -/
theorem exec_next_spares_g5 {s : State} {t : Task} (ht : s.me.task = some t) (d : Fin 64) :
    ∃ u, exec (.next d) s = .next u ∧ (d.val ≠ 5 → (u.ctx s.cur.id).gr 5 = s.me.gr 5 ∧
      ∀ r ∈ (u.ctx s.cur.id).pend, r ∉ s.me.pend → r.due = s.me.step + 1 ∧ r.val.reg ≠ some (.g 5)) := by
  have hflag : ∀ v : Word, d.val ≠ 5 → (Payload.g d.val v false).reg ≠ some (.g 5) := fun v hd => by
    simpa [Payload.reg] using hd
  rcases Nat.lt_or_ge s.me.lo.toNat s.me.hi.toNat with hleft | hnone
  · refine ⟨_, exec_next_of_left ht hleft d, fun hd => ?_⟩
    rw [← State.takeSerial_cur_id s t]
    constructor
    · rw [State.gr_ctx_putG, State.me_takeSerial]
      rfl
    · intro r hr hold
      by_cases htaken : r ∈ (s.takeSerial t).me.pend
      · rw [State.me_takeSerial] at htaken
        obtain ⟨p, hp, rfl⟩ := List.mem_map.1 ((List.mem_append.1 htaken).resolve_left hold)
        exact ⟨rfl, reg_ne_g5_of_mem_serialResults hp⟩
      · rw [State.eq_of_mem_pend_putG hr htaken, State.me_takeSerial]
        exact ⟨rfl, hflag 1 hd⟩
  · refine ⟨_, exec_next_of_none_left ht hnone d, fun hd => ⟨State.gr_ctx_putG _ _ _ _ _ _, fun r hr hold => ?_⟩⟩
    rw [State.eq_of_mem_pend_putG hr hold]
    exact ⟨rfl, hflag 0 hd⟩

/-! ### A slot word that stands alone in its bundle -/

theorem word32_of_bytes (w : BitVec 32) :
    word32 (w.extractLsb' 0 8) (w.extractLsb' 8 8) (w.extractLsb' 16 8) (w.extractLsb' 24 8) = w := by
  apply BitVec.eq_of_getLsbD_eq
  intro i hi
  simp only [word32, BitVec.getLsbD_append, BitVec.getLsbD_extractLsb']
  grind

/-- A word without a literal is cut off whatever comes after it. -/
theorem cutSlots_bytes32 {w : BitVec 32} (h : w.toNat < 2 ^ 31) (b : Nat) (bs : List Nat) (rest : List Byte) :
    cutSlots (b :: bs) (bytes32 w ++ rest) = (cutSlots bs rest).map fun t => (⟨b, w, none⟩ :: t.1, t.2 + 4) := by
  simp only [bytes32, List.cons_append, List.nil_append, cutSlots, word32_of_bytes, if_pos h]

theorem badLiteral_of_lt {w : BitVec 32} (h : w.toNat < 2 ^ 31) (k : SlotKind) : badLiteral k w = false := by
  rw [badLiteral, decide_eq_false (Nat.not_le.2 h), Bool.false_and]

/-- A C word without a literal that does not decode raises 0x01 (R121). -/
theorem decodeBundle_of_refused {w : BitVec 32} {e : DecodeError} (h : w.toNat < 2 ^ 31) (he : decodeSlot .c w none = .error e)
    (delay : Bool) (rest : List Byte) : decodeBundle delay 1 (bytes32 w ++ rest) = .error ⟨1, w, 0⟩ := by
  have hbits : headerBits 1 = [0] := by decide
  have hcut : cutSlots (headerBits 1) (bytes32 w ++ rest) = some ([⟨0, w, none⟩], 4) := by
    rw [hbits, cutSlots_bytes32 h]
    rfl
  have hlit : literalCheck 0 [⟨0, w, none⟩] = none := by simp [literalCheck, badLiteral_of_lt h]
  have hdec : decodeSlots [⟨0, w, none⟩] = .error ⟨0, w, none⟩ := by simp only [decodeSlots, slotKindOf, he]
  have hhdr : ¬(1 : Byte).toNat = 0 := by decide
  simp only [decodeBundle, if_neg hhdr, hcut, hlit, hdec]

/-- A word that reads as an instruction with refused field values is reserved (R121 check 3). -/
theorem decodeSlot_of_not_wf {k : SlotKind} {w : BitVec 32} {l : Lit} {i : Instr} (hb : badLiteral k w = false)
    (hr : readSlot k (w.toNat / 2 ^ 24 % 128) (w.toNat % 2 ^ 24) l = some i) (hw : wf i = false) :
    decodeSlot k w l = .error .reserved := by
  simp only [decodeSlot, hb, hr, hw, Bool.false_and, Bool.false_eq_true, if_false]

/-- The slot word of NEXT with flag register `d` (C-J, OP 0x0C). -/
def nextWord (d : Nat) : BitVec 32 := BitVec.ofNat 32 (0x0C000000 + d * 2 ^ 18)

theorem nextWord_toNat {d : Nat} (hd : d < 64) : (nextWord d).toNat = 0x0C000000 + d * 2 ^ 18 := by
  rw [nextWord, BitVec.toNat_ofNat]
  omega

theorem nextWord_no_literal {d : Nat} (hd : d < 64) : (nextWord d).toNat < 2 ^ 31 := by
  rw [nextWord_toNat hd]
  omega

theorem readSlot_nextWord {d : Nat} (hd : d < 64) (l : Lit) :
    readSlot .c ((nextWord d).toNat / 2 ^ 24 % 128) ((nextWord d).toNat % 2 ^ 24) l = some (.next ⟨d, hd⟩) := by
  have hop : (nextWord d).toNat / 2 ^ 24 % 128 = 12 := by rw [nextWord_toNat hd]; omega
  have hbody : (nextWord d).toNat % 2 ^ 24 = d * 262144 := by rw [nextWord_toNat hd]; omega
  have hfield : fin64 (d * 262144 / 262144) = ⟨d, hd⟩ := Fin.ext (by simp only [fin64]; omega)
  rw [hop, hbody, ← hfield]
  rfl

/-- A flag register that NEXT may not name is refused at decode. -/
theorem decodeBundle_nextWord {d : Nat} (hd : d < 64) (h : nextFlagOk ⟨d, hd⟩ = false) (delay : Bool) (rest : List Byte) :
    decodeBundle delay 1 (bytes32 (nextWord d) ++ rest) = .error ⟨1, nextWord d, 0⟩ :=
  have hlit := nextWord_no_literal hd
  decodeBundle_of_refused hlit (decodeSlot_of_not_wf (badLiteral_of_lt hlit .c) (readSlot_nextWord hd none) h) delay rest

theorem nextFlagOk_of_written : ∀ d ∈ [1, 2, 3, 4, 6], ∃ hd : d < 64, nextFlagOk ⟨d, hd⟩ = false := by decide

/-! ### The range of a task that is not persistent -/

theorem startCtx_range_empty {l : Launch} (h : l.persist = false) (i : Image) (t : Task) (old : Ctx) :
    (startCtx i l t old).lo = 0 ∧ (startCtx i l t old).hi = 0 := by
  simp only [startCtx, h, Bool.false_eq_true, if_false, and_self]

/-- Settles O12: the two outcomes by the serials left, g5 by what each outcome issues, the refused words by the check of their flag register. -/
theorem nextSerial : Obligations.NextSerial := by
  refine ⟨fun s d t ht => ⟨fun hnone => exec_next_of_none_left ht hnone d, fun hleft => exec_next_of_left ht hleft d,
    exec_next_spares_g5 ht d⟩, fun d rest hd => ?_, fun i l t old hp => startCtx_range_empty hp i t old⟩
  obtain ⟨hlt, hflag⟩ := nextFlagOk_of_written d hd
  exact decodeBundle_nextWord hlt hflag false rest

end Sys2Proof.Machine
end

section
/-!
PROOFS. Timers and interrupts (20_traps_preemption_context.md R404, R405, R408; 21_system_instructions.md R428): the layout of sr.cause, and
what taking an asynchronous cause leaves in its context.
-/

namespace Sys2Proof.Machine

/-! ### The cause register -/

theorem causeWord_toNat {t : Trap} (h : t.code < 256) :
    (causeWord t).toNat =
      t.code + t.ds.toNat * 2 ^ 8 + t.fb.toNat * 2 ^ 9 + t.pf.toNat * 2 ^ 10 + t.late.toNat * 2 ^ 11 := by
  have hds := t.ds.toNat_le
  have hfb := t.fb.toNat_le
  have hpf := t.pf.toNat_le
  have hlate := t.late.toNat_le
  rw [causeWord, BitVec.toNat_ofNat]
  omega

/-- A bit of a word is one binary digit of its number. -/
theorem getLsbD_eq_of_digit {w : Word} {i : Nat} {b : Bool} (h : w.toNat / 2 ^ i % 2 = b.toNat) : w.getLsbD i = b := by
  rw [BitVec.getLsbD, Nat.testBit_eq_decide_div_mod_eq, h]
  cases b <;> rfl

theorem causeWord_layout {t : Trap} (h : t.code < 256) :
    (causeWord t).toNat % 256 = t.code ∧ (causeWord t).getLsbD 8 = t.ds ∧ (causeWord t).getLsbD 9 = t.fb ∧
      (causeWord t).getLsbD 10 = t.pf ∧ (causeWord t).getLsbD 11 = t.late ∧ (causeWord t).toNat < 2 ^ 12 := by
  have hds := t.ds.toNat_le
  have hfb := t.fb.toNat_le
  have hpf := t.pf.toNat_le
  have hlate := t.late.toNat_le
  have hword := causeWord_toNat h
  refine ⟨?code, getLsbD_eq_of_digit ?ds, getLsbD_eq_of_digit ?fb, getLsbD_eq_of_digit ?pf, getLsbD_eq_of_digit ?late, ?zero⟩ <;> omega

/-! ### Trap entry -/

/-- What no single result writes is kept when a list of results lands. -/
theorem Ctx.applyAll_keeps {α : Type} {f : Ctx → α} (h : ∀ c p, f (c.apply p) = f c) (rs : List Res) (c : Ctx) :
    f (Ctx.applyAll rs c) = f c := by
  induction rs generalizing c with
  | nil => rfl
  | cons r rs ih => rw [Ctx.applyAll, ih, h]

/-- A result that lands neither sets the timer nor posts an interrupt. -/
theorem Ctx.apply_requests (c : Ctx) (p : Payload) : (c.apply p).tcmp = c.tcmp ∧ (c.apply p).ipend = c.ipend := by
  cases p with
  | g | k | hAdv =>
    simp only [Ctx.apply, Ctx.setG, Ctx.setK]
    split <;> exact ⟨rfl, rfl⟩
  | flag | m | v | e | h | hRes | stack => exact ⟨rfl, rfl⟩

@[simp] theorem Ctx.enter_cause (c : Ctx) (t : Trap) (a : Word) : (c.enter t a).cause = causeWord t := rfl
@[simp] theorem Ctx.enter_tval (c : Ctx) (t : Trap) (a : Word) : (c.enter t a).tval = t.tval := rfl
@[simp] theorem Ctx.enter_tval2 (c : Ctx) (t : Trap) (a : Word) : (c.enter t a).tval2 = t.tval2 := rfl
@[simp] theorem Ctx.enter_pc (c : Ctx) (t : Trap) (a : Word) : (c.enter t a).pc = a := rfl
@[simp] theorem Ctx.enter_frame_pc (c : Ctx) (t : Trap) (a : Word) : (c.enter t a).frame.map (·.pc) = some t.ret := rfl

@[simp] theorem Ctx.enter_tcmp (c : Ctx) (t : Trap) (a : Word) : (c.enter t a).tcmp = c.tcmp :=
  Ctx.applyAll_keeps (fun d p => (d.apply_requests p).1) _ c

@[simp] theorem Ctx.enter_ipend (c : Ctx) (t : Trap) (a : Word) : (c.enter t a).ipend = c.ipend :=
  Ctx.applyAll_keeps (fun d p => (d.apply_requests p).2) _ c

/-- Outside handler mode, with a handler and every interlocked result in, an exception is taken at once (R408). -/
theorem State.takeTrap_of_handler {s : State} {id : Nat} {t : Trap} {a : Word} (hf : (s.ctx id).frame = none)
    (hh : s.handler (s.ctx id) t.code = some a) (ho : s.outstanding id = false) :
    s.takeTrap id t = s.setCtx id ((s.ctx id).enter t a) := by
  simp only [State.takeTrap, hf, hh, ho, Option.isSome_none, Bool.false_eq_true, if_false]

/-- The trap table is that of the context's task. -/
theorem State.handler_congr {s : State} {c d : Ctx} (h : d.task = c.task) (code : Nat) : s.handler d code = s.handler c code := by
  simp only [State.handler, h]

/-- Whether results are outstanding depends on the context's task alone. -/
theorem State.outstanding_setCtx {s : State} {id : Nat} {c : Ctx} (h : c.task = (s.ctx id).task) :
    (s.setCtx id c).outstanding id = s.outstanding id := by
  simp only [State.outstanding, State.ctx_setCtx_same, h, State.setCtx_loads, State.setCtx_divs, State.setCtx_atoms]

/-! ### Asynchronous causes -/

theorem exec_timer (id : Nat) (s : State) : exec (.timer id) s = execTimer id s := rfl

theorem exec_interrupt (id : Nat) (s : State) : exec (.interrupt id) s = execInterrupt id s := rfl

/-- A context at a boundary for an asynchronous cause is not in handler mode (R409). -/
theorem State.frame_of_asyncBoundary {s : State} {id : Nat} (h : s.asyncBoundary id = true) : (s.ctx id).frame = none := by
  simp only [State.asyncBoundary, Bool.and_eq_true, Option.isNone_iff_eq_none] at h
  obtain ⟨⟨⟨-, hframe⟩, -⟩, -⟩ := h
  exact hframe

/-- What an asynchronous cause reports: the pc that was next, the code alone in sr.cause, nothing of a fault (R405). -/
def Ctx.asyncTrap (c : Ctx) (code : Nat) (tval2 : Word) : Trap := ⟨code, false, false, false, false, c.pc, tval2, c.pc, c.pc⟩

@[simp] theorem Ctx.causeWord_asyncTrap (c : Ctx) (code : Nat) (tval2 : Word) :
    causeWord (c.asyncTrap code tval2) = BitVec.ofNat 64 code := by
  simp [causeWord, Ctx.asyncTrap]

/-- Context `id`, whose request has been cleared and which then is `c`, enters the handler of an asynchronous cause at `a`. -/
def State.enterAsync (s : State) (id : Nat) (c : Ctx) (code : Nat) (tval2 a : Word) : State :=
  (s.setCtx id c).setCtx id (c.enter (c.asyncTrap code tval2) a)

theorem State.takeAsync_of_handler {s : State} {id code : Nat} {c : Ctx} {a : Word} (htask : c.task = (s.ctx id).task)
    (hframe : c.frame = none) (hh : s.handler (s.ctx id) code = some a) (ho : s.outstanding id = false) (tval2 : Word) :
    (s.setCtx id c).takeAsync id code tval2 = s.enterAsync id c code tval2 a := by
  have hc := State.ctx_setCtx_same s id c
  have hhandler : (s.setCtx id c).handler c code = some a := (State.handler_congr htask code).trans hh
  have hentry := State.takeTrap_of_handler (t := c.asyncTrap code tval2) (by rw [hc, hframe]) (by rw [hc]; exact hhandler)
    ((State.outstanding_setCtx htask).trans ho)
  rw [hc] at hentry
  rw [State.enterAsync, ← hentry, State.takeAsync, hc, Ctx.asyncTrap]

@[simp] theorem State.ctx_enterAsync_same (s : State) (id : Nat) (c : Ctx) (code : Nat) (tval2 a : Word) :
    (s.enterAsync id c code tval2 a).ctx id = c.enter (c.asyncTrap code tval2) a := State.ctx_setCtx_same _ _ _

theorem State.ctx_enterAsync_of_ne (s : State) {id j : Nat} (h : j ≠ id) (c : Ctx) (code : Nat) (tval2 a : Word) :
    (s.enterAsync id c code tval2 a).ctx j = s.ctx j := by
  rw [State.enterAsync, State.ctx_setCtx, if_neg h, State.ctx_setCtx, if_neg h]

theorem State.timerReady_of_due {s : State} {id : Nat} {a : Word} (hb : s.asyncBoundary id = true) (hne : (s.ctx id).tcmp ≠ 0)
    (hle : (s.ctx id).tcmp.toNat ≤ s.time) (hh : s.handler (s.ctx id) 0x4A = some a) : s.timerReady id = true := by
  simp only [State.timerReady, Ctx.timerDue, hb, hh, decide_eq_true hne, decide_eq_true hle, Option.isSome_some, Bool.and_self]

/-! ### The source of an interrupt -/

/-- The lowest source that is posted and enabled is the one that is reported (R428). -/
theorem Ctx.source_of_lowest {c : Ctx} {n : Nat} (hn : n < 16) (hpost : c.ipend.getLsbD n = true) (hen : c.ien.getLsbD n = true)
    (hlow : ∀ m, m < n → (c.ipend.getLsbD m && c.ien.getLsbD m) = false) : c.source = some n := by
  rw [Ctx.source, List.find?_range_eq_some]
  refine ⟨?due, List.mem_range.2 hn, fun m hm => ?lower⟩
  case due => rw [BitVec.getLsbD_and, hpost, hen, Bool.and_self]
  case lower => rw [BitVec.getLsbD_and, hlow m hm, Bool.not_false]

/-- The context once its source `n` has been taken. -/
def Ctx.takeSource (c : Ctx) (n : Nat) : Ctx := { c with ipend := c.ipend &&& ~~~(BitVec.ofNat 16 (2 ^ n)) }

theorem Ctx.takeSource_same (c : Ctx) (n : Nat) : (c.takeSource n).ipend.getLsbD n = false := by
  simp only [Ctx.takeSource, BitVec.getLsbD_and, BitVec.getLsbD_not, BitVec.getLsbD_ofNat, Nat.testBit_two_pow_self]
  cases decide (n < 16) <;> simp

theorem Ctx.takeSource_of_ne (c : Ctx) {n m : Nat} (h : m ≠ n) : (c.takeSource n).ipend.getLsbD m = c.ipend.getLsbD m := by
  simp only [Ctx.takeSource, BitVec.getLsbD_and, BitVec.getLsbD_not, BitVec.getLsbD_ofNat, Nat.testBit_two_pow_of_ne h.symm]
  by_cases hm : m < 16
  · simp [hm]
  · simp [BitVec.getLsbD_of_ge _ _ (Nat.le_of_not_lt hm)]

/-! ### TIMER and INTERRUPT -/

/-- The context once its timer has been taken: the timer is off. -/
def Ctx.takeTimer (c : Ctx) : Ctx := { c with tcmp := 0 }

/-- TIMER turns the timer off and enters its handler (R428). -/
theorem exec_timer_of_due {s : State} {id : Nat} {a : Word} (hb : s.asyncBoundary id = true) (ho : s.outstanding id = false)
    (hne : (s.ctx id).tcmp ≠ 0) (hle : (s.ctx id).tcmp.toNat ≤ s.time) (hh : s.handler (s.ctx id) 0x4A = some a) :
    exec (.timer id) s = .next (s.enterAsync id (s.ctx id).takeTimer 0x4A 0 a) := by
  have hentry := State.takeAsync_of_handler (c := (s.ctx id).takeTimer) rfl (State.frame_of_asyncBoundary hb) hh ho 0
  rw [exec_timer, execTimer, if_pos (State.timerReady_of_due hb hne hle hh)]
  exact congrArg _ hentry

/-- INTERRUPT clears the bit of the lowest due source and enters the handler, where no timer comes first (R404, R428). -/
theorem exec_interrupt_of_due {s : State} {id n : Nat} {a : Word} (hb : s.asyncBoundary id = true) (ho : s.outstanding id = false)
    (hsrc : (s.ctx id).source = some n) (htimer : s.timerReady id = false) (hh : s.handler (s.ctx id) 0x49 = some a) :
    exec (.interrupt id) s = .next (s.enterAsync id ((s.ctx id).takeSource n) 0x49 (BitVec.ofNat 64 n) a) := by
  have hentry := State.takeAsync_of_handler (c := (s.ctx id).takeSource n) rfl (State.frame_of_asyncBoundary hb) hh ho
    (BitVec.ofNat 64 n)
  simp only [exec_interrupt, execInterrupt, hsrc, hb, hh, htimer, Option.isSome_some, Bool.not_false, Bool.and_self, if_true]
  exact congrArg _ hentry

/-- Settles O43: the fields of sr.cause from its number, and each asynchronous cause as one entry of the handler from the context whose
request has been cleared. -/
theorem causeAndInterrupts : Obligations.CauseAndInterrupts := by
  refine ⟨fun t h => causeWord_layout h, fun s id a hb ho => ⟨?timer, ?interrupt⟩⟩
  case timer =>
    intro hne hle hh
    refine ⟨_, exec_timer_of_due hb ho hne hle hh, ?_⟩
    rw [State.ctx_enterAsync_same]
    exact ⟨(Ctx.enter_cause _ _ _).trans (Ctx.causeWord_asyncTrap _ _ _), Ctx.enter_tval _ _ _, Ctx.enter_tval2 _ _ _, Ctx.enter_pc _ _ _,
      Ctx.enter_tcmp _ _ _, Ctx.enter_frame_pc _ _ _,
      fun j hj => s.ctx_enterAsync_of_ne hj _ _ _ _⟩
  case interrupt =>
    intro n hn hpost hen hlow htimer hh
    have hsrc := Ctx.source_of_lowest hn hpost hen hlow
    refine ⟨_, exec_interrupt_of_due hb ho hsrc htimer hh, ?_⟩
    rw [State.ctx_enterAsync_same, Ctx.enter_ipend]
    exact ⟨(Ctx.enter_cause _ _ _).trans (Ctx.causeWord_asyncTrap _ _ _), Ctx.enter_tval _ _ _, Ctx.enter_tval2 _ _ _, Ctx.enter_pc _ _ _,
      Ctx.takeSource_same _ _, fun m hm => Ctx.takeSource_of_ne _ hm, Ctx.enter_frame_pc _ _ _,
      fun j hj => s.ctx_enterAsync_of_ne hj _ _ _ _⟩

end Sys2Proof.Machine
end

section
/-!
PROOFS. Slot words (06_bundles_and_encodings.md R118, R121, R132–R146): the opcode maps read back what the encoder writes, field by field, and
whatever they read has an encoding of the slot's kind.
-/

namespace Sys2Proof

/-! ### Fields -/

theorem fin2_eq_iff {n : Nat} {d : Fin 2} : fin2 n = d ↔ n % 2 = d.val := by rw [Fin.ext_iff]; rfl
theorem fin4_eq_iff {n : Nat} {d : Fin 4} : fin4 n = d ↔ n % 4 = d.val := by rw [Fin.ext_iff]; rfl
theorem fin8_eq_iff {n : Nat} {d : Fin 8} : fin8 n = d ↔ n % 8 = d.val := by rw [Fin.ext_iff]; rfl
theorem fin16_eq_iff {n : Nat} {d : Fin 16} : fin16 n = d ↔ n % 16 = d.val := by rw [Fin.ext_iff]; rfl
theorem fin32_eq_iff {n : Nat} {d : Fin 32} : fin32 n = d ↔ n % 32 = d.val := by rw [Fin.ext_iff]; rfl
theorem fin64_eq_iff {n : Nat} {d : Fin 64} : fin64 n = d ↔ n % 64 = d.val := by rw [Fin.ext_iff]; rfl
theorem bits_eq_iff {k n : Nat} {x : BitVec k} : bits k n = x ↔ n % 2 ^ k = x.toNat := by
  rw [← BitVec.toNat_inj, bits, BitVec.toNat_ofNat]

/-- The bits that an immediate puts into its field, as a bit vector. -/
def Imm.bits {n : Nat} : Imm n → BitVec n
  | .short i => i
  | .long _ => 0

theorem Imm.field_eq_toNat_bits {n : Nat} (i : Imm n) : i.field = i.bits.toNat := by
  cases i <;> rfl

theorem immOf_lit_iff {n m : Nat} {i : Imm n} : immOf n m i.lit = i ↔ i.lit.isSome = true ∨ m % 2 ^ n = i.bits.toNat := by
  cases i with
  | short x =>
    rw [show (immOf n m (Imm.short x).lit = .short x) = (Sys2Proof.bits n m = x) from Imm.short.injEq _ _, bits_eq_iff]
    simp only [Imm.lit, Option.isSome_none, Bool.false_eq_true, false_or, Imm.bits]
  | long l => simp [immOf, Imm.lit]

theorem barOf_barLit (b : Option (Fin 32)) : barOf (barLit b) = b := by
  cases b with
  | none => rfl
  | some k =>
    refine congrArg some (fin32_eq_iff.2 ?_)
    rw [BitVec.toNat_ofNat]
    omega

theorem barBit_eq (b : Option (Fin 32)) : barBit b = (BitVec.ofBool b.isSome).toNat := by
  cases b <;> rfl



/-! ### The opcode maps read back an encoding -/

theorem readC_enc {i : Instr} {op w : Nat} {l : Lit} (h : enc i = some ⟨.c, op, w, l⟩) (hop : op < 112) :
    readC op w l = some i := by
  cases i <;> cases h
  case hint => omega
  case chkG a => rw [readC, if_neg (by omega), Option.some.injEq, Instr.chkG.injEq, fin64_eq_iff]; omega
  case chkV a => rw [readC, if_pos (by omega), Option.some.injEq, Instr.chkV.injEq, fin64_eq_iff]; omega
  all_goals
    refine Eq.trans (b := some _) rfl (congrArg some ?_)
    congr 1
  all_goals simp only [fin64_eq_iff, bits_eq_iff, immOf_lit_iff, Imm.field_eq_toNat_bits]
  all_goals omega

theorem readX_enc {i : Instr} {op w : Nat} {l : Lit} (h : enc i = some ⟨.x, op, w, l⟩) (hop : op < 112) :
    readX op w l = some i := by
  cases i <;> cases h
  case hint => omega
  case inshi d a x => simp only [readX, Option.map_some, Option.some.injEq, Instr.inshi.injEq, fin64_eq_iff, and_true]; omega
  all_goals
    refine Eq.trans (b := some _) rfl (congrArg some ?_)
    congr 1
  all_goals simp only [fin32_eq_iff, fin64_eq_iff, bits_eq_iff, immOf_lit_iff, Imm.field_eq_toNat_bits]
  all_goals omega

theorem readM_enc {i : Instr} {op w : Nat} {l : Lit} (h : enc i = some ⟨.m, op, w, l⟩) (hop : op < 112) :
    readM op w l = some i := by
  cases i <;> cases h
  case hint => omega
  all_goals
    refine Eq.trans (b := some _) rfl (congrArg some ?_)
    congr 1
  all_goals simp only [fin2_eq_iff, fin4_eq_iff, fin8_eq_iff, fin16_eq_iff, fin32_eq_iff, fin64_eq_iff, bits_eq_iff, immOf_lit_iff, Imm.field_eq_toNat_bits]
  all_goals omega

theorem readV_enc {i : Instr} {op w : Nat} {l : Lit} (h : enc i = some ⟨.v, op, w, l⟩) (hop : op < 112) :
    readV op w l = some i := by
  cases i <;> cases h
  case hint => omega
  case vsplit d a b x => simp only [readV, Option.map_some, Option.some.injEq, Instr.vsplit.injEq, fin64_eq_iff, and_true]; omega
  case vrcmb d a g x => simp only [readV, Option.map_some, Option.some.injEq, Instr.vrcmb.injEq, fin64_eq_iff, and_true]; omega
  all_goals
    refine Eq.trans (b := some _) rfl (congrArg some ?_)
    congr 1
  all_goals simp only [fin2_eq_iff, fin8_eq_iff, fin64_eq_iff]
  all_goals omega

theorem readZ_enc {i : Instr} {op w : Nat} {l : Lit} (h : enc i = some ⟨.z, op, w, l⟩) (hop : op < 112) :
    readZ op w l = some i := by
  cases i <;> cases h
  case hint => omega
  case xcfg a b => rw [readZ, if_neg (by omega), Option.some.injEq, Instr.xcfg.injEq, fin8_eq_iff, fin8_eq_iff]; omega
  case xcfgSl a => rw [readZ, if_pos (by omega), Option.some.injEq, Instr.xcfgSl.injEq, fin8_eq_iff]; omega
  all_goals
    refine Eq.trans (b := some _) rfl (congrArg some ?_)
    congr 1
  all_goals simp only [fin2_eq_iff, fin8_eq_iff, fin32_eq_iff, fin64_eq_iff]
  all_goals omega

theorem readA_enc {i : Instr} {op w : Nat} {l : Lit} (h : enc i = some ⟨.a, op, w, l⟩) (hop : op < 112) :
    readA op w l = some i := by
  cases i <;> cases h
  case hint => omega
  case' ascAdd | ascXchg | ascCas | ascLd | ascSt | ascMax => 
    rw [readA]
    split <;> try (first | omega | (simp only [imp_false] at *; omega))
  all_goals
    refine Eq.trans (b := some _) rfl (congrArg some ?_)
    congr 1
  all_goals simp only [fin2_eq_iff, fin8_eq_iff, fin16_eq_iff, fin32_eq_iff, fin64_eq_iff, bits_eq_iff, barBit_eq, barOf_barLit]
  all_goals omega


/-- From opcode 0x70 on every slot kind holds hints alone (R145). -/
theorem hint_of_enc {i : Instr} {k : SlotKind} {op w : Nat} {l : Lit} (h : enc i = some ⟨k, op, w, l⟩) (hop : 112 ≤ op) :
    some (Instr.hint k (fin16 (op - 112)) (bits 24 w) l) = some i := by
  cases i <;> cases h
  case hint o p =>
    simp only [Option.some.injEq, Instr.hint.injEq, fin16_eq_iff, bits_eq_iff, true_and, and_true]
    omega
  all_goals exact absurd hop (by decide)

/-- What `enc` writes, the opcode maps read back. -/
theorem readSlot_enc {i : Instr} {e : Encoding} (h : enc i = some e) : readSlot e.kind e.op e.body e.lit = some i := by
  obtain ⟨k, op, w, l⟩ := e
  by_cases hop : 112 ≤ op
  · unfold readSlot
    rw [if_pos hop]
    exact hint_of_enc h hop
  · unfold readSlot
    rw [if_neg hop]
    cases k with
    | c => exact readC_enc h (Nat.not_le.1 hop)
    | x => exact readX_enc h (Nat.not_le.1 hop)
    | m => exact readM_enc h (Nat.not_le.1 hop)
    | v => exact readV_enc h (Nat.not_le.1 hop)
    | z => exact readZ_enc h (Nat.not_le.1 hop)
    | a => exact readA_enc h (Nat.not_le.1 hop)

/-! ### Whatever an opcode map reads has an encoding of its kind -/

theorem kind_of_readC {op w : Nat} {l : Lit} {i : Instr} (h : readC op w l = some i) : ∃ e, enc i = some e ∧ e.kind = .c := by
  unfold readC at h
  repeat' split at h
  all_goals cases h
  all_goals exact ⟨_, rfl, rfl⟩

theorem kind_of_readX {op w : Nat} {l : Lit} {i : Instr} (h : readX op w l = some i) : ∃ e, enc i = some e ∧ e.kind = .x := by
  unfold readX at h
  split at h
  case h_42 =>
    obtain ⟨_, -, rfl⟩ := Option.map_eq_some_iff.1 h
    exact ⟨_, rfl, rfl⟩
  all_goals cases h
  all_goals exact ⟨_, rfl, rfl⟩

theorem kind_of_readM {op w : Nat} {l : Lit} {i : Instr} (h : readM op w l = some i) : ∃ e, enc i = some e ∧ e.kind = .m := by
  unfold readM at h
  split at h
  all_goals cases h
  all_goals exact ⟨_, rfl, rfl⟩

theorem kind_of_readV {op w : Nat} {l : Lit} {i : Instr} (h : readV op w l = some i) : ∃ e, enc i = some e ∧ e.kind = .v := by
  unfold readV at h
  split at h
  case h_36 | h_38 =>
    obtain ⟨_, -, rfl⟩ := Option.map_eq_some_iff.1 h
    exact ⟨_, rfl, rfl⟩
  all_goals cases h
  all_goals exact ⟨_, rfl, rfl⟩

theorem kind_of_readZ {op w : Nat} {l : Lit} {i : Instr} (h : readZ op w l = some i) : ∃ e, enc i = some e ∧ e.kind = .z := by
  unfold readZ at h
  repeat' split at h
  all_goals cases h
  all_goals exact ⟨_, rfl, rfl⟩

theorem kind_of_readA {op w : Nat} {l : Lit} {i : Instr} (h : readA op w l = some i) : ∃ e, enc i = some e ∧ e.kind = .a := by
  unfold readA at h
  repeat' split at h
  all_goals cases h
  all_goals exact ⟨_, rfl, rfl⟩


theorem kind_of_readSlot {k : SlotKind} {op w : Nat} {l : Lit} {i : Instr} (h : readSlot k op w l = some i) :
    ∃ e, enc i = some e ∧ e.kind = k := by
  unfold readSlot at h
  split at h
  · cases h
    exact ⟨_, rfl, rfl⟩
  · cases k with
    | c => exact kind_of_readC h
    | x => exact kind_of_readX h
    | m => exact kind_of_readM h
    | v => exact kind_of_readV h
    | z => exact kind_of_readZ h
    | a => exact kind_of_readA h

/-! ### Slot words -/

/-- Every encoding keeps to the widths of its opcode and its body (R118). -/
theorem enc_widths {i : Instr} {e : Encoding} (h : enc i = some e) : e.op < 128 ∧ e.body < 2 ^ 24 := by
  cases i <;> cases h
  all_goals
    simp only [Imm.field_eq_toNat_bits, barBit_eq]
    omega

/-- An encoding has a literal only where its opcode takes one (R121). -/
theorem enc_litAllowed {i : Instr} {e : Encoding} (h : enc i = some e) (hl : e.lit.isSome = true) :
    litAllowed e.kind e.op e.body = true := by
  cases i <;> cases h
  case hint => exact Laws.EncodingFits.hint_literal _ _ _
  case cpy | cpys | cpyg | cpycb | rput | rputf | rputs | rpull | rputsf =>
    have hb := Laws.EncodingFits.barBit_of_lit hl
    simp only [litAllowed, hb, Nat.reduceLeDiff, Nat.reduceEqDiff, if_true, if_false, decide_eq_true_eq]
    omega
  case inshi | vsplit | vrcmb => rfl
  all_goals first | cases hl | rfl

/-- The fields of an encoding's word (R118). -/
theorem Encoding.word_fields {e : Encoding} (hop : e.op < 128) (hb : e.body < 2 ^ 24) :
    e.word.toNat / 2 ^ 24 % 128 = e.op ∧ e.word.toNat % 2 ^ 24 = e.body ∧ (2 ^ 31 ≤ e.word.toNat ↔ e.lit.isSome = true) := by
  have hl : (if e.lit.isSome = true then 2 ^ 31 else 0 : Nat) = (BitVec.ofBool e.lit.isSome).toNat * 2 ^ 31 := by
    cases e.lit <;> simp
  have hs : e.lit.isSome = true ↔ (BitVec.ofBool e.lit.isSome).toNat = 1 := by cases e.lit <;> simp
  rw [Encoding.word, hl, BitVec.toNat_ofNat, hs]
  omega

theorem decodeSlot_word {i : Instr} {e : Encoding} (hw : wf i = true) (h : enc i = some e) : decodeSlot e.kind e.word e.lit = .ok i := by
  obtain ⟨hop, hb⟩ := enc_widths h
  obtain ⟨h1, h2, h3⟩ := Encoding.word_fields hop hb
  have hbad : badLiteral e.kind e.word = false := by
    rw [badLiteral, h1, h2, Bool.and_eq_false_iff, decide_eq_false_iff_not, h3, Bool.not_eq_false']
    exact (Classical.em _).symm.imp id (enc_litAllowed h)
  have hread := readSlot_enc h
  simp only [decodeSlot, hbad, h1, h2, hread, hw, encode, h, Option.map_some, decide_true, Bool.and_self, if_true, Bool.false_eq_true, if_false]

theorem enc_of_decodeSlot {k : SlotKind} {w : BitVec 32} {l : Lit} {i : Instr} (h : decodeSlot k w l = .ok i) :
    wf i = true ∧ ∃ e, enc i = some e ∧ e.kind = k ∧ e.word = w ∧ e.lit = l := by
  unfold decodeSlot at h
  split at h
  · cases h
  · split at h
    · cases h
    · rename_i j hread
      split at h
      · rename_i hc
        obtain rfl : j = i := Except.ok.inj h
        rw [Bool.and_eq_true, decide_eq_true_eq] at hc
        obtain ⟨hw, henc⟩ := hc
        obtain ⟨e, he, hk⟩ := kind_of_readSlot hread
        rw [encode, he, Option.map_some, Option.some.injEq, Prod.mk.injEq] at henc
        exact ⟨hw, e, he, hk, henc⟩
      · cases h

/-- Settles O37: what the encoder writes is read back by the map of its kind, and a word is accepted only where it is the encoding of what
was read. -/
theorem decodeEncode : Obligations.DecodeEncode :=
  ⟨fun _ _ => decodeSlot_word, fun _ _ _ _ => enc_of_decodeSlot⟩

end Sys2Proof
end

section
/-!
PROOFS. Bundles (06_bundles_and_encodings.md R117–R122, R283): the bytes of slots are cut apart and decoded in header-bit order.
-/

namespace Sys2Proof

/-! ### Cutting the bytes of a slot -/

theorem word32_bytes32 (w : BitVec 32) :
    word32 (w.extractLsb' 0 8) (w.extractLsb' 8 8) (w.extractLsb' 16 8) (w.extractLsb' 24 8) = w := by
  refine BitVec.eq_of_getLsbD_eq fun i hi => ?_
  simp only [word32, BitVec.getLsbD_append, BitVec.getLsbD_extractLsb']
  by_cases h8 : i < 8
  · simp [h8]
  · by_cases h16 : i - 8 < 8
    · simp [h8, h16, Nat.add_sub_of_le (Nat.not_lt.1 h8)]
    · by_cases h24 : i - 8 - 8 < 8
      · simp [h8, h16, h24, show 16 + (i - 8 - 8) = i by omega]
      · simp [h8, h16, h24, show 24 + (i - 8 - 8 - 8) = i by omega, show i - 8 - 8 - 8 < 8 by omega]

/-- The bytes of a slot: its word, then its literal (R118). -/
def Encoding.bytes (e : Encoding) : List Byte := bytes32 e.word ++ e.lit.elim [] bytes32

/-- A slot as it is cut out at header bit `b`. -/
def Encoding.raw (e : Encoding) (b : Nat) : RawSlot := ⟨b, e.word, e.lit⟩

/-- Bit 31 of a slot word says that a literal follows (R118). -/
theorem word_lt_iff {i : Instr} {e : Encoding} (h : enc i = some e) : e.word.toNat < 2 ^ 31 ↔ e.lit = none := by
  obtain ⟨hop, hb⟩ := enc_widths h
  rw [← Nat.not_le, (Encoding.word_fields hop hb).2.2, Option.not_isSome_iff_eq_none]

theorem cutSlots_bytes {i : Instr} {e : Encoding} (h : enc i = some e) (b : Nat) (bs : List Nat) (rest : List Byte) :
    cutSlots (b :: bs) (e.bytes ++ rest) = (cutSlots bs rest).map fun t => (e.raw b :: t.1, t.2 + e.bytes.length) := by
  have hw := word_lt_iff h
  cases hl : e.lit with
  | none =>
    rw [hl] at hw
    simp only [Encoding.bytes, Encoding.raw, hl, bytes32, Option.elim_none, List.append_nil, List.cons_append, List.nil_append, cutSlots,
      word32_bytes32, if_pos (hw.2 rfl)]
    rfl
  | some l =>
    have hn : ¬ e.word.toNat < 2 ^ 31 := fun hlt => by simp [hl] at hw; omega
    simp only [Encoding.bytes, Encoding.raw, hl, bytes32, Option.elim_some, List.cons_append, List.nil_append, cutSlots, word32_bytes32,
      if_neg hn]
    rfl

/-! ### The checks of a bundle -/

/-- The bit of a kind's slot and the encoding of a well-formed instruction of that kind. -/
structure Placed (b : Nat) (i : Instr) (e : Encoding) : Prop where
  wellFormed : wf i = true
  encoded : enc i = some e
  kind : slotKindOf b = e.kind

theorem Placed.decodeSlot {b : Nat} {i : Instr} {e : Encoding} (h : Placed b i e) : decodeSlot (slotKindOf b) e.word e.lit = .ok i :=
  h.kind ▸ decodeSlot_word h.wellFormed h.encoded

theorem Placed.badLiteral {b : Nat} {i : Instr} {e : Encoding} (h : Placed b i e) : badLiteral (slotKindOf b) e.word = false := by
  cases hb : Sys2Proof.badLiteral (slotKindOf b) e.word with
  | false => rfl
  | true => exact absurd h.decodeSlot (by simp [Sys2Proof.decodeSlot, hb])

theorem Placed.literalCheck_nil {b : Nat} {i : Instr} {e : Encoding} (h : Placed b i e) {n : Nat} (hn : n < 3) :
    literalCheck n [e.raw b] = none := by
  cases hl : e.lit <;> simp [literalCheck, Encoding.raw, h.badLiteral, hl, Nat.ne_of_lt hn]

theorem Placed.literalCheck_pair {b c : Nat} {i j : Instr} {e f : Encoding} (h : Placed b i e) (h' : Placed c j f) :
    literalCheck 0 [e.raw b, f.raw c] = none := by
  have h0 := h'.literalCheck_nil (n := 0) (by decide)
  have h1 := h'.literalCheck_nil (n := 1) (by decide)
  rw [literalCheck]
  cases hl : e.lit <;> simp [Encoding.raw, h.badLiteral, hl] <;> assumption

theorem decodeSlots_nil : decodeSlots [] = .ok [] := by rw [decodeSlots]

theorem Placed.decodeSlots_cons {b : Nat} {i : Instr} {e : Encoding} (h : Placed b i e) {ss : List RawSlot} {is : List (Nat × Instr)}
    (hs : decodeSlots ss = .ok is) : decodeSlots (e.raw b :: ss) = .ok ((b, i) :: is) := by
  have hd : Sys2Proof.decodeSlot (slotKindOf (e.raw b).bit) (e.raw b).word (e.raw b).lit = .ok i := h.decodeSlot
  rw [decodeSlots, hd, hs]
  rfl

theorem headerBits_one : ∀ b < 8, headerBits (BitVec.ofNat 8 (2 ^ b)) = [b] ∧ (BitVec.ofNat 8 (2 ^ b)).toNat ≠ 0 := by decide

theorem headerBits_two : ∀ c < 8, ∀ b < c,
    headerBits (BitVec.ofNat 8 (2 ^ b + 2 ^ c)) = [b, c] ∧ (BitVec.ofNat 8 (2 ^ b + 2 ^ c)).toNat ≠ 0 := by decide

theorem stackClash_pair {b c : Nat} {i j : Instr} (h : (movesStack i && movesStack j) = false) : stackClash [(b, i), (c, j)] = none := by
  cases hi : movesStack i <;> cases hj : movesStack j <;> simp_all [stackClash]

/-! ### Bundles of one slot and of two -/

/-- A bundle that passes every check is its slots with its length. -/
theorem decodeBundle_of_checks {delay : Bool} {hdr : Byte} {rest : List Byte} {raw : List RawSlot} {n : Nat} {is : List (Nat × Instr)}
    (hne : hdr.toNat ≠ 0) (hcut : cutSlots (headerBits hdr) rest = some (raw, n)) (hlit : literalCheck 0 raw = none)
    (hdec : decodeSlots raw = .ok is) (hclash : stackClash is = none) :
    decodeBundle delay hdr rest = match is.find? fun p => delay && isTransfer p.2 with
      | some p => .error ⟨4, (match encode p.2 with | some e => e.1 | none => 0), p.1⟩
      | none => .ok ⟨is, n + 1⟩ := by
  rw [decodeBundle, if_neg hne, hcut]
  simp only [hlit, hdec, hclash] <;> rfl

theorem decodeBundle_pair {b c : Nat} {i j : Instr} {e f : Encoding} (h : Placed b i e) (h' : Placed c j f) (hbc : b < c) (hc : c < 8)
    (hm : (movesStack i && movesStack j) = false) (rest : List Byte) :
    decodeBundle false (BitVec.ofNat 8 (2 ^ b + 2 ^ c)) (e.bytes ++ (f.bytes ++ rest)) =
      .ok ⟨[(b, i), (c, j)], f.bytes.length + e.bytes.length + 1⟩ := by
  obtain ⟨hbits, hne⟩ := headerBits_two c hc b hbc
  have hcut : cutSlots (headerBits (BitVec.ofNat 8 (2 ^ b + 2 ^ c))) (e.bytes ++ (f.bytes ++ rest)) =
      some ([e.raw b, f.raw c], f.bytes.length + e.bytes.length) := by
    rw [hbits, cutSlots_bytes h.encoded, cutSlots_bytes h'.encoded, cutSlots, Option.map_some, Option.map_some, Nat.zero_add]
  exact decodeBundle_of_checks hne hcut (h.literalCheck_pair h') (h.decodeSlots_cons (h'.decodeSlots_cons decodeSlots_nil))
    (stackClash_pair hm)

theorem decodeBundle_delay {b : Nat} {i : Instr} {e : Encoding} (h : Placed b i e) (hb : b < 8) (rest : List Byte) :
    decodeBundle true (BitVec.ofNat 8 (2 ^ b)) (e.bytes ++ rest) =
      if isTransfer i then .error ⟨4, e.word, b⟩ else .ok ⟨[(b, i)], e.bytes.length + 1⟩ := by
  obtain ⟨hbits, hne⟩ := headerBits_one b hb
  have hcut : cutSlots (headerBits (BitVec.ofNat 8 (2 ^ b))) (e.bytes ++ rest) = some ([e.raw b], e.bytes.length) := by
    rw [hbits, cutSlots_bytes h.encoded, cutSlots, Option.map_some, Nat.zero_add]
  have hclash : stackClash [(b, i)] = none := by cases hi : movesStack i <;> simp [stackClash, hi]
  rw [decodeBundle_of_checks hne hcut (h.literalCheck_nil (by decide)) (h.decodeSlots_cons decodeSlots_nil) hclash]
  cases ht : isTransfer i
  · simp only [List.find?_cons, ht, Bool.and_false, List.find?_nil, Bool.false_eq_true, if_false]
  · simp only [List.find?_cons, ht, Bool.and_true, encode, h.encoded, Option.map_some, if_true]

/-- Settles O39: the bytes of each slot are cut off in turn, and every check passes on what is well formed. -/
theorem Laws.decodeBundle : Obligations.DecodeBundle := by
  refine ⟨fun _ _ => rfl, ?two, ?delay⟩
  case two =>
    intro i j e f b c rest bs hwi hwj hi hj hbc hc hbe hcf hm hbs
    have h := decodeBundle_pair ⟨hwi, hi, hbe⟩ ⟨hwj, hj, hcf⟩ hbc hc hm rest
    obtain rfl : bs = e.bytes ++ f.bytes := by rw [hbs, Encoding.bytes, Encoding.bytes, ← List.append_assoc]
    rw [List.append_assoc, h, List.length_append, Nat.add_comm f.bytes.length]
  case delay =>
    intro i e b rest bs hwi hi hb hbe hbs
    subst hbs
    exact decodeBundle_delay ⟨hwi, hi, hbe⟩ hb rest

end Sys2Proof
end

section
/-!
PROOFS. Issue steps (R120, R122–R124, R157, R158, R174): when an exposed result becomes readable, and what a bundle's commit does.
-/

namespace Sys2Proof.Machine

/-! ### Landing -/

/-- What is still pending plays no part in what lands. -/
theorem Ctx.apply_setPend (c : Ctx) (ps : List Res) (p : Payload) :
    ({ c with pend := ps } : Ctx).apply p = { c.apply p with pend := ps } := by
  cases p with
  | g n v q => unfold Ctx.apply Ctx.setG; dsimp only; split <;> rfl
  | k n x => unfold Ctx.apply Ctx.setK; dsimp only; split <;> rfl
  | hAdv n consumer k => cases consumer <;> rfl
  | _ => rfl

theorem Ctx.applyAll_setPend (rs : List Res) (c : Ctx) (ps : List Res) :
    Ctx.applyAll rs { c with pend := ps } = { Ctx.applyAll rs c with pend := ps } := by
  induction rs generalizing c with
  | nil => rfl
  | cons r rs ih => rw [Ctx.applyAll, Ctx.apply_setPend, ih, Ctx.applyAll]

theorem Ctx.applyAll_append (rs qs : List Res) (c : Ctx) : Ctx.applyAll (rs ++ qs) c = Ctx.applyAll qs (Ctx.applyAll rs c) := by
  induction rs generalizing c with
  | nil => rfl
  | cons r rs ih => exact ih _

@[simp] theorem Ctx.gr_zero (c : Ctx) : c.gr 0 = {} := rfl

theorem Ctx.gr_setG (c : Ctx) (n j : Nat) (v : Word) (p : Bool) :
    (c.setG n v p).gr j = if j = n then (if n = 0 then {} else ⟨v, p⟩) else c.gr j := by
  unfold Ctx.setG Ctx.gr
  by_cases hn : n = 0
  · simp only [hn, if_true]
    split <;> rfl
  · simp only [hn, if_false, Table.get_set]
    by_cases hj : j = n
    · simp only [hj, hn, if_true, if_false]
    · simp only [hj, if_false]

/-- The context `m` steps later, with one more result that is not due by then: nothing more lands. -/
theorem Ctx.land_append_later (c : Ctx) {t : Nat} {r : Res} (h : t < r.due) (j : Nat) :
    ({ c with pend := c.pend ++ [r], step := t } : Ctx).land.gr j = ({ c with step := t } : Ctx).land.gr j := by
  have hf : [r].filter (fun r => decide (r.due ≤ t)) = [] := by simp [Nat.not_le.2 h]
  have hs := Ctx.applyAll_setPend (c.pend.filter fun r => decide (r.due ≤ t)) { c with step := t } (c.pend ++ [r])
  simp only [Ctx.land, List.filter_append, hf, List.append_nil]
  have hg := congrArg (fun x => Ctx.gr x j) hs
  exact hg

/-- A result that is due lands last of all that stood before it. -/
theorem Ctx.land_append_due (c : Ctx) {t : Nat} {r : Res} (h : r.due ≤ t) (j : Nat) :
    ({ c with pend := c.pend ++ [r], step := t } : Ctx).land.gr j =
      ((Ctx.applyAll (c.pend.filter fun r => decide (r.due ≤ t)) { c with pend := c.pend ++ [r], step := t }).apply r.val).gr j := by
  have hf : [r].filter (fun r => decide (r.due ≤ t)) = [r] := by simp [h]
  simp only [Ctx.land, List.filter_append, hf, Ctx.applyAll_append]
  rfl

theorem State.putG_zero (s : State) (n : Nat) {d : Fin 64} (hd : d.val = 0) (v : Word) (p : Bool) : s.putG n d v p = s.done := by
  rw [State.putG, if_pos hd]

theorem State.putG_pos (s : State) (n : Nat) {d : Fin 64} (hd : d.val ≠ 0) (v : Word) (p : Bool) :
    s.putG n d v p = s.put n (.g d.val v p) := by
  rw [State.putG, if_neg hd]

/-- Settles O4: the result stands last in what is pending, is left out of what lands before it is due, and is the last to land then. -/
theorem resultLands : Obligations.ResultLands := by
  intro s n d v p a hn
  by_cases hd : d.val = 0
  · rw [s.putG_zero n hd, State.me_done, hd]
    exact ⟨rfl, fun _ _ => rfl, rfl, rfl⟩
  · rw [s.putG_pos n hd, State.me_put _ hn]
    refine ⟨rfl, fun m hm => ?_, ?_, rfl⟩
    · exact s.me.land_append_later (r := ⟨s.me.step + n, _⟩) (Nat.add_lt_add_left hm _) a.val
    · refine (s.me.land_append_due (r := ⟨s.me.step + n, .g d.val v p⟩) (Nat.le_refl _) d.val).trans ?_
      exact (Ctx.gr_setG _ _ _ _ _).trans (if_pos rfl)

/-! ### Commit -/

/-- The bundle after the one that is issued, as its commit leaves the context where nothing is transferred. -/
def Ctx.fallThrough (c old : Ctx) (len : Nat) : Ctx :=
  { c.land with step := old.step + 1, last := old.pc, br := none, delay := none, fb := none, pc := old.pc + BitVec.ofNat 64 len }

theorem Ctx.commit_no_delay (c : Ctx) {old : Ctx} (h : old.delay = none) (len : Nat) :
    c.commit old len = { c.fallThrough old len with delay := c.br } := by
  rw [Ctx.commit, h]; rfl

theorem Ctx.commit_delay (c : Ctx) {old : Ctx} {b : Br} (h : old.delay = some b) (len : Nat) :
    c.commit old len = if b.eret then { c.fallThrough old len with ret := true }
      else if b.taken then { c.fallThrough old len with pc := b.target, fb := some b.pc } else c.fallThrough old len := by
  rw [Ctx.commit, h]; rfl

/-- Settles O9: the commit in no delay position, and in that of a transfer taken, not taken, and of a return. -/
theorem transferAfterDelay : Obligations.TransferAfterDelay := by
  intro c old n
  have common : (c.commit old n).step = old.step + 1 ∧ (c.commit old n).br = none ∧ (c.commit old n).g = c.land.g := by
    cases hd : old.delay with
    | none => rw [c.commit_no_delay hd]; exact ⟨rfl, rfl, rfl⟩
    | some b =>
      rw [c.commit_delay hd]
      split
      · exact ⟨rfl, rfl, rfl⟩
      · split <;> exact ⟨rfl, rfl, rfl⟩
  obtain ⟨hstep, hbr, hg⟩ := common
  refine ⟨hstep, hbr, hg, fun hd => ?_, fun x p hd => ?_, fun x p hd => ?_, fun b x p hd => ?_⟩
  · rw [c.commit_no_delay hd]; exact ⟨rfl, rfl, rfl⟩
  all_goals rw [c.commit_delay hd]
  · exact ⟨rfl, rfl, rfl⟩
  · exact ⟨rfl, rfl, rfl⟩
  · exact ⟨rfl, rfl⟩

end Sys2Proof.Machine
end

section
/-!
PROOFS. Scalar instructions (08_scalar_and_control_instructions.md R174–R182): results, frame and divides.
-/

namespace Sys2Proof.Machine

/-! ### Results of scalar instructions -/

/-- The outcome depends on the value that is put alone. -/
theorem next_putG_congr {s : State} {d : Fin 64} {v w : Word} {p : Bool} (h : v = w) :
    (.next (s.putG 1 d v p) : Result) = .next (s.putG 1 d w p) := by rw [h]

theorem flagWord_decide (p : Prop) [Decidable p] : flagWord (decide p) = if p then 1 else 0 := by
  by_cases h : p <;> simp [flagWord, h]

theorem flagWord_decide_not_lt {a b : Int} : flagWord (decide (a ≤ b)) = if b < a then 0 else 1 := by
  by_cases h : a ≤ b
  · rw [flagWord_decide, if_pos h, if_neg (Int.not_lt.2 h)]
  · rw [flagWord_decide, if_neg h, if_pos (Int.not_le.1 h)]

theorem flagWord_decide_not_lt_nat {a b : Nat} : flagWord (decide (a ≤ b)) = if b < a then 0 else 1 := by
  by_cases h : a ≤ b
  · rw [flagWord_decide, if_pos h, if_neg (Nat.not_lt.2 h)]
  · rw [flagWord_decide, if_neg h, if_pos (Nat.not_le.1 h)]

/-- Where what is compared is equal, it does not matter which is taken. -/
theorem ite_le_eq_ite_lt {α β : Type} [LinearOrder β] {m n : β} {a b : α} (h : m = n → a = b) :
    (if m ≤ n then a else b) = if m < n then a else b := by
  rcases lt_trichotomy m n with hlt | heq | hgt
  · rw [if_pos hlt.le, if_pos hlt]
  · rw [h heq, ite_self, ite_self]
  · rw [if_neg (not_le.2 hgt), if_neg (not_lt.2 hgt.le)]

theorem trailing_eq_takeWhile (n x : Nat) : trailing n x = ((List.range n).takeWhile fun k => !x.testBit k).length := by
  induction n generalizing x with
  | zero => rfl
  | succ n ih =>
    rw [List.range_succ_eq_map, List.takeWhile_cons, trailing, Nat.testBit_zero]
    by_cases h : x % 2 = 1
    · simp [h]
    · simp only [h, decide_false, Bool.not_false, if_true, if_false, List.takeWhile_map, List.length_cons, List.length_map, ih,
        Function.comp_def, Nat.testBit_succ, Nat.add_comm 1]

theorem leading_eq_takeWhile (n x : Nat) : leading n x = ((List.range n).takeWhile fun k => !x.testBit (n - 1 - k)).length := by
  induction n with
  | zero => rfl
  | succ n ih =>
    have hbit : x.testBit n = decide (x / 2 ^ n % 2 = 1) := Nat.testBit_eq_decide_div_mod_eq
    rw [List.range_succ_eq_map, List.takeWhile_cons, leading, Nat.add_sub_cancel, Nat.sub_zero, hbit]
    by_cases h : x / 2 ^ n % 2 = 1
    · simp [h]
    · simp only [h, decide_false, Bool.not_false, if_true, if_false, List.takeWhile_map, List.length_cons, List.length_map, ih,
        Function.comp_def, Nat.succ_eq_add_one, Nat.sub_add_eq, Nat.sub_right_comm n _ 1, Nat.add_comm 1]

theorem ones_eq_filter (n x : Nat) : ones n x = ((List.range n).filter fun k => x.testBit k).length := by
  induction n generalizing x with
  | zero => rfl
  | succ n ih =>
    rw [List.range_succ_eq_map, List.filter_cons, ones, Nat.testBit_zero]
    rcases Nat.mod_two_eq_zero_or_one x with h | h <;>
      simp [h, ih, List.filter_map, Function.comp_def, Nat.testBit_succ, Nat.add_comm 1]

/-- The `n` low bits as a two's complement number are the value of the bit vector. -/
theorem toInt_mod_eq (n x : Nat) : toInt (n + 1) true (x % 2 ^ (n + 1)) = (BitVec.ofNat (n + 1) x).toInt := by
  have hp : 2 ^ (n + 1) = 2 * 2 ^ n := Nat.pow_succ'
  simp only [toInt, BitVec.toInt_eq_toNat_cond, BitVec.toNat_ofNat, Bool.true_and, decide_eq_true_eq, Nat.add_sub_cancel]
  by_cases h : 2 ^ n ≤ x % 2 ^ (n + 1)
  · rw [if_pos h, if_neg (by omega)]
    norm_cast
  · rw [if_neg h, if_pos (by omega)]

theorem append_low_eq (i : BitVec 32) (x : Word) :
    i ++ x.extractLsb' 0 32 = BitVec.ofNat 64 (i.toNat * 2 ^ 32 + x.toNat % 2 ^ 32) := by
  refine BitVec.eq_of_toNat_eq ?_
  have hi := i.isLt
  rw [BitVec.toNat_append, BitVec.extractLsb'_toNat, Nat.shiftRight_zero,
    ← Nat.shiftLeft_add_eq_or_of_lt (Nat.mod_lt _ (Nat.two_pow_pos 32)), Nat.shiftLeft_eq, BitVec.toNat_ofNat]
  omega

theorem mul_eq_ofNat (x y : Word) : x * y = BitVec.ofNat 64 (x.toNat * y.toNat) :=
  BitVec.eq_of_toNat_eq (by rw [BitVec.toNat_mul, BitVec.toNat_ofNat])

/-- Settles O1: each arm is the stated function, written by `putG`. -/
theorem scalarResults : Obligations.ScalarResults := by
  refine ⟨fun s d a b => ?two, fun s d a => ⟨fun i => ?imm, fun c => ?count, ?one, ?extr, ?inshi, ?sel⟩⟩
  case two =>
    simp only [List.forall_mem_cons, List.not_mem_nil, false_imp_iff, implies_true, and_true]
    refine ⟨rfl, rfl, rfl, rfl, rfl, rfl, rfl, rfl, next_putG_congr (mul_eq_ofNat _ _), rfl, rfl, next_putG_congr (flagWord_decide _),
      next_putG_congr ((flagWord_decide _).trans (ite_not _ _ _)), next_putG_congr (flagWord_decide _), next_putG_congr (flagWord_decide _),
      next_putG_congr flagWord_decide_not_lt, next_putG_congr flagWord_decide_not_lt_nat,
      next_putG_congr (ite_le_eq_ite_lt BitVec.toInt_inj.1), next_putG_congr (ite_le_eq_ite_lt fun h => (BitVec.toInt_inj.1 h).symm),
      next_putG_congr (ite_le_eq_ite_lt BitVec.toNat_inj.1), next_putG_congr (ite_le_eq_ite_lt fun h => (BitVec.toNat_inj.1 h).symm)⟩
  case imm =>
    cases i <;> simp only [List.forall_mem_cons, List.not_mem_nil, false_imp_iff, implies_true, and_true] <;>
      exact ⟨rfl, rfl, rfl, rfl, next_putG_congr (flagWord_decide _), next_putG_congr (flagWord_decide _)⟩
  case count =>
    simp only [List.forall_mem_cons, List.not_mem_nil, false_imp_iff, implies_true, and_true]
    exact ⟨rfl, rfl, rfl, rfl, next_putG_congr (congrArg (BitVec.ofInt 64) (toInt_mod_eq _ _))⟩
  case one =>
    simp only [List.forall_mem_cons, List.not_mem_nil, false_imp_iff, implies_true, and_true]
    exact ⟨next_putG_congr (congrArg _ (leading_eq_takeWhile _ _)), next_putG_congr (congrArg _ (trailing_eq_takeWhile _ _)),
      next_putG_congr (congrArg _ (ones_eq_filter _ _))⟩
  case extr => exact fun _ _ => rfl
  case inshi => exact fun i => next_putG_congr (append_low_eq i _)
  case sel => exact fun b c => next_putG_congr (ite_not _ _ _)

/-! ### The frame of scalar instructions -/

/-- A scalar instruction that answers a state has put one value, at latency 1. -/
theorem exec_scalar {i : Instr} {d : Fin 64} (hd : scalarDest i = some d) (s : State) :
    ∃ v p, exec i s = .next (s.putG 1 d v p) := by
  cases i <;> cases hd <;> exact ⟨_, _, rfl⟩

theorem State.putG_eq_setMe (s : State) (n : Nat) (d : Fin 64) (v : Word) (p : Bool) :
    s.putG n d v p = s.setMe { s.me with pend := s.me.pend ++ (if d.val = 0 then [] else [⟨s.me.step + n, .g d.val v p⟩]) } := by
  unfold State.putG
  split
  · rw [List.append_nil]; rfl
  · rfl

/-- A context that only gets results for named registers, its flags risen, is within the frame of an instruction that writes registers. -/
theorem State.registerFrame_setMe (s : State) {rs : List Reg} (f : BitVec 5) (ps : List Res) (hps : ∀ p ∈ ps, ∃ r ∈ rs, p.val.reg = some r) :
    s.RegisterFrame (s.setMe { s.me with fflags := s.me.fflags ||| f, pend := s.me.pend ++ ps }) rs :=
  ⟨s.onlyMe_setMe _, (s.onlyMe_setMe _).bytesKept, f, ps, s.ctx_setMe_same _, hps⟩

/-- Settles O3: every one of them puts one value through `putG`. -/
theorem scalarFrame : Obligations.ScalarFrame := by
  intro i d s t hd ht
  obtain ⟨v, p, hx⟩ := exec_scalar hd s
  obtain rfl : s.putG 1 d v p = t := Host.Outcome.next.inj (hx.symm.trans ht)
  rw [s.putG_eq_setMe]
  refine ⟨?_, by rw [s.ctx_setMe_same], fun h0 => by rw [s.ctx_setMe_same, if_pos h0, List.append_nil]⟩
  have h := s.registerFrame_setMe (rs := [.g d.val]) 0 (if d.val = 0 then [] else [⟨s.me.step + 1, .g d.val v p⟩]) (by
    intro q hq
    split at hq
    · cases hq
    · exact ⟨_, List.mem_singleton_self _, by rw [List.mem_singleton.1 hq]; rfl⟩)
  rwa [show s.me.fflags ||| 0 = s.me.fflags from BitVec.or_zero] at h

/-! ### Divides -/

theorem divide_zero (signed : Bool) (a : Word) : divide signed a 0 = (BitVec.allOnes 64, a) := if_pos rfl

theorem divide_natural {b : Word} (hb : b ≠ 0) (a : Word) :
    (divide false a b).1.toNat = a.toNat / b.toNat ∧ (divide false a b).2.toNat = a.toNat % b.toNat := by
  have ha := a.isLt
  have hq := Nat.div_le_self a.toNat b.toNat
  have hr := Nat.mod_le a.toNat b.toNat
  simp only [divide, if_neg hb, Bool.false_eq_true, if_false, BitVec.toNat_ofNat]
  exact ⟨Nat.mod_eq_of_lt (by omega), Nat.mod_eq_of_lt (by omega)⟩

/-- A signed quotient is no larger than its dividend, and is 2^63 for -2^63 by -1 alone. -/
theorem tdiv_bounds {a b : Int} (hb : b ≠ 0) (hlo : -2 ^ 63 ≤ a) (hhi : a < 2 ^ 63) (hov : ¬ (a = -2 ^ 63 ∧ b = -1)) :
    -2 ^ 63 ≤ a.tdiv b ∧ a.tdiv b < 2 ^ 63 := by
  have hq : (a.tdiv b).natAbs = a.natAbs / b.natAbs := Int.natAbs_tdiv a b
  by_cases h1 : b = 1
  · subst h1
    rw [Int.tdiv_one]
    exact ⟨hlo, hhi⟩
  · by_cases h2 : b = -1
    · subst h2
      rw [Int.tdiv_neg, Int.tdiv_one]
      omega
    · have : a.natAbs / b.natAbs ≤ a.natAbs / 2 := Nat.div_le_div_left (by omega) (by decide)
      omega

theorem tmod_bounds {a b : Int} (hb : b ≠ 0) (hlo : -2 ^ 63 ≤ b) (hhi : b < 2 ^ 63) : -2 ^ 63 ≤ a.tmod b ∧ a.tmod b < 2 ^ 63 := by
  have hr : (a.tmod b).natAbs = a.natAbs % b.natAbs := Int.natAbs_tmod a b
  have hlt := Nat.mod_lt a.natAbs (Int.natAbs_pos.2 hb)
  omega

theorem divide_signed {a b : Word} (hb : b ≠ 0) (hov : ¬ (a = BitVec.intMin 64 ∧ b = -1)) :
    (divide true a b).1.toInt = a.toInt.tdiv b.toInt ∧ (divide true a b).2.toInt = a.toInt.tmod b.toInt := by
  have hov' : ¬ (a.toInt = -2 ^ 63 ∧ b.toInt = -1) := fun h => hov ⟨BitVec.toInt_inj.1 h.1, BitVec.toInt_inj.1 h.2⟩
  have hb' : b.toInt ≠ 0 := fun h => hb (BitVec.toInt_inj.1 h)
  have hq := tdiv_bounds hb' a.le_toInt a.toInt_lt hov'
  have hr := tmod_bounds (a := a.toInt) hb' b.le_toInt b.toInt_lt
  simp only [divide, if_neg hb, if_neg hov', if_true]
  exact ⟨BitVec.toInt_ofInt_eq_self (by decide) hq.1 hq.2, BitVec.toInt_ofInt_eq_self (by decide) hr.1 hr.2⟩

/-- The division law over the integers: exact, the remainder smaller than the divisor and of the dividend's sign. -/
theorem tdiv_tmod_law {a b : Int} (hb : b ≠ 0) : a.tdiv b * b + a.tmod b = a ∧ (a.tmod b).natAbs < b.natAbs ∧
    (0 ≤ a → 0 ≤ a.tmod b) ∧ (a ≤ 0 → a.tmod b ≤ 0) := by
  refine ⟨Int.tdiv_mul_add_tmod a b, ?_, Int.tmod_nonneg b, fun h => ?_⟩
  · rw [Int.natAbs_tmod]
    exact Nat.mod_lt _ (Int.natAbs_pos.2 hb)
  · have hn := Int.tmod_nonneg (a := -a) b (by omega)
    rw [Int.neg_tmod] at hn
    omega

/-! ### What comes to a register interlocked -/

/-- What is left of pending results after a write of g register `d` has come is bound for other registers. -/
theorem Payload.under_g_reg {q r : Payload} {d : Nat} {v : Word} {p : Bool} (h : q.under (.g d v p) = some r) : r.reg ≠ some (.g d) := by
  cases q with
  | g i x y =>
    by_cases hi : i = d
    · simp [Payload.under, hi] at h
    · simp only [Payload.under, if_neg hi, Option.some.injEq] at h
      subst h
      simpa [Payload.reg] using hi
  | flag i =>
    by_cases hi : i = d
    · simp [Payload.under, hi] at h
    · simp only [Payload.under, if_neg hi, Option.some.injEq] at h
      subst h
      simpa [Payload.reg] using hi
  | _ =>
    simp only [Payload.under, Option.some.injEq] at h
    subst h
    simp [Payload.reg]

theorem Ctx.gr_come_g (c : Ctx) (d j : Nat) (v : Word) (p : Bool) :
    (c.come (.g d v p)).gr j = if j = d then (if d = 0 then {} else ⟨v, p⟩) else c.gr j := Ctx.gr_setG c d j v p

theorem Ctx.pend_come_g (c : Ctx) (d : Nat) (v : Word) (p : Bool) : ∀ r ∈ (c.come (.g d v p)).pend, r.val.reg ≠ some (.g d) := by
  intro r hr
  obtain ⟨q, -, hq⟩ := List.mem_filterMap.1 hr
  obtain ⟨x, hx, rfl⟩ := Option.map_eq_some_iff.1 hq
  exact Payload.under_g_reg hx

/-- A result that does not come from a lower slot than the last comes to its register; another leaves the context as it is (R120). -/
theorem Ctx.comeFrom_g_of_le {c : Ctx} {n d : Nat} (h : Table.get 0 c.won d ≤ n) (v : Word) (p : Bool) :
    c.comeFrom n (.g d v p) = { c.come (.g d v p) with won := Table.set c.won d n } := if_neg (Nat.not_lt.2 h)

theorem Ctx.comeFrom_g_of_lt {c : Ctx} {n d : Nat} (h : n < Table.get 0 c.won d) (v : Word) (p : Bool) :
    c.comeFrom n (.g d v p) = c := if_pos h

/-- Applying a result changes registers alone. -/
theorem Ctx.apply_frame (c : Ctx) (p : Payload) :
    ∃ g v m k e h st, c.apply p = { c with g := g, v := v, m := m, k := k, e := e, h := h, stack := st } := by
  cases p with
  | g n v q => unfold Ctx.apply Ctx.setG; dsimp only; split <;> exact ⟨_, _, _, _, _, _, _, rfl⟩
  | k n x => unfold Ctx.apply Ctx.setK; dsimp only; split <;> exact ⟨_, _, _, _, _, _, _, rfl⟩
  | hAdv n consumer k => cases consumer <;> exact ⟨_, _, _, _, _, _, _, rfl⟩
  | _ => exact ⟨_, _, _, _, _, _, _, rfl⟩

theorem Ctx.applyAll_frame (rs : List Res) (c : Ctx) :
    ∃ g v m k e h st, Ctx.applyAll rs c = { c with g := g, v := v, m := m, k := k, e := e, h := h, stack := st } := by
  induction rs generalizing c with
  | nil => exact ⟨_, _, _, _, _, _, _, rfl⟩
  | cons r rs ih =>
    obtain ⟨g, v, m, k, e, h, st, heq⟩ := c.apply_frame r.val
    obtain ⟨g', v', m', k', e', h', st', heq'⟩ := ih (c.apply r.val)
    rw [Ctx.applyAll, heq', heq]
    exact ⟨_, _, _, _, _, _, _, rfl⟩

/-- Landing changes registers and what is pending. -/
theorem Ctx.land_frame (c : Ctx) : ∃ g v m k e h st ps,
    c.land = { c with g := g, v := v, m := m, k := k, e := e, h := h, stack := st, pend := ps } := by
  obtain ⟨g, v, m, k, e, h, st, heq⟩ := Ctx.applyAll_frame (c.pend.filter fun r => decide (r.due ≤ c.step)) c
  rw [Ctx.land, heq]
  exact ⟨_, _, _, _, _, _, _, _, rfl⟩

@[simp] theorem Ctx.land_task (c : Ctx) : c.land.task = c.task := by
  obtain ⟨_, _, _, _, _, _, _, _, h⟩ := c.land_frame
  rw [h]

theorem State.me_task (s : State) : s.me.task = s.task := Ctx.land_task _

theorem State.ifRuns_of_task {s : State} {id tid : Nat} {t : Task} (h : (s.ctx id).task = some t) (ht : t.tid = tid) (f : Ctx → Ctx) :
    s.ifRuns id tid f = s.setCtx id (f (s.ctx id)) := by
  simp only [State.ifRuns, h, ht, if_true]

/-- The divide that was started last is found and taken out of the divider. -/
theorem exec_divideComplete_dividing {s : State} {t : Task} (ht : s.task = some t) (hid : ∀ x ∈ s.divs, x.id ≠ s.fresh) (d : Fin 64)
    (q : Word) (p : Bool) : exec (.divideComplete s.fresh) (s.dividing d q p) =
      .next (State.setCtx { s.dividing d q p with divs := s.divs } s.cur.id (s.me.comeFrom s.fresh (.g d.val q p))) := by
  have hnone : s.divs.find? (fun x => decide (x.id = s.fresh)) = none := List.find?_eq_none.2 fun x hx => by simpa using hid x hx
  have hfind : (s.dividing d q p).divs.find? (fun x => decide (x.id = s.fresh)) =
      some ⟨s.fresh, s.tid, s.cur.id, d.val, q, p, s.time + 40⟩ := by
    simp only [State.dividing, List.find?_append, hnone, Option.none_or, List.find?_cons, decide_true]
  have hrest : (s.dividing d q p).divs.filter (fun x => decide (x.id ≠ s.fresh)) = s.divs := by
    simpa [State.dividing, List.filter_append] using hid
  have hctx : State.ctx { s.dividing d q p with divs := s.divs } s.cur.id = s.me := s.ctx_setMe_same s.me
  have htid : t.tid = s.tid := by rw [State.tid, ht]
  have hrun := State.ifRuns_of_task (s := { s.dividing d q p with divs := s.divs }) (id := s.cur.id)
    (by rw [hctx, State.me_task, ht]) htid fun c => c.comeFrom s.fresh (.g d.val q p)
  rw [hctx] at hrun
  have hexec : exec (.divideComplete s.fresh) (s.dividing d q p) = execDivideComplete s.fresh (s.dividing d q p) := rfl
  rw [hexec, execDivideComplete, hfind]
  simp only [hrest]
  exact congrArg _ hrun

/-- Settles O2: the divide waits in the divider with its value, comes to its register last, and its value is the law of division. -/
theorem divides : Obligations.Divides := by
  refine ⟨fun s d a b => ⟨rfl, rfl, rfl, rfl⟩, ?complete, fun a b => ⟨fun hb => divide_natural hb a, fun hb hov => ?signed,
    fun g => divide_zero g a, rfl⟩⟩
  case complete =>
    intro s t d q p ht hid
    refine ⟨_, exec_divideComplete_dividing ht hid d q p, rfl, ?_⟩
    rw [State.ctx_setCtx_same]
    refine ⟨fun hle => ?_, fun hlt => Ctx.comeFrom_g_of_lt hlt q p, fun n hn => ?_, fun j hj => ?_, rfl⟩
    · rw [Ctx.comeFrom_g_of_le hle]
      exact ⟨(s.me.gr_come_g d.val d.val q p).trans (if_pos rfl), s.me.pend_come_g d.val q p⟩
    · by_cases hlt : s.fresh < Table.get 0 s.me.won d.val
      · rw [Ctx.comeFrom_g_of_lt hlt]
      · rw [Ctx.comeFrom_g_of_le (Nat.not_lt.1 hlt)]
        exact (s.me.gr_come_g d.val n q p).trans (if_neg hn)
    · rw [State.ctx_setCtx, if_neg hj]
      exact (s.ctx_setMe s.me j).trans (if_neg hj)
  case signed =>
    obtain ⟨hq, hr⟩ := divide_signed hb hov
    obtain ⟨hlaw, hlt, hpos, hneg⟩ := tdiv_tmod_law (a := a.toInt) (fun h => hb (BitVec.toInt_inj.1 h) : b.toInt ≠ 0)
    rw [hq, hr]
    exact ⟨rfl, rfl, hlaw, hlt, hpos, hneg⟩

end Sys2Proof.Machine
end

section
/-!
PROOFS. Capabilities (R183–R188, R199, R201, R207–R211): their fields, the instructions that derive them, and the check of an access.
-/

namespace Sys2Proof.Machine

/-! ### Fields -/

theorem Cap.narrow_bits (k : Cap) {len : Nat} (hl : len < 2 ^ 39) (base : Nat) :
    (k.narrow base len).bits.toNat = k.bits.toNat / 2 ^ 96 * 2 ^ 96 + len * 2 ^ 57 + base % 2 ^ 57 := by
  have hk := k.bits.isLt
  rw [Cap.narrow, BitVec.toNat_ofNat]
  omega

/-- A narrowed capability keeps everything but its range. -/
theorem Cap.narrow_fields (k : Cap) {len : Nat} (hl : len < 2 ^ 39) (base : Nat) :
    (k.narrow base len).space = k.space ∧ (k.narrow base len).perm = k.perm ∧ (k.narrow base len).key = k.key ∧
      (k.narrow base len).len = len ∧ (k.narrow base len).base = base % 2 ^ 57 := by
  have hb := k.narrow_bits hl base
  refine ⟨?_, ?_, ?_, ?_, ?_⟩
  · rw [Cap.space, Cap.space, hb]; omega
  · rw [Cap.perm, Cap.perm, hb]; omega
  · rw [Cap.key, Cap.key, hb]; omega
  · rw [Cap.len, hb]; omega
  · rw [Cap.base, hb]; omega

theorem Cap.perm_and_lt (k : Cap) (m : Nat) : k.perm &&& m < 4096 :=
  Nat.lt_of_le_of_lt Nat.and_le_left (Nat.mod_lt _ (by decide))

/-- A capability with its permissions masked keeps everything else. -/
theorem Cap.maskPerm_fields (k : Cap) (m : Nat) :
    (k.maskPerm m).space = k.space ∧ (k.maskPerm m).key = k.key ∧ (k.maskPerm m).len = k.len ∧ (k.maskPerm m).base = k.base ∧
      (k.maskPerm m).perm = k.perm &&& m := by
  have hk := k.bits.isLt
  have hp := k.perm_and_lt m
  have hb : (k.maskPerm m).bits.toNat = k.bits.toNat / 2 ^ 116 * 2 ^ 116 + (k.perm &&& m) * 2 ^ 104 + k.bits.toNat % 2 ^ 104 := by
    rw [Cap.maskPerm, BitVec.toNat_ofNat]
    omega
  generalize k.perm &&& m = p at hb hp ⊢
  refine ⟨?_, ?_, ?_, ?_, ?_⟩
  · rw [Cap.space, Cap.space, hb]; omega
  · rw [Cap.key, Cap.key, hb]; omega
  · rw [Cap.len, Cap.len, hb]; omega
  · rw [Cap.base, Cap.base, hb]; omega
  · rw [Cap.perm, hb]; omega

theorem Cap.len_lt (k : Cap) : k.len < 2 ^ 39 := Nat.mod_lt _ (by decide)

/-- DERIVE is bit 9 of PERM (R207). -/
theorem Cap.holds_derive (k : Cap) : k.holds pDERIVE = k.perm.testBit 9 := by
  have h : k.perm &&& 512 = (k.perm.testBit 9).toNat * 512 := Nat.and_two_pow k.perm 9
  rw [Cap.holds, pDERIVE, h]
  cases k.perm.testBit 9 <;> rfl

theorem toInt_eq_toNat_of_nonneg {w : Word} (h : 0 ≤ w.toInt) : w.toInt = w.toNat := by
  rw [BitVec.toInt_eq_toNat_cond] at h ⊢
  split_ifs at h ⊢ <;> omega

/-! ### The instructions -/

/-- Settles O5: CGET by field, CCHK by its outcome, CNARROW and CPERM where their checks pass. -/
theorem capabilityResults : Obligations.CapabilityResults := by
  refine ⟨fun s d a b c => ⟨?cget, ?cchk⟩, fun s d a => ⟨rfl, rfl⟩, fun s d a m ht hd => ?cperm,
    fun s d a b c hb hc ht hd hoff hlen hend hal => ?cnarrow⟩
  case cget =>
    simp only [List.forall_mem_cons, List.not_mem_nil, false_imp_iff, implies_true, and_true]
    exact ⟨rfl, rfl, rfl, rfl, rfl, rfl⟩
  case cchk =>
    refine next_putG_congr ?_
    cases ht : (s.me.kr a.val).tag <;> simp [Cap.check, ht]
  case cperm =>
    have hx : exec (.cperm d a m) s = execCperm d a m s := rfl
    simp only [hx, execCperm, ht, hd, Bool.not_true, Bool.false_eq_true, if_false]
  case cnarrow =>
    have hx : exec (.cnarrow d a b c) s = execCnarrow d a b c s := rfl
    have hbounds : ¬ ((s.gv b).toInt < 0 ∨ ((s.me.kr a.val).len : Int) < (s.gv b).toInt + (s.gv c).toNat) := by omega
    have halign : ¬ ((s.me.kr a.val).space = 8 ∧ ((s.gv b).toInt % 16 ≠ 0 ∨ (s.gv c).toNat % 16 ≠ 0)) := fun h => by
      have := hal h.1
      omega
    simp only [hx, execCnarrow, hb, hc, ht, hd, Bool.not_true, Bool.false_eq_true, if_false, if_neg hbounds, if_neg halign,
      if_neg (Int.not_lt.2 hend)]

/-- The checks of CNARROW in their order, as one chain. -/
theorem exec_cnarrow (s : State) (d a : Fin 32) (b c : Fin 64) : exec (.cnarrow d a b c) s =
    if s.gp b then .next (s.trap 0x28 (BitVec.ofNat 64 b.val) s.slotBit)
    else if s.gp c then .next (s.trap 0x28 (BitVec.ofNat 64 c.val) s.slotBit)
    else if (s.me.kr a.val).tag = false then .next (s.trap 0x10 0 s.slotBit)
    else if (s.me.kr a.val).perm.testBit 9 = false then .next (s.trap 0x12 0 s.slotBit)
    else if (s.gv b).toInt < 0 ∨ ((s.me.kr a.val).len : Int) < (s.gv b).toInt + (s.gv c).toNat then
      .next (s.trap 0x11 (s.gv b) s.slotBit)
    else if (s.me.kr a.val).space = 8 ∧ ((s.gv b).toInt % 16 ≠ 0 ∨ (s.gv c).toNat % 16 ≠ 0) then .next (s.trap 0x14 (s.gv b) s.slotBit)
    else if (2 ^ 57 : Int) < (s.me.kr a.val).base + (s.gv b).toInt + (s.gv c).toNat then .next (s.trap 0x11 (s.gv b) s.slotBit)
    else .next (s.put 1 (.k d.val ((s.me.kr a.val).narrow ((s.me.kr a.val).base + (s.gv b).toInt.toNat) (s.gv c).toNat))) := by
  have hx : exec (.cnarrow d a b c) s = execCnarrow d a b c s := rfl
  simp only [hx, execCnarrow, State.trapPoisonK, Cap.holds_derive, Bool.not_eq_true']

theorem exec_cperm (s : State) (d a : Fin 32) (m : BitVec 12) : exec (.cperm d a m) s =
    if (s.me.kr a.val).tag = false then .next (s.trap 0x10 0 s.slotBit)
    else if (s.me.kr a.val).perm.testBit 9 = false then .next (s.trap 0x12 0 s.slotBit)
    else .next (s.put 1 (.k d.val ((s.me.kr a.val).maskPerm m.toNat))) := by
  have hx : exec (.cperm d a m) s = execCperm d a m s := rfl
  simp only [hx, execCperm, Cap.holds_derive, Bool.not_eq_true']

/-- Settles O6: the fields of what is derived, by the layout of the 128 bits, and the checks in their order. -/
theorem derivedCapability : Obligations.DerivedCapability := by
  refine ⟨⟨fun k off len hlen hend => ?narrow, fun k m => ?mask⟩, fun s d a b c m => ⟨?_, ?_, fun hb hc => ⟨?_, ?_, ?_, ?_, ?_⟩, ?_, ?_⟩⟩
  case narrow =>
    have hk := k.len_lt
    obtain ⟨hs, hp, hkey, hl, hbase⟩ := k.narrow_fields (len := len) (by omega) (k.base + off)
    exact ⟨rfl, hs, hp, hkey, hl, fun h => hbase.trans (Nat.mod_eq_of_lt h)⟩
  case mask =>
    obtain ⟨hs, hkey, hl, hbase, hp⟩ := k.maskPerm_fields m.toNat
    exact ⟨rfl, hs, hkey, hl, hbase, fun i _ => by rw [hp, Nat.testBit_and]; rfl⟩
  · intro hb
    rw [exec_cnarrow, if_pos hb]
  · intro hb hc
    rw [exec_cnarrow, if_neg (by simp [hb]), if_pos hc]
  · intro ht
    rw [exec_cnarrow, if_neg (by simp [hb]), if_neg (by simp [hc]), if_pos ht]
  · intro ht hd
    rw [exec_cnarrow, if_neg (by simp [hb]), if_neg (by simp [hc]), if_neg (by simp [ht]), if_pos hd]
  · intro ht hd hbounds
    rw [exec_cnarrow, if_neg (by simp [hb]), if_neg (by simp [hc]), if_neg (by simp [ht]), if_neg (by simp [hd]), if_pos hbounds]
  · intro ht hd h0 hlen hs hal
    have hn := toInt_eq_toNat_of_nonneg h0
    rw [exec_cnarrow, if_neg (by simp [hb]), if_neg (by simp [hc]), if_neg (by simp [ht]), if_neg (by simp [hd]), if_neg (by omega),
      if_pos ⟨hs, by omega⟩]
  · intro ht hd h0 hlen hal hend
    have hn := toInt_eq_toNat_of_nonneg h0
    rw [exec_cnarrow, if_neg (by simp [hb]), if_neg (by simp [hc]), if_neg (by simp [ht]), if_neg (by simp [hd]), if_neg (by omega),
      if_neg (fun h => by have := hal h.1; omega), if_pos (by omega)]
  · intro ht
    rw [exec_cperm, if_pos ht]
  · intro ht hd
    rw [exec_cperm, if_neg (by simp [ht]), if_pos hd]

/-! ### The check of an access -/

section

variable (s : State) (id : Nat) (c : Cap) (spaces : List Nat) (off : Int) (size perm al : Nat) (whole spare : Bool)

/-- The checks of an access in their order, as one chain (R210). -/
theorem State.capCheck_chain : s.capCheck id c spaces off size perm al whole spare =
    if c.tag = false then .error ⟨0x10, 0⟩
    else if c.space ∉ spaces then .error ⟨0x13, 0⟩
    else if c.space = 3 ∧ s.spareBarred id (c.base + off).toNat size spare = true then .error ⟨0x13, 0⟩
    else if c.perm &&& perm ≠ perm then .error ⟨0x12, 0⟩
    else if off < 0 ∨ (c.len : Int) < off + size then .error ⟨0x11, BitVec.ofInt 64 off⟩
    else if (c.base + off).toNat % al ≠ 0 ∨ whole = false then .error ⟨0x14, BitVec.ofInt 64 off⟩
    else if s.foreign (id / 4) ((s.ctx id).task.elim 0 (·.func)) c.space (c.base + off).toNat size then .error ⟨0x12, 0⟩
    else .ok ⟨c.space, (c.base + off).toNat, size, c.key⟩ := by
  unfold State.capCheck
  simp only [coreOf, Cap.holds, Bool.not_eq_true', decide_eq_false_iff_not, Bool.and_eq_true, decide_eq_true_eq,
    List.contains_eq_mem]
  cases (s.ctx id).task <;> rfl

/-- A check that passes has passed every one of them. -/
theorem State.capCheck_ok {a : Acc} (h : s.capCheck id c spaces off size perm al whole spare = .ok a) :
    c.tag = true ∧ c.space ∈ spaces ∧ (c.space = 3 → s.spareBarred id (c.base + off).toNat size spare = false) ∧ c.perm &&& perm = perm ∧
      0 ≤ off ∧ off + size ≤ c.len ∧ (c.base + off).toNat % al = 0 ∧ whole = true ∧ a = ⟨c.space, (c.base + off).toNat, size, c.key⟩ := by
  rw [State.capCheck_chain] at h
  split_ifs at h with htag hspace hspare hperm hbounds hal
  obtain ⟨hal, hwhole⟩ := not_or.1 hal
  refine ⟨by simpa using htag, hspace, fun h3 => by simpa [h3] using hspare, not_not.1 hperm, by omega, by omega, not_not.1 hal,
    by simpa using hwhole, (Except.ok.inj h).symm⟩

/-- Beyond the window of the array nothing passes but what is lent (R245). -/
theorem State.spareBarred_of_not {a : Nat} (h : s.spareBarred id a size false = false) : ¬ 0x300000 < a + size := by
  have hb : s.spareBarred id a size false = decide (0x300000 < a + max size 1) := by simp [State.spareBarred]
  rw [hb, decide_eq_false_iff_not] at h
  omega

end

/-- Settles O20: what a passing check says, and where each check comes in the chain. -/
theorem capabilityCheck : Obligations.CapabilityCheck := by
  intro s id c spaces off size perm al whole spare
  refine ⟨fun a ha => ?ok, fun ht => ?_, fun ht hs => ?_, fun ht hs h3 hb => ?_, fun ht hs hb => ⟨fun hp => ?_, fun hp hr => ?_,
    fun hp h0 hl ha => ?_, fun hp h0 hl ha hw => ?_⟩⟩
  case ok =>
    obtain ⟨htag, hspace, hspare, hperm, h0, hl, hal, hwhole, rfl⟩ := State.capCheck_ok _ _ _ _ _ _ _ _ _ _ ha
    refine ⟨htag, hspace, hperm, h0, hl, hwhole, fun h3 hlt => ?_, hal, rfl, ?_, ?_⟩
    · cases spare with
      | true => rfl
      | false => exact absurd hlt (s.spareBarred_of_not id size (hspare h3))
    · dsimp only; omega
    · dsimp only; omega
  all_goals rw [State.capCheck_chain]
  · exact if_pos ht
  · rw [if_neg (by simp [ht]), if_pos hs]
  · rw [if_neg (by simp [ht]), if_neg (by simp [hs]), if_pos ⟨h3, hb⟩]
  all_goals
    have hspare : ¬ (c.space = 3 ∧ s.spareBarred id (c.base + off).toNat size spare = true) := fun h => by simp [hb h.1] at h
    rw [if_neg (by simp [ht]), if_neg (by simp [hs]), if_neg hspare]
  · exact if_pos hp
  · rw [if_neg (not_not.2 hp), if_pos hr]
  · rw [if_neg (not_not.2 hp), if_neg (by omega), if_pos (.inl ha)]
  · rw [if_neg (not_not.2 hp), if_neg (by omega), if_neg (by simp [ha, hw])]

end Sys2Proof.Machine
end

section
/-!
PROOFS. Circular buffers (R213, R214, R247) and barrier records (R385, R386, R388): addresses and counts, packing and arrivals; the state
after reset.
-/

namespace Sys2Proof.Machine

/-! ### Circular buffers -/

theorem Handle.main_pos (h : Handle) : 0 < h.main := by
  unfold Handle.main
  split <;> omega

/-- The position of a count in the ring of a handle without a loan. -/
def Handle.position (h : Handle) (c : Nat) : Nat := (((c : Int) - h.ofs) % (h.main : Int)).toNat

theorem Handle.position_lt (h : Handle) (c : Nat) : h.position c < h.main := by
  have hm := h.main_pos
  have := Int.emod_lt_of_pos ((c : Int) - h.ofs) (b := h.main) (by omega)
  have := Int.emod_nonneg ((c : Int) - h.ofs) (b := h.main) (by omega)
  unfold Handle.position
  omega

theorem Handle.addr_of_no_loan {h : Handle} (hl : h.loan = false) (c : Nat) : h.addr c = h.base + 64 * h.slot * h.position c := by
  simp only [Handle.addr, hl, Bool.false_eq_true, false_and, if_false, Nat.add_zero, Handle.position]

/-- Counts at one position differ by a multiple of the number of slots. -/
theorem Handle.main_dvd_of_position_eq {h : Handle} {c d : Nat} (hp : h.position c = h.position d) : (h.main : Int) ∣ (d : Int) - c := by
  have hm := h.main_pos
  have hc := Int.emod_nonneg ((c : Int) - h.ofs) (b := h.main) (by omega)
  have hd := Int.emod_nonneg ((d : Int) - h.ofs) (b := h.main) (by omega)
  have he : ((d : Int) - h.ofs) % h.main = ((c : Int) - h.ofs) % h.main := by
    unfold Handle.position at hp
    omega
  have hdvd := Int.ModEq.dvd he.symm
  rwa [sub_sub_sub_cancel_right] at hdvd

theorem Handle.addr_injective_near {h : Handle} (hl : h.loan = false) (hs : 0 < h.slot) {c d : Nat} (hcd : c < d) (hd : d < c + h.main) :
    h.addr c ≠ h.addr d := by
  intro he
  rw [Handle.addr_of_no_loan hl, Handle.addr_of_no_loan hl] at he
  have hp := Nat.eq_of_mul_eq_mul_left (by omega) (Nat.add_left_cancel he)
  have := Int.le_of_dvd (by omega) (Handle.main_dvd_of_position_eq hp)
  omega

theorem Ctx.hr_hAdv_producer (c : Ctx) (n k : Nat) :
    (c.apply (.hAdv n false k)).hr n = { c.hr n with pcnt := ((c.hr n).pcnt + k) % 2 ^ 16 } := Table.get_set_same _ _ _ _

theorem Ctx.hr_hAdv_consumer (c : Ctx) (n k : Nat) : (c.apply (.hAdv n true k)).hr n = (c.hr n).consume k := Table.get_set_same _ _ _ _

theorem Handle.consume_of_no_loan {h : Handle} (hl : h.loan = false) (k : Nat) : h.consume k = { h with ccnt := (h.ccnt + k) % 2 ^ 16 } := by
  simp only [Handle.consume, hl, Bool.false_eq_true, false_and, if_false]

theorem Handle.consume_of_loan {h : Handle} (hl : h.loan = true) (k : Nat) :
    (h.consume k).loan = false ↔ (h.gp + h.nov + 2 ^ 16 - h.ccnt) % 2 ^ 16 ≤ k := by
  simp only [Handle.consume, hl, true_and]
  split <;> simp_all

/-- Settles O22: a count's place is its residue by the number of slots, and the counts move modulo 2^16. -/
theorem ringAddress : Obligations.RingAddress := by
  refine ⟨fun h c hl => ⟨_, h.position_lt c, Handle.addr_of_no_loan hl c⟩, fun h c d hl hs => Handle.addr_injective_near hl hs,
    fun c n k hp hc hk => ?_, fun c n k hp hc hk hl => ?_, fun h k hl => Handle.consume_of_loan hl k⟩
  · rw [Ctx.hr_hAdv_producer]
    simp only [Handle.filled] at hk ⊢
    omega
  · rw [Ctx.hr_hAdv_consumer, Handle.consume_of_no_loan hl]
    simp only [Handle.filled] at hk ⊢
    omega

/-! ### Barrier records -/

theorem decide_bit_eq {x : Nat} {b : Bool} (h : x % 2 = b.toNat) : decide (x % 2 = 1) = b := by
  cases b <;> simp_all

/-- Each field of a record lies where the packing puts it (R385). -/
theorem barRec_num {b : BarRec} (hg : b.gen < 2 ^ 32) (he : b.expected < 2 ^ 24) (ha : b.arrived < 2 ^ 24) (hp : b.pending < 2 ^ 24) :
    b.num < 2 ^ 107 ∧ barRec b.num = b := by
  obtain ⟨gen, expected, arrived, pending, error, aborted, remote⟩ := b
  dsimp only at hg he ha hp
  have h1 := Bool.toNat_le error
  have h2 := Bool.toNat_le aborted
  have h3 := Bool.toNat_le remote
  rw [barRec, BarRec.num, BarRec.mk.injEq]
  dsimp only
  refine ⟨by omega, by omega, by omega, by omega, by omega, decide_bit_eq ?_, decide_bit_eq ?_, decide_bit_eq ?_⟩ <;> omega

/-- An arrival that is not the last. -/
theorem BarRec.arrive_before {b : BarRec} (ha : b.aborted = false) (hn : b.arrived + 1 < b.expected) (he : b.expected < 2 ^ 24) :
    b.arrive = { b with arrived := b.arrived + 1 } := by
  simp only [BarRec.arrive, ha, Bool.false_eq_true, if_false, BarRec.settle]
  rw [if_neg (by omega), if_neg (by omega)]

/-- The last arrival completes the record. -/
theorem BarRec.arrive_last {b : BarRec} (ha : b.aborted = false) (hp : b.pending = 0) (hn : b.arrived + 1 = b.expected)
    (he : b.expected < 2 ^ 24) : b.arrive = { b with gen := (b.gen + 1) % 2 ^ 32, arrived := 0 } := by
  simp only [BarRec.arrive, ha, Bool.false_eq_true, if_false, BarRec.settle]
  rw [if_neg (by omega), if_pos ⟨hn, by omega, hp⟩]

theorem BarRec.arrive_iterate {b : BarRec} (h0 : b.arrived = 0) (ha : b.aborted = false) (he : b.expected < 2 ^ 24) {m : Nat}
    (hm : m < b.expected) : BarRec.arrive^[m] b = { b with arrived := m } := by
  induction m with
  | zero => rw [Function.iterate_zero, id_eq, ← h0]
  | succ m ih => rw [Function.iterate_succ_apply', ih (by omega), BarRec.arrive_before (b := { b with arrived := m }) ha hm he]

/-- Settles O27: packing by the places of the fields, completion by induction over the arrivals. -/
theorem barrierRecord : Obligations.BarrierRecord := by
  refine ⟨fun b => barRec_num, fun b => rfl, fun b n h0 hp ha he h1 hn => ⟨fun m hm => ?_, ?_⟩, fun b ha => if_pos ha,
    fun b bound n => ⟨fun hb hs => ?_, fun hb hp => ?_⟩⟩
  · exact BarRec.arrive_iterate h0 ha (he ▸ hn) (he ▸ hm)
  · obtain ⟨m, rfl⟩ := Nat.exists_eq_add_of_le' h1
    rw [Function.iterate_succ_apply', BarRec.arrive_iterate h0 ha (he ▸ hn) (by omega), 
      BarRec.arrive_last (b := { b with arrived := m }) ha hp he.symm (he ▸ hn), ← h0]
  · have hc : (bound || decide (b.pending ≠ 0)) = true := by simpa using hb
    rw [BarRec.init, if_pos hc, BarRec.settle, if_neg (by dsimp only; omega)]
  · rw [BarRec.init, if_neg (by simp [hb, hp])]

/-! ### Reset -/

/-- Settles O42: every table of the state after reset is empty. -/
theorem resetState : Obligations.ResetState := ⟨rfl, rfl, fun _ => rfl, fun _ => rfl, rfl, rfl, fun _ => rfl, fun _ => rfl, rfl⟩

/-- Settles O38: each word is decoded by evaluation. -/
theorem decodeWords : Obligations.DecodeWords := by
  unfold Obligations.DecodeWords
  decide

end Sys2Proof.Machine
end

section
/-!
PROOFS. System instructions (R118, R145, R152, R196, R408, R421–R433): special registers, TRAP, and those that only note something.
-/

namespace Sys2Proof.Machine

theorem State.special_peer (s : State) {m : Nat} (h : 0x20 ≤ m) : s.special m = (s.me.er (m - 0x20)).setWidth 64 := by
  unfold State.special
  split <;> first | omega | rfl

theorem State.setSpecial_peer (s : State) {m : Nat} (h : 0x20 ≤ m) (v : Word) :
    s.setSpecial m v = s.put 1 (.e (m - 0x20) (v.setWidth 13)) := by
  unfold State.setSpecial
  split <;> first | omega | rfl

/-- The number of a peer register as MFSR and MTSR name it (R421). -/
theorem peer_number (n : Fin 16) : (BitVec.ofNat 12 (0x20 + n.val)).toNat = 0x20 + n.val := by
  rw [BitVec.toNat_ofNat]
  omega

/-- Settles O15: each numbered register by its own arm; the peer registers by their number. -/
theorem specialRegisters : Obligations.SpecialRegisters := by
  refine ⟨fun s d t ht => ⟨?named, fun n => ?peer⟩, fun s a ha => ?write, fun s a n ha => ?poison⟩
  case named =>
    have hpart : s.special 0x009 = BitVec.ofNat 64 (t.func * 2 ^ 8 + t.expl.toNat * 2 ^ 7 + t.child * 2 ^ 4 + t.l1) := by
      simp only [State.special, ht, Task.partWord]
    have hwheel : s.special 0x00C = s.wheelWord t := by simp only [State.special, ht]
    have hgraceful : s.special 0x010 = if s.me.prq = none then 0 else 1 := by
      cases hp : s.me.prq <;> simp [State.special, hp, flagWord]
    have hctx : s.special 0x008 = BitVec.ofNat 64 (s.cur.id / 32 * 2 ^ 16 + s.cur.id / 4 * 2 ^ 8 + s.cur.id % 4) := by
      simp only [State.special, ctxWord, clusterOf, coreOf, Nat.div_div_eq_div_mul]
    simp only [List.forall_mem_cons, List.not_mem_nil, false_imp_iff, implies_true, and_true]
    exact ⟨rfl, rfl, rfl, rfl, rfl, rfl, rfl, rfl, next_putG_congr hctx, next_putG_congr hpart, rfl, rfl, next_putG_congr hwheel, rfl,
      rfl, rfl, next_putG_congr hgraceful⟩
  case peer =>
    refine next_putG_congr ?_
    rw [peer_number, s.special_peer (Nat.le_add_right _ _), Nat.add_sub_cancel_left]
  case write =>
    have hx : ∀ n, exec (.mtsr a n) s = .next (s.setSpecial n.toNat (s.gv a)) := fun n => if_neg (by simp [ha])
    refine ⟨hx _, hx _, hx _, hx _, fun n => (hx _).trans ?_⟩
    rw [peer_number, s.setSpecial_peer (Nat.le_add_right _ _), Nat.add_sub_cancel_left]
  case poison => exact if_pos ha

/-- A poisoned register raises 0x28 with its number, v registers counted from 64 (R196). -/
theorem State.trapPoison_g (s : State) (n : Nat) : s.trapPoison false n = s.trapOpen 0x28 (BitVec.ofNat 64 n) := by
  rw [State.trapPoison, Bool.toNat_false, Nat.zero_mul, Nat.zero_add]

theorem State.trapPoison_v (s : State) (n : Nat) : s.trapPoison true n = s.trapOpen 0x28 (BitVec.ofNat 64 (64 + n)) := by
  rw [State.trapPoison, Bool.toNat_true, Nat.one_mul]

theorem ofNat_div_eq_extractLsb' (r : BitVec 512) (n : Nat) : BitVec.ofNat 64 (r.toNat / 2 ^ n) = r.extractLsb' n 64 := by
  refine BitVec.eq_of_toNat_eq ?_
  rw [BitVec.toNat_ofNat, BitVec.extractLsb'_toNat, Nat.shiftRight_eq_div_pow]

/-- Settles O10: each arm has at most one test, of poison, of the frame, of an open request or of a debugger. -/
theorem systemInstructions : Obligations.SystemInstructions := by
  refine ⟨fun s a => ⟨fun h => ?_, fun h => ?_, fun h => ?_, fun h => ?_, rfl, fun _ _ _ _ => rfl⟩, fun s t d a i w ht =>
    ⟨fun h => ?_, fun h => ?_, ?featq, fun hf hp => ?_, fun h => ?_, fun h => ?_, fun h => ?_, fun h => ?_, fun h => ?_, ?mcrd⟩⟩
  case featq =>
    have hf : s.func = t.func := by rw [State.func, ht]
    have hx : exec (.featq d a i) s = execFeatq d a i s := rfl
    simp only [hx, execFeatq, hf, ht]
  case mcrd =>
    have hx : exec (.mcrd d a w) s = execMcrd d a w s := rfl
    simp only [hx, execMcrd, ht]
    refine ⟨_, rfl, fun hlen => ?_, fun r hr => ?_⟩
    · rw [List.getElem?_eq_none hlen]
    · rw [hr]
      exact ofNat_div_eq_extractLsb' r _
  · exact if_neg (by simp [h])
  · exact if_neg (by simp [h])
  · exact (if_pos h).trans (congrArg _ (s.trapPoison_g a.val))
  · exact (if_pos h).trans (congrArg _ (s.trapPoison_v a.val))
  · exact if_neg (by simpa [Option.isNone_iff_eq_none, Option.isSome_iff_ne_none] using h)
  · exact if_pos (by simp [h])
  · exact if_neg (by simp [hf, hp])
  · exact if_pos (by simpa using h)
  · exact if_pos h
  · exact if_neg (by simp [h])
  · exact if_pos h
  · exact if_neg (by simp [h])

/-! ### TRAP -/

theorem Table.set_set {α : Type} (t : Table α) (k : Nat) (v w : α) : Table.set (Table.set t k v) k w = Table.set t k w := by
  induction t with
  | nil => simp [Table.set]
  | cons p t ih =>
    obtain ⟨j, x⟩ := p
    simp only [Table.set]
    split
    · simp [Table.set]
    · split
      · simp [Table.set]
      · simp only [Table.set, if_neg, *, not_false_eq_true]

theorem State.setCtx_setCtx (s : State) (id : Nat) (c d : Ctx) : (s.setCtx id c).setCtx id d = s.setCtx id d := by
  simp only [State.setCtx, Table.set_set]

/-- The context without its delay position, with the branch bundle that an exception refers to. -/
def Ctx.leaveDelay (c : Ctx) (off : Option Word) : Ctx := { c with fb := off, delay := none }

/-- The delay position plays no part in what lands. -/
theorem Ctx.apply_leaveDelay (c : Ctx) (x : Option Word) (p : Payload) : (c.leaveDelay x).apply p = (c.apply p).leaveDelay x := by
  cases p with
  | g n v q => unfold Ctx.apply Ctx.setG; dsimp only; split <;> rfl
  | k n x => unfold Ctx.apply Ctx.setK; dsimp only; split <;> rfl
  | hAdv n consumer k => cases consumer <;> rfl
  | _ => rfl

theorem Ctx.applyAll_leaveDelay (rs : List Res) (c : Ctx) (x : Option Word) :
    Ctx.applyAll rs (c.leaveDelay x) = (Ctx.applyAll rs c).leaveDelay x := by
  induction rs generalizing c with
  | nil => rfl
  | cons r rs ih => rw [Ctx.applyAll, Ctx.apply_leaveDelay, ih, Ctx.applyAll]

theorem Ctx.landRest_leaveDelay (c : Ctx) (x : Option Word) : (c.leaveDelay x).landRest = c.landRest.leaveDelay x := by
  have h := Ctx.applyAll_leaveDelay (c.pend.filter fun r => !r.val.exposed) c x
  unfold Ctx.landRest
  exact congrArg (fun d : Ctx => { d with pend := [] }) h

/-- The exception of TRAP, returning to `ret` (R424). -/
def Ctx.trapOf (c : Ctx) (i : BitVec 12) (ret : Word) : Trap := ⟨0x50, false, false, false, false, i.setWidth 64, 0, ret, c.pc⟩

/-- Where the handler of a TRAP returns to: after the bundle, or to the target of the taken transfer whose delay bundle it is. -/
def State.trapReturn (s : State) : Word :=
  match (s.ctx s.cur.id).delay with
  | some b => if b.taken then b.target else s.after
  | none => s.after

/-- Entering the handler from the context without its delay position. -/
theorem Ctx.enter_leaveDelay (c : Ctx) (x : Option Word) (t : Trap) (a : Word) : (c.leaveDelay x).enter t a =
    { c.landRest with
      frame := some ((c.leaveDelay x).frameFor t.ret (causeWord t) t.tval t.tval2)
      late := none, stack := [], wait := none, more := [], trapReq := none, after := none, drains := []
      cause := causeWord t, tval := t.tval, tval2 := t.tval2, pc := a, br := none, delay := none, fb := none } := by
  rw [Ctx.enter, Ctx.landRest_leaveDelay]
  rfl

@[simp] theorem Ctx.causeWord_trapOf (c : Ctx) (i : BitVec 12) (ret : Word) : causeWord (c.trapOf i ret) = 0x50 := by
  simp [causeWord, Ctx.trapOf]

/-- The exception is taken from the context that has just been written. -/
theorem State.takeTrap_setCtx_of_handler {s : State} {id : Nat} {c : Ctx} {t : Trap} {a : Word} (htask : c.task = (s.ctx id).task)
    (hf : c.frame = none) (hh : s.handler c t.code = some a) (ho : s.outstanding id = false) :
    (s.setCtx id c).takeTrap id t = s.setCtx id (c.enter t a) := by
  have hc := State.ctx_setCtx_same s id c
  rw [State.takeTrap_of_handler (by rw [hc]; exact hf) (by rw [hc]; exact hh) ((State.outstanding_setCtx htask).trans ho), hc,
    State.setCtx_setCtx]

/-- Settles O16: TRAP enters the handler from the context without its delay position, to which the frame's pc refers. -/
theorem trapInstruction : Obligations.TrapInstruction := by
  intro s i a hf hh ho
  have hx : ∃ off, exec (.trap i) s = .next { (s.setCtx s.cur.id ((s.ctx s.cur.id).leaveDelay off)).takeTrap s.cur.id
      ((s.ctx s.cur.id).trapOf i s.trapReturn) with cur := { s.cur with verdict := .trapped } } := ⟨_, rfl⟩
  obtain ⟨off, hx⟩ := hx
  rw [State.takeTrap_setCtx_of_handler (c := (s.ctx s.cur.id).leaveDelay off) (t := (s.ctx s.cur.id).trapOf i s.trapReturn) rfl hf hh ho,
    Ctx.enter_leaveDelay, Ctx.causeWord_trapOf] at hx
  have hstack := congrArg Ctx.stack ((s.ctx s.cur.id).landRest_leaveDelay off)
  refine ⟨_, hx, rfl, rfl, rfl, hstack, fun hd => ?_, fun x p e hd => ?_⟩
  · show s.trapReturn = _
    rw [State.trapReturn, hd]
    rfl
  · show s.trapReturn = _
    rw [State.trapReturn, hd]
    rfl

end Sys2Proof.Machine
end

section
/-!
PROOFS. Vector instructions (R258–R261, R279–R300): frame, packed lanes, where an element-wise result lands, and compares.
-/

namespace Sys2Proof.Machine

/-! ### The frame of vector instructions -/

/-- A vector instruction with a v destination puts one value. -/
theorem exec_vector {i : Instr} {d : Fin 64} (hd : vectorDest i = some d) (s : State) :
    ∃ lat val sel tag f, exec i s = .next (s.putV lat d val sel tag f) := by
  cases i <;> cases hd <;> exact ⟨_, _, _, _, _, rfl⟩

theorem State.registerFrame_putV (s : State) (lat : Nat) (d : Fin 64) (val sel : Vec) (tag : Bool) (f : Flags) :
    s.RegisterFrame (s.putV lat d val sel tag f) [.v d.val] :=
  s.registerFrame_setMe f.word [⟨s.me.step + lat, .v d.val val sel (tag || (decide (sel ≠ BitVec.allOnes 2048) && s.vp d))⟩]
    fun q hq => ⟨_, List.mem_singleton_self _, by rw [List.mem_singleton.1 hq]; rfl⟩

/-- Settles O35: every one of them puts one value through `putV`. -/
theorem vectorFrame : Obligations.VectorFrame := by
  intro i d s t hd ht
  obtain ⟨lat, val, sel, tag, f, hx⟩ := exec_vector hd s
  obtain rfl : s.putV lat d val sel tag f = t := Host.Outcome.next.inj (hx.symm.trans ht)
  exact s.registerFrame_putV lat d val sel tag f

/-! ### Packed lanes -/

/-- Bit `i` of packed lanes is bit `i % w` of lane `i / w`. -/
theorem testBit_packLanes {w : Nat} (hw : 0 < w) (xs : List Nat) (i : Nat) :
    (packLanes w xs).testBit i = (xs.getD (i / w) 0).testBit (i % w) := by
  induction xs generalizing i with
  | nil => simp [packLanes]
  | cons x xs ih =>
    rw [packLanes, Nat.add_comm, Nat.testBit_two_pow_mul_add _ (Nat.mod_lt _ (Nat.two_pow_pos w))]
    by_cases hi : i < w
    · rw [if_pos hi, Nat.testBit_mod_two_pow, Nat.div_eq_of_lt hi, Nat.mod_eq_of_lt hi]
      simp [hi]
    · have hle := Nat.not_lt.1 hi
      rw [if_neg hi, ih, ← Nat.mod_eq_sub_mod hle]
      have hd : i / w = (i - w) / w + 1 := by rw [Nat.div_eq_sub_div hw hle]
      rw [hd, List.getD_cons_succ]

theorem getLsbD_packLanes {n w : Nat} (hw : 0 < w) (xs : List Nat) {i : Nat} (hi : i < n) :
    (BitVec.ofNat n (packLanes w xs)).getLsbD i = (xs.getD (i / w) 0).testBit (i % w) := by
  rw [BitVec.getLsbD_ofNat, testBit_packLanes hw]
  simp [hi]

theorem getD_map_range {α : Type} (f : Nat → α) (a : α) {n i : Nat} (hi : i < n) : ((List.range n).map f).getD i a = f i := by
  simp [List.getD_eq_getElem?_getD, hi]

/-- A bit of an element is a bit of its vector. -/
theorem testBit_elem (w : Nat) (x : Vec) (j b : Nat) : (elem w x j).testBit b = (decide (b < w) && x.getLsbD (w * j + b)) := by
  rw [elem, Nat.testBit_mod_two_pow, Nat.testBit_div_two_pow, Nat.add_comm b]
  rfl

/-- An element width and a lane width of the vector unit: lanes of 32 or 64 bits hold whole elements (R279). -/
structure LaneWidths (ew lw : Nat) : Prop where
  elem : ew = 8 ∨ ew = 16 ∨ ew = 32 ∨ ew = 64
  lane : lw = 32 ∨ lw = 64
  fits : ew ≤ lw

theorem LaneWidths.pos {ew lw : Nat} (h : LaneWidths ew lw) : 0 < ew ∧ 0 < lw := by
  obtain ⟨he, hl, -⟩ := h
  omega

/-- Every bit of an element lies in the lane that holds the element. -/
theorem LaneWidths.lane_of_bit {ew lw j b : Nat} (h : LaneWidths ew lw) (hb : b < ew) : (ew * j + b) / lw = j * ew / lw := by
  obtain ⟨he, hl, hf⟩ := h
  rcases he with rfl | rfl | rfl | rfl <;> rcases hl with rfl | rfl <;> omega

/-- The elements of lane `n` are those from `n * (lw / ew)` on, `lw / ew` in number. -/
theorem LaneWidths.elem_in_lane {ew lw : Nat} (h : LaneWidths ew lw) (j n : Nat) :
    j * ew / lw = n ↔ n * (lw / ew) ≤ j ∧ j < n * (lw / ew) + lw / ew := by
  obtain ⟨he, hl, hf⟩ := h
  rcases he with rfl | rfl | rfl | rfl <;> rcases hl with rfl | rfl <;> simp only [Nat.reduceDiv] <;> omega

theorem LaneWidths.bit_lt {ew lw j b : Nat} (h : LaneWidths ew lw) (hj : j < 2048 / ew) (hb : b < ew) : ew * j + b < 2048 := by
  obtain ⟨he, -, -⟩ := h
  rcases he with rfl | rfl | rfl | rfl <;> omega

/-- A bit of the lanes that a mask selects. -/
theorem getLsbD_laneBits {ew lw : Nat} (h : LaneWidths ew lw) (m : Mask) {i : Nat} (hi : i < 2048) :
    (laneBits lw m).getLsbD i = m.getLsbD (i / lw) := by
  obtain ⟨-, hl⟩ := h.pos
  have hlane : i / lw < 2048 / lw := by
    obtain ⟨-, hlw, -⟩ := h
    rcases hlw with rfl | rfl <;> omega
  rw [laneBits, getLsbD_packLanes hl _ hi, getD_map_range _ _ hlane]
  cases m.getLsbD (i / lw)
  · simp
  · rw [if_pos rfl, Nat.testBit_two_pow_sub_one]
    exact decide_eq_true (Nat.mod_lt _ hl)

/-- All lanes are selected exactly when every bit of the mask that names a lane is 1. -/
theorem laneBits_eq_allOnes_iff {ew lw : Nat} (h : LaneWidths ew lw) (m : Mask) :
    laneBits lw m = BitVec.allOnes 2048 ↔ ∀ j, j < 2048 / lw → m.getLsbD j = true := by
  obtain ⟨-, hl⟩ := h.pos
  constructor
  · intro he j hj
    have hi : j * lw < 2048 := by
      obtain ⟨-, hlw, -⟩ := h
      rcases hlw with rfl | rfl <;> omega
    have hb := getLsbD_laneBits h m hi
    rw [he, BitVec.getLsbD_allOnes, Nat.mul_div_cancel _ hl] at hb
    simpa [hi] using hb.symm
  · intro hall
    refine BitVec.eq_of_getLsbD_eq fun i hi => ?_
    rw [getLsbD_laneBits h m hi, BitVec.getLsbD_allOnes, hall]
    · simp [hi]
    · obtain ⟨-, hlw, -⟩ := h
      rcases hlw with rfl | rfl <;> omega

/-- What a merge of selected lanes leaves in each element. -/
theorem elem_mergeBits_lanes {ew lw : Nat} (h : LaneWidths ew lw) (old : Vec) (m : Mask) (f : Nat → Elem) {j : Nat} (hj : j < 2048 / ew) :
    elem ew (mergeBits old (BitVec.ofNat 2048 (packLanes ew ((elemResults ew lw m f).map (·.1)))) (laneBits lw m)) j =
      if m.getLsbD (j * ew / lw) then (f j).1 % 2 ^ ew else elem ew old j := by
  obtain ⟨he, -⟩ := h.pos
  refine Nat.eq_of_testBit_eq fun b => ?_
  rw [testBit_elem]
  by_cases hb : b < ew
  · have hi := h.bit_lt hj hb
    have hdiv : (ew * j + b) / ew = j := by rw [Nat.mul_add_div he, Nat.div_eq_of_lt hb, Nat.add_zero]
    have hmod : (ew * j + b) % ew = b := by rw [Nat.mul_add_mod, Nat.mod_eq_of_lt hb]
    have hval : (BitVec.ofNat 2048 (packLanes ew ((elemResults ew lw m f).map (·.1)))).getLsbD (ew * j + b) =
        ((if m.getLsbD (j * ew / lw) then f j else (0, {})).1).testBit b := by
      rw [getLsbD_packLanes he _ hi, hdiv, hmod, elemResults, List.map_map, getD_map_range _ _ hj]
      rfl
    simp only [mergeBits, BitVec.getLsbD_or, BitVec.getLsbD_and, BitVec.getLsbD_not, hval, getLsbD_laneBits h m hi, h.lane_of_bit hb, hb,
      hi, decide_true, Bool.true_and]
    cases m.getLsbD (j * ew / lw)
    · simp [testBit_elem, hb]
    · simp [Nat.testBit_mod_two_pow, hb]
  · split <;> simp [testBit_elem, Nat.testBit_mod_two_pow, hb]

/-! ### Landing in a v register -/

theorem State.me_putV {s : State} {lat : Nat} (h : 1 ≤ lat) (d : Fin 64) (val sel : Vec) (tag : Bool) (f : Flags) :
    (s.putV lat d val sel tag f).me = { s.me.raise f with
      pend := s.me.pend ++ [⟨s.me.step + lat, .v d.val val sel (tag || (decide (sel ≠ BitVec.allOnes 2048) && s.vp d))⟩] } := by
  refine (s.me_setMe _).trans (Ctx.land_eq_self fun r hr => ?_)
  rcases List.mem_append.1 hr with hr | hr
  · have := Ctx.land_due (s.ctx s.cur.id) hr
    simpa [State.me, Ctx.raise] using this
  · rw [List.mem_singleton.1 hr]
    simp only [Ctx.raise]
    omega

/-- A result for another register leaves a v register. -/
theorem Ctx.vr_apply {c : Ctx} {p : Payload} {n : Nat} (h : p.reg ≠ some (.v n)) : (c.apply p).vr n = c.vr n := by
  cases p with
  | g i v q => unfold Ctx.apply Ctx.setG; dsimp only; split <;> rfl
  | k i x => unfold Ctx.apply Ctx.setK; dsimp only; split <;> rfl
  | hAdv i consumer k => cases consumer <;> rfl
  | v i x sel q =>
    have hn : n ≠ i := fun hn => h (by rw [hn]; rfl)
    exact Table.get_set_other _ _ _ hn
  | _ => rfl

theorem Ctx.vr_applyAll {rs : List Res} {n : Nat} (h : ∀ r ∈ rs, r.val.reg ≠ some (.v n)) (c : Ctx) : (Ctx.applyAll rs c).vr n = c.vr n := by
  induction rs generalizing c with
  | nil => rfl
  | cons r rs ih =>
    obtain ⟨hr, hrs⟩ := List.forall_mem_cons.1 h
    rw [Ctx.applyAll, ih hrs, Ctx.vr_apply hr]

/-- Once a v result is due, with no other pending for its register, the register is the merge. -/
theorem Ctx.vr_land_due {c : Ctx} {ps : List Res} {n t : Nat} {v sel : Vec} {q : Bool} (h : ∀ r ∈ ps, r.val.reg ≠ some (.v n))
    (hc : c.pend = ps ++ [⟨t, .v n v sel q⟩]) (ht : t ≤ c.step) : c.land.vr n = ⟨mergeBits (c.vr n).v v sel, q⟩ := by
  have hpend : c.pend.filter (fun r => decide (r.due ≤ c.step)) = ps.filter (fun r => decide (r.due ≤ c.step)) ++ [⟨t, .v n v sel q⟩] := by
    simp [hc, ht]
  have hrest : (Ctx.applyAll (ps.filter fun r => decide (r.due ≤ c.step)) c).vr n = c.vr n :=
    Ctx.vr_applyAll (fun r hr => h r (List.mem_of_mem_filter hr)) c
  have hland : c.land.vr n = ((Ctx.applyAll (ps.filter fun r => decide (r.due ≤ c.step)) c).apply (.v n v sel q)).vr n := by
    unfold Ctx.land
    rw [hpend, Ctx.applyAll_append]
    rfl
  rw [hland, ← hrest]
  exact Table.get_set_same _ _ _ _

/-- Settles O34: at the step it is due the result is merged, bit by bit, into the register that no other result has written. -/
theorem lanewiseLands : Obligations.LanewiseLands := by
  intro s lat d ew lw m tag f c hew hlw hle hlat hpend hc
  have h : LaneWidths ew lw := ⟨by simpa using hew, by simpa using hlw, hle⟩
  have hme := State.me_putV (s := s) hlat d (BitVec.ofNat 2048 (packLanes ew ((elemResults ew lw m f).map (·.1)))) (laneBits lw m) tag
    (flagsOf (elemResults ew lw m f))
  have hvr : c.vr d.val = ⟨mergeBits (s.me.vr d.val).v (BitVec.ofNat 2048 (packLanes ew ((elemResults ew lw m f).map (·.1)))) (laneBits lw m),
      tag || (decide (laneBits lw m ≠ BitVec.allOnes 2048) && s.vp d)⟩ := by
    rw [hc, State.lanewise, hme]
    exact Ctx.vr_land_due hpend rfl (Nat.le_refl _)
  rw [hvr]
  refine ⟨fun j hj => elem_mergeBits_lanes h _ m f hj, ?_, ?_⟩
  · simp only [Bool.or_eq_true, Bool.and_eq_true, decide_eq_true_eq, ne_eq, laneBits_eq_allOnes_iff h, not_forall, exists_prop,
      Bool.not_eq_true]
  · rw [State.lanewise, hme]
    rfl

/-! ### Compares -/

/-- The mask of a compare: with 64-bit lanes there are 32 of them (R280). -/
def State.compareMask (s : State) (lw : Nat) (m : Fin 8) : Mask := if lw = 64 then s.me.mask m.val &&& 0xFFFFFFFF else s.me.mask m.val

/-- All of a stretch of a mapped range. -/
theorem all_drop_take_map_range (f : Nat → Bool × Flags) {n lo len : Nat} (h : lo + len ≤ n) :
    ((((List.range n).map f).drop lo).take len).all (·.1) = true ↔ ∀ j, lo ≤ j → j < lo + len → (f j).1 = true := by
  have hs : (((List.range n).map f).drop lo).take len = (List.range' lo len).map f := by
    have hsplit : List.range n = List.range' 0 lo ++ (List.range' lo len ++ List.range' (lo + len) (n - (lo + len))) := by
      rw [List.range'_append_1, ← List.range_eq_range', List.range_eq_range', List.range_eq_range']
      have := List.range'_append_1 (s := 0) (m := lo) (n := len + (n - (lo + len)))
      rw [Nat.zero_add] at this
      rw [this]
      congr 1
      omega
    rw [← List.map_drop, ← List.map_take, hsplit, List.drop_left' (List.length_range' ..), List.take_left' (List.length_range' ..)]
  rw [hs, List.all_map, List.all_eq_true]
  simp only [List.mem_range'_1, Function.comp_apply, and_imp]

/-- A compare of unpoisoned sources sets the bit of a selected lane exactly where the relation holds for each of its elements. -/
theorem vecCmp_lane {ew lw : Nat} (h : LaneWidths ew lw) (rel : Nat → Nat → Bool × Flags) (d : Fin 8) (a b : Fin 64) (m : Fin 8)
    (x : Lit) {s : State} (ha : s.vp a = false) (hb : s.vp b = false) :
    ∃ v f, vecCmp ew lw rel d a b m x s = .next (s.putM 2 d v (s.compareMask lw m) f) ∧
      ∀ n, n < 2048 / lw → (s.compareMask lw m).getLsbD n = true → (v.getLsbD n = true ↔
        ∀ j, j * ew / lw = n → (rel (elem ew (s.va lw x a) j) (elem ew (s.vb lw x b) j)).1 = true) := by
  have hnone : s.vecPoison [a, b] = none := by simp [State.vecPoison, ha, hb]
  unfold vecCmp
  rw [hnone]
  refine ⟨_, _, rfl, fun n hn hk => ?_⟩
  have h64 : n < 64 := by
    obtain ⟨-, hlw, -⟩ := h
    rcases hlw with rfl | rfl <;> omega
  have hfit : n * (lw / ew) + lw / ew ≤ 2048 / ew := by
    obtain ⟨he, hlw, hf⟩ := h
    rcases he with rfl | rfl | rfl | rfl <;> rcases hlw with rfl | rfl <;> omega
  rw [getLsbD_packLanes Nat.one_pos _ h64, Nat.div_one, Nat.mod_one, getD_map_range _ _ hn, ← State.compareMask]
  simp only [h.elem_in_lane, and_imp]
  have hall := all_drop_take_map_range (fun j => if (s.compareMask lw m).getLsbD (j * ew / lw) then
    rel (elem ew (s.va lw x a) j) (elem ew (s.vb lw x b) j) else (true, {})) hfit
  split
  next htrue =>
    refine ⟨fun _ j hlo hhi => ?_, fun _ => rfl⟩
    have hj := hall.1 htrue j hlo hhi
    rwa [(h.elem_in_lane j n).2 ⟨hlo, hhi⟩, if_pos hk] at hj
  next hfalse =>
    refine ⟨fun hz => by simp at hz, fun hrel => absurd (hall.2 fun j hlo hhi => ?_) hfalse⟩
    rw [(h.elem_in_lane j n).2 ⟨hlo, hhi⟩, if_pos hk]
    exact hrel j hlo hhi

/-- A compare raises 0x28 for its first poisoned source (R282). -/
theorem vecCmp_poison_first (ew lw : Nat) (rel : Nat → Nat → Bool × Flags) (d : Fin 8) {a : Fin 64} (b : Fin 64) (m : Fin 8) (x : Lit)
    {s : State} (ha : s.vp a = true) : vecCmp ew lw rel d a b m x s = .next (s.trapPoison true a.val) := by
  simp only [vecCmp, State.vecPoison, ha, if_true]

theorem vecCmp_poison_second (ew lw : Nat) (rel : Nat → Nat → Bool × Flags) (d : Fin 8) {a b : Fin 64} (m : Fin 8) (x : Lit)
    {s : State} (ha : s.vp a = false) (hb : s.vp b = true) : vecCmp ew lw rel d a b m x s = .next (s.trapPoison true b.val) := by
  simp only [vecCmp, State.vecPoison, ha, hb, if_true, Bool.false_eq_true, if_false]

theorem laneWidths_I (t : Nat) : LaneWidths (elemWI t) (laneWI t) := by
  have ht : t % 4 = 0 ∨ t % 4 = 1 ∨ t % 4 = 2 ∨ t % 4 = 3 := by omega
  unfold elemWI laneWI
  rcases ht with h | h | h | h <;> rw [h] <;> exact ⟨by decide, by decide, by decide⟩

theorem laneWidths_F (t : Nat) : LaneWidths (elemWF t) (laneWF t) := by
  unfold elemWF laneWF
  by_cases h3 : t = 3
  · rw [if_pos h3, if_pos h3]
    exact ⟨by decide, by decide, by decide⟩
  · rw [if_neg h3, if_neg h3]
    split <;> exact ⟨by decide, by decide, by decide⟩

/-- A floating-point relation holds of no NaN (R288). -/
theorem relF_iff (f : Fmt) (r : Fp → Fp → Bool) (x y : Nat) :
    (relF f r x y).1 = true ↔ (f.value x).isNan = false ∧ (f.value y).isNan = false ∧ r (f.value x) (f.value y) = true := by
  cases hx : (f.value x).isNan <;> cases hy : (f.value y).isNan <;> simp [relF, hx, hy]

/-- Settles O33: each compare is `vecCmp` with its own relation. -/
theorem vectorCompares : Obligations.VectorCompares := by
  intro s d a b m t l ew lw k i rel hk hi
  have hcmp : ∃ r : Nat → Nat → Bool × Flags, LaneWidths ew lw ∧ exec i s = vecCmp ew lw r d a b m l s ∧
      ∀ u v, (r u v).1 = true ↔ rel u v := by
    rcases hi with ⟨rfl, rfl, hi⟩ | ⟨rfl, rfl, hi⟩
    · have hI : ∀ r, vecCmpI r d a b m t l s = vecCmp (elemWI t.val) (laneWI t.val)
          (fun u v => (r (toInt (elemWI t.val) (signedI t.val) u) (toInt (elemWI t.val) (signedI t.val) v), {})) d a b m l s := fun _ => rfl
      rcases hi with ⟨rfl, rfl⟩ | ⟨rfl, rfl⟩ | ⟨rfl, rfl⟩
      · exact ⟨_, laneWidths_I _, hI fun u v => decide (u = v), fun u v => decide_eq_true_iff⟩
      · exact ⟨_, laneWidths_I _, hI fun u v => decide (u < v), fun u v => decide_eq_true_iff⟩
      · exact ⟨_, laneWidths_I _, hI fun u v => decide (u ≤ v), fun u v => decide_eq_true_iff⟩
    · have hF : ∀ r, vecCmpF r d a b m t l s = vecCmp (elemWF t.val) (laneWF t.val) (relF (fmtOf t.val) r) d a b m l s := fun _ => rfl
      rcases hi with ⟨rfl, rfl⟩ | ⟨rfl, rfl⟩ | ⟨rfl, rfl⟩
      · refine ⟨_, laneWidths_F _, hF fun u v => !u.less false v && !v.less false u, fun u v => ?_⟩
        rw [relF_iff, Bool.and_eq_true, Bool.not_eq_true', Bool.not_eq_true']
      · exact ⟨_, laneWidths_F _, hF fun u v => u.less false v, relF_iff _ _⟩
      · refine ⟨_, laneWidths_F _, hF fun u v => !v.less false u, fun u v => ?_⟩
        rw [relF_iff, Bool.not_eq_true']
  obtain ⟨r, hw, hx, hr⟩ := hcmp
  obtain rfl : k = s.compareMask lw m := hk
  rw [hx]
  refine ⟨fun ha hb => ?_, vecCmp_poison_first _ _ _ _ _ _ _, vecCmp_poison_second _ _ _ _ _ _⟩
  obtain ⟨v, f, hnext, hbit⟩ := vecCmp_lane hw r d a b m l ha hb
  refine ⟨v, f, hnext, fun n hn hkn => ?_⟩
  simp only [hbit n hn hkn, hr]

end Sys2Proof.Machine
end

section
/-!
PROOFS. Exceptions and the end of a task (R402–R412, R419, R169–R171, R197): what a precise exception saves, what a return restores, TAIL.
-/

namespace Sys2Proof.Machine

/-! ### Ending a task -/

theorem State.leaveGroup_retire (s : State) (id tid iss : Nat) (pc : Word) (fl : Bool) (ls : List Nat) (g : Nat) :
    (s.leaveGroup id tid iss pc fl ls g).retire = s.retire := by
  unfold State.leaveGroup
  split <;> rfl

theorem State.leaveGroups_retire (gs : List Nat) (id tid iss : Nat) (pc : Word) (fl : Bool) (s : State) :
    (gs.foldl (fun u g => u.leaveGroup id tid iss pc fl [] g) s).retire = s.retire := by
  induction gs generalizing s with
  | nil => rfl
  | cons g gs ih => exact (ih _).trans (s.leaveGroup_retire ..)

/-- The retirement-tracker entry of the task of a context (R169). -/
def State.retireEntry (s : State) (id : Nat) (t : Task) (code : Nat) (fpc tval : Word) (pend mchk tail : Bool) : Retire :=
  ⟨coreOf id, id % 4, t, code, fpc, tval, pend, mchk, if t.persist then ((s.ctx id).hi - (s.ctx id).lo).toNat else 0, tail,
    s.cumulative id (s.ctx id).iss 2⟩

/-- The end of a task leaves one entry more, and the context free. -/
theorem State.retireTask_of_task {s : State} {id : Nat} {t : Task} (h : (s.ctx id).task = some t) (code : Nat) (fpc tval : Word)
    (pend mchk tail : Bool) : (s.retireTask id code fpc tval pend mchk tail).retire =
        s.retire ++ [s.retireEntry id t code fpc tval pend mchk tail] ∧
      (s.retireTask id code fpc tval pend mchk tail).ctx id = (s.ctx id).clear := by
  have hretire := State.leaveGroups_retire (s.ctx id).groups id t.tid (s.ctx id).iss (s.ctx id).pc (decide (code ≠ 0)) s
  simp only [State.retireTask, h]
  refine ⟨congrArg (· ++ _) hretire, ?_⟩
  exact Table.get_set_same _ _ _ _

theorem State.trackerFull_iff (s : State) (core : Nat) :
    s.trackerFull core = true ↔ 64 ≤ (s.retire.filter fun r => decide (r.core = core)).length := decide_eq_true_iff

/-! ### Precise exceptions -/

theorem Ctx.landRest_task (c : Ctx) : c.landRest.task = c.task := by
  obtain ⟨_, _, _, _, _, _, _, h⟩ := Ctx.applyAll_frame (c.pend.filter fun r => !r.val.exposed) c
  rw [Ctx.landRest, h]

@[simp] theorem Ctx.enter_task (c : Ctx) (t : Trap) (a : Word) : (c.enter t a).task = c.task := c.landRest_task

theorem Ctx.precise_fields (c : Ctx) (code : Nat) (v w : Word) (l : Bool) :
    (c.precise code v w l).code = code ∧ (c.precise code v w l).tval = v ∧ (c.precise code v w l).ret = c.pc ∧
      (c.precise code v w l).fpc = c.pc ∧ (c.precise code v w l).pf = false := by
  unfold Ctx.precise
  split
  · split <;> exact ⟨rfl, rfl, rfl, rfl, rfl⟩
  · exact ⟨rfl, rfl, rfl, rfl, rfl⟩

/-- A fault in the delay bundle of a taken transfer sets DS and reports the target (R123, R405). -/
theorem Ctx.precise_of_taken {c : Ctx} {x p : Word} {e : Bool} (h : c.delay = some ⟨true, x, p, e⟩) (code : Nat) (v w : Word) :
    causeWord (c.precise code v w false) = BitVec.ofNat 64 (code + 2 ^ 8) ∧ (c.precise code v w false).tval2 = x := by
  simp [Ctx.precise, h, causeWord]

theorem Ctx.precise_of_not_taken {c : Ctx} (h : ∀ b, c.delay = some b → b.taken = false) (code : Nat) (v w : Word) :
    causeWord (c.precise code v w false) = BitVec.ofNat 64 code ∧ (c.precise code v w false).tval2 = w := by
  cases hd : c.delay with
  | none => simp [Ctx.precise, hd, causeWord]
  | some b => simp [Ctx.precise, hd, h b hd, causeWord]

/-- In handler mode, or without a handler, an exception ends the task once the retirement tracker has room (R409, R419). -/
theorem State.takeTrap_ends {s : State} {id : Nat} {t : Trap} (h : (s.ctx id).frame.isSome = true ∨ s.handler (s.ctx id) t.code = none)
    (hroom : s.trackerFull (coreOf id) = false) :
    s.takeTrap id t = s.retireTask id t.code t.fpc t.tval t.pf (decide (t.code = 0x60)) false := by
  have hn : (if (s.ctx id).frame.isSome then none else s.handler (s.ctx id) t.code) = none := by
    rcases h with h | h
    · exact if_pos h
    · rw [h, ite_self]
  simp only [State.takeTrap, hn, hroom, Bool.false_eq_true, if_false]

theorem State.ctx_trap (s : State) (code : Nat) (v w : Word) (j : Nat) :
    (s.trap code v w).ctx j = (s.takeTrap s.cur.id ((s.ctx s.cur.id).precise code v w false)).ctx j := rfl

/-- Settles O44: with a handler the context enters it, without one its task ends. -/
theorem preciseTrap : Obligations.PreciseTrap := by
  intro s code v w _
  obtain ⟨hcode, htval, hret, hfpc, hpf⟩ := (s.ctx s.cur.id).precise_fields code v w false
  refine ⟨fun a hf hh ho => ?handler, fun t ht hno hroom => ?ends, rfl⟩
  case handler =>
    have hentry := State.takeTrap_of_handler (t := (s.ctx s.cur.id).precise code v w false) hf (by rw [hcode]; exact hh) ho
    have hother : ∀ j, j ≠ s.cur.id → (s.trap code v w).ctx j = s.ctx j := fun j hj => by
      rw [State.ctx_trap, hentry, State.ctx_setCtx, if_neg hj]
    have hme : (s.trap code v w).ctx s.cur.id = (s.ctx s.cur.id).enter ((s.ctx s.cur.id).precise code v w false) a := by
      rw [State.ctx_trap, hentry, State.ctx_setCtx_same]
    rw [hme]
    refine ⟨_, rfl, hret, rfl, rfl, rfl, rfl, htval, rfl, rfl, rfl, rfl, rfl, Ctx.enter_task _ _ _, ?_, hother⟩
    split
    next x p e hd => exact Ctx.precise_of_taken hd code v w
    next hd => 
      refine Ctx.precise_of_not_taken (fun b hb => ?_) code v w
      cases hb' : b.taken with
      | false => rfl
      | true => exact absurd hb (by obtain ⟨k, x, p, e⟩ := b; cases hb'; exact hd x p e)
  case ends =>
    have hend := State.takeTrap_ends (t := (s.ctx s.cur.id).precise code v w false) (by rw [hcode]; exact hno) hroom
    obtain ⟨hretire, hclear⟩ := State.retireTask_of_task (s := s) (id := s.cur.id) ht code ((s.ctx s.cur.id).pc) v false (decide (code = 0x60)) false
    rw [hcode, hfpc, htval, hpf] at hend
    refine ⟨_, (congrArg State.retire hend).trans hretire, ?_, rfl, rfl, rfl, rfl, rfl, rfl, rfl⟩
    rw [State.ctx_trap, hend, hclear]
    rfl

/-! ### TAIL -/

theorem exec_tail (s : State) : exec .tail s = execTail s := rfl

/-- TAIL with room in the tracker ends the task with the code, TVAL and pending mark that its faults give. -/
theorem exec_tail_of_room {s : State} {t : Task} (ht : s.task = some t) (hroom : s.trackerFull (s.cur.id / 4) = false) :
    ∃ u, exec .tail s = .next u ∧ u.cur.verdict = .ended ∧ u.ctx s.cur.id = (s.ctx s.cur.id).clear ∧
      u.retire = s.retire ++ [match s.tailFault s.cur.id with
        | some l => s.retireEntry s.cur.id t l.1 (s.ctx s.cur.id).pc l.2 true false true
        | none => s.retireEntry s.cur.id t 0 (s.ctx s.cur.id).pc 0 false false true] := by
  rw [exec_tail, execTail, coreOf, hroom]
  cases s.tailFault s.cur.id with
  | some l =>
    obtain ⟨hretire, hclear⟩ := State.retireTask_of_task (s := s) ht l.1 (s.ctx s.cur.id).pc l.2 true false true
    exact ⟨_, rfl, rfl, hclear, hretire⟩
  | none =>
    obtain ⟨hretire, hclear⟩ := State.retireTask_of_task (s := s) ht 0 (s.ctx s.cur.id).pc 0 false false true
    exact ⟨_, rfl, rfl, hclear, hretire⟩

/-- Settles O11: TAIL ends the task with the fault that `tailFault` finds, in the order of its sources, or waits for room. -/
theorem tailEndsTheTask : Obligations.TailEndsTheTask := by
  intro s t ht
  refine ⟨fun hroom => ?room, fun hfull => ?full⟩
  case room =>
    have hfull : s.trackerFull (s.cur.id / 4) = false := by
      rw [Bool.eq_false_iff, ne_eq, State.trackerFull_iff]
      exact Nat.not_le.2 hroom
    obtain ⟨u, hu, hverdict, hctx, hretire⟩ := exec_tail_of_room ht hfull
    refine ⟨u, _, hu, hverdict, hretire, hctx, ?_⟩
    cases hl : ((s.ctx s.cur.id).frame.bind (·.pf)).or (s.ctx s.cur.id).late with
    | some l => simp [State.tailFault, hl, State.retireEntry, coreOf]
    | none =>
      cases hx : s.firstReject s.tid 7 true with
      | some x => simp [State.tailFault, hl, hx, State.retireEntry, coreOf]
      | none => cases hy : s.firstReject s.tid 7 false <;> simp [State.tailFault, hl, hx, hy, State.retireEntry, coreOf]
  case full =>
    have hfull' : s.trackerFull (s.cur.id / 4) = true := (s.trackerFull_iff _).2 hfull
    rw [exec_tail, execTail, coreOf, if_pos hfull']
    rfl

/-! ### Returns -/

/-- The latch records of a frame restore each exposed result as many steps away as it was (R411, R412). -/
theorem relatch_latches (now step : Nat) (ps : List Res) :
    (relatch step (ps.filterMap (latchOf now))).map (fun r => (r.due - step, r.val)) =
      (ps.filter fun r => r.val.exposed).map fun r => (r.due - now, r.val) := by
  induction ps with
  | nil => rfl
  | cons r ps ih =>
    by_cases hr : r.val.exposed = true
    · have hlatch : latchOf now r = some ⟨r.due - now + 1, r.val⟩ := if_pos hr
      have hdue : step + (r.due - now + 1) - 1 - step = r.due - now := by omega
      rw [List.filterMap_cons_some hlatch, List.filter_cons_of_pos (p := fun r : Res => r.val.exposed) hr, List.map_cons, ← ih]
      simp only [relatch, List.map_cons, hdue]
    · have hlatch : latchOf now r = none := if_neg hr
      rw [List.filterMap_cons_none hlatch, List.filter_cons_of_neg (p := fun r : Res => r.val.exposed) hr, ih]

theorem head?_toList_append_tail {α : Type} (xs : List α) : xs.head?.toList ++ xs.tail = xs := by
  cases xs <;> rfl

theorem Frame.waits_frameFor (c : Ctx) (pc cause tval tval2 : Word) : (c.frameFor pc cause tval tval2).waits = c.waits.filter Wait.kept := by
  have h : keptWait c.waits = (c.waits.filter Wait.kept).head? := List.head?_filter.symm
  rw [Frame.waits, Ctx.frameFor]
  dsimp only
  rw [h, List.drop_one, head?_toList_append_tail]

/-- DS is bit 8 of sr.cause (R405). -/
theorem field_causeWord {t : Trap} (h : t.code < 256) : field (causeWord t) 8 8 = 1 ↔ t.ds = true := by
  have hbit : field (causeWord t) 8 8 = t.ds.toNat := by
    have hds := t.ds.toNat_le
    rw [field, causeWord_toNat h]
    omega
  rw [hbit]
  cases t.ds <;> decide

/-- The context that a return leaves: handler mode over, the frame restored (R412). -/
def Ctx.returned (c : Ctx) (f : Frame) : Ctx :=
  { ({ c with frame := none, ret := false, delay := none } : Ctx).resume f with ret := false }

theorem State.returnFrom_none {s : State} {id : Nat} {f : Frame} (h : (s.ctx id).frame = some f) (hpf : f.pf = none) :
    s.returnFrom id = s.setCtx id ((s.ctx id).returned f) := by
  simp only [State.returnFrom, h, hpf]
  rfl

theorem State.returnFrom_preempting {s : State} {id : Nat} {f : Frame} {l : Late} (h : (s.ctx id).frame = some f) (hpf : f.pf = some l)
    (hp : s.preempting id = true) : s.returnFrom id = s.setCtx id { (s.ctx id).returned f with late := some l } := by
  simp only [State.returnFrom, h, hpf, hp, if_true, State.ctx_setCtx_same, State.setCtx_setCtx]
  rfl

theorem State.returnFrom_delivers {s : State} {id : Nat} {f : Frame} {l : Late} (h : (s.ctx id).frame = some f) (hpf : f.pf = some l)
    (hp : s.preempting id = false) : s.returnFrom id = (s.setCtx id ((s.ctx id).returned f)).deliverPending id l := by
  simp only [State.returnFrom, h, hpf, hp, Bool.false_eq_true, if_false]
  rfl

/-- Either way the context has returned, with the frame's pending-fault record before its own late fault. -/
theorem State.returnFrom_returned {s : State} {id : Nat} {f : Frame} (h : (s.ctx id).frame = some f)
    (hp : f.pf = none ∨ s.preempting id = true) :
    s.returnFrom id = s.setCtx id { (s.ctx id).returned f with late := f.pf.or (s.ctx id).late } := by
  cases hpf : f.pf with
  | none =>
    rw [State.returnFrom_none h hpf, Option.none_or]
    rfl
  | some l => rw [State.returnFrom_preempting h hpf (hp.resolve_left (by simp [hpf])), Option.some_or]

/-- Settles O45: the frame holds what trap entry saved, field by field, and the return step resumes from it. -/
theorem returnRestores : Obligations.ReturnRestores := by
  refine ⟨fun c d t a f _ hcode hf hd => ?_, fun s id f hf => ⟨fun hp => ?_, fun l hpf hp => State.returnFrom_delivers hf hpf hp⟩⟩
  · obtain rfl : c.frameFor t.ret (causeWord t) t.tval t.tval2 = f := Option.some.inj hf
    have hwaits := Frame.waits_frameFor c t.ret (causeWord t) t.tval t.tval2
    refine ⟨rfl, rfl, rfl, ?pend, ?wait, rfl, ?delay⟩
    case pend =>
      simp only [Ctx.resume, hd, List.append_nil]
      exact relatch_latches c.step d.step c.pend
    case wait =>
      simp only [Ctx.resume, hwaits, head?_toList_append_tail]
      rfl
    case delay => 
      simp only [Ctx.resume, Ctx.frameFor, field_causeWord hcode]
  · rw [State.returnFrom_returned hf hp, State.ctx_setCtx_same]
    refine ⟨rfl, rfl, rfl, ?_, rfl, rfl, rfl, rfl, rfl, fun j hj => by rw [State.ctx_setCtx, if_neg hj]⟩
    exact congrArg List.head? (List.append_assoc _ _ _).symm

end Sys2Proof.Machine
end

section
/-!
PROOFS. STEAL and the range arbiter (R78, R79, R195): the victim is the best of the eligible contexts, the lowest-numbered among equals.
-/

namespace Sys2Proof.Machine

/-! ### Tables in order -/

theorem Table.mem_of_get_ne {α : Type} {d : α} {t : Table α} {k : Nat} (h : Table.get d t k ≠ d) : (k, Table.get d t k) ∈ t := by
  induction t with
  | nil => exact absurd rfl h
  | cons p t ih =>
    obtain ⟨j, x⟩ := p
    simp only [Table.get] at h ⊢
    split at h
    · exact absurd rfl h
    · split at h
      next hlt heq => simp [heq]
      next hlt hne =>
        rw [if_neg hlt, if_neg hne]
        exact List.mem_cons_of_mem _ (ih h)

theorem Table.get_of_mem {α : Type} (d : α) {t : Table α} (ht : t.Pairwise fun p q => p.1 < q.1) {k : Nat} {x : α} (h : (k, x) ∈ t) :
    Table.get d t k = x := by
  induction t with
  | nil => cases h
  | cons p t ih =>
    obtain ⟨j, y⟩ := p
    obtain ⟨hj, ht⟩ := List.pairwise_cons.1 ht
    rcases List.mem_cons.1 h with heq | hmem
    · obtain ⟨rfl, rfl⟩ := Prod.mk.inj heq
      simp [Table.get]
    · have hlt := hj _ hmem
      dsimp only at hlt
      rw [Table.get, if_neg (by omega), if_neg (by omega)]
      exact ih ht hmem

/-! ### The victim -/

/-- Whether a context can be the victim of a STEAL of a launch in a cluster (R78). -/
def eligible (launch cluster : Nat) (p : Nat × Ctx) : Prop :=
  ∃ t, p.2.task = some t ∧ t.launch = launch ∧ t.persist = true ∧ clusterOf (coreOf p.1) = cluster ∧ p.2.preempt ≠ .out ∧ 2 ≤ p.2.left

/-- The search goes on with the context that it meets where that is eligible and has more left than the best so far. -/
theorem pickVictim_cons_cases (launch cluster : Nat) (p : Nat × Ctx) (cs : Table Ctx) (best : Option (Nat × Nat)) :
    (eligible launch cluster p ∧ (∀ b, best = some b → b.2 < p.2.left) ∧
      pickVictim launch cluster (p :: cs) best = pickVictim launch cluster cs (some (p.1, p.2.left))) ∨
    ((eligible launch cluster p → ∃ b, best = some b ∧ p.2.left ≤ b.2) ∧
      pickVictim launch cluster (p :: cs) best = pickVictim launch cluster cs best) := by
  obtain ⟨i, c⟩ := p
  cases ht : c.task with
  | none =>
    refine .inr ⟨fun ⟨t, h, _⟩ => by simp [ht] at h, ?_⟩
    simp only [pickVictim, ht]
  | some t =>
    have hel : eligible launch cluster (i, c) ↔ (decide (t.launch = launch) && t.persist && decide (clusterOf (coreOf i) = cluster)
        && decide (c.preempt ≠ .out) && decide (2 ≤ c.left)) = true := by
      simp [eligible, ht, and_assoc]
    by_cases hok : eligible launch cluster (i, c)
    · have hb := hel.1 hok
      cases best with
      | none => exact .inl ⟨hok, fun _ h => (nomatch h), by simp only [pickVictim, ht, hb, if_true]⟩
      | some b =>
        by_cases hlt : b.2 < c.left
        · refine .inl ⟨hok, fun _ h => by cases h; exact hlt, ?_⟩
          simp only [pickVictim, ht, hb, hlt, decide_true, Bool.and_self, if_true]
        · refine .inr ⟨fun _ => ⟨b, rfl, Nat.not_lt.1 hlt⟩, ?_⟩
          simp only [pickVictim, ht, hb, hlt, decide_false, Bool.and_false, Bool.false_eq_true, if_false]
    · have hb := Bool.eq_false_iff.2 fun h => hok (hel.2 h)
      refine .inr ⟨fun h => absurd h hok, ?_⟩
      cases best <;> simp only [pickVictim, ht, hb, Bool.false_and, Bool.false_eq_true, if_false]

/-- None is found exactly where there was none before and none is eligible. -/
theorem pickVictim_eq_none_iff (launch cluster : Nat) (cs : Table Ctx) (best : Option (Nat × Nat)) :
    pickVictim launch cluster cs best = none ↔ best = none ∧ ∀ p ∈ cs, ¬ eligible launch cluster p := by
  induction cs generalizing best with
  | nil => simp [pickVictim]
  | cons p cs ih =>
    rw [List.forall_mem_cons]
    rcases pickVictim_cons_cases launch cluster p cs best with ⟨hel, -, heq⟩ | ⟨hel, heq⟩
    · rw [heq, ih]
      exact ⟨fun h => (nomatch h.1), fun h => absurd hel h.2.1⟩
    · rw [heq, ih]
      refine ⟨fun h => ⟨h.1, fun hp => ?_, h.2⟩, fun h => ⟨h.1, h.2.2⟩⟩
      obtain ⟨b, hb, -⟩ := hel hp
      rw [h.1] at hb
      cases hb

/-- What is found is the best before or an eligible context; none has more, and among equals it is the first. -/
theorem pickVictim_spec {launch cluster : Nat} {cs : Table Ctx} {best : Option (Nat × Nat)} {v r : Nat}
    (hcs : cs.Pairwise fun p q => p.1 < q.1) (hbest : ∀ b, best = some b → ∀ p ∈ cs, b.1 < p.1)
    (h : pickVictim launch cluster cs best = some (v, r)) :
    (best = some (v, r) ∨ ∃ c, (v, c) ∈ cs ∧ eligible launch cluster (v, c) ∧ c.left = r) ∧
      (∀ p ∈ cs, eligible launch cluster p → p.2.left ≤ r ∧ (p.2.left = r → v ≤ p.1)) ∧
      (∀ b, best = some b → b.2 ≤ r ∧ (b.2 = r → v ≤ b.1)) := by
  induction cs generalizing best with
  | nil =>
    obtain rfl : best = some (v, r) := h
    exact ⟨.inl rfl, fun _ hp => by simp at hp, fun b hb => by cases hb; exact ⟨Nat.le_refl _, fun _ => Nat.le_refl _⟩⟩
  | cons p cs ih =>
    obtain ⟨hp, hcs⟩ := List.pairwise_cons.1 hcs
    rcases pickVictim_cons_cases launch cluster p cs best with ⟨hel, hlt, heq⟩ | ⟨hel, heq⟩
    · rw [heq] at h
      obtain ⟨hfrom, hmax, hthis⟩ := ih hcs (fun b hb q hq => by cases hb; exact hp q hq) h
      obtain ⟨hle, htie⟩ := hthis _ rfl
      refine ⟨.inr ?_, List.forall_mem_cons.2 ⟨fun _ => ⟨hle, htie⟩, hmax⟩, fun b hb => ?_⟩
      · rcases hfrom with hfrom | ⟨c, hc, hc'⟩
        · obtain ⟨rfl, rfl⟩ := Prod.mk.inj (Option.some.inj hfrom)
          exact ⟨p.2, List.mem_cons_self, hel, rfl⟩
        · exact ⟨c, List.mem_cons_of_mem _ hc, hc'⟩
      · have := hlt b hb
        dsimp only at hle
        exact ⟨by omega, fun he => by omega⟩
    · rw [heq] at h
      obtain ⟨hfrom, hmax, hthis⟩ := ih hcs (fun b hb q hq => hbest b hb q (List.mem_cons_of_mem _ hq)) h
      refine ⟨hfrom.imp_right fun ⟨c, hc, hc'⟩ => ⟨c, List.mem_cons_of_mem _ hc, hc'⟩, List.forall_mem_cons.2 ⟨fun he => ?_, hmax⟩, hthis⟩
      obtain ⟨b, hb, hle⟩ := hel he
      obtain ⟨hbr, htie⟩ := hthis b hb
      have hlt := hbest b hb p List.mem_cons_self
      exact ⟨by omega, fun he => by have := htie (by omega); omega⟩

/-- The eligible contexts of a state are those of its table. -/
theorem State.eligible_mem {s : State} {launch cluster id : Nat} (h : eligible launch cluster (id, s.ctx id)) : (id, s.ctx id) ∈ s.ctxs := by
  refine Table.mem_of_get_ne fun hd => ?_
  obtain ⟨t, ht, -⟩ := h
  have hnone : (s.ctx id).task = none := congrArg Ctx.task hd
  rw [hnone] at ht
  cases ht

/-! ### The answer -/

theorem State.answerSteal_none {s : State} {id n : Nat} {t : Task} (hs : (s.ctx id).steal = some n) (ht : (s.ctx id).task = some t)
    (hv : pickVictim t.launch (clusterOf (coreOf id)) s.ctxs none = none) : s.answerSteal id = s.setCtx id ((s.ctx id).answered 0) := by
  simp only [State.answerSteal, hs, ht, hv]

theorem State.answerSteal_some {s : State} {id n v r : Nat} {t : Task} (hs : (s.ctx id).steal = some n) (ht : (s.ctx id).task = some t)
    (hv : pickVictim t.launch (clusterOf (coreOf id)) s.ctxs none = some (v, r)) :
    s.answerSteal id = (s.setCtx id { (s.ctx id).answered 1 with
        lo := (s.ctx v).lo + BitVec.ofNat 64 ((r + 1) / 2), hi := (s.ctx v).hi }).setCtx v
      { s.ctx v with hi := (s.ctx v).lo + BitVec.ofNat 64 ((r + 1) / 2) } := by
  simp only [State.answerSteal, hs, ht, hv]

theorem Ctx.answered_pend (c : Ctx) (w : Word) : (c.answered w).pend = c.pend.map (fun r => match r.val with
    | .flag m => ⟨r.due, .g m w false⟩
    | _ => r) := rfl

/-- The middle of a range of `r` serials, rounded up, lies within it. -/
theorem mid_toNat {lo hi : Word} {r : Nat} (hr : r = hi.toNat - lo.toNat) (h2 : 2 ≤ r) :
    (lo + BitVec.ofNat 64 ((r + 1) / 2)).toNat = lo.toNat + (r + 1) / 2 := by
  have hlo := lo.isLt
  have hhi := hi.isLt
  rw [BitVec.toNat_add, BitVec.toNat_ofNat]
  omega

/-- Settles O14: the search by its invariant along the table, the split by the middle of the victim's range. -/
theorem steals : Obligations.Steals := by
  refine ⟨fun s d t ht => ⟨fun h => ?_, fun h => ?_⟩, fun s launch cluster hs => ?none, fun s id n t hsteal ht hempty hs =>
    ⟨fun v r hv => ?victim, fun hv => ?_⟩⟩
  · have hx : exec (.steal d) s = execSteal d s := rfl
    simp only [hx, execSteal, ht, if_pos h]
  · have hx : exec (.steal d) s = execSteal d s := rfl
    simp only [hx, execSteal, ht, if_neg h]
  case none =>
    rw [pickVictim_eq_none_iff, eq_self, true_and, not_exists]
    constructor
    · intro h id hex
      obtain ⟨u, hel⟩ := hex
      have hid : eligible launch cluster (id, s.ctx id) := ⟨u, hel⟩
      exact h _ (State.eligible_mem hid) hid
    · intro h p hp hel
      obtain ⟨i, c⟩ := p
      obtain rfl : s.ctx i = c := Table.get_of_mem _ hs hp
      obtain ⟨u, hel⟩ := hel
      exact h i ⟨u, hel⟩
  case victim =>
    obtain ⟨hfrom, hmax, -⟩ := pickVictim_spec hs (fun b hb => by cases hb) hv
    obtain ⟨c, hc, hel, hr⟩ := hfrom.resolve_left (by simp)
    obtain rfl : s.ctx v = c := Table.get_of_mem _ hs hc
    obtain ⟨u, hu, hlaunch, hpersist, hcluster, hout, h2⟩ := hel
    have hr2 : 2 ≤ r := hr ▸ h2
    have hvid : v ≠ id := fun hvid => by
      have : (s.ctx v).left = 0 := by rw [hvid, Ctx.left, hempty, Nat.sub_self]
      omega
    refine ⟨fun p hp w hw hwl hwp hwc hwo hw2 => hmax p hp ⟨w, hw, hwl, hwp, hwc, hwo, hw2⟩, hr2, hvid, hr.symm, ⟨u, hu, hlaunch, hpersist⟩,
      hcluster, hout, ?_⟩
    have hv' : (s.answerSteal id).ctx v = { s.ctx v with hi := (s.ctx v).lo + BitVec.ofNat 64 ((r + 1) / 2) } := by
      rw [State.answerSteal_some hsteal ht hv, State.ctx_setCtx_same]
    have hid' : (s.answerSteal id).ctx id = { (s.ctx id).answered 1 with
        lo := (s.ctx v).lo + BitVec.ofNat 64 ((r + 1) / 2), hi := (s.ctx v).hi } := by
      rw [State.answerSteal_some hsteal ht hv, State.ctx_setCtx, if_neg hvid.symm, State.ctx_setCtx_same]
    rw [hv', hid']
    exact ⟨rfl, mid_toNat hr.symm hr2, rfl, rfl, rfl, Ctx.answered_pend _ _⟩
  · exact State.answerSteal_none hsteal ht hv

end Sys2Proof.Machine
end

section
/-!
PROOFS. FENCE and QFENCE (R370, R371, R391): what a FENCE waits for, what it and a QFENCE cover, and that they do nothing else.
-/

namespace Sys2Proof.Machine

/-! ### What a FENCE waits for -/

theorem levelOf_le_three (scope : Nat) : levelOf scope ≤ 3 := by
  unfold levelOf
  split
  · decide
  · split <;> decide

/-- A covered write of the context that is not yet in memory is in the cumulative set of a later release. -/
theorem State.mem_cumulative {s : State} {w : Write} {id iss n : Nat} (scope : Nat) (hw : w ∈ s.writes) (hctx : w.ctx = id) (hiss : w.iss < iss)
    (hlevel : w.level < 3) (hcover : w.cover = some n) (hn : n ≤ iss) : w.id ∈ s.cumulative id iss scope := by
  have hjoins : w.joins id iss = true := by simp [Write.joins, hctx, hiss, hlevel, hcover, hn]
  exact List.mem_append_left _ (List.mem_map_of_mem (List.mem_filter.2 ⟨hw, hjoins⟩))

/-- A write that is visible at a scope has come as far as the scope asks. -/
theorem State.level_of_visibleAt {s : State} {w : Write} {scope : Nat} (hw : w ∈ s.writes) (h : s.visibleAt scope w.id = true) :
    levelOf scope ≤ w.level := by
  simpa using List.all_eq_true.1 h w hw

theorem State.fenceReady_iff {s : State} {id scope : Nat} : s.fenceReady id scope = true ↔
    (∀ i ∈ s.cumulative id (s.ctx id).iss (min scope 2), s.visibleAt scope i = true) ∧ (∀ a ∈ s.atoms, a.ctx ≠ id) ∧
    (∀ c ∈ s.copies, c.ctx ≠ id) ∧ (∀ e ∈ (s.core (coreOf id)).queue, e.ctx ≠ id) ∧ (∀ o ∈ s.outs, o.op.ctx = id → scope < o.op.scope) := by
  simp [State.fenceReady, and_assoc]

/-- A covered write of the context is visible at the scope of a FENCE that is ready. -/
theorem State.level_of_fenceReady {s : State} {w : Write} {id scope n : Nat} (h : s.fenceReady id scope = true) (hw : w ∈ s.writes)
    (hctx : w.ctx = id) (hiss : w.iss < (s.ctx id).iss) (hcover : w.cover = some n) (hn : n ≤ (s.ctx id).iss) : levelOf scope ≤ w.level := by
  rcases Nat.lt_or_ge w.level 3 with hlevel | hlevel
  · have hmem := State.mem_cumulative (min scope 2) hw hctx hiss hlevel hcover hn
    exact State.level_of_visibleAt hw ((State.fenceReady_iff.1 h).1 _ hmem)
  · exact Nat.le_trans (levelOf_le_three scope) hlevel

/-! ### What is to be reported -/

theorem State.firstReject_none {s : State} {tid scope : Nat} (h : ∀ r ∈ s.rejects, r.tid = tid → scope < r.scope) (lost : Bool) :
    s.firstReject tid scope lost = none := by
  have hnil : (s.rejects.filter fun r => decide (r.tid = tid) && decide (r.scope ≤ scope) && decide (r.lost = lost)) = [] := by
    refine List.filter_eq_nil_iff.2 fun r hr hsel => ?_
    simp only [Bool.and_eq_true, decide_eq_true_eq] at hsel
    obtain ⟨⟨htid, hscope⟩, -⟩ := hsel
    exact absurd (h r hr htid) (Nat.not_lt.2 hscope)
  rw [State.firstReject, hnil]
  rfl

theorem State.fenceFault_none {s : State} {id tid scope : Nat} (hlate : (s.ctx id).late = none)
    (h : ∀ r ∈ s.rejects, r.tid = tid → scope < r.scope) : s.fenceFault id tid scope = none := by
  simp only [State.fenceFault, hlate, State.firstReject_none h]

/-! ### What is covered -/

/-- Covering changes the cover of writes alone. -/
theorem map_uncover {f : Write → Write} (ws : List Write) (hf : ∀ w, f w = w ∨ ∃ n, f w = { w with cover := n }) :
    (ws.map f).map (fun w => { w with cover := none }) = ws.map (fun w => { w with cover := none }) := by
  rw [List.map_map]
  refine List.map_congr_left fun w _ => ?_
  rcases hf w with h | ⟨n, h⟩ <;> rw [Function.comp, h]

/-- Settles O26, the visibility clause by the cumulative set of the FENCE. -/
theorem fences : Obligations.Fences := by
  refine ⟨fun s sc q => ⟨fun hready hlate hrej => ?_, fun hready => ?_, fun hdone => ?_, fun hdone => ?_⟩, fun s id scope hready => ?_,
    fun s id iss q => ⟨map_uncover _ fun w => ?_, map_uncover _ fun w => ?_, fun w hw hctx hiss => ?_⟩⟩
  · have hx : exec (.fence sc) s = execFence sc s := rfl
    simp only [hx, execFence, hready, State.fenceFault_none hlate hrej, Bool.not_true, Bool.false_eq_true, if_false]
    rfl
  · have hx : exec (.fence sc) s = execFence sc s := rfl
    simp only [hx, execFence, hready, Bool.not_false, if_true]
  · have hx : exec (.qfence q) s = execQfence q s := rfl
    simp only [hx, execQfence, hdone, if_true]
    rfl
  · have hx : exec (.qfence q) s = execQfence q s := rfl
    simp only [hx, execQfence, hdone, Bool.false_eq_true, if_false]
  · obtain ⟨-, hatoms, hcopies, hqueue, houts⟩ := State.fenceReady_iff.1 hready
    exact ⟨fun w hw n hctx hiss hcover hn => State.level_of_fenceReady hready hw hctx hiss hcover hn, hatoms, hcopies, hqueue, houts⟩
  · exact (ite_eq_or_eq _ _ _).symm.imp_right fun h => ⟨_, h⟩
  · exact (ite_eq_or_eq _ _ _).symm.imp_right fun h => ⟨_, h⟩
  · obtain ⟨v, -, rfl⟩ := List.mem_map.1 hw
    by_cases hsel : v.ctx = id ∧ v.iss < iss ∧ v.cover = none
    · rw [if_pos hsel]
      exact Option.some_ne_none iss
    · rw [if_neg hsel] at hctx hiss ⊢
      exact fun hnone => hsel ⟨hctx, hiss, hnone⟩

end Sys2Proof.Machine
end

section
/-!
PROOFS. What the operations of the model do to memory, beyond those of Laws/Memory: most leave it as it is, the others keep its canonical form.
-/

namespace Sys2Proof.Machine

@[simp] theorem State.puts_mem (s : State) (lat : Nat) (ps : List Payload) : (State.puts s lat ps).mem = s.mem := rfl
@[simp] theorem State.putG_mem (s : State) (lat : Nat) (d : Fin 64) (v : Word) (p : Bool) : (State.putG s lat d v p).mem = s.mem := by
  simp [State.putG, apply_ite State.mem]

/-! ### Issue, writes and translation -/

@[simp] theorem State.forceSeen_wf (s : State) (v : Viewer) (level : Nat) (as : List Nat) (w : s.mem.wf = true) :
    (s.forceSeen v level as).mem.wf = true :=
  foldl_keeps (P := fun u => u.mem.wf = true) (fun _ x h => State.moveTo_wf level x h) _ w

@[simp] theorem State.writeAs_wf (s : State) (cover : Option Nat) (tid ctx iss scope key : Nat) (cells : List Host.Cell) (rel : List Nat)
    (w : s.mem.wf = true) : (s.writeAs cover tid ctx iss scope key cells rel).mem.wf = true := by
  simp only [State.writeAs, State.sweepWrites_mem]
  split
  · exact State.memWrite_wf _ _ (State.forceOut_wf _ _ w)
  · exact State.forceOut_wf _ _ w

@[simp] theorem State.writeEngine_wf (s : State) (tid ctx iss scope key : Nat) (cells : List Host.Cell) (w : s.mem.wf = true) :
    (State.writeEngine s tid ctx iss scope key cells).mem.wf = true := by
  simp [State.writeEngine, w]

@[simp] theorem State.coverWrites_mem (s : State) (ctx iss : Nat) : (State.coverWrites s ctx iss).mem = s.mem := rfl
@[simp] theorem State.clearLeaf_mem (s : State) (l : Leaf) : (State.clearLeaf s l).mem = s.mem := by
  unfold State.clearLeaf
  repeat' split
  all_goals simp

@[simp] theorem State.zeroRange_wf (s : State) (lo n : Nat) (w : s.mem.wf = true) : (s.zeroRange lo n).mem.wf = true :=
  Memory.wf_filter _ w

@[simp] theorem State.zeroTags_wf (s : State) (lo n : Nat) (w : s.mem.wf = true) : (s.zeroTags lo n).mem.wf = true :=
  Memory.wf_filter _ w

@[simp] theorem State.settle_wf (s : State) (lo n : Nat) (w : s.mem.wf = true) : (s.settle lo n).mem.wf = true :=
  State.forceOut_wf _ _ w

/-! ### Page tables -/

theorem State.mapIn_wf {f : Nat} {leaf : Word} {shs : List Nat} {tab va : Nat} {s u : State} (w : s.mem.wf = true)
    (h : State.mapIn f leaf shs tab va s = some u) : u.mem.wf = true := by
  induction shs generalizing tab s with
  | nil => exact Option.some.inj h ▸ w
  | cons sh rest ih =>
    unfold State.mapIn at h
    rw [Option.ite_none_left_eq_some] at h
    replace h := h.2
    cases rest with
    | nil => exact Option.some.inj h ▸ w
    | cons sh' rest =>
      dsimp only at h
      split at h
      · exact ih w h
      · split at h
        · cases h
        next hframe =>
          have hwf := State.newFrame_wf w hframe
          exact ih (s := State.setPte _ _ _) hwf h

theorem State.mapPage_wf {s u : State} {f space va gen : Nat} (w : s.mem.wf = true) (h : s.mapPage f space va gen = some u) :
    u.mem.wf = true := by
  simp only [State.mapPage, Option.bind_eq_some_iff] at h
  obtain ⟨r, hr, p, hp, h⟩ := h
  have hr : r.2.mem.wf = true := by
    split at hr
    · exact Option.some.inj hr ▸ w
    · obtain ⟨q, hq, rfl⟩ := Option.map_eq_some_iff.1 hr
      exact State.newFrame_wf (a := q.1) (u := q.2) w hq
  have hp : p.2.mem.wf = true := by
    split at hp
    · exact Option.some.inj hp ▸ hr
    · obtain ⟨q, hq, rfl⟩ := Option.map_eq_some_iff.1 hp
      exact State.newFrame_wf (a := q.1) (u := q.2) hr hq
  exact State.mapIn_wf hp h

@[simp] theorem State.dropTable_mem (s : State) (tab : Nat) : (State.dropTable s tab).mem = s.mem := rfl

theorem State.prune_mem (shs : List Nat) (tab : Nat) (s : State) : (State.prune shs tab s).1.mem = s.mem := by
  induction shs generalizing tab s with
  | nil => rfl
  | cons sh rest ih =>
    have hfold := fun s' => foldl_mem (s := s') (xs := tableEntries s.ptes tab) (f := fun u e =>
      if field e.2 3 0 = 15 ∧ field e.2 4 4 = 1 ∧ rest ≠ [] then
        match State.prune rest (field e.2 53 14 * 4096) u with
        | (v, true) => v.setPte (tab / 8 + e.1) 0
        | (v, false) => v
      else u) fun u e => by
        have h := ih (field e.2 53 14 * 4096) u
        split
        · split <;> simp_all
        · rfl
    simp only [State.prune]
    split
    · exact hfold s
    · exact hfold s

@[simp] theorem State.pruneTables_mem (s : State) (f : Nat) : (s.pruneTables f).mem = s.mem := by
  refine foldl_mem (fun u space => ?_) _ s
  split
  · rfl
  next r _ =>
    have h := State.prune_mem [48, 39, 30, 21, 12] r u
    split <;> simp_all

@[simp] theorem State.forceFor_wf (s : State) (ctx scope : Nat) (locs : List Nat) (w : s.mem.wf = true) :
    (s.forceFor ctx scope locs).mem.wf = true := State.forceSeen_wf s _ _ _ w

@[simp] theorem State.cancelAfter_mem (s : State) (tid iss : Nat) : (State.cancelAfter s tid iss).mem = s.mem := rfl
@[simp] theorem State.addEarlier_mem (s : State) (tid : Nat) (l : Late) : (State.addEarlier s tid l).mem = s.mem := by
  unfold State.addEarlier
  repeat' split
  all_goals simp

@[simp] theorem State.trapLane_mem (s : State) (code : Nat) (off : Word) : (State.trapLane s code off).mem = s.mem := by simp [State.trapLane]

/-! ### Tokens -/

theorem State.OnlyParts.mem {s t : State} (h : s.OnlyParts t) : t.mem = s.mem := by
  obtain ⟨ps, rfl⟩ := h
  rfl

@[simp] theorem State.borrowAll_mem (s : State) : s.borrowAll.mem = s.mem := State.OnlyParts.mem (State.onlyParts_borrowAll s)
theorem State.take_mem {s t : State} {f : Nat} {k : Token} (h : s.take f k = some t) : t.mem = s.mem := (State.take_cases h).2.mem

@[simp] theorem State.tokenWait_mem (s : State) (r f : Nat) (k : Token) (n : Nat) : (s.tokenWait r f k n).mem = s.mem :=
  State.OnlyParts.mem (State.onlyParts_tokenWait s r f k n)

@[simp] theorem State.waitOver_mem (s : State) (r f : Nat) : (s.waitOver r f).mem = s.mem :=
  State.OnlyParts.mem (State.onlyParts_waitOver s r f)

@[simp] theorem State.takeUpTo_mem (s : State) (f : Nat) (k : Token) (n : Nat) : (s.takeUpTo f k n).2.mem = s.mem :=
  State.OnlyParts.mem (State.takeUpTo_cases s f k n).2

@[simp] theorem State.spend_mem (s : State) (id f : Nat) : (s.spend id f).mem = s.mem := State.waitOver_mem _ _ _

@[simp] theorem State.payPart_mem (s : State) (id f : Nat) (k : Token) (n : Nat) : (s.payPart id f k n).1.mem = s.mem := by
  obtain ⟨ps, pd, h⟩ := s.payPart_frame id f k n
  rw [h]

@[simp] theorem State.pay_mem (s : State) (id f : Nat) (k : Token) (n : Nat) : (s.pay id f k n).1.mem = s.mem := by
  obtain ⟨ps, pd, h⟩ := s.pay_frame id f k n
  rw [h]

theorem State.pay_mem_of {s u : State} {id f n : Nat} {k : Token} {b : Bool} (h : s.pay id f k n = (u, b)) : u.mem = s.mem := by
  rw [← State.pay_mem s id f k n, h]

@[simp] theorem State.payBoth_mem (s : State) (id f m n : Nat) : (State.payBoth s id f m n).1.mem = s.mem := by
  simp only [State.payBoth]
  repeat' split
  all_goals simp

@[simp] theorem State.countIssue_mem (s : State) (f : Nat) : (s.countIssue f).mem = s.mem := by
  refine foldl_mem ?_ _ _
  intros
  rfl

@[simp] theorem State.putWrite_mem (s : State) (tid iss space key : Nat) (cells : List Host.Cell) (parts : List (Nat × Nat)) (whole : Bool) :
    (State.putWrite s tid iss space key cells parts whole).mem = s.mem := rfl
@[simp] theorem State.coverSlots_mem (s : State) (id : Nat) (h : Handle) (n : Nat) : (State.coverSlots s id h n).mem = s.mem := rfl
@[simp] theorem State.trapPoisonK_mem (s : State) (n : Nat) : (State.trapPoisonK s n).mem = s.mem := by simp [State.trapPoisonK]
@[simp] theorem State.branch_mem (s : State) (taken : Bool) (target : Word) : (State.branch s taken target).mem = s.mem := rfl
@[simp] theorem State.answerSteal_mem (s : State) (id : Nat) : (State.answerSteal s id).mem = s.mem := by
  simp only [State.answerSteal]
  repeat' split
  all_goals simp

@[simp] theorem State.setSpecial_mem (s : State) (n : Nat) (v : Word) : (State.setSpecial s n v).mem = s.mem := by
  unfold State.setSpecial
  repeat' split
  all_goals simp

@[simp] theorem State.issueAtomAt_mem (s : State) (a : Acc) (op : AtomOp) (x y : Word) (use scope : Nat) (dest : Option Nat) (asc : Bool) (locs : List Nat) :
    (State.issueAtomAt s a op x y use scope dest asc locs).mem = s.mem := by
  simp [State.issueAtomAt, apply_ite State.mem]

@[simp] theorem State.waitLate_mem (s : State) (id tid : Nat) (e : Nat × Nat) (iss : Nat) (pc : Word) :
    (State.waitLate s id tid e iss pc).mem = s.mem := by
  simp [State.waitLate]

@[simp] theorem State.waitPay_mem (s : State) (t : Task) (id : Nat) (a : Acc) : (s.waitPay t id a).1.mem = s.mem := by
  unfold State.waitPay
  split
  · rfl
  · split
    · rfl
    · split
      next htake => simp [State.take_mem htake]
      · simp

theorem State.waitPay_mem_of {s u : State} {t : Task} {id : Nat} {a : Acc} {b : Bool} (h : s.waitPay t id a = (u, b)) : u.mem = s.mem := by
  rw [← State.waitPay_mem s t id a, h]

@[simp] theorem State.tryFlag_mem (s : State) (t : Task) (id : Nat) (a : Acc) (v : Word) (iss : Nat) (pc : Word) :
    (s.tryFlag t id a v iss pc).mem = s.mem := by
  unfold State.tryFlag
  split
  · simp
  · split
    · split
      next hpay => exact State.waitPay_mem_of hpay
      next hpay => simp [State.waitPay_mem_of hpay]
    · rfl

@[simp] theorem State.trapGroup_mem (s : State) (reason : Nat) : (State.trapGroup s reason).mem = s.mem := by simp [State.trapGroup]
@[simp] theorem State.lateRecord_mem (s : State) (e : Nat × Nat) : (State.lateRecord s e).mem = s.mem := by simp [State.lateRecord]

@[simp] theorem State.joinGroup_mem (s : State) (t : Task) (x : Acc) (locs : List Nat) (i : Nat) (g : Option Group) :
    (State.joinGroup s t x locs i g).mem = s.mem := by
  simp [State.joinGroup]

@[simp] theorem State.lateAt_mem (s : State) (id code : Nat) (tval tval2 : Word) : (State.lateAt s id code tval tval2).mem = s.mem := by
  simp [State.lateAt]

@[simp] theorem State.coverQueues_mem (s : State) (ctx iss q : Nat) : (State.coverQueues s ctx iss q).mem = s.mem := rfl
@[simp] theorem State.putV_mem (s : State) (lat : Nat) (d : Fin 64) (val sel : Vec) (tag : Bool) (f : Flags) :
    (State.putV s lat d val sel tag f).mem = s.mem := rfl
@[simp] theorem State.putM_mem (s : State) (lat : Nat) (d : Fin 8) (val sel : Mask) (f : Flags) :
    (State.putM s lat d val sel f).mem = s.mem := rfl
@[simp] theorem State.lanewise_mem (s : State) (lat : Nat) (d : Fin 64) (ew lw : Nat) (m : Mask) (tag : Bool) (f : Nat → Elem) :
    (State.lanewise s lat d ew lw m tag f).mem = s.mem := rfl
@[simp] theorem State.setMyCore_mem (s : State) (k : Core) : (State.setMyCore s k).mem = s.mem := rfl
@[simp] theorem State.trapMode_mem (s : State) (op reason : Nat) : (State.trapMode s op reason).mem = s.mem := by simp [State.trapMode]
@[simp] theorem State.keepMpc_mem (s : State) (id : Nat) : (State.keepMpc s id).mem = s.mem := rfl
@[simp] theorem State.keepLost_mem (s : State) (id : Nat) : (State.keepLost s id).mem = s.mem := rfl
@[simp] theorem State.coverXaccs_mem (s : State) (core ctx tid iss : Nat) : (State.coverXaccs s core ctx tid iss).mem = s.mem := rfl
@[simp] theorem State.withTask_mem (s : State) (tid : Nat) (f : Ctx → Ctx) : (State.withTask s tid f).mem = s.mem := by
  unfold State.withTask
  repeat' split
  all_goals simp

@[simp] theorem State.logSat_mem (s : State) (tid core : Nat) (sat : Bool) : (State.logSat s tid core sat).mem = s.mem := by
  simp [State.logSat, apply_ite State.mem]

@[simp] theorem State.noteRow_mem (s : State) (core : Nat) (e : XEntry) (row : List Nat) : (State.noteRow s core e row).mem = s.mem := rfl
@[simp] theorem State.acquire_mem (s : State) (id : Nat) : (State.acquire s id).mem = s.mem := by
  simp only [State.acquire]
  repeat' split
  all_goals simp

/-! ### Engines -/

@[simp] theorem State.ifRuns_mem (s : State) (id tid : Nat) (f : Ctx → Ctx) : (State.ifRuns s id tid f).mem = s.mem := by
  unfold State.ifRuns
  repeat' split
  all_goals simp

theorem State.returnReadout_mem {s u : State} {l : Load} (h : s.returnReadout l = some u) : u.mem = s.mem := by
  unfold State.returnReadout at h
  simp only at h
  split at h
  · split at h
    · cases h
    · simp [← Option.some.inj h]
  · split at h
    · cases h
    · simp [← Option.some.inj h]
  · split at h
    · cases h
    · simp [← Option.some.inj h]
  · simp [← Option.some.inj h]
  · cases h

@[simp] theorem State.returnLoad_mem (s : State) (l : Load) (t : Task) : (s.returnLoad l t).mem = s.mem := by
  unfold State.returnLoad
  dsimp only
  split
  · simp
  · split
    · split <;> simp
    · split
      next hpay => exact State.pay_mem_of hpay
      next hpay => simp [State.pay_mem_of hpay]

@[simp] theorem State.forgetTile_mem (s : State) (w : Write) : (State.forgetTile s w).mem = s.mem := by simp [State.forgetTile, apply_ite State.mem]

@[simp] theorem State.endRing_mem (s : State) (c : Copy) : (State.endRing s c).mem = s.mem := by
  unfold State.endRing
  repeat' split
  all_goals simp

@[simp] theorem State.copyBar_wf (s : State) (c : Copy) (rel : List Nat) (n : Nat) (err : Bool) (w : s.mem.wf = true) :
    (s.copyBar c rel n err).mem.wf = true := by
  unfold State.copyBar
  split
  · exact w
  · exact State.updateBar_wf _ _ _ _ _ _ w

@[simp] theorem State.dropCopy_mem (s : State) (id : Nat) : (State.dropCopy s id).mem = s.mem := rfl
@[simp] theorem State.stopCopy_wf (s : State) (c : Copy) (code addr : Nat) (w : s.mem.wf = true) :
    (State.stopCopy s c code addr).mem.wf = true := by
  simp [State.stopCopy, w]

@[simp] theorem State.keepOld_mem (s : State) (dst : List Nat) : (State.keepOld s dst).mem = s.mem := rfl
@[simp] theorem State.doBeat_wf (s : State) (t : Task) (c : Copy) (b : Beat) (rest : List Beat) (src : List (Option Nat))
    (w : s.mem.wf = true) : (s.doBeat t c b rest src).mem.wf = true := by
  unfold State.doBeat
  dsimp only
  split
  · simp [w]
  next hplaces =>
    have hmem := State.writePlaces_mem hplaces
    split
    next hpay => simpa [State.pay_mem_of hpay, hmem] using w
    next hpay =>
      have h2 := State.pay_mem_of hpay
      split <;> simp [h2, hmem, w]

@[simp] theorem State.endDeadlock_mem (s : State) (core : Nat) : (s.endDeadlock core).mem = s.mem := by
  simp only [State.endDeadlock]
  split
  · rfl
  · exact foldl_mem (fun u i => State.retireTask_mem u _ _ _ _ _ _ _) _ _

@[simp] theorem State.escape_mem (s : State) (core : Nat) : (State.escape s core).mem = s.mem := by
  simp only [State.escape]
  repeat' split
  all_goals simp

@[simp] theorem State.dropAtom_mem (s : State) (a : Atom) : (State.dropAtom s a).mem = s.mem := by simp [State.dropAtom, apply_ite State.mem]
@[simp] theorem State.atomLate_mem (s : State) (a : Atom) (code va : Nat) : (State.atomLate s a code va).mem = s.mem := by simp [State.atomLate]

@[simp] theorem State.settleFor_wf (s : State) (a : Atom) (locs : List Nat) (write : Bool) (w : s.mem.wf = true) :
    (State.settleFor s a locs write).mem.wf = true := by
  unfold State.settleFor
  repeat' split
  all_goals simp [w]

@[simp] theorem State.noteArrival_mem (s : State) (a : Atom) (gen : Nat) : (State.noteArrival s a gen).mem = s.mem := by
  unfold State.noteArrival
  repeat' split
  all_goals simp

/-! ### Atomics -/

@[simp] theorem State.doAtom_wf (s : State) (a : Atom) (locs : List Nat) (write : Bool) (w : s.mem.wf = true) :
    (s.doAtom a locs write).mem.wf = true := by
  have hs : ((s.settleFor a locs write).dropAtom a).mem.wf = true := by simp [w]
  simp only [State.doAtom, State.ifRuns_mem, State.tagGranules_mem]
  split
  · rw [apply_ite State.mem, State.noteArrival_mem, ite_self]
    dsimp only
    exact State.recWrite_wf _ _ _ _ _ _ _ _ hs
  · split
    · exact hs
    · exact State.writeAt_wf _ _ _ _ _ _ _ hs

@[simp] theorem State.payAtom_wf (s : State) (a : Atom) (f : Nat) (locs : List Nat) (w : s.mem.wf = true) :
    (s.payAtom a f locs).mem.wf = true := by
  unfold State.payAtom
  split
  next hpay => simpa [State.pay_mem_of hpay] using w
  next hpay => exact State.doAtom_wf _ _ _ _ (by rwa [State.pay_mem_of hpay])

@[simp] theorem State.fixAtom_mem (s : State) (a : Atom) (locs : List Nat) : (State.fixAtom s a locs).mem = s.mem := rfl
@[simp] theorem State.translateAtom_mem (s : State) (a : Atom) (t : Task) : (s.translateAtom a t).mem = s.mem := by
  unfold State.translateAtom
  split
  · split
    · simp
    next ls u hplaces => exact (State.fixAtom_mem u a ls).trans (State.writePlaces_mem hplaces)
  · split
    · simp
    · dsimp only
      split
      · split <;> simp
      · simp

@[simp] theorem State.perform_wf (s : State) (a : Atom) (w : s.mem.wf = true) : (State.perform s a).mem.wf = true := by
  simp only [State.perform]
  repeat' split
  all_goals simp [w]

@[simp] theorem State.readEarly_mem (s : State) (a : Atom) : (State.readEarly s a).mem = s.mem := rfl

/-! ### The fabric -/

@[simp] theorem State.enterQueue_mem (s : State) (e : Nat) (pr : BitVec 13) (bar : Option Acc) (ops : List RemOp) :
    (State.enterQueue s e pr bar ops).mem = s.mem := rfl
@[simp] theorem State.dirty_mem (s : State) (func va : Nat) : (State.dirty s func va).mem = s.mem := by
  unfold State.dirty
  repeat' split
  all_goals simp

@[simp] theorem State.dirtyAll_mem (s : State) (func va len : Nat) : (s.dirtyAll func va len).mem = s.mem := by
  refine foldl_mem ?_ _ _
  exact fun u c => State.dirty_mem u func c.1

@[simp] theorem State.heapWrite_wf (s : State) (j : Job) (off : Nat) (data : List Byte) (w : s.mem.wf = true) :
    (s.heapWrite j off data).mem.wf = true := State.writeChip_wf _ _ (by simp [w])

@[simp] theorem State.heapAdd_wf (s : State) (func va scope : Nat) (addend : Word) (tid ctx iss : Nat) (rel : List Nat)
    (w : s.mem.wf = true) : (s.heapAdd func va scope addend tid ctx iss rel).mem.wf = true :=
  State.writeAt_wf _ _ _ _ _ _ _ (State.forceOut_wf _ _ (by simp [w]))

@[simp] theorem State.setPort_mem (s : State) (n : Nat) (p : Port) : (State.setPort s n p).mem = s.mem := rfl
@[simp] theorem State.logReject_mem (s : State) (port hoff len job srank spkg part kind reason : Nat) (flagr : Bool) :
    (State.logReject s port hoff len job srank spkg part kind reason flagr).mem = s.mem := rfl
@[simp] theorem State.setOut_mem (s : State) (o : Out) : (State.setOut s o).mem = s.mem := rfl
@[simp] theorem State.dropOut_mem (s : State) (n : Nat) : (State.dropOut s n).mem = s.mem := rfl
@[simp] theorem State.outBar_wf (s : State) (r : Remote) (err : Bool) (w : s.mem.wf = true) : (s.outBar r err).mem.wf = true := by
  unfold State.outBar
  split
  · exact w
  · exact State.updateBar_wf _ _ _ _ _ _ w

@[simp] theorem State.failOut_wf (s : State) (r : Remote) (lost : Bool) (w : s.mem.wf = true) : (State.failOut s r lost).mem.wf = true := by
  simp [State.failOut, w]

@[simp] theorem State.failPull_wf (s : State) (r : Remote) (code va : Nat) (w : s.mem.wf = true) :
    (State.failPull s r code va).mem.wf = true := by
  simp [State.failPull, w]

theorem State.sendFlits_mem {s u : State} {port n : Nat} (h : s.sendFlits port n = some u) : u.mem = s.mem := by
  simp only [State.sendFlits, Option.ite_none_right_eq_some] at h
  exact Option.some.inj h.2 ▸ rfl

theorem State.sendLegs_mem {s u : State} {j : Job} {n : Nat} {ls : List Leg} (h : s.sendLegs j n ls = some u) : u.mem = s.mem := by
  induction ls generalizing s with
  | nil => exact Option.some.inj h ▸ rfl
  | cons l ls ih =>
    simp only [State.sendLegs] at h
    split at h
    · exact ih h
    · split at h
      · cases h
      · split at h
        · cases h
        next hsend => exact (ih h).trans (State.sendFlits_mem hsend)

theorem State.sendRows_mem {s u : State} {j : Job} {rs : List Row1} (h : s.sendRows j rs = some u) : u.mem = s.mem := by
  induction rs generalizing s with
  | nil => exact Option.some.inj h ▸ rfl
  | cons r rs ih =>
    simp only [State.sendRows] at h
    split at h
    · cases h
    next hsend => exact (ih h).trans (State.sendLegs_mem hsend)

theorem State.payBoth_mem_of {s u : State} {id f m n : Nat} {b : Bool} (h : s.payBoth id f m n = (u, b)) : u.mem = s.mem := by
  rw [← State.payBoth_mem s id f m n, h]

@[simp] theorem State.enterChannel_mem (s : State) (j : Job) (n func : Nat) (rows : List Row1) : (s.enterChannel j n func rows).mem = s.mem := by
  unfold State.enterChannel
  split
  · rfl
  · split
    next hpay => exact State.payBoth_mem_of hpay
    next hpay =>
      split
      · exact State.payBoth_mem_of hpay
      next hsend =>
        refine (foldl_mem (fun u r => ?_) _ _).trans ((State.sendRows_mem hsend).trans (State.payBoth_mem_of hpay))
        rfl

@[simp] theorem State.loseOp_wf (s : State) (j : Job) (o : Out) (w : s.mem.wf = true) : (State.loseOp s j o).mem.wf = true := by
  unfold State.loseOp
  repeat' split
  all_goals simp [w]

@[simp] theorem State.dropRows_wf (s : State) (t : Task) (o : Out) (rows : List Out) (e : Nat × Nat) (w : s.mem.wf = true) :
    (s.dropRows t o rows e).mem.wf = true := by
  rw [State.dropRows, State.addLate_mem]
  exact foldl_keeps (P := fun u => u.mem.wf = true) (fun u x h => State.outBar_wf (u.dropOut x.op.id) x.op true h) rows w

@[simp] theorem State.holdRows_mem (s : State) (j : Job) (legs : List Leg) (rows : List Out) : (s.holdRows j legs rows).mem = s.mem := by
  unfold State.holdRows
  split
  · rfl
  · refine foldl_mem ?_ _ _
    intros
    rfl

@[simp] theorem State.rejectOwn_mem (s : State) (o : Out) (l : Leg) (len reason : Nat) (flagr : Bool) :
    (State.rejectOwn s o l len reason flagr).mem = s.mem := rfl
@[simp] theorem State.verified_mem (s : State) (port n : Nat) : (State.verified s port n).mem = s.mem := by simp [State.verified, apply_ite State.mem]
@[simp] theorem State.verifyHead_mem (s : State) (h : Head) : (State.verifyHead s h).mem = s.mem := by simp [State.verifyHead, apply_ite State.mem]

@[simp] theorem State.answer_mem (s : State) (h : Head) (reason : Nat) (data : List Byte) : (State.answer s h reason data).mem = s.mem := by
  simp [State.answer]

@[simp] theorem State.rejectHead_mem (s : State) (h : Head) (kind : RemKind) (hoff len reason : Nat) (flagr : Bool) :
    (State.rejectHead s h kind hoff len reason flagr).mem = s.mem := by
  simp [State.rejectHead]

@[simp] theorem State.sendReply_mem (s : State) (r : Reply) : (s.sendReply r).1.mem = s.mem := by
  unfold State.sendReply
  split
  · rfl
  · split
    · rfl
    · simp [apply_ite State.mem]

@[simp] theorem State.sendReplies_mem (s : State) : s.sendReplies.mem = s.mem := by
  have h : ∀ (rs : List Reply) (a : State × List Reply),
      (rs.foldl (fun a r => ((a.1.sendReply r).1, a.2 ++ [(a.1.sendReply r).2])) a).1.mem = a.1.mem := by
    intro rs
    induction rs with
    | nil => exact fun _ => rfl
    | cons r rs ih => exact fun a => (ih _).trans (State.sendReply_mem a.1 r)
  exact h _ _

@[simp] theorem State.payHead_mem (s : State) (h : Head) (k : RemKind) : (State.payHead s h k).1.mem = s.mem := by
  unfold State.payHead
  repeat' split
  all_goals simp

@[simp] theorem State.payInputs_mem (s : State) : s.payInputs.mem = s.mem := by
  refine foldl_mem (fun u x => ?_) _ s
  split
  · rfl
  · split <;> simp

@[simp] theorem State.verifyAnswer_mem (s : State) (port : Nat) (k : Nat × Nat) : (State.verifyAnswer s port k).mem = s.mem := by
  simp [State.verifyAnswer, apply_ite State.mem]

@[simp] theorem State.verifyInputs_mem (s : State) : s.verifyInputs.mem = s.mem := by
  refine (foldl_mem (fun u k => ?_) _ _).trans (foldl_mem (fun u x => ?_) _ s)
  all_goals
    split <;> simp

@[simp] theorem State.noteFlag_mem (s : State) (src : PortSrc) (d : Job) (flag scope : Nat) (addend : Word) (mirror : Bool) :
    (State.noteFlag s src d flag scope addend mirror).mem = s.mem := rfl
@[simp] theorem State.pullBeat_wf (s : State) (o : Out) (t : Task) (w : s.mem.wf = true) : (s.pullBeat o t).mem.wf = true := by
  unfold State.pullBeat
  split
  · split <;> simp [w]
  · split
    · simp [w]
    next hplaces =>
      split
      · exact w
      · exact State.writeChip_wf _ _ (by rwa [State.writePlaces_mem hplaces])

@[simp] theorem State.settleOut_wf (s : State) (o : Out) (w : s.mem.wf = true) : (s.settleOut o).mem.wf = true := by
  unfold State.settleOut
  repeat' split
  all_goals simp [w]

@[simp] theorem State.setJob_mem (s : State) (l1 j : Nat) (x : Job) : (State.setJob s l1 j x).mem = s.mem := rfl
@[simp] theorem State.loseOut_wf (s : State) (j : Job) (rank : Nat) (o : Out) (w : s.mem.wf = true) :
    (State.loseOut s j rank o).mem.wf = true := by
  unfold State.loseOut
  repeat' split
  all_goals simp [w]

@[simp] theorem State.loseRank_wf (s : State) (l1 job : Nat) (j : Job) (rank : Nat) (w : s.mem.wf = true) :
    (s.loseRank l1 job j rank).mem.wf = true :=
  foldl_keeps (P := fun u => u.mem.wf = true) (fun u o h => State.loseOut_wf u j rank o h) _ w

@[simp] theorem State.giveBack_wf (s : State) (lo n : Nat) (w : s.mem.wf = true) : (s.giveBack lo n).mem.wf = true :=
  State.wipe_wf lo n w

/-! ### Translations and host pages -/

@[simp] theorem State.dropTlb_mem (s : State) (f space va : Nat) : (State.dropTlb s f space va).mem = s.mem := rfl
@[simp] theorem State.dropLocked_mem (s : State) (f space va : Nat) : (State.dropLocked s f space va).mem = s.mem := rfl
@[simp] theorem State.ask_mem (s : State) (f page gen : Nat) : (State.ask s f page gen).mem = s.mem := by simp [State.ask, apply_ite State.mem]

@[simp] theorem State.askAgain_mem (s : State) : s.askAgain.mem = s.mem := by
  refine foldl_mem (fun u e => ?_) _ s
  split <;> simp

/-! ### Save areas -/

theorem State.saveArea_wf {s u : State} {id : Nat} {t : Task} {c : Ctx} (w : s.mem.wf = true) (h : s.saveArea id t c = some u) :
    u.mem.wf = true := by
  obtain ⟨p, hp, rfl⟩ := Option.map_eq_some_iff.1 h
  exact State.memWrite_wf _ _ (State.newFrames_wf w hp)

@[simp] theorem State.freeArea_wf (s : State) (id : Nat) (w : s.mem.wf = true) : (s.freeArea id).mem.wf = true :=
  foldl_keeps (P := fun u => u.mem.wf = true) (fun u a h => State.giveBack_wf u a 4096 h) _ w

@[simp] theorem State.releaseKeys_mem (s : State) (id : Nat) : (State.releaseKeys s id).mem = s.mem := by
  unfold State.releaseKeys
  repeat' split
  all_goals simp

@[simp] theorem State.takeAsync_mem (s : State) (id code : Nat) (tval2 : Word) : (State.takeAsync s id code tval2).mem = s.mem := by
  simp [State.takeAsync]

@[simp] theorem State.settleTiles_wf (s : State) (core : Nat) (ns : List Nat) (w : s.mem.wf = true) :
    (s.settleTiles core ns).mem.wf = true :=
  foldl_keeps (P := fun u => u.mem.wf = true) (fun u _ h => State.settle_wf u _ _ h) ns w

@[simp] theorem State.restoreTile_wf (s : State) (core : Nat) (x : Nat × Memory × TileHdr) (w : s.mem.wf = true) :
    (s.restoreTile core x).mem.wf = true :=
  Memory.wf_writeCells _ (Memory.wf_filter _ (State.settle_wf s _ _ w))

@[simp] theorem State.relock_mem (s : State) (id : Nat) : (s.relock id).mem = s.mem := by
  unfold State.relock
  dsimp only
  split
  · rfl
  · exact foldl_mem (fun u k => State.prepareReads_mem _ _ _ u _) _ s

@[simp] theorem State.comeBack_mem (s : State) (id : Nat) : (State.comeBack s id).mem = s.mem := by
  unfold State.comeBack
  repeat' split
  all_goals simp

@[simp] theorem State.setSlot_mem (s : State) (q : SlotRef) (x : Slot) : (State.setSlot s q x).mem = s.mem := rfl
@[simp] theorem State.writeSlot_mem (s : State) (q : SlotRef) (w v : Nat) : (State.writeSlot s q w v).mem = s.mem := by
  unfold State.writeSlot
  repeat' split
  all_goals simp [apply_ite State.mem]

/-! ### Spindle -/

@[simp] theorem State.spinPut_wf (f space : Nat) (launch : Option Nat) (s : State) (cs : List (Nat × Nat)) (bs : List Byte)
    (w : s.mem.wf = true) : (State.spinPut f space launch s cs bs).mem.wf = true := by
  induction cs generalizing s bs with
  | nil => exact w
  | cons c cs ih =>
    obtain ⟨a, n⟩ := c
    refine ih _ _ ?_
    split
    · exact w
    next l _ =>
      have hput : ∀ u : State, u.mem = s.mem → (match u.leaf f space a with
          | none => u
          | some m => u.writeChip (1 + f) (cellsAt (m.flat space a) (bs.take n))).mem.wf = true := fun u hu => by
        split
        · rwa [hu]
        · exact State.writeChip_wf _ _ (by rwa [hu])
      split
      · exact w
      · refine hput _ ?_
        split <;> simp

@[simp] theorem State.spinWrite_wf (s : State) (f addr n x : Nat) (w : s.mem.wf = true) : (s.spinWrite f addr n x).mem.wf = true :=
  State.spinPut_wf _ _ _ _ _ _ w

@[simp] theorem State.setWalk_mem (s : State) (w : Walk) : (State.setWalk s w).mem = s.mem := rfl
@[simp] theorem State.settleWalk_mem (s : State) (key : Nat) : (State.settleWalk s key).mem = s.mem := by
  unfold State.settleWalk
  repeat' split
  all_goals simp

@[simp] theorem State.goOn_mem (s : State) (w : Walk) : (State.goOn s w).mem = s.mem := by simp [State.goOn]

@[simp] theorem State.askFor_mem (s : State) (q : SlotRef) (w : Walk) (p : Nat) : (State.askFor s q w p).mem = s.mem := by
  unfold State.askFor
  repeat' split
  all_goals simp

@[simp] theorem State.summarise_wf (s : State) (f summ x : Nat) (w : s.mem.wf = true) : (s.summarise f summ x).mem.wf = true := by
  unfold State.summarise
  split
  · exact w
  · exact State.spinWrite_wf _ _ _ _ _ w

@[simp] theorem State.dropRequests_mem (s : State) (f gen : Nat) : (State.dropRequests s f gen).mem = s.mem := rfl
@[simp] theorem State.endLaunch_mem (s : State) (l : Launch) (f : Walk → Walk) : (State.endLaunch s l f).mem = s.mem := by
  simp only [State.endLaunch]
  repeat' split
  all_goals simp

@[simp] theorem State.refuseLease_mem (s : State) (l : Launch) : (State.refuseLease s l).mem = s.mem := by simp [State.refuseLease]

/-- A fold that can fail keeps what each of its steps keeps. -/
theorem foldl_bind_keeps {α β : Type} {P : α → Prop} {f : α → β → Option α} (h : ∀ a x b, P a → f a x = some b → P b) (xs : List β)
    {a b : α} (ha : P a) (hf : xs.foldl (fun o x => o.bind fun a => f a x) (some a) = some b) : P b := by
  induction xs generalizing a with
  | nil => exact Option.some.inj hf ▸ ha
  | cons x xs ih =>
    rw [List.foldl_cons, Option.bind_some] at hf
    cases hx : f a x with
    | none =>
      rw [hx] at hf
      have hnone : ∀ ys : List β, ys.foldl (fun o y => o.bind fun a => f a y) none = none := fun ys => by
        induction ys with
        | nil => rfl
        | cons y ys ih => exact ih
      rw [hnone] at hf
      cases hf
    | some c =>
      rw [hx] at hf
      exact ih (h a x c ha hx) hf

theorem State.mapLease_wf {s u : State} {l : Launch} {g : Nat} (w : s.mem.wf = true) (h : s.mapLease l g = some u) : u.mem.wf = true := by
  refine foldl_bind_keeps (P := fun u => u.mem.wf = true) (fun a p b ha hb => ?_) _ w h
  split at hb
  · exact Option.some.inj hb ▸ ha
  · exact State.mapPage_wf ha hb

theorem State.reserveFrames_wf {s : State} {l : Launch} {q : List (Nat × Nat) × State} (w : s.mem.wf = true)
    (h : s.reserveFrames l = some q) : q.2.mem.wf = true := by
  refine foldl_bind_keeps (P := fun q => q.2.mem.wf = true) (fun a x b ha hb => ?_) _ (a := ([], s)) w h
  obtain ⟨p, hp, rfl⟩ := Option.map_eq_some_iff.1 hb
  exact State.newFrame_wf (a := p.1) (u := p.2) ha hp

theorem State.refill_wf {s u : State} {f l1 va : Nat} {l : Leaf} (w : s.mem.wf = true) (h : s.refill f l1 va l = some u) :
    u.mem.wf = true := by
  obtain ⟨bs, -, hbs⟩ := Option.bind_eq_some_iff.1 h
  obtain ⟨p, hp, rfl⟩ := Option.map_eq_some_iff.1 hbs
  exact State.memWrite_wf _ _ (State.newFrame_wf (a := p.1) (u := p.2) w hp)

theorem State.refillLease_wf {s u : State} {l : Launch} (w : s.mem.wf = true) (h : s.refillLease l = some u) : u.mem.wf = true := by
  refine foldl_bind_keeps (P := fun u => u.mem.wf = true) (fun a p b ha hb => ?_) _ w h
  split at hb
  · split at hb
    · split at hb
      · exact State.refill_wf ha hb
      · cases hb
    · exact Option.some.inj hb ▸ ha
  · exact Option.some.inj hb ▸ ha

@[simp] theorem State.stampLease_mem (s : State) (l : Launch) (g : Nat) : (s.stampLease l g).mem = s.mem := by
  refine foldl_mem (fun u p => ?_) _ s
  split
  · rfl
  · split <;> rfl

theorem State.takeLease_wf {s : State} {l : Launch} {g : Nat} {q : List (Nat × Nat) × State} (w : s.mem.wf = true)
    (h : s.takeLease l g = some q) : q.2.mem.wf = true := by
  obtain ⟨u, hu, h⟩ := Option.bind_eq_some_iff.1 h
  obtain ⟨v, hv, h⟩ := Option.bind_eq_some_iff.1 h
  obtain ⟨p, hp, rfl⟩ := Option.map_eq_some_iff.1 h
  have hp := State.reserveFrames_wf (State.refillLease_wf (State.mapLease_wf w hu) hv) hp
  simpa using hp

@[simp] theorem State.seedPage_wf (s : State) (i : Image) (l : Launch) (w : s.mem.wf = true) : (s.seedPage i l).mem.wf = true := by
  unfold State.seedPage
  refine foldl_keeps (P := fun u => u.mem.wf = true) (fun u p h => ?_) _ w
  dsimp only
  split
  · split
    · exact State.writeChip_wf _ _ (State.spinPut_wf _ _ _ _ _ _ h)
    · exact State.spinPut_wf _ _ _ _ _ _ h
  · exact State.spinPut_wf _ _ _ _ _ _ h

@[simp] theorem State.rouse_mem (s : State) (c : Nat) : (State.rouse s c).mem = s.mem := by simp [State.rouse, apply_ite State.mem]
@[simp] theorem State.dropEntry_mem (s : State) (task : Nat) : (State.dropEntry s task).mem = s.mem := rfl

/-! ### Partitions -/

@[simp] theorem State.clearArbiters_mem (s : State) (p : Part) : (s.clearArbiters p).mem = s.mem := by
  refine foldl_mem ?_ _ _
  intros
  rfl

@[simp] theorem State.powerUp_mem (s : State) (p : Part) : (s.powerUp p).mem = s.mem := by
  refine foldl_mem ?_ _ _
  intros
  rfl

@[simp] theorem State.disableSlots_mem (s : State) (f : Nat) : (State.disableSlots s f).mem = s.mem := rfl
@[simp] theorem State.releasing_mem (s : State) (f : Nat) (destroy : Bool) : (State.releasing s f destroy).mem = s.mem := by
  simp [State.releasing, apply_ite State.mem]

@[simp] theorem State.release_mem (s : State) (f : Nat) (destroy : Bool) : (s.release f destroy).mem = s.mem := by
  unfold State.release
  split
  · exact (foldl_mem (fun u g => State.releasing_mem u g true) _ _).trans (State.releasing_mem s f destroy)
  · exact State.releasing_mem s f destroy

@[simp] theorem State.dropTasks_mem (s : State) (f : Nat) : (s.dropTasks f).mem = s.mem :=
  foldl_mem (f := fun (u : State) id => (u.leaveArray id 0 false).unrelease id) (fun _ _ => rfl) _ _

@[simp] theorem State.dropWalks_mem (s : State) (f : Nat) : (State.dropWalks s f).mem = s.mem := rfl
@[simp] theorem State.zeroCore_wf (s : State) (n : Nat) (w : s.mem.wf = true) : (s.zeroCore n).mem.wf = true :=
  State.zeroRange_wf _ _ _ (State.zeroRange_wf _ _ _ (State.zeroRange_wf _ _ _ w))

@[simp] theorem State.zeroHeader_mem (s : State) (g : Nat) : (s.zeroHeader g).mem = s.mem := by
  unfold State.zeroHeader
  extract_lets n o k
  clear_value n o
  rw [apply_ite State.mem, State.setCore_mem, ite_self]

@[simp] theorem State.zeroGranules_wf (s : State) (f : Nat) (w : s.mem.wf = true) : (s.zeroGranules f).mem.wf = true := by
  unfold State.zeroGranules
  generalize (s.owners.filter fun g => decide (g.2 = f + 1)) = gs
  induction gs generalizing s with
  | nil => exact w
  | cons g gs ih =>
    have hg : ((s.zeroRange (g.1 * 4096) 4096).zeroHeader g.1).mem.wf = true := by simp only [State.zeroHeader_mem, State.zeroRange_wf, w]
    rw [List.foldl_cons]
    exact ih _ hg

@[simp] theorem State.zeroKeys_mem (s : State) (f : Nat) : (State.zeroKeys s f).mem = s.mem := rfl
@[simp] theorem State.zeroFunc_wf (s : State) (f : Nat) (w : s.mem.wf = true) : (s.zeroFunc f).mem.wf = true := by
  unfold State.zeroFunc
  dsimp only
  rw [State.zeroKeys_mem]
  have h1 : ((s.ownedPages f).foldl (fun u a => u.wipe a.1 a.2)
      (s.setPart f { s.part f with areas := (s.part f).areas ++ s.lineMaps f })).mem.wf = true :=
    foldl_keeps (P := fun u => u.mem.wf = true) (fun u a h => State.wipe_wf _ _ h) _ w
  have h3 := fun (u : State) (hu : u.mem.wf = true) => State.zeroGranules_wf ((s.part f).wholeCores.foldl (fun u n => u.zeroCore n) u) f
    (foldl_keeps (P := fun u => u.mem.wf = true) (fun u n h => State.zeroCore_wf u n h) _ hu)
  split
  · refine foldl_keeps (P := fun u => u.mem.wf = true) (fun u c h => ?_) _ (h3 _ h1)
    exact State.zeroRange_wf _ _ _ (State.zeroTags_wf _ _ _ (State.zeroRange_wf _ _ _ h))
  · exact h3 _ h1

@[simp] theorem State.dropPages_wf (s : State) (f : Nat) (w : s.mem.wf = true) : (s.dropPages f).mem.wf = true := by
  unfold State.dropPages
  dsimp only
  rw [State.pruneTables_mem]
  refine foldl_keeps (P := fun u => u.mem.wf = true) (fun u l h => ?_) _ (foldl_keeps (P := fun u => u.mem.wf = true) (fun u a h => ?_) _ w)
  · rwa [State.clearLeaf_mem]
  · exact State.giveBack_wf _ _ _ h

@[simp] theorem State.powerDown_mem (s : State) (p : Part) : (s.powerDown p).mem = s.mem := by
  refine foldl_mem ?_ _ _
  intros
  rfl

@[simp] theorem State.passTake_mem (s : State) (f : Nat) : (State.passTake s f).mem = s.mem := rfl

@[simp] theorem State.endPass_wf (s : State) (f : Nat) (w : s.mem.wf = true) : (State.endPass s f).mem.wf = true := by
  simp only [State.endPass]
  repeat' split
  all_goals simp [w]

@[simp] theorem State.setKeySlot_mem (s : State) (n : Nat) (k : KeySlot) : (State.setKeySlot s n k).mem = s.mem := rfl

/-! ### The monitor and the responder -/

@[simp] theorem State.reply_mem (s : State) (st : Nat) : (State.reply s st).mem = s.mem := rfl
@[simp] theorem State.drawKey_mem (s : State) : (State.drawKey s).2.mem = s.mem := by simp [State.drawKey]

@[simp] theorem State.settleCopies_wf (s : State) (slot tweak : Nat) (w : s.mem.wf = true) : (s.settleCopies slot tweak).mem.wf = true :=
  State.forceOut_wf _ _ w

@[simp] theorem State.reencrypt_wf (s : State) (slot line : Nat) (w : s.mem.wf = true) : (s.reencrypt slot line).mem.wf = true := by
  unfold State.reencrypt
  split
  · exact w
  · extract_lets k s' copies src tweak cells
    have hs' : s'.mem.wf = true := by
      subst s'
      split
      · exact State.settleCopies_wf _ _ _ w
      · exact w
    exact Memory.wf_writeCells _ hs'
  · dsimp only
    apply Memory.wf_writeCells
    exact w

@[simp] theorem State.respond_mem (s : State) (f : Nat) (r : Spdm) (bytes : List Byte) : (State.respond s f r bytes).mem = s.mem := rfl
@[simp] theorem State.refuse_mem (s : State) (f code : Nat) : (State.refuse s f code).mem = s.mem := rfl
@[simp] theorem State.payload_mem (s : State) (f req : Nat) (r : Spdm) : (State.payload s f req r).mem = s.mem := rfl
@[simp] theorem State.refuseWrite_mem (page : Nat) (s : State) (w : Write) : (State.refuseWrite page s w).mem = s.mem := by
  unfold State.refuseWrite
  repeat' split
  all_goals simp

@[simp] theorem State.refusePage_mem (s : State) (f page : Nat) : (s.refusePage f page).mem = s.mem :=
  foldl_mem (fun u w => State.refuseWrite_mem page u w) _ s

/-! ### Images -/

@[simp] theorem State.putStatus_mem (s : State) (f code value : Nat) : (State.putStatus s f code value).mem = s.mem := rfl

theorem State.mapImage_wf {s u : State} {f home size : Nat} (w : s.mem.wf = true) (h : s.mapImage f home size = some u) :
    u.mem.wf = true := by
  unfold State.mapImage at h
  split at h
  · cases h
  · exact foldl_bind_keeps (P := fun u => u.mem.wf = true) (fun a n b ha hb => State.mapPage_wf ha hb) _ w h

@[simp] theorem State.putImage_wf (s : State) (f va : Nat) (bs : List Byte) (w : s.mem.wf = true) : (s.putImage f va bs).mem.wf = true :=
  State.spinPut_wf _ _ _ _ _ _ w

theorem State.putMap_wf {s : State} {f : Nat} {map : List Byte} {q : List Nat × State} (w : s.mem.wf = true)
    (h : s.putMap f map = some q) : q.2.mem.wf = true := by
  unfold State.putMap at h
  split at h
  · exact Option.some.inj h ▸ w
  · obtain ⟨p, hp, rfl⟩ := Option.map_eq_some_iff.1 h
    exact State.writeChip_wf _ _ (State.newFrames_wf w hp)

@[simp] theorem State.unmapPage_wf (s : State) (f va : Nat) (w : s.mem.wf = true) : (State.unmapPage s f va).mem.wf = true := by
  unfold State.unmapPage
  repeat' split
  all_goals simp [w]

@[simp] theorem State.logCheck_mem (s : State) (l1 : Nat) (r : BitVec 512) : (State.logCheck s l1 r).mem = s.mem := rfl
@[simp] theorem State.checkCtx_mem (s : State) (unit addr i : Nat) : (State.checkCtx s unit addr i).mem = s.mem := by
  simp only [State.checkCtx]
  repeat' split
  all_goals simp

@[simp] theorem State.checkRetired_mem (s : State) (unit addr tid : Nat) : (State.checkRetired s unit addr tid).mem = s.mem := by
  unfold State.checkRetired
  repeat' split
  all_goals simp [apply_ite State.mem]

@[simp] theorem State.checkNone_mem (s : State) (unit addr : Nat) : (State.checkNone s unit addr).mem = s.mem := by
  unfold State.checkNone
  repeat' split
  all_goals simp

/-! ### Cycles -/

@[simp] theorem State.tickHeld_mem (s : State) (ids : List Nat) : (s.tickHeld ids).mem = s.mem := by
  refine foldl_mem ?_ _ _
  intros
  rfl

@[simp] theorem State.endIdle_mem (s : State) (id : Nat) : (State.endIdle s id).mem = s.mem := by simp [State.endIdle, apply_ite State.mem]

@[simp] theorem State.returns_mem (s : State) (ids : List Nat) : (s.returns ids).mem = s.mem := by
  refine foldl_mem (fun u i => ?_) ids s
  simp [apply_ite State.mem]

@[simp] theorem State.countCycle_mem (s : State) (core : Nat) : (State.countCycle s core).mem = s.mem := by
  simp [State.countCycle, apply_ite State.mem]

@[simp] theorem State.restamp_mem (s : State) : (State.restamp s).mem = s.mem := rfl
@[simp] theorem State.endCycle_mem (s : State) : s.endCycle.mem = s.mem := by
  have hsteal : ∀ ids : List Nat, (ids.foldl (fun u i => u.answerSteal i) s).mem = s.mem :=
    fun ids => foldl_mem (fun u i => State.answerSteal_mem u i) ids s
  have hinputs := fun ids : List Nat => (State.borrowAll_mem _).trans ((State.restamp_mem _).trans ((State.verifyInputs_mem _).trans
    ((State.sendReplies_mem _).trans ((State.payInputs_mem _).trans (hsteal ids)))))
  unfold State.endCycle
  dsimp only
  split
  · refine (foldl_mem ?_ _ _).trans (hinputs _)
    intros
    rfl
  · exact hinputs _

/-! ### Bundles -/

@[simp] theorem State.heldNow_mem (s : State) (id : Nat) : (State.heldNow s id).mem = s.mem := rfl
@[simp] theorem State.early0_mem (s : State) (id : Nat) (t : Trap) : (State.early0 s id t).mem = s.mem := by simp [State.early0]

@[simp] theorem State.fetchFault_mem (s : State) (id code : Nat) (tval2 : Word) : (State.fetchFault s id code tval2).mem = s.mem := by
  simp only [State.fetchFault]
  repeat' split
  all_goals simp

@[simp] theorem State.decodeFault_mem (s : State) (id : Nat) (f : DecodeFault) : (State.decodeFault s id f).mem = s.mem := by
  simp [State.decodeFault, apply_ite State.mem]

@[simp] theorem State.takeLate_mem (s : State) (id : Nat) (l : Late) : (State.takeLate s id l).mem = s.mem := by simp [State.takeLate]

@[simp] theorem State.fetchOne_mem (s : State) (id : Nat) (t : Task) (a : Nat) (fresh : Bool) : (s.fetchOne id t a fresh).1.mem = s.mem := by
  simp only [State.fetchOne]
  split
  · rfl
  · split
    · split
      · simp
      · split
        next htake => simp [State.take_mem htake]
        · simp
      · rfl
    · simp

theorem State.fetchOne_mem_of {s u : State} {id a : Nat} {t : Task} {fresh b : Bool} (h : s.fetchOne id t a fresh = (u, b)) :
    u.mem = s.mem := by
  rw [← State.fetchOne_mem s id t a fresh, h]

@[simp] theorem State.fetchLine_mem (s : State) (id : Nat) (t : Task) : (s.fetchLine id t).1.mem = s.mem := by
  unfold State.fetchLine
  split
  next h => split <;> simp [State.fetchOne_mem_of h]
  · exact State.fetchOne_mem _ _ _ _ _

theorem State.fetchLine_mem_of {s u : State} {id : Nat} {t : Task} {b : Bool} (h : s.fetchLine id t = (u, b)) : u.mem = s.mem := by
  rw [← State.fetchLine_mem s id t, h]

end Sys2Proof.Machine
end

section
/-!
PROOFS. Where an instruction, or a step of an agent, goes on, memory stays in its canonical form.
-/

namespace Sys2Proof.Machine

/-- Where the result is a next state, its memory is in canonical form. -/
def Tidy (r : Result) : Prop := ∀ t, r = .next t → t.mem.wf = true

@[simp] theorem tidy_next (t : State) : Tidy (.next t) ↔ t.mem.wf = true :=
  ⟨fun h => h t rfl, fun h _ he => Host.Outcome.next.inj he ▸ h⟩

@[simp] theorem tidy_fault (f : Fault) : Tidy (.fault f) := fun _ h => nomatch h
@[simp] theorem tidy_refused (r : Refusal) : Tidy (.refused r) := fun _ h => nomatch h

@[simp] theorem tidy_ite (p : Prop) [Decidable p] (a b : Result) : Tidy (if p then a else b) ↔ (p → Tidy a) ∧ (¬ p → Tidy b) := by
  split <;> simp_all

theorem State.payPart_mem_of {s u : State} {id f n : Nat} {k : Token} {b : Bool} (h : s.payPart id f k n = (u, b)) : u.mem = s.mem := by
  rw [← State.payPart_mem s id f k n, h]

theorem State.fenceFault_mem {s u : State} {id tid scope : Nat} (h : s.fenceFault id tid scope = some u) : u.mem = s.mem := by
  unfold State.fenceFault at h
  split at h
  · simp [← Option.some.inj h]
  · split at h
    · simp [← Option.some.inj h]
    · simp [← Option.some.inj h]
    · cases h

/-! ### What several instructions or steps share -/

section shared
variable {s : State} (w : s.mem.wf = true)
include w

theorem condBranch_tidy (test : Word → Bool) (g : Fin 64) (d : Imm 18) : Tidy (condBranch test g d s) := by simp [condBranch, w]

theorem linkBranch_tidy (d : Fin 64) (target : Word) : Tidy (linkBranch d target s) := by
  unfold linkBranch
  split <;> simp [w]

theorem scalarLoad_tidy (size : Nat) (signed : Bool) (d : Fin 64) (k : Fin 32) (g : Fin 64) (i : Imm 7) :
    Tidy (scalarLoad size signed d k g i s) := by
  unfold scalarLoad
  split
  · simp [w]
  · split <;> simp [w]

theorem scalarStore_tidy (size : Nat) (d : Fin 64) (k : Fin 32) (g : Fin 64) (i : Imm 7) : Tidy (scalarStore size d k g i s) := by
  unfold scalarStore
  split
  · simp [w]
  · split
    · simp [w]
    · split <;> simp [w]

theorem vecCmp_tidy (ew lw : Nat) (rel : Nat → Nat → Bool × Flags) (d : Fin 8) (a b : Fin 64) (m : Fin 8) (x : Lit) :
    Tidy (vecCmp ew lw rel d a b m x s) := by
  unfold vecCmp
  split <;> simp [w]

theorem vecCmpI_tidy (r : Int → Int → Bool) (d : Fin 8) (a b : Fin 64) (m t : Fin 8) (x : Lit) : Tidy (vecCmpI r d a b m t x s) := by
  unfold vecCmpI
  exact vecCmp_tidy w _ _ _ d a b m x

theorem startDiv_tidy (d a b : Fin 64) (v : Word) : Tidy (startDiv d a b v s) := by simp [startDiv, w]

theorem blockCheck_tidy {k : Fin 32} {a : Fin 64} {n size perm : Nat} {go : Acc → Result} (hgo : ∀ x, Tidy (go x)) :
    Tidy (blockCheck k a n size perm s go) := by
  unfold blockCheck
  split
  · simp [w]
  · split
    · simp [w]
    · exact hgo _

theorem matrixCheck_tidy {vs gs : List (Fin 64)} {go : Result} (hgo : Tidy go) : Tidy (matrixCheck vs gs s go) := by
  unfold matrixCheck
  split
  · simp [w]
  · split
    · simp [w]
    · split <;> simp [w, hgo]

theorem State.enqueue_tidy (op : XOp) (f : Core → Core) : Tidy (s.enqueue op f) := by simp [State.enqueue, w]

theorem configure_tidy (wa wb : Nat) (sl : Bool) (s1 : Nat) : Tidy (configure wa wb sl s1 s) := by
  refine matrixCheck_tidy w ?_
  split
  · simp [w]
  · exact State.enqueue_tidy w _ _

theorem atHead_tidy {core : Nat} {f : XEntry → State → Option State}
    (hf : ∀ e t u, t.mem.wf = true → f e t = some u → u.mem.wf = true) : Tidy (atHead core s f) := by
  unfold atHead
  split
  · simp
  · split
    · simp [w]
    · split
      · simp [w]
      · split
        · simp [w]
        next hu =>
          refine (tidy_next _).2 (hf _ _ _ ?_ hu)
          exact w

theorem remoteCheck_tidy {e : Fin 16} {regs : List Nat} {go : BitVec 13 → Job → Result} (hgo : ∀ p j, Tidy (go p j)) :
    Tidy (remoteCheck e regs s go) := by
  unfold remoteCheck
  split
  · simp [w]
  · dsimp only
    split
    · simp [w]
    · split
      · exact hgo _ _
      · simp [w]

theorem atomic_tidy (op : AtomOp) (perm : Nat) (reads : List Nat) (dest : Option Nat) (x y : Word) (k : Fin 32) (a : Fin 64)
    (use scope : Nat) (z : Fin 2) (asc : Bool) (l : Lit) : Tidy (atomic op perm reads dest x y k a use scope z asc l s) := by
  unfold atomic
  dsimp only
  split
  · simp [w]
  · split <;> simp [w]

theorem ascOp_tidy (op : AtomOp) (reads : List Nat) (dest : Option Nat) (x y : Word) (k : Fin 32) (a : Fin 64) (z : Fin 2) (l : Lit) :
    Tidy (ascOp op reads dest x y k a z l s) := by
  unfold ascOp
  dsimp only
  split
  · simp [w]
  · split
    · simp [w]
    · split <;> simp [w]

theorem State.issueCopy_tidy (ks kd : Cap) (rows : List (Acc × Acc)) (b : Option (Fin 32)) (boff : Word) (cb : Option (Nat × Nat)) :
    Tidy (s.issueCopy ks kd rows b boff cb) := by
  unfold State.issueCopy
  split
  · simp [w]
  · split
    · simp [w]
    · dsimp only
      split
      · simp [w]
      next hatt => simpa using State.attachBar_wf w hatt

theorem State.issueRemote_tidy (e : Fin 16) (pr : BitVec 13) (j : Job) (b : Option (Fin 32)) (boff : Word) (ops : List RemOp) :
    Tidy (s.issueRemote e pr j b boff ops) := by
  unfold State.issueRemote
  split
  · simp [w]
  · split
    · simp [w]
    · split
      · simp [w]
      next hatt => simpa using State.attachBar_wf w hatt

theorem State.paying_tidy {r f : Nat} {accs : List SpinAcc} {go : State → Result} (hgo : ∀ u : State, u.mem.wf = true → Tidy (go u)) :
    Tidy (s.paying r f accs go) := by
  unfold State.paying
  split
  · simp [w]
  · split
    next hpay => exact hgo _ (by rwa [State.pay_mem_of hpay])
    next hpay => exact (tidy_next _).2 (by rwa [State.pay_mem_of hpay])

theorem State.visiting_tidy {x : Walk} {n : Nat} {more : List SpinAcc} {go : State → Result}
    (hgo : ∀ u : State, u.mem.wf = true → Tidy (go u)) : Tidy (s.visiting x n more go) :=
  State.paying_tidy w hgo

/-- The failure of a node whose word cannot be read. -/
theorem State.failNode_tidy (x y : Walk) (n err : Nat) : Tidy (s.visiting x n [] fun u => .next (u.goOn (y.fail n 5 err))) :=
  State.visiting_tidy w fun u hu => by simp [hu]

theorem visit_tidy {q : SlotRef} {n : Nat} {mine : Nat → Bool} {go : Walk → Node → Result} (hgo : ∀ x d, Tidy (go x d)) :
    Tidy (visit q n mine s go) := by
  unfold visit
  split
  · simp [w]
  · split
    · simp [w]
    · dsimp only
      split
      · simp [w]
      · split
        · simp [w]
        · split
          · split <;> simp [w]
          · split
            · simp [w]
            · split
              · exact State.visiting_tidy w fun u hu => by simp [hu]
              · exact hgo _ _

theorem State.nodeWord_tidy {q : SlotRef} {x : Walk} {addr : Nat} {fail : Walk → Result} {go : Walk → Nat → Result}
    (hfail : ∀ x, Tidy (fail x)) (hgo : ∀ x v, Tidy (go x v)) : Tidy (s.nodeWord q x addr fail go) := by
  unfold State.nodeWord
  split
  · simp [w]
  · dsimp only
    split
    · exact hfail _
    · split
      · exact hgo _ _
      · simp [w]

theorem spdm_tidy {f stage : Nat} {go : Spdm → State} (hgo : ∀ r, (go r).mem.wf = true) : Tidy (spdm f stage s go) := by
  simp [spdm, w, hgo]

theorem secured_tidy {f sess : Nat} {go : Spdm → State} (hgo : ∀ r, (go r).mem.wf = true) : Tidy (secured f sess s go) :=
  spdm_tidy w fun r => by split <;> simp [hgo, w]

end shared

theorem spent_tidy {r : Result} {id f : Nat} (h : Tidy r) : Tidy (spent r id f) := by
  unfold spent
  split
  · have hu := (tidy_next _).1 h
    split <;> simp [hu]
  · exact h

end Sys2Proof.Machine
end

section
/-!
PROOFS. Each instruction of a slot, and each step of an agent, keeps memory in its canonical form.
-/

namespace Sys2Proof.Machine

section
variable {s : State} (hw : s.mem.wf = true)
include hw

theorem exec_scalar_tidy {i : Instr} {d : Fin 64} (hd : scalarDest i = some d) : Tidy (exec i s) := by
  obtain ⟨v, p, hx⟩ := exec_scalar hd s
  simp [hx, hw]

theorem exec_vector_tidy {i : Instr} {d : Fin 64} (hd : vectorDest i = some d) : Tidy (exec i s) := by
  obtain ⟨lat, val, sel, tag, f, hx⟩ := exec_vector hd s
  simp [hx, hw]

/-! ### Control and system -/

theorem execBr_tidy (d : Imm 18) : Tidy (execBr d s) := by simp [execBr, hw]
theorem execBl_tidy (g : Fin 64) (d : Imm 18) : Tidy (execBl g d s) := linkBranch_tidy hw _ _
theorem execBeqz_tidy (g : Fin 64) (d : Imm 18) : Tidy (execBeqz g d s) := condBranch_tidy hw _ _ _
theorem execBnez_tidy (g : Fin 64) (d : Imm 18) : Tidy (execBnez g d s) := condBranch_tidy hw _ _ _
theorem execBltz_tidy (g : Fin 64) (d : Imm 18) : Tidy (execBltz g d s) := condBranch_tidy hw _ _ _
theorem execBgez_tidy (g : Fin 64) (d : Imm 18) : Tidy (execBgez g d s) := condBranch_tidy hw _ _ _
theorem execBgtz_tidy (g : Fin 64) (d : Imm 18) : Tidy (execBgtz g d s) := condBranch_tidy hw _ _ _
theorem execBlez_tidy (g : Fin 64) (d : Imm 18) : Tidy (execBlez g d s) := condBranch_tidy hw _ _ _
theorem execBmz_tidy (d : Imm 18) : Tidy (execBmz d s) := by simp [execBmz, hw]
theorem execJr_tidy (a : Fin 64) : Tidy (execJr a s) := by simp [execJr, hw]
theorem execJlr_tidy (d a : Fin 64) : Tidy (execJlr d a s) := by simp [execJlr, hw, linkBranch_tidy]

theorem execTail_tidy : Tidy (execTail s) := by
  unfold execTail
  repeat' split
  all_goals simp [hw]

theorem execNext_tidy (d : Fin 64) : Tidy (execNext d s) := by
  simp only [execNext]
  repeat' split
  all_goals simp [hw]

theorem execSteal_tidy (d : Fin 64) : Tidy (execSteal d s) := by
  unfold execSteal
  repeat' split
  all_goals simp [hw]

theorem execChkG_tidy (a : Fin 64) : Tidy (execChkG a s) := by simp [execChkG, hw]
theorem execChkV_tidy (a : Fin 64) : Tidy (execChkV a s) := by simp [execChkV, hw]
theorem execTrap_tidy (i : BitVec 12) : Tidy (execTrap i s) := by simp [execTrap, hw]
theorem execEret_tidy : Tidy (execEret s) := by simp [execEret, hw]
theorem execMtsr_tidy (a : Fin 64) (n : BitVec 12) : Tidy (execMtsr a n s) := by simp [execMtsr, hw]
theorem execIdle_tidy : Tidy (execIdle s) := by simp [execIdle, hw]
theorem execDbrk_tidy (i : BitVec 12) : Tidy (execDbrk i s) := by simp [execDbrk, hw]
theorem execPrack_tidy : Tidy (execPrack s) := by simp [execPrack, hw]
theorem execMcrd_tidy (d a : Fin 64) (w : BitVec 12) : Tidy (execMcrd d a w s) := by simp [execMcrd, hw]
theorem execDiv_tidy (d a b : Fin 64) : Tidy (execDiv d a b s) := startDiv_tidy hw _ _ _ _
theorem execDivn_tidy (d a b : Fin 64) : Tidy (execDivn d a b s) := startDiv_tidy hw _ _ _ _
theorem execRem_tidy (d a b : Fin 64) : Tidy (execRem d a b s) := startDiv_tidy hw _ _ _ _
theorem execRemn_tidy (d a b : Fin 64) : Tidy (execRemn d a b s) := startDiv_tidy hw _ _ _ _

/-! ### Capabilities, loads and stores -/

theorem execCnarrow_tidy (d a : Fin 32) (b c : Fin 64) : Tidy (execCnarrow d a b c s) := by simp [execCnarrow, hw]
theorem execCperm_tidy (d a : Fin 32) (m : BitVec 12) : Tidy (execCperm d a m s) := by simp [execCperm, hw]
theorem execCmov_tidy (d a : Fin 32) : Tidy (execCmov d a s) := by simp [execCmov, hw]
theorem execCclr_tidy (d : Fin 32) : Tidy (execCclr d s) := by simp [execCclr, hw]
theorem execLdI8_tidy (d : Fin 64) (k : Fin 32) (g : Fin 64) (i : Imm 7) : Tidy (execLdI8 d k g i s) := scalarLoad_tidy hw _ _ _ _ _ _
theorem execLdN8_tidy (d : Fin 64) (k : Fin 32) (g : Fin 64) (i : Imm 7) : Tidy (execLdN8 d k g i s) := scalarLoad_tidy hw _ _ _ _ _ _
theorem execLdI16_tidy (d : Fin 64) (k : Fin 32) (g : Fin 64) (i : Imm 7) : Tidy (execLdI16 d k g i s) := scalarLoad_tidy hw _ _ _ _ _ _
theorem execLdN16_tidy (d : Fin 64) (k : Fin 32) (g : Fin 64) (i : Imm 7) : Tidy (execLdN16 d k g i s) := scalarLoad_tidy hw _ _ _ _ _ _
theorem execLdI32_tidy (d : Fin 64) (k : Fin 32) (g : Fin 64) (i : Imm 7) : Tidy (execLdI32 d k g i s) := scalarLoad_tidy hw _ _ _ _ _ _
theorem execLdN32_tidy (d : Fin 64) (k : Fin 32) (g : Fin 64) (i : Imm 7) : Tidy (execLdN32 d k g i s) := scalarLoad_tidy hw _ _ _ _ _ _
theorem execLdI64_tidy (d : Fin 64) (k : Fin 32) (g : Fin 64) (i : Imm 7) : Tidy (execLdI64 d k g i s) := scalarLoad_tidy hw _ _ _ _ _ _
theorem execStI8_tidy (d : Fin 64) (k : Fin 32) (g : Fin 64) (i : Imm 7) : Tidy (execStI8 d k g i s) := scalarStore_tidy hw _ _ _ _ _
theorem execStI16_tidy (d : Fin 64) (k : Fin 32) (g : Fin 64) (i : Imm 7) : Tidy (execStI16 d k g i s) := scalarStore_tidy hw _ _ _ _ _
theorem execStI32_tidy (d : Fin 64) (k : Fin 32) (g : Fin 64) (i : Imm 7) : Tidy (execStI32 d k g i s) := scalarStore_tidy hw _ _ _ _ _
theorem execStI64_tidy (d : Fin 64) (k : Fin 32) (g : Fin 64) (i : Imm 7) : Tidy (execStI64 d k g i s) := scalarStore_tidy hw _ _ _ _ _

theorem execLds_tidy (d : Fin 64) (k : Fin 32) (g : Fin 64) (i : Imm 7) : Tidy (execLds d k g i s) := by
  unfold execLds
  repeat' split
  all_goals simp [hw]

theorem execVld_tidy (d : Fin 64) (k : Fin 32) (g : Fin 64) (i : Imm 7) : Tidy (execVld d k g i s) := by
  unfold execVld
  repeat' split
  all_goals simp [hw]

theorem execVst_tidy (d : Fin 64) (k : Fin 32) (g : Fin 64) (i : Imm 7) : Tidy (execVst d k g i s) := by
  unfold execVst
  repeat' split
  all_goals simp [hw]

theorem execVlds_tidy (d : Fin 64) (k : Fin 32) (g : Fin 64) (i : Imm 7) : Tidy (execVlds d k g i s) := by
  unfold execVlds
  repeat' split
  all_goals simp [hw]

theorem execVldx_tidy (d : Fin 64) (k : Fin 32) (x : Fin 64) (w : Fin 4) (sg : Fin 2) (c : Fin 8) (z : Fin 2) (l : Lit) :
    Tidy (execVldx d k x w sg c z l s) := by
  simp only [execVldx]
  repeat' split
  all_goals simp [hw]

theorem execVstx_tidy (d : Fin 64) (k : Fin 32) (x : Fin 64) (w : Fin 4) (sg : Fin 2) (c : Fin 8) (z : Fin 2) (l : Lit) :
    Tidy (execVstx d k x w sg c z l s) := by
  simp only [execVstx]
  repeat' split
  all_goals simp [hw]

theorem execVldm_tidy (d : Fin 8) (k : Fin 32) (g : Fin 64) (i : Imm 7) : Tidy (execVldm d k g i s) := by
  unfold execVldm
  repeat' split
  all_goals simp [hw]

theorem execVstm_tidy (d : Fin 8) (k : Fin 32) (g : Fin 64) (i : Imm 7) : Tidy (execVstm d k g i s) := by
  unfold execVstm
  repeat' split
  all_goals simp [hw]

theorem execCld_tidy (d k : Fin 32) (g : Fin 64) (i : Imm 7) : Tidy (execCld d k g i s) := by
  unfold execCld
  repeat' split
  all_goals simp [hw]

theorem execCst_tidy (d k : Fin 32) (g : Fin 64) (i : Imm 7) : Tidy (execCst d k g i s) := by
  unfold execCst
  split
  · simp [hw]
  · dsimp only
    split
    · simp [hw]
    · split
      · simp [hw]
      · split
        · simp [hw]
        · split
          · simp [hw]
          next hplaces => simpa [State.writePlaces_mem hplaces] using hw

theorem execTlock_tidy (k : Fin 32) (a b : Fin 64) : Tidy (execTlock k a b s) := by simp [execTlock, hw]
theorem execTunlk_tidy (k : Fin 32) (a b : Fin 64) : Tidy (execTunlk k a b s) := by simp [execTunlk, hw]
theorem execCbset_tidy (h : Fin 16) (a b : Fin 64) : Tidy (execCbset h a b s) := by simp [execCbset, hw]
theorem execCbwaitC_tidy (h : Fin 16) (n : BitVec 8) : Tidy (execCbwaitC h n s) := by simp [execCbwaitC, hw]
theorem execCbwaitP_tidy (h : Fin 16) (n : BitVec 8) : Tidy (execCbwaitP h n s) := by simp [execCbwaitP, hw]
theorem execCbadvC_tidy (h : Fin 16) (n : BitVec 8) : Tidy (execCbadvC h n s) := by simp [execCbadvC, hw]
theorem execCbadvP_tidy (h : Fin 16) (n : BitVec 8) : Tidy (execCbadvP h n s) := by simp [execCbadvP, hw]

/-! ### Compares and the mask stack -/

theorem execVcmpEqF_tidy (d : Fin 8) (a b : Fin 64) (m t : Fin 8) (x : Lit) : Tidy (execVcmpEqF d a b m t x s) := vecCmp_tidy hw _ _ _ _ _ _ _ _
theorem execVcmpLtF_tidy (d : Fin 8) (a b : Fin 64) (m t : Fin 8) (x : Lit) : Tidy (execVcmpLtF d a b m t x s) := vecCmp_tidy hw _ _ _ _ _ _ _ _
theorem execVcmpLeF_tidy (d : Fin 8) (a b : Fin 64) (m t : Fin 8) (x : Lit) : Tidy (execVcmpLeF d a b m t x s) := vecCmp_tidy hw _ _ _ _ _ _ _ _
theorem execVcmpEqI_tidy (d : Fin 8) (a b : Fin 64) (m t : Fin 8) (x : Lit) : Tidy (execVcmpEqI d a b m t x s) := vecCmpI_tidy hw _ _ _ _ _ _ _
theorem execVcmpLtI_tidy (d : Fin 8) (a b : Fin 64) (m t : Fin 8) (x : Lit) : Tidy (execVcmpLtI d a b m t x s) := vecCmpI_tidy hw _ _ _ _ _ _ _
theorem execVcmpLeI_tidy (d : Fin 8) (a b : Fin 64) (m t : Fin 8) (x : Lit) : Tidy (execVcmpLeI d a b m t x s) := vecCmpI_tidy hw _ _ _ _ _ _ _

theorem execVsplit_tidy (d a b : Fin 64) (x : BitVec 32) : Tidy (execVsplit d a b x s) := by
  unfold execVsplit
  repeat' split
  all_goals simp [hw]

theorem execVrcmb_tidy (d a g : Fin 64) (x : BitVec 32) : Tidy (execVrcmb d a g x s) := by
  simp only [execVrcmb]
  repeat' split
  all_goals simp [hw]

theorem execVext_tidy (d a n : Fin 64) (t : Fin 8) (x : Lit) : Tidy (execVext d a n t x s) := by simp [execVext, hw]
theorem execMskpsh_tidy (a : Fin 8) : Tidy (execMskpsh a s) := by simp [execMskpsh, hw]

theorem execMskinv_tidy : Tidy (execMskinv s) := by
  unfold execMskinv
  repeat' split
  all_goals simp [hw]

theorem execMskpop_tidy : Tidy (execMskpop s) := by
  unfold execMskpop
  repeat' split
  all_goals simp [hw]

theorem execMskand_tidy (d a b : Fin 8) : Tidy (execMskand d a b s) := by simp [execMskand, hw]
theorem execMskor_tidy (d a b : Fin 8) : Tidy (execMskor d a b s) := by simp [execMskor, hw]
theorem execMskmov_tidy (d a : Fin 8) : Tidy (execMskmov d a s) := by simp [execMskmov, hw]

/-! ### The matrix engine -/

theorem execXcfg_tidy (a b : Fin 8) : Tidy (execXcfg a b s) := configure_tidy hw _ _ _ _
theorem execXcfgSl_tidy (n : Fin 8) : Tidy (execXcfgSl n s) := configure_tidy hw _ _ _ _
theorem execXacq_tidy : Tidy (execXacq s) := by simp [execXacq, hw]
theorem execXrel_tidy : Tidy (execXrel s) := by simp [execXrel, hw]

theorem execXpushA_tidy (k : Fin 32) (a b : Fin 64) : Tidy (execXpushA k a b s) := by
  simp only [execXpushA]
  repeat' split
  all_goals simp [hw, matrixCheck_tidy, State.enqueue_tidy]

theorem execXpushW_tidy (k : Fin 32) (a b : Fin 64) : Tidy (execXpushW k a b s) := by
  simp only [execXpushW]
  repeat' split
  all_goals simp [hw, matrixCheck_tidy, State.enqueue_tidy]

theorem execXflip_tidy : Tidy (execXflip s) := by simp [execXflip, hw, matrixCheck_tidy, State.enqueue_tidy]
theorem execXshift_tidy : Tidy (execXshift s) := by simp [execXshift, hw, matrixCheck_tidy, State.enqueue_tidy]
theorem execXscl_tidy (r : Fin 64) (g : Fin 8) : Tidy (execXscl r g s) := by simp [execXscl, hw, matrixCheck_tidy, State.enqueue_tidy]
theorem execXacc_tidy (t : Fin 8) (a b : Fin 64) : Tidy (execXacc t a b s) := by simp [execXacc, hw, matrixCheck_tidy, State.enqueue_tidy]

theorem execXdrain_tidy (t : Fin 8) (a b : Fin 64) (m : Fin 8) : Tidy (execXdrain t a b m s) := by
  refine matrixCheck_tidy hw ?_
  dsimp only
  split
  · simp [hw]
  · split
    · simp [hw]
    · split
      · simp [hw]
      · split
        · simp [hw]
        · have henq := fun op => State.enqueue_tidy hw op fun x => x
          split
          next hnext =>
            have hmem := henq _ _ hnext
            split <;> simp [hmem]
          · exact henq _

theorem execXzero_tidy (t : Fin 8) : Tidy (execXzero t s) := by simp [execXzero, hw, matrixCheck_tidy, State.enqueue_tidy]
theorem execXwait_tidy : Tidy (execXwait s) := by simp [execXwait, hw]
theorem execXres_tidy (r : Fin 64) : Tidy (execXres r s) := by simp [execXres, hw]
theorem execXmpc_tidy (r : Fin 64) : Tidy (execXmpc r s) := by simp [execXmpc, hw]
theorem execXhdr_tidy (t : Fin 8) (a b : Fin 64) (m : Fin 8) : Tidy (execXhdr t a b m s) := by simp [execXhdr, hw]
theorem execXsete_tidy (t : Fin 8) (a : Fin 64) : Tidy (execXsete t a s) := by simp [execXsete, hw, matrixCheck_tidy, State.enqueue_tidy]
theorem execXclrf_tidy (t : Fin 8) : Tidy (execXclrf t s) := by simp [execXclrf, hw, matrixCheck_tidy, State.enqueue_tidy]

theorem execXmark_tidy (t : Fin 8) (a b : Fin 64) (m : Fin 2) : Tidy (execXmark t a b m s) := by
  simp [execXmark, hw, matrixCheck_tidy, State.enqueue_tidy]

/-! ### Flags, barriers, groups and atomics -/

theorem execFadd_tidy (k : Fin 32) (a : Fin 64) (sc : Fin 8) : Tidy (execFadd k a sc s) := by simp [execFadd, hw, blockCheck_tidy]

theorem execFwait_tidy (k : Fin 32) (a : Fin 64) (sc : Fin 8) : Tidy (execFwait k a sc s) := by
  unfold execFwait
  repeat' split
  all_goals simp [hw, blockCheck_tidy]

theorem execBinit_tidy (k : Fin 32) (a : Fin 64) (sc : Fin 8) : Tidy (execBinit k a sc s) := by simp [execBinit, hw, blockCheck_tidy]
theorem execBarrive_tidy (k : Fin 32) (a : Fin 64) (sc : Fin 8) : Tidy (execBarrive k a sc s) := by simp [execBarrive, hw, blockCheck_tidy]

theorem execBwait_tidy (k : Fin 32) (a : Fin 64) (sc : Fin 8) : Tidy (execBwait k a sc s) := by
  refine blockCheck_tidy hw fun x => ?_
  split
  · simp [hw]
  · split <;> simp [hw]

theorem execBabort_tidy (k : Fin 32) (a : Fin 64) (sc : Fin 8) : Tidy (execBabort k a sc s) := by simp [execBabort, hw, blockCheck_tidy]

theorem execGjoin_tidy (k : Fin 32) (a : Fin 64) : Tidy (execGjoin k a s) := by
  refine blockCheck_tidy hw fun x => ?_
  split
  · simp [hw]
  · split
    · simp [hw]
    · split
      · split <;> simp [hw]
      next hplaces =>
        have hmem := State.writePlaces_mem hplaces
        dsimp only
        split
        · simp [hw]
        · split <;> simp [hw, hmem]

theorem execGleave_tidy (k : Fin 32) (a : Fin 64) : Tidy (execGleave k a s) := by
  refine blockCheck_tidy hw fun x => ?_
  split
  · simp [hw]
  · split
    · simp [hw]
    · dsimp only
      split
      · split <;> simp [hw]
      next hplaces =>
        have hmem := State.writePlaces_mem hplaces
        split
        · simp [hw]
        · split <;> simp [hw, hmem]

theorem execFence_tidy (sc : Fin 8) : Tidy (execFence sc s) := by
  unfold execFence
  dsimp only
  split
  · simp [hw]
  · split
    next hfault => simpa [State.fenceFault_mem hfault] using hw
    · simp [hw]

theorem execQfence_tidy (q : BitVec 19) : Tidy (execQfence q s) := by simp [execQfence, hw]

theorem execAld_tidy (d : Fin 64) (k : Fin 32) (a : Fin 64) (sc : Fin 8) (z : Fin 2) (l : Lit) :
    Tidy (execAld d k a sc z l s) := atomic_tidy hw _ _ _ _ _ _ _ _ _ _ _ _ _

theorem execAst_tidy (d : Fin 64) (k : Fin 32) (a : Fin 64) (sc : Fin 8) (z : Fin 2) (l : Lit) :
    Tidy (execAst d k a sc z l s) := atomic_tidy hw _ _ _ _ _ _ _ _ _ _ _ _ _

theorem execAadd_tidy (d : Fin 64) (k : Fin 32) (a : Fin 64) (u sc : Fin 8) (z : Fin 2) (l : Lit) :
    Tidy (execAadd d k a u sc z l s) := atomic_tidy hw _ _ _ _ _ _ _ _ _ _ _ _ _

theorem execAand_tidy (d : Fin 64) (k : Fin 32) (a : Fin 64) (u sc : Fin 8) (z : Fin 2) (l : Lit) :
    Tidy (execAand d k a u sc z l s) := atomic_tidy hw _ _ _ _ _ _ _ _ _ _ _ _ _

theorem execAor_tidy (d : Fin 64) (k : Fin 32) (a : Fin 64) (u sc : Fin 8) (z : Fin 2) (l : Lit) :
    Tidy (execAor d k a u sc z l s) := atomic_tidy hw _ _ _ _ _ _ _ _ _ _ _ _ _

theorem execAxor_tidy (d : Fin 64) (k : Fin 32) (a : Fin 64) (u sc : Fin 8) (z : Fin 2) (l : Lit) :
    Tidy (execAxor d k a u sc z l s) := atomic_tidy hw _ _ _ _ _ _ _ _ _ _ _ _ _

theorem execAmin_tidy (d : Fin 64) (k : Fin 32) (a : Fin 64) (u sc : Fin 8) (z : Fin 2) (l : Lit) :
    Tidy (execAmin d k a u sc z l s) := atomic_tidy hw _ _ _ _ _ _ _ _ _ _ _ _ _

theorem execAmax_tidy (d : Fin 64) (k : Fin 32) (a : Fin 64) (u sc : Fin 8) (z : Fin 2) (l : Lit) :
    Tidy (execAmax d k a u sc z l s) := atomic_tidy hw _ _ _ _ _ _ _ _ _ _ _ _ _

theorem execAminn_tidy (d : Fin 64) (k : Fin 32) (a : Fin 64) (u sc : Fin 8) (z : Fin 2) (l : Lit) :
    Tidy (execAminn d k a u sc z l s) := atomic_tidy hw _ _ _ _ _ _ _ _ _ _ _ _ _

theorem execAmaxn_tidy (d : Fin 64) (k : Fin 32) (a : Fin 64) (u sc : Fin 8) (z : Fin 2) (l : Lit) :
    Tidy (execAmaxn d k a u sc z l s) := atomic_tidy hw _ _ _ _ _ _ _ _ _ _ _ _ _

theorem execAxchg_tidy (d : Fin 64) (k : Fin 32) (a : Fin 64) (u sc : Fin 8) (z : Fin 2) (l : Lit) :
    Tidy (execAxchg d k a u sc z l s) := atomic_tidy hw _ _ _ _ _ _ _ _ _ _ _ _ _

theorem execAcas_tidy (d : Fin 64) (k : Fin 32) (a : Fin 64) (u sc : Fin 8) (z : Fin 2) (l : Lit) :
    Tidy (execAcas d k a u sc z l s) := atomic_tidy hw _ _ _ _ _ _ _ _ _ _ _ _ _

theorem execAmaxrs_tidy (d : Fin 64) (k : Fin 32) (a : Fin 64) (u sc : Fin 8) (z : Fin 2) (l : Lit) :
    Tidy (execAmaxrs d k a u sc z l s) := atomic_tidy hw _ _ _ _ _ _ _ _ _ _ _ _ _

theorem execAscAdd_tidy (d : Fin 64) (k : Fin 32) (a : Fin 64) (z : Fin 2) (l : Lit) :
    Tidy (execAscAdd d k a z l s) := ascOp_tidy hw _ _ _ _ _ _ _ _ _

theorem execAscXchg_tidy (d : Fin 64) (k : Fin 32) (a : Fin 64) (z : Fin 2) (l : Lit) :
    Tidy (execAscXchg d k a z l s) := ascOp_tidy hw _ _ _ _ _ _ _ _ _

theorem execAscCas_tidy (d : Fin 64) (k : Fin 32) (a : Fin 64) (z : Fin 2) (l : Lit) :
    Tidy (execAscCas d k a z l s) := ascOp_tidy hw _ _ _ _ _ _ _ _ _

theorem execAscLd_tidy (d : Fin 64) (k : Fin 32) (a : Fin 64) (z : Fin 2) (l : Lit) :
    Tidy (execAscLd d k a z l s) := ascOp_tidy hw _ _ _ _ _ _ _ _ _

theorem execAscSt_tidy (d : Fin 64) (k : Fin 32) (a : Fin 64) (z : Fin 2) (l : Lit) :
    Tidy (execAscSt d k a z l s) := ascOp_tidy hw _ _ _ _ _ _ _ _ _

theorem execAscMax_tidy (d : Fin 64) (k : Fin 32) (a : Fin 64) (z : Fin 2) (l : Lit) :
    Tidy (execAscMax d k a z l s) := ascOp_tidy hw _ _ _ _ _ _ _ _ _

/-! ### Copies and remote operations -/

theorem execCpy_tidy (ks kd : Fin 32) (a : Fin 64) (b : Option (Fin 32)) : Tidy (execCpy ks kd a b s) := by
  unfold execCpy
  repeat' split
  all_goals simp [hw, State.issueCopy_tidy]

theorem execCpys_tidy (ks kd : Fin 32) (a : Fin 64) (b : Option (Fin 32)) : Tidy (execCpys ks kd a b s) := by
  unfold execCpys
  repeat' split
  all_goals simp [hw, State.issueCopy_tidy]

theorem execCpyg_tidy (ks kd : Fin 32) (a : Fin 64) (b : Option (Fin 32)) : Tidy (execCpyg ks kd a b s) := by
  unfold execCpyg
  split
  · simp [hw]
  · dsimp only
    split
    · simp [hw]
    · simp [hw]
    · split
      · simp [hw]
      · split
        · simp [hw]
        · split
          · simp [hw]
          · split
            · simp [hw]
            · split
              next hpay => simpa [State.payPart_mem_of hpay] using hw
              next hpay =>
                have hmem := State.payPart_mem_of hpay
                split
                · simp [hw, hmem]
                · exact spent_tidy (State.issueCopy_tidy (by simp [hw, hmem]) _ _ _ _ _ _)

theorem execCpycb_tidy (ks : Fin 32) (h : Fin 16) (a : Fin 64) (b : Option (Fin 32)) : Tidy (execCpycb ks h a b s) := by
  simp only [execCpycb]
  repeat' split
  all_goals simp [hw, State.issueCopy_tidy]

theorem execRput_tidy (e : Fin 16) (c k : Fin 32) (a : Fin 64) (b : Option (Fin 32)) : Tidy (execRput e c k a b s) := by
  unfold execRput
  repeat' split
  all_goals simp [hw, remoteCheck_tidy, State.issueRemote_tidy]

theorem execRputf_tidy (e : Fin 16) (c k : Fin 32) (a : Fin 64) (b : Option (Fin 32)) : Tidy (execRputf e c k a b s) := by
  unfold execRputf
  repeat' split
  all_goals simp [hw, remoteCheck_tidy, State.issueRemote_tidy]

theorem execRputs_tidy (e : Fin 16) (c k : Fin 32) (a : Fin 64) (b : Option (Fin 32)) : Tidy (execRputs e c k a b s) := by
  unfold execRputs
  repeat' split
  all_goals simp [hw, remoteCheck_tidy, State.issueRemote_tidy]

theorem execRsemadd_tidy (e : Fin 16) (k : Fin 32) (a : Fin 64) : Tidy (execRsemadd e k a s) := by
  unfold execRsemadd
  repeat' split
  all_goals simp [hw, remoteCheck_tidy, State.issueRemote_tidy]

theorem execRpull_tidy (e : Fin 16) (c k : Fin 32) (a : Fin 64) (b : Option (Fin 32)) : Tidy (execRpull e c k a b s) := by
  unfold execRpull
  repeat' split
  all_goals simp [hw, remoteCheck_tidy, State.issueRemote_tidy]

theorem execRputsf_tidy (e : Fin 16) (c k : Fin 32) (a : Fin 64) (b : Option (Fin 32)) : Tidy (execRputsf e c k a b s) := by
  unfold execRputsf
  repeat' split
  all_goals simp [hw, remoteCheck_tidy, State.issueRemote_tidy]

theorem execNop_tidy : Tidy (execNop s) := by simp [execNop, hw]
theorem execHint_tidy (_k : SlotKind) (_o : Fin 16) (_p : BitVec 24) (_l : Lit) : Tidy (execHint _k _o _p _l s) := by simp [execHint, hw]

/-! ### Images, launches and partitions -/

theorem execImageLoad_tidy (f : Nat) (img : List (BitVec 8)) : Tidy (execImageLoad f img s) := by
  unfold execImageLoad
  dsimp only
  split
  · simp
  · split
    · simp [hw]
    · split
      · simp [hw]
      next hput =>
        obtain ⟨u, hu, hmap⟩ := Option.bind_eq_some_iff.1 hput
        obtain ⟨b, -, hb⟩ := Option.bind_eq_some_iff.1 hu
        have hput := State.putMap_wf (State.mapImage_wf (s := { s with fresh := s.fresh + 1 }) hw hb) hmap
        split
        · simp [hw]
        · refine (tidy_next _).2 ?_
          rw [State.putStatus_mem]
          split
          · exact State.putImage_wf _ _ _ _ (State.putImage_wf _ _ _ _ hput)
          · exact State.putImage_wf _ _ _ _ hput

theorem execUnload_tidy (inst : Nat) : Tidy (execUnload inst s) := by
  unfold execUnload
  repeat' split
  all_goals simp [hw]

theorem execUnloadComplete_tidy (inst : Nat) : Tidy (execUnloadComplete inst s) := by
  unfold execUnloadComplete
  split
  · simp [hw]
  · split
    · simp [hw]
    · refine (tidy_next _).2 ?_
      rw [State.pruneTables_mem]
      refine foldl_keeps (P := fun u => u.mem.wf = true) (fun u n hu => State.unmapPage_wf u _ _ hu) _ ?_
      exact foldl_keeps (P := fun u => u.mem.wf = true) (fun u a hu => State.giveBack_wf u a 4096 hu) _ hw

theorem execLaunchSlotWrite_tidy (f : Nat) (q : SlotRef) (w : Nat) (v : BitVec 64) : Tidy (execLaunchSlotWrite f q w v s) := by
  unfold execLaunchSlotWrite
  repeat' split
  all_goals simp [hw]

theorem execWalkStart_tidy (q : SlotRef) : Tidy (execWalkStart q s) := by
  unfold execWalkStart
  dsimp only
  split
  · simp
  · split
    · simp [hw]
    · split
      · split
        · simp [hw]
        · refine State.paying_tidy hw fun u hu => ?_
          split <;> simp [hu]
      · simp [hw]

theorem execSkeinNodeVisit_tidy (q : SlotRef) (n : Nat) : Tidy (execSkeinNodeVisit q n s) := by
  refine visit_tidy hw fun x d => ?_
  have hfail := fun st => State.visiting_tidy (x := x) (n := n) (more := summaryAccs d.c) hw
    (go := fun u => .next ((u.summarise x.func d.c (summary 0 0 0 0 0 0 st)).goOn (x.fail n st d.err))) fun u hu => by simp [hu]
  extract_lets idx fail
  split
  · exact hfail 1
  · split
    · exact hfail 1
    · extract_lets x' persist t all p total count
      split
      · exact hfail 1
      · refine (tidy_ite _ _ _).2 ⟨fun _ => ?_, fun _ => ?_⟩
        · exact State.failNode_tidy hw x x n d.err
        · split
          · exact hfail 2
          · split
            · exact hfail 3
            · split
              · exact State.visiting_tidy hw fun u hu => by simp [hu]
              · extract_lets l
                refine State.visiting_tidy hw fun u hu => ?_
                simp [hu]

theorem execJoinNodeVisit_tidy (q : SlotRef) (n : Nat) : Tidy (execJoinNodeVisit q n s) := by
  refine visit_tidy hw fun x d => State.visiting_tidy hw fun u hu => ?_
  split <;> simp [hu]

theorem execConditionalNodeVisit_tidy (q : SlotRef) (n : Nat) : Tidy (execConditionalNodeVisit q n s) := by
  refine visit_tidy hw fun x d => State.nodeWord_tidy hw (fun y => State.failNode_tidy hw x y n d.err) fun y v => ?_
  exact State.visiting_tidy hw fun u hu => by simp [hu]

theorem execWhileNodeVisit_tidy (q : SlotRef) (n : Nat) : Tidy (execWhileNodeVisit q n s) := by
  refine visit_tidy hw fun x d => State.nodeWord_tidy hw (fun y => State.failNode_tidy hw x y n d.err) fun y v => ?_
  refine State.visiting_tidy hw fun u hu => ?_
  split
  · simp [hu]
  · split <;> simp [hu]

theorem execFlagNodeVisit_tidy (q : SlotRef) (n : Nat) : Tidy (execFlagNodeVisit q n s) := by
  refine visit_tidy hw fun x d => State.nodeWord_tidy hw (fun y => State.failNode_tidy hw x y n d.err) fun y v => ?_
  exact State.visiting_tidy hw fun u hu => by simp [hu]

theorem execLeaseEstablish_tidy (l : Nat) (granted : Bool) : Tidy (execLeaseEstablish l granted s) := by
  unfold execLeaseEstablish
  split
  · simp [hw]
  · split
    · simp [hw]
    · split
      · simp [hw]
      · split
        · simp [hw]
        · split
          · simp [hw]
          next htake =>
            rw [Option.ite_none_right_eq_some] at htake
            exact (tidy_next _).2 (State.takeLease_wf hw htake.2)

theorem execRouterTableLoad_tidy (l : Nat) : Tidy (execRouterTableLoad l s) := by
  unfold execRouterTableLoad
  dsimp only
  split
  · simp [hw]
  · split
    · simp [hw]
    · split
      · simp [hw]
      · refine (tidy_next _).2 (foldl_keeps (P := fun u => u.mem.wf = true) (fun u r hu => ?_) _ hw)
        split <;> exact hu

theorem execTaskPlace_tidy (l : Nat) : Tidy (execTaskPlace l s) := by
  unfold execTaskPlace
  split
  · simp [hw]
  next x _ =>
    dsimp only
    split
    next id i _ _ =>
      split
      · simp [hw]
      · refine State.paying_tidy hw fun u hu => ?_
        have hseed : (if x.next = 0 then u.seedPage i x else u).mem.wf = true := by split <;> simp [hu]
        simpa using hseed
    · simp [hw]

theorem execCompletionRecordWrite_tidy (core task : Nat) : Tidy (execCompletionRecordWrite core task s) := by
  unfold execCompletionRecordWrite
  split
  · simp [hw]
  next r0 _ =>
    split
    · simp [hw]
    · extract_lets r
      split
      · simp [hw]
      next l _ =>
        refine State.paying_tidy hw fun u hu => ?_
        extract_lets s1 s2 l1
        have hs2 : s2.mem.wf = true := by
          subst s2
          split <;> simp [s1, hu]
        split
        · simpa using hs2
        · exact (tidy_next _).2 hs2

theorem execSkeinNodeComplete_tidy (l : Nat) : Tidy (execSkeinNodeComplete l s) := by
  unfold execSkeinNodeComplete
  split
  · simp [hw]
  · split
    · simp [hw]
    · exact State.paying_tidy hw fun u hu => by simp [hu]

theorem execDescriptorWrite_tidy (f : Nat) (d : BitVec 1024) : Tidy (execDescriptorWrite f d s) := by simp [execDescriptorWrite, hw]
theorem execCreate_tidy (f : Nat) : Tidy (execCreate f s) := by simp [execCreate, hw]
theorem execWheelMaskWrite_tidy (p : Nat) (mask : BitVec 256) : Tidy (execWheelMaskWrite p mask s) := by simp [execWheelMaskWrite, hw]
theorem execTokenRefill_tidy : Tidy (execTokenRefill s) := by simp [execTokenRefill, hw]
theorem execReleaseRequest_tidy (f : Nat) (destroy : Bool) : Tidy (execReleaseRequest f destroy s) := by simp [execReleaseRequest, hw]
theorem execFunctionLevelReset_tidy (f : Nat) : Tidy (execFunctionLevelReset f s) := by simp [execFunctionLevelReset, hw]
theorem execReleaseQuiesced_tidy (f : Nat) : Tidy (execReleaseQuiesced f s) := by simp [execReleaseQuiesced, hw]

theorem execZeroingComplete_tidy (f : Nat) : Tidy (execZeroingComplete f s) := by
  have hself : ((s.zeroFunc f).endPass f).mem.wf = true := State.endPass_wf _ _ (State.zeroFunc_wf s f hw)
  unfold execZeroingComplete
  split
  · simp
  · extract_lets p kids
    split
    · simp [hw]
    · split
      · simp [hw]
      · split
        · simp [hw]
        · split
          · refine (tidy_next _).2 (foldl_keeps (P := fun u => u.mem.wf = true) (fun u g hu => ?_) _ hself)
            exact State.endPass_wf _ _ (State.zeroFunc_wf u g hu)
          · simp [hw]

theorem execRegisterWrite_tidy (r : FwReg) (v : Nat) : Tidy (execRegisterWrite r v s) := by
  unfold execRegisterWrite
  split
  · split <;> simp [hw]
  · split <;> simp [hw]
  · split <;> simp [hw]
  · split <;> simp [hw]
  · split
    · simp [hw]
    · exact (tidy_next _).2 (State.writeChip_wf _ _ hw)
  · split
    · simp [hw]
    · split
      · exact (tidy_next _).2 (State.wipe_wf _ _ hw)
      · simp [hw]

theorem execArbiterCycle_tidy (core : Nat) : Tidy (execArbiterCycle core s) := by
  simp only [execArbiterCycle]
  repeat' split
  all_goals simp [hw]

/-! ### Operations in flight -/

theorem execResultLand_tidy (id : Nat) : Tidy (execResultLand id s) := by simp [execResultLand, hw]

theorem execLoadReturn_tidy (n : Nat) : Tidy (execLoadReturn n s) := by
  have hread : ∀ l, Tidy (match State.returnReadout { s with loads := s.loads.filter fun x => decide (x.id ≠ n) } l with
      | none => .next s
      | some s1 => .next s1) := fun l => by
    split
    · simp [hw]
    next hread => simpa [State.returnReadout_mem hread] using hw
  unfold execLoadReturn
  split
  · simp [hw]
  · split
    · exact hread _
    · exact hread _
    · exact hread _
    · exact hread _
    · split
      · simp [hw]
      · split <;> simp [hw]

theorem execDivideComplete_tidy (n : Nat) : Tidy (execDivideComplete n s) := by
  unfold execDivideComplete
  repeat' split
  all_goals simp [hw]

/-! ### The monitor and the responder -/

theorem execMkeyCreate_tidy (f : Nat) : Tidy (execMkeyCreate f s) := by
  simp only [execMkeyCreate]
  repeat' split
  all_goals simp [hw]

theorem execSlotZeroise_tidy (slot : Nat) : Tidy (execSlotZeroise slot s) := by simp [execSlotZeroise, hw]

theorem execRotate_tidy (slot : Nat) (ranges : List (Nat × Nat)) : Tidy (execRotate slot ranges s) := by
  unfold execRotate
  repeat' split
  all_goals simp [hw]

theorem execRotationSweepLine_tidy (slot : Nat) : Tidy (execRotationSweepLine slot s) := by
  simp only [execRotationSweepLine]
  repeat' split
  all_goals simp [hw]

theorem execUpdateStage_tidy (img : List (BitVec 8)) : Tidy (execUpdateStage img s) := by simp [execUpdateStage, hw]

theorem execUpdateSwitch_tidy (handover : List (BitVec 8)) (version : Nat) : Tidy (execUpdateSwitch handover version s) := by
  simp [execUpdateSwitch, hw]

theorem execHeartbeat_tidy : Tidy (execHeartbeat s) := by simp [execHeartbeat, hw]
theorem execUpdateTrialTimeout_tidy : Tidy (execUpdateTrialTimeout s) := by simp [execUpdateTrialTimeout, hw]
theorem execUpdateCommit_tidy : Tidy (execUpdateCommit s) := by simp [execUpdateCommit, hw]
theorem execBootrecClear_tidy (mask : BitVec 64) : Tidy (execBootrecClear mask s) := by simp [execBootrecClear, hw]
theorem execSpindleQuiesce_tidy (die : Nat) : Tidy (execSpindleQuiesce die s) := by simp [execSpindleQuiesce, hw]
theorem execGetVersion_tidy (f : Nat) : Tidy (execGetVersion f s) := by simp [execGetVersion, hw, spdm_tidy]
theorem execGetCapabilities_tidy (f : Nat) : Tidy (execGetCapabilities f s) := by simp [execGetCapabilities, hw, spdm_tidy]
theorem execNegotiateAlgorithms_tidy (f : Nat) : Tidy (execNegotiateAlgorithms f s) := by simp [execNegotiateAlgorithms, hw, spdm_tidy]
theorem execGetDigests_tidy (f : Nat) : Tidy (execGetDigests f s) := by simp [execGetDigests, hw, spdm_tidy]

theorem execGetCertificate_tidy (f certSlot : Nat) : Tidy (execGetCertificate f certSlot s) := by
  unfold execGetCertificate
  repeat' split
  all_goals simp [hw, spdm_tidy]

theorem execChallenge_tidy (f : Nat) : Tidy (execChallenge f s) := by simp [execChallenge, hw, spdm_tidy]

theorem execGetMeasurements_tidy (f index : Nat) : Tidy (execGetMeasurements f index s) := by
  unfold execGetMeasurements
  repeat' split
  all_goals simp [hw, spdm_tidy]

theorem execKeyExchange_tidy (f : Nat) : Tidy (execKeyExchange f s) :=
  spdm_tidy hw fun r => by split <;> simp [hw]

theorem execFinish_tidy (f sess : Nat) : Tidy (execFinish f sess s) :=
  spdm_tidy hw fun r => by split <;> simp [hw]

theorem execSpdmHeartbeat_tidy (f sess : Nat) : Tidy (execSpdmHeartbeat f sess s) := by simp [execSpdmHeartbeat, hw, secured_tidy]
theorem execKeyUpdate_tidy (f sess : Nat) : Tidy (execKeyUpdate f sess s) := by simp [execKeyUpdate, hw, secured_tidy]
theorem execEndSession_tidy (f sess : Nat) : Tidy (execEndSession f sess s) := by simp [execEndSession, hw, secured_tidy]
theorem execChunkGet_tidy (f : Nat) : Tidy (execChunkGet f s) := by simp [execChunkGet, hw, spdm_tidy]

theorem execSealProvision_tidy (f sess slot : Nat) (olines : BitVec 48) (key : BitVec 512) (pdigest : BitVec 256) (rot : Bool) :
    Tidy (execSealProvision f sess slot olines key pdigest rot s) := by
  simp only [execSealProvision]
  repeat' split
  all_goals simp [hw, secured_tidy]

theorem execSealRevoke_tidy (f sess slot : Nat) : Tidy (execSealRevoke f sess slot s) := by
  simp only [execSealRevoke]
  repeat' split
  all_goals simp [hw, secured_tidy]

theorem execSpdmUnsupportedRequest_tidy (f : Nat) : Tidy (execSpdmUnsupportedRequest f s) := by simp [execSpdmUnsupportedRequest, hw, spdm_tidy]

theorem execSealedSlotTransfer_tidy (slot : Nat) (peer : Measured) (load : Option SealedKey) :
    Tidy (execSealedSlotTransfer slot peer load s) := by
  unfold execSealedSlotTransfer
  repeat' split
  all_goals simp [hw]

theorem execSlotTransferConfirm_tidy (slot : Nat) : Tidy (execSlotTransferConfirm slot s) := by simp [execSlotTransferConfirm, hw]

/-! ### Engines and waits -/

theorem execXpushAPerform_tidy (core : Nat) : Tidy (execXpushAPerform core s) := by
  refine atHead_tidy hw fun e t u ht hu => ?_
  split at hu
  · simp only [Option.ite_none_left_eq_some, Option.some.injEq] at hu
    simpa [← hu.2] using ht
  · cases hu

theorem execXpushWPerform_tidy (core : Nat) : Tidy (execXpushWPerform core s) := by
  refine atHead_tidy hw fun e t u ht hu => ?_
  split at hu
  · simp only [Option.ite_none_left_eq_some, Option.some.injEq] at hu
    simpa [← hu.2] using ht
  · cases hu

theorem execXflipPerform_tidy (core : Nat) : Tidy (execXflipPerform core s) := by
  refine atHead_tidy hw fun e t u ht hu => ?_
  split at hu
  · simp only [Option.some.injEq] at hu
    simpa [← hu] using ht
  · cases hu

theorem execXsclPerform_tidy (core : Nat) : Tidy (execXsclPerform core s) := by
  refine atHead_tidy hw fun e t u ht hu => ?_
  split at hu
  · simp only [Option.some.injEq] at hu
    simpa [← hu] using ht
  · cases hu

theorem execXshiftPerform_tidy (core : Nat) : Tidy (execXshiftPerform core s) := by
  refine atHead_tidy hw fun e t u ht hu => ?_
  split at hu
  · dsimp only at hu
    split at hu
    · cases hu
    · simpa [← Option.some.inj hu] using ht
  · cases hu

theorem execXaccPerform_tidy (core : Nat) : Tidy (execXaccPerform core s) := by
  refine atHead_tidy hw fun e t u ht hu => ?_
  split at hu
  · dsimp only at hu
    split at hu
    · cases hu
    · simp only [Option.ite_none_left_eq_some, Option.some.injEq] at hu
      simp [← hu.2, ht]
  · cases hu

theorem execXdrainPerform_tidy (core : Nat) : Tidy (execXdrainPerform core s) := by
  refine atHead_tidy hw fun e t u ht hu => ?_
  split at hu
  · simp only [Option.ite_none_left_eq_some, Option.some.injEq] at hu
    simpa [← hu.2] using ht
  · cases hu

theorem execXzeroPerform_tidy (core : Nat) : Tidy (execXzeroPerform core s) := by
  refine atHead_tidy hw fun e t u ht hu => ?_
  split at hu
  · simp only [Option.some.injEq] at hu
    rw [← hu, State.tagGranules_mem]
    exact State.writeChip_wf _ _ ht
  · cases hu

theorem execXsetePerform_tidy (core : Nat) : Tidy (execXsetePerform core s) := by
  refine atHead_tidy hw fun e t u ht hu => ?_
  split at hu
  · simp only [Option.some.injEq] at hu
    simpa [← hu] using ht
  · cases hu

theorem execXclrfPerform_tidy (core : Nat) : Tidy (execXclrfPerform core s) := by
  refine atHead_tidy hw fun e t u ht hu => ?_
  split at hu
  · simp only [Option.some.injEq] at hu
    simpa [← hu] using ht
  · cases hu

theorem execXmarkPerform_tidy (core : Nat) : Tidy (execXmarkPerform core s) := by
  refine atHead_tidy hw fun e t u ht hu => ?_
  split at hu
  · simp only [Option.some.injEq] at hu
    simpa [← hu] using ht
  · cases hu

theorem execXcfgPerform_tidy (core : Nat) : Tidy (execXcfgPerform core s) := by
  refine atHead_tidy hw fun e t u ht hu => ?_
  split at hu
  · simp only [Option.some.injEq] at hu
    simpa [← hu] using ht
  · cases hu

theorem execArrayAcquire_tidy (core : Nat) : Tidy (execArrayAcquire core s) := by
  simp only [execArrayAcquire]
  repeat' split
  all_goals simp [hw]

theorem execXrelComplete_tidy (id : Nat) : Tidy (execXrelComplete id s) := by
  simp only [execXrelComplete]
  repeat' split
  all_goals simp [hw]

theorem execFwaitComplete_tidy (id : Nat) : Tidy (execFwaitComplete id s) := by
  simp only [execFwaitComplete]
  repeat' split
  all_goals simp [hw]

theorem execBwaitComplete_tidy (id : Nat) : Tidy (execBwaitComplete id s) := by
  unfold execBwaitComplete
  dsimp only
  split
  · split
    · simp [hw]
    · split
      · simp [hw]
      · split
        · simp [hw]
        · split
          next hpay => simpa [State.waitPay_mem_of hpay] using hw
          next hpay => simpa [State.waitPay_mem_of hpay] using hw
  · simp [hw]

theorem execCbwaitComplete_tidy (id : Nat) : Tidy (execCbwaitComplete id s) := by
  simp only [execCbwaitComplete]
  repeat' split
  all_goals simp [hw]

theorem execXwaitComplete_tidy (id : Nat) : Tidy (execXwaitComplete id s) := by
  simp only [execXwaitComplete]
  repeat' split
  all_goals simp [hw]

theorem execTlockComplete_tidy (id : Nat) : Tidy (execTlockComplete id s) := by
  simp only [execTlockComplete]
  repeat' split
  all_goals simp [hw]

theorem execCopyBeat_tidy (n : Nat) : Tidy (execCopyBeat n s) := by
  unfold execCopyBeat
  repeat' split
  all_goals simp [hw]

theorem execCbEscape_tidy (core : Nat) : Tidy (execCbEscape core s) := by simp [execCbEscape, hw]

theorem execHeatSweep_tidy (cluster : Nat) : Tidy (execHeatSweep cluster s) := by
  have hfade : ∀ keys : List Nat, (keys.foldl (fun u k => u.setPte k (fade (Table.get 0 u.ptes k))) s).mem = s.mem := fun keys => by
    refine foldl_mem ?_ _ _
    intros
    rfl
  unfold execHeatSweep
  dsimp only
  split
  · simp
  · split
    · simp [hw]
    · exact (tidy_next _).2 (by rwa [State.setCluster_mem, hfade])

theorem execShootdown_tidy (f space va : Nat) : Tidy (execShootdown f space va s) := by simp [execShootdown, hw]

theorem execDirtyHarvest_tidy (f va : Nat) : Tidy (execDirtyHarvest f va s) := by
  unfold execDirtyHarvest
  repeat' split
  all_goals simp [hw]

theorem execDiscardReclaim_tidy (f va : Nat) : Tidy (execDiscardReclaim f va s) := by
  unfold execDiscardReclaim
  repeat' split
  all_goals simp [hw]

theorem execWritePropagate_tidy (n : Nat) : Tidy (execWritePropagate n s) := by
  unfold execWritePropagate
  split
  · simp [hw]
  · split
    · simp [hw]
    · split
      · simp [hw]
      · split
        · exact (tidy_next _).2 (State.moveTo_wf _ _ hw)
        · split
          next hpay => simpa [State.pay_mem_of hpay] using hw
          next hpay => exact (tidy_next _).2 (State.moveTo_wf _ _ (by rwa [State.pay_mem_of hpay]))

theorem execAtomicPerform_tidy (n : Nat) : Tidy (execAtomicPerform n s) := by
  unfold execAtomicPerform
  repeat' split
  all_goals simp [hw]

theorem execQntFlush_tidy (n : Nat) : Tidy (execQntFlush n s) := by
  unfold execQntFlush
  split
  · simp [hw]
  · split
    · simp [hw]
    · refine (tidy_next _).2 (foldl_keeps (P := fun u => u.mem.wf = true) (fun u b hu => ?_) _ (State.perform_wf _ _ hw))
      split <;> simp [hu]

theorem execAscPerform_tidy (n : Nat) : Tidy (execAscPerform n s) := by
  simp only [execAscPerform]
  repeat' split
  all_goals simp [hw]

theorem execFenceComplete_tidy (id : Nat) : Tidy (execFenceComplete id s) := by
  unfold execFenceComplete
  dsimp only
  split
  · split
    · simp [hw]
    · split
      next hfault => simpa [State.fenceFault_mem hfault] using hw
      · simp [hw]
  · simp [hw]

theorem execQfenceComplete_tidy (id : Nat) : Tidy (execQfenceComplete id s) := by
  simp only [execQfenceComplete]
  repeat' split
  all_goals simp [hw]

theorem execGroupDrainComplete_tidy (l1 slot : Nat) : Tidy (execGroupDrainComplete l1 slot s) := by
  unfold execGroupDrainComplete
  repeat' split
  all_goals simp [hw]

/-! ### The fabric and the host -/

theorem execRemoteChannelEntry_tidy (n : Nat) : Tidy (execRemoteChannelEntry n s) := by
  unfold execRemoteChannelEntry
  split
  · simp [hw]
  · dsimp only
    split
    · split
      · simp [hw]
      · split
        · exact (tidy_next _).2 (foldl_keeps (P := fun u => u.mem.wf = true) (fun u y hu => by simp [hu]) _ hw)
        · split
          · split <;> simp [hw]
          · split
            · simp [hw]
            · split
              · simp [hw]
              · refine (tidy_next _).2 ?_
                rw [State.enterChannel_mem]
                exact foldl_keeps (P := fun u => u.mem.wf = true) (fun u x hu => by simpa using hu) _ hw
    · simp [hw]

theorem execPut_tidy (src : PortSrc) : Tidy (execPut src s) := by
  unfold execPut
  split
  · split
    · simp [hw]
    · split
      · simp [hw]
      · split
        · simp [hw]
        · split
          next hpay => simpa [State.pay_mem_of hpay] using hw
          next hpay => simp [State.heapWrite_wf, State.pay_mem_of hpay, hw]
  · split
    · simp [hw]
    · split
      · simp [hw]
      · simp [State.heapWrite_wf, hw]

theorem execPutf_tidy (src : PortSrc) : Tidy (execPutf src s) := by
  unfold execPutf
  split
  · split
    · simp [hw]
    · dsimp only
      split
      · simp [hw]
      · split
        · simp [hw]
        · split
          next hpay => simpa [State.pay_mem_of hpay] using hw
          next hpay => split <;> simp [State.heapWrite_wf, State.pay_mem_of hpay, hw]
  · split
    · simp [hw]
    · split
      · simp [hw]
      · split <;> simp [State.heapWrite_wf, hw]

theorem execPutfFlagAdd_tidy (n : Nat) : Tidy (execPutfFlagAdd n s) := by
  unfold execPutfFlagAdd
  split
  · simp [hw]
  · split
    · simp [hw]
    · split
      next hpay => simpa [State.pay_mem_of hpay] using hw
      next hpay =>
        have hmem := State.pay_mem_of hpay
        dsimp only
        split
        · simp [State.heapAdd_wf, hmem, hw]
        · split
          · simp [State.heapAdd_wf, hmem, hw]
          · split
            · simp [hw]
            · split <;> simp [State.heapAdd_wf, hmem, hw]

theorem execSemadd_tidy (src : PortSrc) : Tidy (execSemadd src s) := by
  unfold execSemadd
  split
  · split
    · simp [hw]
    · split
      · simp [hw]
      · split
        · simp [hw]
        · split
          · simp [hw]
          · split
            next hpay => simpa [State.pay_mem_of hpay] using hw
            next hpay => simp [State.heapAdd_wf, State.pay_mem_of hpay, hw]
  · split
    · simp [hw]
    · split
      · simp [hw]
      · simp [State.heapAdd_wf, hw]

theorem execPullreq_tidy (src : PortSrc) : Tidy (execPullreq src s) := by
  unfold execPullreq
  split
  · split
    · simp [hw]
    · split
      · simp [hw]
      · split
        · simp [hw]
        · split
          next hpay => simpa [State.pay_mem_of hpay] using hw
          next hpay => simpa [State.pay_mem_of hpay] using hw
  · split
    · simp [hw]
    · split <;> simp [hw]

theorem execPulldata_tidy (n : PortOp) (data : List Byte) : Tidy (execPulldata n data s) := by
  simp only [execPulldata]
  repeat' split
  all_goals simp [hw]

theorem execAck_tidy (n : PortOp) (r : Nat) : Tidy (execAck n r s) := by
  simp only [execAck]
  repeat' split
  all_goals simp [hw]

theorem execNack_tidy (n : PortOp) (r reason : Nat) : Tidy (execNack n r reason s) := by
  simp only [execNack]
  repeat' split
  all_goals simp [hw]

theorem execRankEntryWrite_tidy (l1 job rank : Nat) (v : BitVec 64) : Tidy (execRankEntryWrite l1 job rank v s) := by simp [execRankEntryWrite, hw]
theorem execHoldDrainReport_tidy (l1 job rank : Nat) : Tidy (execHoldDrainReport l1 job rank s) := by simp [execHoldDrainReport, hw]
theorem execFlitTagFail_tidy (f : TagFail) : Tidy (execFlitTagFail f s) := by simp [execFlitTagFail, hw]
theorem execLinkRekey_tidy (port : Nat) : Tidy (execLinkRekey port s) := by simp [execLinkRekey, hw]
theorem execRankLost_tidy (l1 job rank : Nat) : Tidy (execRankLost l1 job rank s) := by simp [execRankLost, hw]

theorem execPageRequestResponse_tidy (f page : Nat) (gen : BitVec 6) (epoch : BitVec 3) (ok : Bool) :
    Tidy (execPageRequestResponse f page gen epoch ok s) := by
  simp only [execPageRequestResponse]
  repeat' split
  all_goals simp [hw]

theorem execHostTranslationInvalidate_tidy (f page : Nat) : Tidy (execHostTranslationInvalidate f page s) := by
  unfold execHostTranslationInvalidate
  repeat' split
  all_goals simp [hw]

theorem execHostWrite_tidy (f space addr : Nat) (data : List (BitVec 8)) : Tidy (execHostWrite f space addr data s) := by
  unfold execHostWrite
  split
  · split <;> simp [hw]
  · exact (tidy_next _).2 (State.writeChip_wf _ _ hw)
  · simp [hw]

theorem execHostRead_tidy (f space addr len : Nat) : Tidy (execHostRead f space addr len s) := by
  unfold execHostRead
  repeat' split
  all_goals simp [hw]

theorem execIntpost_tidy (f : Nat) (w : BitVec 64) : Tidy (execIntpost f w s) := by
  simp only [execIntpost]
  repeat' split
  all_goals simp [hw]

/-! ### Traps and pre-emption -/

theorem execTrapEntry_tidy (id : Nat) : Tidy (execTrapEntry id s) := by
  simp only [execTrapEntry]
  repeat' split
  all_goals simp [hw]

theorem execTimer_tidy (id : Nat) : Tidy (execTimer id s) := by simp [execTimer, hw]

theorem execInterrupt_tidy (id : Nat) : Tidy (execInterrupt id s) := by
  simp only [execInterrupt]
  repeat' split
  all_goals simp [hw]

theorem execPreemptRequest_tidy (id : Nat) : Tidy (execPreemptRequest id s) := by simp [execPreemptRequest, hw]

theorem execPreempt_tidy (id : Nat) : Tidy (execPreempt id s) := by
  unfold execPreempt
  dsimp only
  split
  · simp [hw]
  · split
    · simp [hw]
    · split
      · simp [hw]
      next harea =>
        have hsaved := State.saveArea_wf (by exact State.settleTiles_wf s _ _ hw) harea
        simpa using hsaved

theorem execGracefulPreemptRequest_tidy (id : Nat) (g : BitVec 32) : Tidy (execGracefulPreemptRequest id g s) := by
  simp [execGracefulPreemptRequest, hw]

theorem execGraceExpire_tidy (id : Nat) : Tidy (execGraceExpire id s) := by
  simp only [execGraceExpire]
  repeat' split
  all_goals simp [hw]

theorem execSwitchIn_tidy (id : Nat) : Tidy (execSwitchIn id s) := by
  unfold execSwitchIn
  dsimp only
  have hback : (((s.ctx id).tiles.foldl (fun u x => u.restoreTile (coreOf id) x) s).freeArea id).mem.wf = true :=
    State.freeArea_wf _ _ (foldl_keeps (P := fun u => u.mem.wf = true) (fun u x hu => State.restoreTile_wf u _ x hu) _ hw)
  split
  · simp [hw]
  · split
    · simpa using hback
    · split
      · simpa using hback
      · simpa using hback

theorem execDebugAttach_tidy (id : Nat) : Tidy (execDebugAttach id s) := by simp [execDebugAttach, hw]
theorem execDebugResume_tidy (id : Nat) : Tidy (execDebugResume id s) := by simp [execDebugResume, hw]

theorem execDebugRead_tidy (id : Nat) (plane : Bool) (off : Nat) : Tidy (execDebugRead id plane off s) := by
  unfold execDebugRead
  repeat' split
  all_goals simp [hw]

/-! ### Power -/

theorem execMachineCheck_tidy (unit : Nat) (addr : BitVec 64) (who : CheckBy) : Tidy (execMachineCheck unit addr who s) := by
  unfold execMachineCheck
  repeat' split
  all_goals simp [hw]

theorem execClusterGate_tidy (c : Nat) : Tidy (execClusterGate c s) := by simp [execClusterGate, hw]
theorem execClusterWake_tidy (c : Nat) : Tidy (execClusterWake c s) := by simp [execClusterWake, hw]
theorem execCapWrite_tidy (c v : Nat) : Tidy (execCapWrite c v s) := by simp [execCapWrite, hw]
theorem execFreqChange_tidy (c : Nat) (r : Sensors) : Tidy (execFreqChange c r s) := by simp [execFreqChange, hw]
theorem execDeviceStart_tidy (t : StartTest) : Tidy (execDeviceStart t s) := by simp [execDeviceStart, hw]
theorem execPowerLoss_tidy : Tidy (execPowerLoss s) := (tidy_next _).2 (Memory.wf_filter _ hw)
theorem execLinkReturn_tidy (port : Nat) : Tidy (execLinkReturn port s) := by simp [execLinkReturn, hw]
theorem execSpindleResume_tidy (die : Nat) : Tidy (execSpindleResume die s) := by simp [execSpindleResume, hw]

theorem execReEncryptingMove_tidy (src : Nat) (dst : MoveTo) : Tidy (execReEncryptingMove src dst s) := by
  unfold execReEncryptingMove
  extract_lets s0 put
  have htidy : ∀ g t, Tidy (put g t) := fun g t => by
    refine (tidy_next _).2 ?_
    dsimp only [s0, State.moveTags]
    apply Memory.wf_writeCells
    apply Memory.wf_writeCells
    exact hw
  clear_value put
  split
  · simp [hw]
  · split
    · exact htidy _ _
    · exact htidy _ _
    · split
      · exact htidy _ _
      · exact htidy _ _

theorem execDebugDetach_tidy (id : Nat) : Tidy (execDebugDetach id s) := by simp [execDebugDetach, hw]

theorem execLostChannelPair_tidy (i : Nat) : Tidy (execLostChannelPair i s) := by
  unfold execLostChannelPair
  repeat' split
  all_goals simp [hw]

/-- Whatever an instruction or a step of an agent does, memory stays in its canonical form. -/
theorem exec_tidy (i : Instr) : Tidy (exec i s) := by
  cases i with
  | br _ => exact execBr_tidy hw _
  | bl _ _ => exact execBl_tidy hw _ _
  | beqz _ _ => exact execBeqz_tidy hw _ _
  | bnez _ _ => exact execBnez_tidy hw _ _
  | bltz _ _ => exact execBltz_tidy hw _ _
  | bgez _ _ => exact execBgez_tidy hw _ _
  | bgtz _ _ => exact execBgtz_tidy hw _ _
  | blez _ _ => exact execBlez_tidy hw _ _
  | bmz _ => exact execBmz_tidy hw _
  | jr _ => exact execJr_tidy hw _
  | jlr _ _ => exact execJlr_tidy hw _ _
  | tail => exact execTail_tidy hw
  | next _ => exact execNext_tidy hw _
  | steal _ => exact execSteal_tidy hw _
  | chkG _ => exact execChkG_tidy hw _
  | chkV _ => exact execChkV_tidy hw _
  | trap _ => exact execTrap_tidy hw _
  | eret => exact execEret_tidy hw
  | mfsr _ _ => exact exec_scalar_tidy hw rfl
  | mtsr _ _ => exact execMtsr_tidy hw _ _
  | featq _ _ _ => exact exec_scalar_tidy hw rfl
  | idle => exact execIdle_tidy hw
  | dbrk _ => exact execDbrk_tidy hw _
  | prack => exact execPrack_tidy hw
  | mcrd _ _ _ => exact execMcrd_tidy hw _ _ _
  | add _ _ _ => exact exec_scalar_tidy hw rfl
  | sub _ _ _ => exact exec_scalar_tidy hw rfl
  | addi _ _ _ => exact exec_scalar_tidy hw rfl
  | and _ _ _ => exact exec_scalar_tidy hw rfl
  | or _ _ _ => exact exec_scalar_tidy hw rfl
  | xor _ _ _ => exact exec_scalar_tidy hw rfl
  | andi _ _ _ => exact exec_scalar_tidy hw rfl
  | ori _ _ _ => exact exec_scalar_tidy hw rfl
  | xori _ _ _ => exact exec_scalar_tidy hw rfl
  | shl _ _ _ => exact exec_scalar_tidy hw rfl
  | shr _ _ _ => exact exec_scalar_tidy hw rfl
  | sar _ _ _ => exact exec_scalar_tidy hw rfl
  | shli _ _ _ => exact exec_scalar_tidy hw rfl
  | shri _ _ _ => exact exec_scalar_tidy hw rfl
  | sari _ _ _ => exact exec_scalar_tidy hw rfl
  | mul _ _ _ => exact exec_scalar_tidy hw rfl
  | mulh _ _ _ => exact exec_scalar_tidy hw rfl
  | mulhn _ _ _ => exact exec_scalar_tidy hw rfl
  | div _ _ _ => exact execDiv_tidy hw _ _ _
  | divn _ _ _ => exact execDivn_tidy hw _ _ _
  | rem _ _ _ => exact execRem_tidy hw _ _ _
  | remn _ _ _ => exact execRemn_tidy hw _ _ _
  | cmpeq _ _ _ => exact exec_scalar_tidy hw rfl
  | cmpne _ _ _ => exact exec_scalar_tidy hw rfl
  | cmplt _ _ _ => exact exec_scalar_tidy hw rfl
  | cmpltn _ _ _ => exact exec_scalar_tidy hw rfl
  | cmple _ _ _ => exact exec_scalar_tidy hw rfl
  | cmplen _ _ _ => exact exec_scalar_tidy hw rfl
  | cmpeqi _ _ _ => exact exec_scalar_tidy hw rfl
  | cmplti _ _ _ => exact exec_scalar_tidy hw rfl
  | sel _ _ _ _ => exact exec_scalar_tidy hw rfl
  | min _ _ _ => exact exec_scalar_tidy hw rfl
  | max _ _ _ => exact exec_scalar_tidy hw rfl
  | minn _ _ _ => exact exec_scalar_tidy hw rfl
  | maxn _ _ _ => exact exec_scalar_tidy hw rfl
  | clz _ _ => exact exec_scalar_tidy hw rfl
  | ctz _ _ => exact exec_scalar_tidy hw rfl
  | popc _ _ => exact exec_scalar_tidy hw rfl
  | sext _ _ _ => exact exec_scalar_tidy hw rfl
  | zext _ _ _ => exact exec_scalar_tidy hw rfl
  | extr _ _ _ _ => exact exec_scalar_tidy hw rfl
  | inshi _ _ _ => exact exec_scalar_tidy hw rfl
  | cnarrow _ _ _ _ => exact execCnarrow_tidy hw _ _ _ _
  | cperm _ _ _ => exact execCperm_tidy hw _ _ _
  | cget _ _ _ => exact exec_scalar_tidy hw rfl
  | cmov _ _ => exact execCmov_tidy hw _ _
  | cclr _ => exact execCclr_tidy hw _
  | cchk _ _ _ _ => exact exec_scalar_tidy hw rfl
  | ldI8 _ _ _ _ => exact execLdI8_tidy hw _ _ _ _
  | ldN8 _ _ _ _ => exact execLdN8_tidy hw _ _ _ _
  | ldI16 _ _ _ _ => exact execLdI16_tidy hw _ _ _ _
  | ldN16 _ _ _ _ => exact execLdN16_tidy hw _ _ _ _
  | ldI32 _ _ _ _ => exact execLdI32_tidy hw _ _ _ _
  | ldN32 _ _ _ _ => exact execLdN32_tidy hw _ _ _ _
  | ldI64 _ _ _ _ => exact execLdI64_tidy hw _ _ _ _
  | stI8 _ _ _ _ => exact execStI8_tidy hw _ _ _ _
  | stI16 _ _ _ _ => exact execStI16_tidy hw _ _ _ _
  | stI32 _ _ _ _ => exact execStI32_tidy hw _ _ _ _
  | stI64 _ _ _ _ => exact execStI64_tidy hw _ _ _ _
  | lds _ _ _ _ => exact execLds_tidy hw _ _ _ _
  | vld _ _ _ _ => exact execVld_tidy hw _ _ _ _
  | vst _ _ _ _ => exact execVst_tidy hw _ _ _ _
  | vlds _ _ _ _ => exact execVlds_tidy hw _ _ _ _
  | vldx _ _ _ _ _ _ _ _ => exact execVldx_tidy hw _ _ _ _ _ _ _ _
  | vstx _ _ _ _ _ _ _ _ => exact execVstx_tidy hw _ _ _ _ _ _ _ _
  | vldm _ _ _ _ => exact execVldm_tidy hw _ _ _ _
  | vstm _ _ _ _ => exact execVstm_tidy hw _ _ _ _
  | cld _ _ _ _ => exact execCld_tidy hw _ _ _ _
  | cst _ _ _ _ => exact execCst_tidy hw _ _ _ _
  | tlock _ _ _ => exact execTlock_tidy hw _ _ _
  | tunlk _ _ _ => exact execTunlk_tidy hw _ _ _
  | cbset _ _ _ => exact execCbset_tidy hw _ _ _
  | cbwaitC _ _ => exact execCbwaitC_tidy hw _ _
  | cbwaitP _ _ => exact execCbwaitP_tidy hw _ _
  | cbadvC _ _ => exact execCbadvC_tidy hw _ _
  | cbadvP _ _ => exact execCbadvP_tidy hw _ _
  | vaddF _ _ _ _ _ _ => exact exec_vector_tidy hw rfl
  | vsubF _ _ _ _ _ _ => exact exec_vector_tidy hw rfl
  | vmulF _ _ _ _ _ _ => exact exec_vector_tidy hw rfl
  | vfma _ _ _ _ _ _ => exact exec_vector_tidy hw rfl
  | vfnma _ _ _ _ _ _ => exact exec_vector_tidy hw rfl
  | vminF _ _ _ _ _ _ => exact exec_vector_tidy hw rfl
  | vmaxF _ _ _ _ _ _ => exact exec_vector_tidy hw rfl
  | vabs _ _ _ _ _ => exact exec_vector_tidy hw rfl
  | vneg _ _ _ _ _ => exact exec_vector_tidy hw rfl
  | vrcp _ _ _ _ _ => exact exec_vector_tidy hw rfl
  | vrsq _ _ _ _ _ => exact exec_vector_tidy hw rfl
  | vexp2 _ _ _ _ _ => exact exec_vector_tidy hw rfl
  | vlog2 _ _ _ _ _ => exact exec_vector_tidy hw rfl
  | vcmpEqF _ _ _ _ _ _ => exact execVcmpEqF_tidy hw _ _ _ _ _ _
  | vcmpLtF _ _ _ _ _ _ => exact execVcmpLtF_tidy hw _ _ _ _ _ _
  | vcmpLeF _ _ _ _ _ _ => exact execVcmpLeF_tidy hw _ _ _ _ _ _
  | vaddI _ _ _ _ _ _ => exact exec_vector_tidy hw rfl
  | vsubI _ _ _ _ _ _ => exact exec_vector_tidy hw rfl
  | vmulI _ _ _ _ _ _ => exact exec_vector_tidy hw rfl
  | vmad _ _ _ _ _ _ => exact exec_vector_tidy hw rfl
  | vadds _ _ _ _ _ _ => exact exec_vector_tidy hw rfl
  | vsubs _ _ _ _ _ _ => exact exec_vector_tidy hw rfl
  | vminI _ _ _ _ _ _ => exact exec_vector_tidy hw rfl
  | vmaxI _ _ _ _ _ _ => exact exec_vector_tidy hw rfl
  | vand _ _ _ _ _ _ => exact exec_vector_tidy hw rfl
  | vor _ _ _ _ _ _ => exact exec_vector_tidy hw rfl
  | vxor _ _ _ _ _ _ => exact exec_vector_tidy hw rfl
  | vshl _ _ _ _ _ _ => exact exec_vector_tidy hw rfl
  | vshr _ _ _ _ _ _ => exact exec_vector_tidy hw rfl
  | vcmpEqI _ _ _ _ _ _ => exact execVcmpEqI_tidy hw _ _ _ _ _ _
  | vcmpLtI _ _ _ _ _ _ => exact execVcmpLtI_tidy hw _ _ _ _ _ _
  | vcmpLeI _ _ _ _ _ _ => exact execVcmpLeI_tidy hw _ _ _ _ _ _
  | vcvt _ _ _ _ _ _ _ _ => exact exec_vector_tidy hw rfl
  | vpack _ _ _ _ _ _ => exact exec_vector_tidy hw rfl
  | vunpk _ _ _ _ _ _ => exact exec_vector_tidy hw rfl
  | vsplit _ _ _ _ => exact execVsplit_tidy hw _ _ _ _
  | vclz _ _ _ _ _ => exact exec_vector_tidy hw rfl
  | vrcmb _ _ _ _ => exact execVrcmb_tidy hw _ _ _ _
  | vamax _ _ _ _ _ => exact exec_vector_tidy hw rfl
  | vrsumF _ _ _ _ _ => exact exec_vector_tidy hw rfl
  | vrmaxF _ _ _ _ _ => exact exec_vector_tidy hw rfl
  | vrsumI _ _ _ _ _ => exact exec_vector_tidy hw rfl
  | vrmaxI _ _ _ _ _ => exact exec_vector_tidy hw rfl
  | vmov _ _ _ _ _ => exact exec_vector_tidy hw rfl
  | vsel _ _ _ _ _ _ => exact exec_vector_tidy hw rfl
  | vbcst _ _ _ _ => exact exec_vector_tidy hw rfl
  | vext _ _ _ _ _ => exact execVext_tidy hw _ _ _ _ _
  | vins _ _ _ _ => exact exec_vector_tidy hw rfl
  | mskpsh _ => exact execMskpsh_tidy hw _
  | mskinv => exact execMskinv_tidy hw
  | mskpop => exact execMskpop_tidy hw
  | mskand _ _ _ => exact execMskand_tidy hw _ _ _
  | mskor _ _ _ => exact execMskor_tidy hw _ _ _
  | mskmov _ _ => exact execMskmov_tidy hw _ _
  | viota _ _ _ => exact exec_vector_tidy hw rfl
  | vscalb _ _ _ _ _ _ => exact exec_vector_tidy hw rfl
  | xcfg _ _ => exact execXcfg_tidy hw _ _
  | xcfgSl _ => exact execXcfgSl_tidy hw _
  | xacq => exact execXacq_tidy hw
  | xrel => exact execXrel_tidy hw
  | xpushA _ _ _ => exact execXpushA_tidy hw _ _ _
  | xpushW _ _ _ => exact execXpushW_tidy hw _ _ _
  | xflip => exact execXflip_tidy hw
  | xshift => exact execXshift_tidy hw
  | xscl _ _ => exact execXscl_tidy hw _ _
  | xacc _ _ _ => exact execXacc_tidy hw _ _ _
  | xdrain _ _ _ _ => exact execXdrain_tidy hw _ _ _ _
  | xzero _ => exact execXzero_tidy hw _
  | xwait => exact execXwait_tidy hw
  | xres _ => exact execXres_tidy hw _
  | xmpc _ => exact execXmpc_tidy hw _
  | xhdr _ _ _ _ => exact execXhdr_tidy hw _ _ _ _
  | xsete _ _ => exact execXsete_tidy hw _ _
  | xclrf _ => exact execXclrf_tidy hw _
  | xmark _ _ _ _ => exact execXmark_tidy hw _ _ _ _
  | fadd _ _ _ => exact execFadd_tidy hw _ _ _
  | fwait _ _ _ => exact execFwait_tidy hw _ _ _
  | binit _ _ _ => exact execBinit_tidy hw _ _ _
  | barrive _ _ _ => exact execBarrive_tidy hw _ _ _
  | bwait _ _ _ => exact execBwait_tidy hw _ _ _
  | babort _ _ _ => exact execBabort_tidy hw _ _ _
  | gjoin _ _ => exact execGjoin_tidy hw _ _
  | gleave _ _ => exact execGleave_tidy hw _ _
  | fence _ => exact execFence_tidy hw _
  | qfence _ => exact execQfence_tidy hw _
  | ald _ _ _ _ _ _ => exact execAld_tidy hw _ _ _ _ _ _
  | ast _ _ _ _ _ _ => exact execAst_tidy hw _ _ _ _ _ _
  | aadd _ _ _ _ _ _ _ => exact execAadd_tidy hw _ _ _ _ _ _ _
  | aand _ _ _ _ _ _ _ => exact execAand_tidy hw _ _ _ _ _ _ _
  | aor _ _ _ _ _ _ _ => exact execAor_tidy hw _ _ _ _ _ _ _
  | axor _ _ _ _ _ _ _ => exact execAxor_tidy hw _ _ _ _ _ _ _
  | amin _ _ _ _ _ _ _ => exact execAmin_tidy hw _ _ _ _ _ _ _
  | amax _ _ _ _ _ _ _ => exact execAmax_tidy hw _ _ _ _ _ _ _
  | aminn _ _ _ _ _ _ _ => exact execAminn_tidy hw _ _ _ _ _ _ _
  | amaxn _ _ _ _ _ _ _ => exact execAmaxn_tidy hw _ _ _ _ _ _ _
  | axchg _ _ _ _ _ _ _ => exact execAxchg_tidy hw _ _ _ _ _ _ _
  | acas _ _ _ _ _ _ _ => exact execAcas_tidy hw _ _ _ _ _ _ _
  | amaxrs _ _ _ _ _ _ _ => exact execAmaxrs_tidy hw _ _ _ _ _ _ _
  | ascAdd _ _ _ _ _ => exact execAscAdd_tidy hw _ _ _ _ _
  | ascXchg _ _ _ _ _ => exact execAscXchg_tidy hw _ _ _ _ _
  | ascCas _ _ _ _ _ => exact execAscCas_tidy hw _ _ _ _ _
  | ascLd _ _ _ _ _ => exact execAscLd_tidy hw _ _ _ _ _
  | ascSt _ _ _ _ _ => exact execAscSt_tidy hw _ _ _ _ _
  | ascMax _ _ _ _ _ => exact execAscMax_tidy hw _ _ _ _ _
  | cpy _ _ _ _ => exact execCpy_tidy hw _ _ _ _
  | cpys _ _ _ _ => exact execCpys_tidy hw _ _ _ _
  | cpyg _ _ _ _ => exact execCpyg_tidy hw _ _ _ _
  | cpycb _ _ _ _ => exact execCpycb_tidy hw _ _ _ _
  | rput _ _ _ _ _ => exact execRput_tidy hw _ _ _ _ _
  | rputf _ _ _ _ _ => exact execRputf_tidy hw _ _ _ _ _
  | rputs _ _ _ _ _ => exact execRputs_tidy hw _ _ _ _ _
  | rsemadd _ _ _ => exact execRsemadd_tidy hw _ _ _
  | rpull _ _ _ _ _ => exact execRpull_tidy hw _ _ _ _ _
  | rputsf _ _ _ _ _ => exact execRputsf_tidy hw _ _ _ _ _
  | nop => exact execNop_tidy hw
  | hint k o p l => exact execHint_tidy hw k o p l
  | imageLoad _ _ => exact execImageLoad_tidy hw _ _
  | unload _ => exact execUnload_tidy hw _
  | unloadComplete _ => exact execUnloadComplete_tidy hw _
  | launchSlotWrite _ _ _ _ => exact execLaunchSlotWrite_tidy hw _ _ _ _
  | walkStart _ => exact execWalkStart_tidy hw _
  | skeinNodeVisit _ _ => exact execSkeinNodeVisit_tidy hw _ _
  | joinNodeVisit _ _ => exact execJoinNodeVisit_tidy hw _ _
  | conditionalNodeVisit _ _ => exact execConditionalNodeVisit_tidy hw _ _
  | whileNodeVisit _ _ => exact execWhileNodeVisit_tidy hw _ _
  | flagNodeVisit _ _ => exact execFlagNodeVisit_tidy hw _ _
  | leaseEstablish _ _ => exact execLeaseEstablish_tidy hw _ _
  | routerTableLoad _ => exact execRouterTableLoad_tidy hw _
  | taskPlace _ => exact execTaskPlace_tidy hw _
  | completionRecordWrite _ _ => exact execCompletionRecordWrite_tidy hw _ _
  | skeinNodeComplete _ => exact execSkeinNodeComplete_tidy hw _
  | descriptorWrite _ _ => exact execDescriptorWrite_tidy hw _ _
  | create _ => exact execCreate_tidy hw _
  | wheelMaskWrite _ _ => exact execWheelMaskWrite_tidy hw _ _
  | tokenRefill => exact execTokenRefill_tidy hw
  | releaseRequest _ _ => exact execReleaseRequest_tidy hw _ _
  | functionLevelReset _ => exact execFunctionLevelReset_tidy hw _
  | releaseQuiesced _ => exact execReleaseQuiesced_tidy hw _
  | zeroingComplete _ => exact execZeroingComplete_tidy hw _
  | registerWrite _ _ => exact execRegisterWrite_tidy hw _ _
  | arbiterCycle _ => exact execArbiterCycle_tidy hw _
  | resultLand _ => exact execResultLand_tidy hw _
  | loadReturn _ => exact execLoadReturn_tidy hw _
  | divideComplete _ => exact execDivideComplete_tidy hw _
  | mkeyCreate _ => exact execMkeyCreate_tidy hw _
  | slotZeroise _ => exact execSlotZeroise_tidy hw _
  | rotate _ _ => exact execRotate_tidy hw _ _
  | rotationSweepLine _ => exact execRotationSweepLine_tidy hw _
  | updateStage _ => exact execUpdateStage_tidy hw _
  | updateSwitch _ _ => exact execUpdateSwitch_tidy hw _ _
  | heartbeat => exact execHeartbeat_tidy hw
  | updateTrialTimeout => exact execUpdateTrialTimeout_tidy hw
  | updateCommit => exact execUpdateCommit_tidy hw
  | bootrecClear _ => exact execBootrecClear_tidy hw _
  | spindleQuiesce _ => exact execSpindleQuiesce_tidy hw _
  | getVersion _ => exact execGetVersion_tidy hw _
  | getCapabilities _ => exact execGetCapabilities_tidy hw _
  | negotiateAlgorithms _ => exact execNegotiateAlgorithms_tidy hw _
  | getDigests _ => exact execGetDigests_tidy hw _
  | getCertificate _ _ => exact execGetCertificate_tidy hw _ _
  | challenge _ => exact execChallenge_tidy hw _
  | getMeasurements _ _ => exact execGetMeasurements_tidy hw _ _
  | keyExchange _ => exact execKeyExchange_tidy hw _
  | finish _ _ => exact execFinish_tidy hw _ _
  | spdmHeartbeat _ _ => exact execSpdmHeartbeat_tidy hw _ _
  | keyUpdate _ _ => exact execKeyUpdate_tidy hw _ _
  | endSession _ _ => exact execEndSession_tidy hw _ _
  | chunkGet _ => exact execChunkGet_tidy hw _
  | sealProvision _ _ _ _ _ _ _ => exact execSealProvision_tidy hw _ _ _ _ _ _ _
  | sealRevoke _ _ _ => exact execSealRevoke_tidy hw _ _ _
  | spdmUnsupportedRequest _ => exact execSpdmUnsupportedRequest_tidy hw _
  | sealedSlotTransfer _ _ _ => exact execSealedSlotTransfer_tidy hw _ _ _
  | slotTransferConfirm _ => exact execSlotTransferConfirm_tidy hw _
  | xpushAPerform _ => exact execXpushAPerform_tidy hw _
  | xpushWPerform _ => exact execXpushWPerform_tidy hw _
  | xflipPerform _ => exact execXflipPerform_tidy hw _
  | xsclPerform _ => exact execXsclPerform_tidy hw _
  | xshiftPerform _ => exact execXshiftPerform_tidy hw _
  | xaccPerform _ => exact execXaccPerform_tidy hw _
  | xdrainPerform _ => exact execXdrainPerform_tidy hw _
  | xzeroPerform _ => exact execXzeroPerform_tidy hw _
  | xsetePerform _ => exact execXsetePerform_tidy hw _
  | xclrfPerform _ => exact execXclrfPerform_tidy hw _
  | xmarkPerform _ => exact execXmarkPerform_tidy hw _
  | xcfgPerform _ => exact execXcfgPerform_tidy hw _
  | arrayAcquire _ => exact execArrayAcquire_tidy hw _
  | xrelComplete _ => exact execXrelComplete_tidy hw _
  | fwaitComplete _ => exact execFwaitComplete_tidy hw _
  | bwaitComplete _ => exact execBwaitComplete_tidy hw _
  | cbwaitComplete _ => exact execCbwaitComplete_tidy hw _
  | xwaitComplete _ => exact execXwaitComplete_tidy hw _
  | tlockComplete _ => exact execTlockComplete_tidy hw _
  | copyBeat _ => exact execCopyBeat_tidy hw _
  | cbEscape _ => exact execCbEscape_tidy hw _
  | heatSweep _ => exact execHeatSweep_tidy hw _
  | shootdown _ _ _ => exact execShootdown_tidy hw _ _ _
  | dirtyHarvest _ _ => exact execDirtyHarvest_tidy hw _ _
  | discardReclaim _ _ => exact execDiscardReclaim_tidy hw _ _
  | writePropagate _ => exact execWritePropagate_tidy hw _
  | atomicPerform _ => exact execAtomicPerform_tidy hw _
  | qntFlush _ => exact execQntFlush_tidy hw _
  | ascPerform _ => exact execAscPerform_tidy hw _
  | fenceComplete _ => exact execFenceComplete_tidy hw _
  | qfenceComplete _ => exact execQfenceComplete_tidy hw _
  | groupDrainComplete _ _ => exact execGroupDrainComplete_tidy hw _ _
  | remoteChannelEntry _ => exact execRemoteChannelEntry_tidy hw _
  | put _ => exact execPut_tidy hw _
  | putf _ => exact execPutf_tidy hw _
  | putfFlagAdd _ => exact execPutfFlagAdd_tidy hw _
  | semadd _ => exact execSemadd_tidy hw _
  | pullreq _ => exact execPullreq_tidy hw _
  | pulldata _ _ => exact execPulldata_tidy hw _ _
  | ack _ _ => exact execAck_tidy hw _ _
  | nack _ _ _ => exact execNack_tidy hw _ _ _
  | rankEntryWrite _ _ _ _ => exact execRankEntryWrite_tidy hw _ _ _ _
  | holdDrainReport _ _ _ => exact execHoldDrainReport_tidy hw _ _ _
  | flitTagFail _ => exact execFlitTagFail_tidy hw _
  | linkRekey _ => exact execLinkRekey_tidy hw _
  | rankLost _ _ _ => exact execRankLost_tidy hw _ _ _
  | pageRequestResponse _ _ _ _ _ => exact execPageRequestResponse_tidy hw _ _ _ _ _
  | hostTranslationInvalidate _ _ => exact execHostTranslationInvalidate_tidy hw _ _
  | hostWrite _ _ _ _ => exact execHostWrite_tidy hw _ _ _ _
  | hostRead _ _ _ _ => exact execHostRead_tidy hw _ _ _ _
  | intpost _ _ => exact execIntpost_tidy hw _ _
  | trapEntry _ => exact execTrapEntry_tidy hw _
  | timer _ => exact execTimer_tidy hw _
  | interrupt _ => exact execInterrupt_tidy hw _
  | preemptRequest _ => exact execPreemptRequest_tidy hw _
  | preempt _ => exact execPreempt_tidy hw _
  | gracefulPreemptRequest _ _ => exact execGracefulPreemptRequest_tidy hw _ _
  | graceExpire _ => exact execGraceExpire_tidy hw _
  | switchIn _ => exact execSwitchIn_tidy hw _
  | debugAttach _ => exact execDebugAttach_tidy hw _
  | debugResume _ => exact execDebugResume_tidy hw _
  | debugRead _ _ _ => exact execDebugRead_tidy hw _ _ _
  | machineCheck _ _ _ => exact execMachineCheck_tidy hw _ _ _
  | clusterGate _ => exact execClusterGate_tidy hw _
  | clusterWake _ => exact execClusterWake_tidy hw _
  | capWrite _ _ => exact execCapWrite_tidy hw _ _
  | freqChange _ _ => exact execFreqChange_tidy hw _ _
  | deviceStart _ => exact execDeviceStart_tidy hw _
  | powerLoss => exact execPowerLoss_tidy hw
  | linkReturn _ => exact execLinkReturn_tidy hw _
  | spindleResume _ => exact execSpindleResume_tidy hw _
  | reEncryptingMove _ _ => exact execReEncryptingMove_tidy hw _ _
  | debugDetach _ => exact execDebugDetach_tidy hw _
  | lostChannelPair _ => exact execLostChannelPair_tidy hw _

end

end Sys2Proof.Machine
end

section
/-!
PROOFS. Every step keeps memory in its canonical form: of a bundle, whose slots run one after another, and of everything else that can happen
next.
-/

namespace Sys2Proof.Machine

/-! ### A bundle -/

theorem State.runSlots_tidy (id len : Nat) {s : State} (hw : s.mem.wf = true) (ws : List Wait) (ps : List (Nat × Instr)) :
    Tidy (State.runSlots id len s ws ps) := by
  induction ps generalizing s ws with
  | nil => exact (tidy_next _).2 hw
  | cons p ps ih =>
    have hexec : Tidy (exec p.2 ((s.setCtx id { s.ctx id with wait := none }).at id p.1 len p.2)) := exec_tidy (by exact hw) _
    unfold State.runSlots
    split
    next t ht =>
      have hmem := hexec t ht
      split
      · exact ih hmem _
      · exact (tidy_next _).2 hmem
      · split
        · exact ih hw _
        · exact (tidy_next _).2 hmem
      · exact (tidy_next _).2 hmem
    · exact hexec

section
variable {s : State} (hw : s.mem.wf = true)
include hw

theorem State.finish_wf (id len : Nat) {t : State} (ht : t.mem.wf = true) : (s.finish id len t).mem.wf = true := by
  unfold State.finish
  dsimp only
  split <;> simp [hw, ht]

theorem State.issue_go_tidy (id : Nat) (b : Bundle) : Tidy (State.issue.go s id b) := by
  have hslots : ∀ (q : Result → Bool) r,
      (b.slots.map fun p => exec p.2 (s.at id p.1 b.len p.2)).find? q = some r → Tidy r := fun q r hr => by
    obtain ⟨p, -, rfl⟩ := List.mem_map.1 (List.mem_of_find?_eq_some hr)
    exact exec_tidy (by exact hw) _
  unfold State.issue.go
  dsimp only
  split
  next hr => exact hslots _ _ hr
  · split
    next hr => exact hslots _ _ hr
    · split
      next hr => exact hslots _ _ hr
      · have hrun := State.runSlots_tidy id b.len hw [] (slotOrder b.slots)
        split
        next t ht =>
          have hmem := hrun t ht
          split
          · exact (tidy_next _).2 (State.finish_wf hw id b.len hmem)
          · exact (tidy_next _).2 hmem
          · simp [hw]
          · exact (tidy_next _).2 hmem
        · exact hrun

theorem State.issue_tidy (id tid : Nat) (b : Bundle) : Tidy (s.issue id tid b) := by
  unfold State.issue
  dsimp only
  split
  · simp [hw]
  · split
    · split
      · simp [hw]
      · exact State.issue_go_tidy hw id b
    · exact State.issue_go_tidy hw id b

theorem State.attempt_go_tidy (id : Nat) (t : Task) : Tidy (State.attempt.go s id t) := by
  unfold State.attempt.go
  dsimp only
  split
  · simp [hw]
  · simp [hw]
  · exact State.issue_tidy hw id t.tid _

theorem State.attempt_tidy (id : Nat) : Tidy (s.attempt id) := by
  unfold State.attempt
  dsimp only
  split
  · simp [hw]
  · split
    · simp [hw]
    · simp [hw]
    · exact State.attempt_go_tidy hw id _

theorem State.issueBundle_tidy (id : Nat) : Tidy (s.issueBundle id) := by
  have hattempt : Tidy (State.attempt { s with grant := none } id) := State.attempt_tidy (by exact hw) id
  unfold State.issueBundle
  split
  next t ht => exact (tidy_next _).2 (hattempt t ht)
  · exact hattempt

/-! ### A cycle -/

theorem State.survey2_wf (id : Nat) : (s.survey2 id).mem.wf = true := by
  have hattempt := State.attempt_tidy hw id
  unfold State.survey2
  split
  next t ht =>
    have hmem := hattempt t ht
    split
    · exact hmem
    · exact hw
  · exact hw

theorem State.survey1_wf (id : Nat) : (s.survey1 id).mem.wf = true := by
  unfold State.survey1
  split
  · exact hw
  · split
    · exact hw
    · split
      · exact hw
      · split
        · exact hw
        · split
          next hline => exact State.survey2_wf (by rwa [State.fetchLine_mem_of hline]) id
          next hline => simpa [State.fetchLine_mem_of hline] using hw

theorem State.survey_wf (core : Nat) : (s.survey core).mem.wf = true := by
  unfold State.survey
  split
  · exact foldl_keeps (P := fun u => u.mem.wf = true) (fun u j hu => State.survey1_wf hu _) _ hw
  · exact hw

end

/-! ### What can happen next -/

/-- Steps that keep memory in its canonical form. -/
def AllTidy (as : List Act) : Prop := ∀ a ∈ as, ∀ u : State, u.mem.wf = true → Tidy (a u)

theorem allTidy_nil : AllTidy [] := fun _ ha => nomatch ha

theorem allTidy_cons {a : Act} {as : List Act} : AllTidy (a :: as) ↔ (∀ u : State, u.mem.wf = true → Tidy (a u)) ∧ AllTidy as :=
  List.forall_mem_cons

theorem allTidy_append {as bs : List Act} : AllTidy (as ++ bs) ↔ AllTidy as ∧ AllTidy bs := List.forall_mem_append

theorem allTidy_map {α : Type} (xs : List α) {f : α → Act} (h : ∀ x (u : State), u.mem.wf = true → Tidy (f x u)) : AllTidy (xs.map f) :=
  List.forall_mem_map.2 fun x _ => h x

theorem allTidy_flatMap {α : Type} (xs : List α) {f : α → List Act} (h : ∀ x, AllTidy (f x)) : AllTidy (xs.flatMap f) := fun a ha => by
  obtain ⟨x, -, hx⟩ := List.mem_flatMap.1 ha
  exact h x a hx

theorem allTidy_ite {p : Prop} [Decidable p] {as bs : List Act} (ha : AllTidy as) (hb : AllTidy bs) : AllTidy (if p then as else bs) := by
  split
  · exact ha
  · exact hb

theorem State.actsOps_tidy (s : State) : AllTidy s.actsOps := by
  simp only [State.actsOps, allTidy_append]
  refine ⟨⟨⟨⟨allTidy_map _ ?_, allTidy_map _ ?_⟩, allTidy_flatMap _ fun a => ?_⟩, allTidy_map _ ?_⟩, allTidy_map _ ?_⟩
  · exact fun l u hu => execLoadReturn_tidy hu _
  · exact fun d u hu => execDivideComplete_tidy hu _
  · simp +contextual [allTidy_cons, allTidy_nil, execAtomicPerform_tidy, execQntFlush_tidy, execAscPerform_tidy]
  · exact fun w u hu => execWritePropagate_tidy hu _
  · exact fun c u hu => execCopyBeat_tidy hu _

theorem Out.actsLeg_tidy (o : Out) (l : Leg) : AllTidy (o.actsLeg l) := by
  unfold Out.actsLeg
  repeat' split
  all_goals simp +contextual [allTidy_cons, allTidy_nil, execPulldata_tidy, execAck_tidy, execNack_tidy]

theorem State.actsFabric_tidy (s : State) : AllTidy s.actsFabric := by
  simp only [State.actsFabric, allTidy_append]
  refine ⟨⟨allTidy_flatMap _ fun o => allTidy_append.2 ⟨?_, allTidy_flatMap _ fun l => o.actsLeg_tidy l⟩, allTidy_map _ ?_⟩,
    allTidy_flatMap _ fun x => allTidy_append.2 ⟨?_, allTidy_ite ?_ allTidy_nil⟩⟩
  · simp +contextual [allTidy_cons, allTidy_nil, execRemoteChannelEntry_tidy, execPut_tidy, execPutf_tidy, execSemadd_tidy, execPullreq_tidy]
  · exact fun f u hu => execPutfFlagAdd_tidy hu _
  · simp +contextual [allTidy_cons, allTidy_nil, execHoldDrainReport_tidy]
  · simp +contextual [allTidy_cons, allTidy_nil, execRankLost_tidy]

theorem State.actsCtx_tidy (s : State) : AllTidy s.actsCtx := by
  refine allTidy_flatMap _ fun p => ?_
  simp +contextual [allTidy_cons, allTidy_nil, execTrapEntry_tidy, execTimer_tidy, execInterrupt_tidy, execPreempt_tidy, execGraceExpire_tidy,
    execFwaitComplete_tidy, execBwaitComplete_tidy, execCbwaitComplete_tidy, execXwaitComplete_tidy, execXrelComplete_tidy,
    execTlockComplete_tidy, execFenceComplete_tidy, execQfenceComplete_tidy]

theorem State.actsCore_tidy (s : State) : AllTidy s.actsCore := by
  refine allTidy_flatMap _ fun p => ?_
  simp +contextual [allTidy_cons, allTidy_nil, execXpushAPerform_tidy, execXpushWPerform_tidy, execXflipPerform_tidy, execXsclPerform_tidy,
    execXshiftPerform_tidy, execXaccPerform_tidy, execXdrainPerform_tidy, execXzeroPerform_tidy, execXsetePerform_tidy,
    execXclrfPerform_tidy, execXmarkPerform_tidy, execXcfgPerform_tidy, execArrayAcquire_tidy, execCbEscape_tidy]

theorem State.actsSpindle_tidy (s : State) : AllTidy s.actsSpindle := by
  simp only [State.actsSpindle, allTidy_append]
  refine ⟨⟨⟨⟨allTidy_map _ ?_, allTidy_flatMap _ fun w => allTidy_flatMap _ fun n => ?_⟩, allTidy_flatMap _ fun l => ?_⟩, allTidy_map _ ?_⟩,
    allTidy_map _ ?_⟩
  · exact fun p u hu => execWalkStart_tidy hu _
  · simp +contextual [allTidy_cons, allTidy_nil, execSkeinNodeVisit_tidy, execJoinNodeVisit_tidy, execConditionalNodeVisit_tidy,
      execWhileNodeVisit_tidy, execFlagNodeVisit_tidy]
  · simp +contextual [allTidy_cons, allTidy_nil, execRouterTableLoad_tidy, execTaskPlace_tidy, execSkeinNodeComplete_tidy]
  · exact fun r u hu => execCompletionRecordWrite_tidy hu _ _
  · exact fun g u hu => execGroupDrainComplete_tidy hu _ _

theorem State.actsPart_tidy (s : State) : AllTidy s.actsPart := by
  simp only [State.actsPart, allTidy_append]
  refine ⟨⟨⟨⟨allTidy_flatMap _ fun p => ?_, allTidy_flatMap _ fun c => ?_⟩, allTidy_map _ ?_⟩, ?_⟩, allTidy_map _ ?_⟩
  · simp +contextual [allTidy_cons, allTidy_nil, execReleaseQuiesced_tidy, execZeroingComplete_tidy]
  · simp +contextual [allTidy_cons, allTidy_nil, execHeatSweep_tidy, execClusterGate_tidy, execClusterWake_tidy, execFreqChange_tidy]
  · exact fun k u hu => execRotationSweepLine_tidy hu _
  · simp +contextual [allTidy_cons, allTidy_nil, execUpdateTrialTimeout_tidy]
  · exact fun i u hu => execUnloadComplete_tidy hu _

theorem State.acts_tidy (s : State) : AllTidy s.acts := fun a ha => by
  have hall : AllTidy (s.actsOps ++ s.actsFabric ++ s.actsCtx ++ s.actsCore ++ s.actsSpindle ++ s.actsPart) := by
    simp only [allTidy_append]
    exact ⟨⟨⟨⟨⟨s.actsOps_tidy, s.actsFabric_tidy⟩, s.actsCtx_tidy⟩, s.actsCore_tidy⟩, s.actsSpindle_tidy⟩, s.actsPart_tidy⟩
  exact hall a (List.mem_of_mem_filter ha)

theorem State.actInput_tidy (s : State) : AllTidy s.actInput := by
  unfold State.actInput
  split
  · exact allTidy_nil
  · refine allTidy_ite ?_ ?_
    · simp +contextual [allTidy_cons, allTidy_nil]
    · refine allTidy_cons.2 ⟨fun u hu => exec_tidy (by exact hu) _, allTidy_nil⟩

theorem actClock_tidy {u : State} (hu : u.mem.wf = true) : Tidy (actClock u) := execArbiterCycle_tidy (State.survey_wf hu _) _

theorem State.options_tidy (s : State) : AllTidy s.options := by
  simp only [State.options, allTidy_append]
  exact ⟨⟨s.actInput_tidy, s.acts_tidy⟩, allTidy_ite allTidy_nil (allTidy_cons.2 ⟨fun u hu => actClock_tidy hu, allTidy_nil⟩)⟩

theorem State.advance_tidy {s : State} (hw : s.mem.wf = true) : Tidy s.advance := by
  unfold State.advance
  split
  · exact execTokenRefill_tidy hw
  · split
    · simp [hw]
    · have hall := s.options_tidy
      split
      next a ha => exact hall a (by simp [ha]) s hw
      · split
        next hget => exact hall _ (List.mem_of_getElem? hget) _ hw
        · simp [hw]

/-- Settles O41: every instruction and every step of an agent is tidy, and a step is one of them, or a bundle of them. -/
theorem stepKeepsMemory : Obligations.StepKeepsMemory := by
  intro s t hs ht
  have htidy : Tidy (step s) := by
    unfold step
    split
    · exact State.issueBundle_tidy hs _
    · exact State.advance_tidy hs
  exact htidy t ht

end Sys2Proof.Machine
end

section
/-!
PROOFS. The responder of a function (R103 to R106): a request at its stage is answered, an earlier one refused, and within a session only a
finished one counts.
-/

namespace Sys2Proof.Machine

section
variable {s : State} {f : Nat} (hf : f < nFuncs) (hstate : (s.part f).state ≠ 0)
include hf hstate

theorem spdm_of_stage {stage : Nat} (h : stage ≤ (s.responder f).stage) (go : Spdm → State) :
    spdm f stage s go = .next (go (s.responder f)) := by
  rw [spdm, if_neg (Nat.not_le.2 hf), if_neg hstate, if_neg (Nat.not_lt.2 h)]

theorem spdm_of_early {stage : Nat} (h : (s.responder f).stage < stage) (go : Spdm → State) :
    spdm f stage s go = .next (s.refuse f errUnexpected) := by
  rw [spdm, if_neg (Nat.not_le.2 hf), if_neg hstate, if_pos h]

theorem secured_of_mem {sess : Nat} (h : (sess, true) ∈ (s.responder f).sessions) (go : Spdm → State) :
    secured f sess s go = .next (go (s.responder f)) := by
  rw [secured, spdm_of_stage hf hstate (Nat.zero_le _), if_pos (List.contains_iff_mem.2 h)]

theorem secured_of_not_mem {sess : Nat} (h : (sess, true) ∉ (s.responder f).sessions) (go : Spdm → State) :
    secured f sess s go = .next (s.refuse f errInvalid) := by
  rw [secured, spdm_of_stage hf hstate (Nat.zero_le _), if_neg (fun hc => h (List.contains_iff_mem.1 hc))]

theorem execGetMeasurements_some (hstage : 3 ≤ (s.responder f).stage) {n : Nat} {bs : List Byte} (h : s.measurement f n = some bs) :
    execGetMeasurements f n s = .next (s.respond f (s.responder f) bs) := by
  rw [execGetMeasurements, spdm_of_stage hf hstate hstage, h]

theorem execGetMeasurements_none (hstage : 3 ≤ (s.responder f).stage) {n : Nat} (h : s.measurement f n = none) :
    execGetMeasurements f n s = .next (s.refuse f errInvalid) := by
  rw [execGetMeasurements, spdm_of_stage hf hstate hstage, h]

end

/-! ### Measurement blocks -/

theorem State.measurement_image {s : State} {f n : Nat} {i : Image} (hn : n < 64) (hi : (s.loaded f)[n]? = some i) :
    s.measurement f (16 + n) = some i.digest := by
  have hrange : 16 ≤ 16 + n ∧ 16 + n < 80 := ⟨Nat.le_add_right 16 n, by omega⟩
  unfold State.measurement
  split
  · omega
  · omega
  · omega
  · omega
  · rw [if_pos hrange, Nat.add_sub_cancel_left, hi]
    rfl

theorem State.measurement_unknown {s : State} {f n : Nat} (hn : n = 0 ∨ (5 ≤ n ∧ n < 16) ∨ 80 ≤ n) : s.measurement f n = none := by
  unfold State.measurement
  split
  · omega
  · omega
  · omega
  · omega
  · exact if_neg (by omega)

/-! ### Sealed slots -/

theorem slotKind_sealed {k : Nat} (h : 145 ≤ k) : slotKind k = 2 := by
  rw [slotKind, if_neg (by omega), if_neg (by omega)]

@[simp] theorem State.keySlot_setKeySlot (s : State) (n : Nat) (k : KeySlot) : (s.setKeySlot n k).keySlot n = k :=
  Table.get_set_same _ _ _ _

@[simp] theorem State.keySlot_payload (s : State) (f req : Nat) (r : Spdm) (n : Nat) : (s.payload f req r).keySlot n = s.keySlot n := rfl

section
variable {s : State} {f n k : Nat} (hf : f < nFuncs) (hstate : (s.part f).state ≠ 0) (hn : (n, true) ∈ (s.responder f).sessions)
  (hk : 145 ≤ k) (hk' : k < 256) (ol : BitVec 48) (key : BitVec 512) (pd : BitVec 256)
include hf hstate hn hk hk'

theorem execSealProvision_new (h : (s.keySlot k).state = 0 ∨ ((s.keySlot k).state = 1 ∧ (s.keySlot k).owner = f)) :
    ∃ u, execSealProvision f n k ol key pd false s = .next u ∧ u.keySlot k = { s.keySlot k with
      cur := givenKey key, owner := f, state := 1, gen := ((s.keySlot k).gen + 1) % 256, olines := ol.toNat, pdigest := pd.toNat } := by
  have hfree : (decide ((s.keySlot k).state = 0) || (decide ((s.keySlot k).state = 1) && decide ((s.keySlot k).owner = f))) = true := by
    simpa using h
  refine ⟨(s.setKeySlot k _).payload f 14 (s.responder f), ?_, (State.keySlot_payload _ _ _ _ _).trans (State.keySlot_setKeySlot _ _ _)⟩
  rw [execSealProvision, secured_of_mem hf hstate hn]
  dsimp only
  rw [if_neg (by simp [slotKind_sealed hk, hk']), if_neg Bool.false_ne_true, if_pos hfree]

theorem execSealProvision_next (h1 : (s.keySlot k).state = 1) (h2 : (s.keySlot k).owner = f) :
    ∃ u, execSealProvision f n k ol key pd true s = .next u ∧ u.keySlot k = { s.keySlot k with nxt := givenKey key } := by
  refine ⟨(s.setKeySlot k _).payload f 14 (s.responder f), ?_, (State.keySlot_payload _ _ _ _ _).trans (State.keySlot_setKeySlot _ _ _)⟩
  rw [execSealProvision, secured_of_mem hf hstate hn]
  dsimp only
  rw [if_neg (by simp [slotKind_sealed hk, hk']), if_pos rfl, if_pos (by simp [h1, h2])]

theorem execSealProvision_foreign (h1 : (s.keySlot k).state = 1) (h2 : (s.keySlot k).owner ≠ f) :
    execSealProvision f n k ol key pd false s = .next (s.refuse f 1) := by
  rw [execSealProvision, secured_of_mem hf hstate hn]
  dsimp only
  rw [if_neg (by simp [slotKind_sealed hk, hk']), if_neg Bool.false_ne_true, if_neg (by simp [h1, h2])]
  rfl

theorem execSealRevoke_own (h1 : (s.keySlot k).state ≠ 0) (h2 : (s.keySlot k).owner = f) :
    ∃ u, execSealRevoke f n k s = .next u ∧ u.keySlot k = { gen := (s.keySlot k).gen } := by
  refine ⟨(s.setKeySlot k _).payload f 14 (s.responder f), ?_, (State.keySlot_payload _ _ _ _ _).trans (State.keySlot_setKeySlot _ _ _)⟩
  rw [execSealRevoke, secured_of_mem hf hstate hn]
  dsimp only
  rw [if_pos ⟨slotKind_sealed hk, hk', h1, h2⟩]
  rfl

omit hk hk' in
theorem execSealRevoke_foreign (h2 : (s.keySlot k).owner ≠ f) : execSealRevoke f n k s = .next (s.refuse f 1) := by
  rw [execSealRevoke, secured_of_mem hf hstate hn]
  dsimp only
  rw [if_neg fun h => h2 h.2.2.2]
  rfl

end

section
variable {s : State} {f : Nat} (hf : f < nFuncs) (hstate : (s.part f).state ≠ 0)
include hf hstate

/-- The requests of the negotiation (R103). -/
theorem exec_negotiation :
    exec (.getVersion f) s = .next (s.respond f { s.responder f with stage := 1 } [0, 19]) ∧
    exec (.spdmUnsupportedRequest f) s = .next (s.refuse f 7) ∧
    (1 ≤ (s.responder f).stage → exec (.getCapabilities f) s =
      .next (s.payload f 2 { s.responder f with stage := max 2 (s.responder f).stage })) ∧
    ((s.responder f).stage < 1 → exec (.getCapabilities f) s = .next (s.refuse f 4)) ∧
    (2 ≤ (s.responder f).stage → exec (.negotiateAlgorithms f) s =
      .next (s.respond f { s.responder f with stage := 3 } [4, 0, 0, 0, 1, 0, 0, 0, 16, 0, 2, 0])) ∧
    ((s.responder f).stage < 2 → exec (.negotiateAlgorithms f) s = .next (s.refuse f 4)) := by
  refine ⟨?_, ?_, fun h => ?_, fun h => ?_, fun h => ?_, fun h => ?_⟩
  · change execGetVersion f s = _
    exact spdm_of_stage hf hstate (Nat.zero_le _) _
  · change execSpdmUnsupportedRequest f s = _
    exact spdm_of_stage hf hstate (Nat.zero_le _) _
  · change execGetCapabilities f s = _
    exact spdm_of_stage hf hstate h _
  · change execGetCapabilities f s = _
    exact spdm_of_early hf hstate h _
  · change execNegotiateAlgorithms f s = _
    exact spdm_of_stage hf hstate h _
  · change execNegotiateAlgorithms f s = _
    exact spdm_of_early hf hstate h _

/-- The requests for certificates and signatures, once the negotiation is over (R102, R103). -/
theorem exec_certificates (h : 3 ≤ (s.responder f).stage) :
    exec (.getDigests f) s = .next (s.respond f (s.responder f) (Sha.hash (Config.spdmPayload 5 0))) ∧
    exec (.getCertificate f 0) s = .next (s.respond f (s.responder f) (Config.spdmPayload 5 0)) ∧
    (∀ n, n ≠ 0 → exec (.getCertificate f n) s = .next (s.refuse f 1)) ∧
    exec (.challenge f) s = .next (s.payload f 6 (s.responder f)) ∧ exec (.chunkGet f) s = .next (s.payload f 13 (s.responder f)) := by
  refine ⟨?_, ?_, fun n hn => ?_, ?_, ?_⟩
  · change execGetDigests f s = _
    exact spdm_of_stage hf hstate h _
  · change execGetCertificate f 0 s = _
    rw [execGetCertificate, spdm_of_stage hf hstate h, if_pos rfl]
  · change execGetCertificate f n s = _
    rw [execGetCertificate, spdm_of_stage hf hstate h, if_neg hn]
    rfl
  · change execChallenge f s = _
    exact spdm_of_stage hf hstate h _
  · change execChunkGet f s = _
    exact spdm_of_stage hf hstate h _

/-- Sessions are opened and finished (R103). -/
theorem exec_sessions (h : 3 ≤ (s.responder f).stage) :
    ((s.responder f).sessions.length < 4 → exec (.keyExchange f) s = .next { s.payload f 8 { s.responder f with
      sessions := (s.responder f).sessions ++ [(s.fresh, false)] } with fresh := s.fresh + 1 }) ∧
    (4 ≤ (s.responder f).sessions.length → exec (.keyExchange f) s = .next (s.refuse f 10)) ∧
    (∀ n, (n, false) ∈ (s.responder f).sessions → exec (.finish f n) s = .next (s.payload f 9 { s.responder f with
      sessions := (s.responder f).sessions.map fun x => if x.1 = n then (n, true) else x })) := by
  refine ⟨fun hfew => ?_, fun hmany => ?_, fun n hn => ?_⟩
  · change execKeyExchange f s = _
    rw [execKeyExchange, spdm_of_stage hf hstate h, if_neg (Nat.not_le.2 hfew)]
  · change execKeyExchange f s = _
    rw [execKeyExchange, spdm_of_stage hf hstate h, if_pos hmany]
    rfl
  · change execFinish f n s = _
    rw [execFinish, spdm_of_stage hf hstate h, if_pos (List.contains_iff_mem.2 hn)]

/-- What a finished session can ask for besides sealed slots (R103). -/
theorem exec_session {n : Nat} (hn : (n, true) ∈ (s.responder f).sessions) :
    exec (.spdmHeartbeat f n) s = .next (s.payload f 10 (s.responder f)) ∧
    exec (.keyUpdate f n) s = .next (s.payload f 11 (s.responder f)) ∧
    exec (.endSession f n) s = .next (s.payload f 12 { s.responder f with
      sessions := (s.responder f).sessions.filter fun x => decide (x.1 ≠ n) }) := by
  refine ⟨?_, ?_, ?_⟩
  · change execSpdmHeartbeat f n s = _
    exact secured_of_mem hf hstate hn _
  · change execKeyUpdate f n s = _
    exact secured_of_mem hf hstate hn _
  · change execEndSession f n s = _
    exact secured_of_mem hf hstate hn _

theorem exec_no_session {n : Nat} (hn : (n, true) ∉ (s.responder f).sessions) :
    exec (.spdmHeartbeat f n) s = .next (s.refuse f 1) ∧ exec (.endSession f n) s = .next (s.refuse f 1) := by
  constructor
  · change execSpdmHeartbeat f n s = _
    exact secured_of_not_mem hf hstate hn _
  · change execEndSession f n s = _
    exact secured_of_not_mem hf hstate hn _

end

/-- Settles O59, each request by its stage. -/
theorem attestation : Obligations.Attestation := by
  intro s f r say hf hstate hr hsay
  subst hr
  obtain rfl : say = s.respond f := funext fun x => funext fun bs => hsay x bs
  obtain ⟨hversion, hunsupported, hcaps, hcaps', halgs, halgs'⟩ := exec_negotiation hf hstate
  refine ⟨hversion, hunsupported, hcaps, hcaps', halgs, halgs', fun h => ?_, fun n hn => ?_, fun n hn => exec_no_session hf hstate hn,
    fun x bs g hg => Table.get_set_other _ _ _ hg⟩
  · obtain ⟨hdigests, hchain, hchain', hchallenge, hchunk⟩ := exec_certificates hf hstate h
    obtain ⟨hopen, hfull, hfinish⟩ := exec_sessions hf hstate h
    have hmeasured := fun n bs => @execGetMeasurements_some s f hf hstate h n bs
    exact ⟨hdigests, hchain, hchain', hchallenge, hchunk, hmeasured 1 _ rfl, hmeasured 2 _ rfl, hmeasured 3 _ rfl, hmeasured 4 _ rfl,
      fun n i hn hi => hmeasured (16 + n) _ (State.measurement_image hn hi),
      fun n hn => execGetMeasurements_none hf hstate h (State.measurement_unknown hn), hopen, hfull, hfinish⟩
  · obtain ⟨hbeat, hupdate, hend⟩ := exec_session hf hstate hn
    exact ⟨hbeat, hupdate, hend, fun k ol key pd hk hk' => ⟨execSealProvision_new hf hstate hn hk hk' ol key pd,
      execSealProvision_next hf hstate hn hk hk' ol key pd, execSealRevoke_own hf hstate hn hk hk',
      fun h1 h2 => ⟨execSealProvision_foreign hf hstate hn hk hk' ol key pd h1 h2, execSealRevoke_foreign hf hstate hn h2⟩⟩⟩

end Sys2Proof.Machine
end

section
/-!
PROOFS. The issue arbiter (R154 to R157): which tenant and which context it chooses, and that a cycle grants a context exactly when one is ready.
-/

namespace Sys2Proof.Machine

/-! ### The tenants of ready contexts -/

theorem mem_insertNat {m n : Nat} {ms : List Nat} : m ∈ insertNat n ms ↔ m = n ∨ m ∈ ms := by
  induction ms with
  | nil => simp [insertNat]
  | cons k ks ih =>
    simp only [insertNat]
    split
    · exact List.mem_cons
    · split
      next heq => simp [heq]
      · rw [List.mem_cons, ih, List.mem_cons]
        exact or_left_comm

theorem State.mem_tenants {s : State} {t : Nat} {ids : List Nat} : t ∈ s.tenants ids ↔ ∃ id ∈ ids, s.tenantOf id = t := by
  induction ids with
  | nil => simp [State.tenants]
  | cons i is ih =>
    have hcons : s.tenants (i :: is) = insertNat (s.tenantOf i) (s.tenants is) := rfl
    rw [hcons, mem_insertNat, ih]
    simp only [List.mem_cons, or_and_right, exists_or, exists_eq_left]
    exact or_congr eq_comm Iff.rfl

theorem nextTenant_mem {ts : List Nat} {cur : Option Nat} {t : Nat} (h : nextTenant ts cur = some t) : t ∈ ts := by
  cases cur with
  | none => exact List.mem_of_head? h
  | some c =>
    rcases Option.or_eq_some_iff.1 h with h | ⟨-, h⟩
    · exact List.mem_of_find?_eq_some h
    · exact List.mem_of_head? h

theorem nextTenant_isSome {ts : List Nat} (cur : Option Nat) (h : ts ≠ []) : (nextTenant ts cur).isSome = true := by
  have hhead : ts.head?.isSome = true := List.isSome_head?.2 h
  cases cur with
  | none => exact hhead
  | some c => rw [nextTenant, Option.isSome_or, hhead, Bool.or_true]

/-! ### The choice of a tenant -/

/-- The tenants of positive weight among those of ready contexts. -/
def State.weighted (s : State) (ready : List Nat) : List Nat := (s.tenants ready).filter fun t => decide (0 < (s.part t).weight)

/-- Everything that the choice can be: the next tenant, where none has a positive weight; or one of those that have. -/
theorem State.chooseTenant_cases {s : State} {k k' : Core} {ready : List Nat} {t : Nat} (h : s.chooseTenant k ready = some (t, k')) :
    (s.weighted ready = [] ∧ nextTenant (s.tenants ready) k.last0 = some t ∧ k' = { k with last0 := some t }) ∨
    (t ∈ s.weighted ready ∧ ∃ cur dc, k' = { k with cur := cur, dc := dc }) := by
  unfold State.chooseTenant at h
  dsimp only at h
  split at h
  next hw =>
    split at h
    · cases h
    next ht =>
      obtain ⟨rfl, rfl⟩ := Prod.mk.inj (Option.some.inj h)
      exact .inl ⟨hw, ht, rfl⟩
  next hw =>
    have hnext : ∀ {t' : Nat}, nextTenant (s.weighted ready) k.cur = some t' → t' ∈ s.weighted ready := nextTenant_mem
    cases hcur : k.cur with
    | none =>
      simp only [hcur, Bool.false_eq_true, if_false] at h hnext
      split at h
      · cases h
      next ht =>
        obtain ⟨rfl, rfl⟩ := Prod.mk.inj (Option.some.inj h)
        exact .inr ⟨hnext ht, _, _, rfl⟩
    | some c =>
      simp only [hcur] at h hnext
      split at h
      next hstay =>
        obtain ⟨rfl, rfl⟩ := Prod.mk.inj (Option.some.inj h)
        simp only [Bool.and_eq_true, List.contains_iff_mem] at hstay
        exact .inr ⟨hstay.1, _, _, rfl⟩
      · split at h
        · cases h
        next ht =>
          obtain ⟨rfl, rfl⟩ := Prod.mk.inj (Option.some.inj h)
          exact .inr ⟨hnext ht, _, _, rfl⟩

theorem State.chooseTenant_isSome (s : State) (k : Core) {ready : List Nat} (h : ready ≠ []) : (s.chooseTenant k ready).isSome = true := by
  obtain ⟨id, hid⟩ := List.exists_mem_of_ne_nil _ h
  have hts : s.tenants ready ≠ [] := List.ne_nil_of_mem (State.mem_tenants.2 ⟨id, hid, rfl⟩)
  unfold State.chooseTenant
  dsimp only
  split
  · obtain ⟨t, ht⟩ := Option.isSome_iff_exists.1 (nextTenant_isSome k.last0 hts)
    rw [ht, Option.isSome_some]
  next hw =>
    have hne : s.weighted ready ≠ [] := fun h' => by cases h'.symm.trans hw
    obtain ⟨t, ht⟩ := Option.isSome_iff_exists.1 (nextTenant_isSome k.cur hne)
    have ht : nextTenant (List.filter _ (s.tenants ready)) k.cur = some t := ht
    rw [ht]
    cases hcur : k.cur with
    | none => rfl
    | some c => exact (apply_ite Option.isSome _ _ _).trans (ite_self _)

theorem State.chooseTenant_spec {s : State} {k k' : Core} {ready : List Nat} {t : Nat} (h : s.chooseTenant k ready = some (t, k')) :
    (∃ id ∈ ready, s.tenantOf id = t) ∧ ((∃ id ∈ ready, 0 < (s.part (s.tenantOf id)).weight) → 0 < (s.part t).weight) ∧
    k'.granted = k.granted ∧ k'.queue = k.queue := by
  rcases State.chooseTenant_cases h with ⟨hw, ht, rfl⟩ | ⟨ht, cur, dc, rfl⟩
  · refine ⟨State.mem_tenants.1 (nextTenant_mem ht), fun ⟨id, hid, hpos⟩ => ?_, rfl, rfl⟩
    have hmem : s.tenantOf id ∈ s.weighted ready :=
      List.mem_filter.2 ⟨State.mem_tenants.2 ⟨id, hid, rfl⟩, decide_eq_true hpos⟩
    rw [hw] at hmem
    cases hmem
  · obtain ⟨hmem, hpos⟩ := List.mem_filter.1 ht
    exact ⟨State.mem_tenants.1 hmem, fun _ => of_decide_eq_true hpos, rfl, rfl⟩

/-! ### The choice of a context -/

theorem leastRecent_mem {granted : Table Nat} {ids : List Nat} {i : Nat} (h : leastRecent granted ids = some i) : i ∈ ids := by
  induction ids generalizing i with
  | nil => cases h
  | cons j js ih =>
    simp only [leastRecent] at h
    split at h
    · exact Option.some.inj h ▸ List.mem_cons_self
    next k hk =>
      split at h
      · exact Option.some.inj h ▸ List.mem_cons_of_mem _ (ih hk)
      · exact Option.some.inj h ▸ List.mem_cons_self

theorem leastRecent_isSome (granted : Table Nat) {ids : List Nat} (h : ids ≠ []) : (leastRecent granted ids).isSome = true := by
  cases ids with
  | nil => exact absurd rfl h
  | cons j js =>
    simp only [leastRecent]
    split
    · rfl
    · split <;> rfl

/-! ### What the boundaries of contexts leave as it is -/

/-- The clock, the grant and the partitions are the same. -/
def State.SameClock (s t : State) : Prop := t.grant = s.grant ∧ t.time = s.time ∧ t.parts = s.parts

theorem State.SameClock.refl (s : State) : s.SameClock s := ⟨rfl, rfl, rfl⟩

theorem State.SameClock.trans {s t u : State} (h : s.SameClock t) (h' : t.SameClock u) : s.SameClock u :=
  ⟨h'.1.trans h.1, h'.2.1.trans h.2.1, h'.2.2.trans h.2.2⟩

theorem State.SameClock.foldl {β : Type} {f : State → β → State} (h : ∀ (s : State) x, s.SameClock (f s x)) (xs : List β) (s : State) :
    s.SameClock (xs.foldl f s) := by
  induction xs generalizing s with
  | nil => exact .refl s
  | cons x xs ih => exact (h s x).trans (ih _)

theorem State.sameClock_setCtx (s : State) (id : Nat) (c : Ctx) : s.SameClock (s.setCtx id c) := ⟨rfl, rfl, rfl⟩

theorem State.sameClock_leaveGroup (s : State) (id tid iss : Nat) (pc : Word) (fl : Bool) (ls : List Nat) (g : Nat) :
    s.SameClock (s.leaveGroup id tid iss pc fl ls g) := by
  unfold State.leaveGroup
  split
  · exact .refl s
  · exact ⟨rfl, rfl, rfl⟩

theorem State.sameClock_retireTask (s : State) (id code : Nat) (fpc tval : Word) (p m t : Bool) :
    s.SameClock (s.retireTask id code fpc tval p m t) := by
  unfold State.retireTask
  dsimp only
  split
  · exact .refl s
  next t _ =>
    have hgroups := State.SameClock.foldl (fun u g => u.sameClock_leaveGroup id t.tid (s.ctx id).iss (s.ctx id).pc (decide (code ≠ 0)) [] g)
      (s.ctx id).groups s
    exact hgroups

theorem State.sameClock_takeTrap (s : State) (id : Nat) (t : Trap) : s.SameClock (s.takeTrap id t) := by
  rcases s.takeTrap_cases id t with h | ⟨a, -, -, -, h⟩ | ⟨-, h⟩
  · exact h ▸ s.sameClock_setCtx _ _
  · exact h ▸ s.sameClock_setCtx _ _
  · exact h ▸ s.sameClock_retireTask _ _ _ _ _ _ _

theorem State.sameClock_returnFrom (s : State) (id : Nat) : s.SameClock (s.returnFrom id) := by
  unfold State.returnFrom
  dsimp only
  split
  · exact .refl s
  · split
    · exact s.sameClock_setCtx _ _
    · split
      · exact ⟨rfl, rfl, rfl⟩
      · exact (s.sameClock_setCtx _ _).trans (State.sameClock_takeTrap _ _ _)

theorem State.sameClock_returns (s : State) (ids : List Nat) : s.SameClock (s.returns ids) := by
  refine .foldl (fun u i => ?_) ids s
  have hidle : u.SameClock (u.endIdle i) := by
    unfold State.endIdle
    split
    · exact u.sameClock_setCtx _ _
    · exact .refl u
  have hnext : ∀ v : State, u.SameClock v → u.SameClock (if (v.ctx i).more.isEmpty then v else v.setCtx i (v.ctx i).nextWait) :=
    fun v hv => by
      split
      · exact hv
      · exact hv.trans (v.sameClock_setCtx _ _)
  have hreturn : ∀ v : State, u.SameClock v → u.SameClock (if v.returning i then v.returnFrom i else v) := fun v hv => by
    split
    · exact hv.trans (v.sameClock_returnFrom i)
    · exact hv
  exact hreturn _ (hnext _ hidle)

theorem State.sameClock_tickHeld (s : State) (ids : List Nat) : s.SameClock (s.tickHeld ids) :=
  .foldl (fun u i => u.sameClock_setCtx i (u.ctx i).tick) ids s

theorem State.sameClock_countCycle (s : State) (core : Nat) : s.SameClock (s.countCycle core) := by
  unfold State.countCycle
  dsimp only
  split <;> exact ⟨rfl, rfl, rfl⟩

/-! ### The count of bundles -/

theorem State.part_setPart (s : State) (f g : Nat) (p : Part) : (s.setPart f p).part g = if g = f then p else s.part g := Table.get_set _ _ _ _ _

theorem State.countIssue_tenant {s : State} {f : Nat} (h : (s.part f).level ≠ 1) :
    (s.countIssue f).part f = { s.part f with tused := (s.part f).tused + 1 } := by
  rw [State.countIssue, State.chain, if_neg h, List.foldl_cons, List.foldl_nil, State.part_setPart, if_pos rfl]

theorem State.countIssue_child {s : State} {f : Nat} (h : (s.part f).level = 1) (hne : (s.part f).parent ≠ f) :
    (s.countIssue f).part f = { s.part f with tused := (s.part f).tused + 1 } ∧
    (s.countIssue f).part (s.part f).parent = { s.part (s.part f).parent with tused := (s.part (s.part f).parent).tused + 1 } := by
  rw [State.countIssue, State.chain, if_pos h, List.foldl_cons, List.foldl_cons, List.foldl_nil]
  simp only [State.part_setPart, hne, hne.symm, if_true, if_false, and_self]

theorem State.sameGrant_countIssue (s : State) (f : Nat) : (s.countIssue f).grant = s.grant ∧ (s.countIssue f).turn = s.turn ∧
    (s.countIssue f).ready = s.ready ∧ (s.countIssue f).held = s.held ∧ (s.countIssue f).time = s.time := by
  obtain ⟨ps, h⟩ := State.onlyParts_foldl (f := fun (u : State) g => u.setPart g { u.part g with tused := (u.part g).tused + 1 })
    (fun u g => u.onlyParts_setPart g _) (s.chain f) s
  have h : s.countIssue f = { s with parts := ps } := h
  rw [h]
  exact ⟨rfl, rfl, rfl, rfl, rfl⟩

/-! ### A cycle -/

/-- The contexts of a core among some. -/
def ofCore (core : Nat) (ids : List Nat) : List Nat := ids.filter fun i => decide (coreOf i = core)

theorem mem_ofCore {core id : Nat} {ids : List Nat} : id ∈ ofCore core ids ↔ id ∈ ids ∧ id / 4 = core := by
  rw [ofCore, List.mem_filter, decide_eq_true_eq, coreOf]

/-- The turn goes to the next core, and what the step has found of this one is used up. -/
def State.nextTurn (s : State) (core : Nat) : State := { s with turn := core + 1, ready := [], held := [] }

theorem State.sameClock_nextTurn (s : State) (core : Nat) : s.SameClock (s.nextTurn core) := ⟨rfl, rfl, rfl⟩

/-- The state in which a cycle chooses the context that it grants: counted, with the HELD contexts a step on and complete
returns made. -/
def State.beforeGrant (s : State) (core : Nat) : State :=
  (((s.countCycle core).tickHeld (ofCore core s.held)).returns ((List.range 4).map (4 * core + ·))).nextTurn core

theorem State.sameClock_beforeGrant (s : State) (core : Nat) : s.SameClock (s.beforeGrant core) :=
  (((s.sameClock_countCycle core).trans (State.sameClock_tickHeld _ _)).trans (State.sameClock_returns _ _)).trans
    (State.sameClock_nextTurn _ core)

/-- A context is granted a bundle, with the core's next choices, before the bundle is counted. -/
def State.granting (s : State) (core : Nat) (k : Core) (id now : Nat) : State :=
  { s.setCore core { k with granted := Table.set k.granted id (now + 1) } with grant := some id }

theorem State.granting_fields (s : State) (core : Nat) (k : Core) (id now : Nat) :
    (s.granting core k id now).grant = some id ∧ (s.granting core k id now).turn = s.turn ∧
    (s.granting core k id now).ready = s.ready ∧ (s.granting core k id now).held = s.held ∧
    (s.granting core k id now).time = s.time ∧ (s.granting core k id now).parts = s.parts := ⟨rfl, rfl, rfl, rfl, rfl, rfl⟩

/-- What a cycle grants: no context, where the core has none ready; or one that is ready. -/
theorem State.grant_cases (s : State) (k : Core) (rs : List Nat) :
    (rs = [] ∧ s.chooseTenant k rs = none) ∨
    ∃ t k' id, s.chooseTenant k rs = some (t, k') ∧ id ∈ rs ∧ s.tenantOf id = t ∧
      leastRecent k'.granted (rs.filter fun i => decide (s.tenantOf i = t)) = some id := by
  cases hrs : rs with
  | nil =>
    cases hc : s.chooseTenant k [] with
    | none => exact .inl ⟨rfl, rfl⟩
    | some p =>
      obtain ⟨⟨id, hid, -⟩, -⟩ := State.chooseTenant_spec hc
      cases hid
  | cons r rest =>
    obtain ⟨⟨t, k'⟩, hc⟩ := Option.isSome_iff_exists.1 (s.chooseTenant_isSome k (List.cons_ne_nil r rest))
    obtain ⟨⟨i, hi, hit⟩, -⟩ := State.chooseTenant_spec hc
    have hne : ((r :: rest).filter fun i => decide (s.tenantOf i = t)) ≠ [] :=
      List.ne_nil_of_mem (List.mem_filter.2 ⟨hi, decide_eq_true hit⟩)
    obtain ⟨id, hid⟩ := Option.isSome_iff_exists.1 (leastRecent_isSome k'.granted hne)
    obtain ⟨hmem, ht⟩ := List.mem_filter.1 (leastRecent_mem hid)
    exact .inr ⟨t, k', id, hc, hmem, of_decide_eq_true ht, hid⟩

theorem State.countIssue_tused {s : State} {f : Nat} (h : (s.part f).level = 1 → (s.part f).parent ≠ f) :
    ((s.countIssue f).part f).tused = (s.part f).tused + 1 := by
  by_cases hl : (s.part f).level = 1
  · rw [(State.countIssue_child hl (h hl)).1]
  · rw [State.countIssue_tenant hl]

theorem exec_arbiterCycle_ticking {s : State} {core : Nat} (hcore : core < s.coreCount) (hgrant : s.grant = none)
    (hticks : (s.cluster (clusterOf core)).ticks = true) :
    ∃ u, exec (.arbiterCycle core) s = .next u ∧ u.turn = core + 1 ∧ u.ready = [] ∧ u.held = [] ∧ u.time = s.time ∧
      (∀ id, u.grant = some id → id ∈ s.ready ∧ id / 4 = core ∧
        (((s.part (s.tenantOf id)).level = 1 → (s.part (s.tenantOf id)).parent ≠ s.tenantOf id) →
          (u.part (s.tenantOf id)).tused = (s.part (s.tenantOf id)).tused + 1)) ∧
      ((∃ id ∈ s.ready, id / 4 = core) → u.grant.isSome = true) := by
  obtain ⟨hg, htime, hparts⟩ := s.sameClock_beforeGrant core
  have hexec : exec (.arbiterCycle core) s =
      match s.chooseTenant ((s.beforeGrant core).core core) (ofCore core s.ready) with
      | none => .next (s.beforeGrant core)
      | some (t, k) =>
        match leastRecent k.granted ((ofCore core s.ready).filter fun i => decide (s.tenantOf i = t)) with
        | none => .next (s.beforeGrant core)
        | some id => .next (((s.beforeGrant core).granting core k id s.time).countIssue t) := by
    change execArbiterCycle core s = _
    unfold execArbiterCycle
    rw [if_neg (Nat.not_le.2 hcore)]
    extract_lets mine s0 s1 s2 s3
    rw [if_neg (by rw [hticks]; exact Bool.noConfusion)]
    rfl
  rcases s.grant_cases ((s.beforeGrant core).core core) (ofCore core s.ready) with ⟨hnil, hnone⟩ | ⟨t, k, id, hc, hmem, rfl, hid⟩
  · rw [hexec, hnone]
    refine ⟨s.beforeGrant core, rfl, rfl, rfl, rfl, htime, fun id h => ?_, fun ⟨id, hid, hcid⟩ => ?_⟩
    · cases (hg.trans hgrant).symm.trans h
    · have hmem := mem_ofCore.2 ⟨hid, hcid⟩
      rw [hnil] at hmem
      cases hmem
  · obtain ⟨hready, hcoreid⟩ := mem_ofCore.1 hmem
    simp only [hc, hid] at hexec
    obtain ⟨hg', hturn', hr', hh', htime', hparts'⟩ := (s.beforeGrant core).granting_fields core k id s.time
    have hpart : ∀ f, ((s.beforeGrant core).granting core k id s.time).part f = s.part f := fun f => congrArg (Table.get _ · f) (hparts'.trans hparts)
    obtain ⟨hg'', hturn'', hr'', hh'', htime''⟩ := State.sameGrant_countIssue ((s.beforeGrant core).granting core k id s.time) (s.tenantOf id)
    refine ⟨_, hexec, hturn''.trans hturn', hr''.trans hr', hh''.trans hh', (htime''.trans htime').trans htime, fun i hi => ?_,
      fun _ => by rw [hg'', hg', Option.isSome_some]⟩
    obtain rfl : id = i := Option.some.inj ((hg''.trans hg').symm.trans hi)
    refine ⟨hready, hcoreid, fun hlevel => ?_⟩
    rw [State.countIssue_tused (by rw [hpart]; exact hlevel), hpart]

theorem exec_arbiterCycle_still {s : State} {core : Nat} (hcore : core < s.coreCount)
    (hticks : (s.cluster (clusterOf core)).ticks = false) :
    exec (.arbiterCycle core) s = .next { s.countCycle core with turn := core + 1, ready := [], held := [] } := by
  change execArbiterCycle core s = _
  unfold execArbiterCycle
  rw [if_neg (Nat.not_le.2 hcore)]
  exact if_pos hticks

/-- Settles O56, by what the choices of a tenant and of a context can give, and by what the boundaries of contexts leave. -/
theorem arbiterGrants : Obligations.ArbiterGrants := by
  unfold Obligations.ArbiterGrants
  exact ⟨fun s core hcore hgrant => ⟨exec_arbiterCycle_still hcore, exec_arbiterCycle_ticking hcore hgrant⟩,
    fun s k k' ready t h => State.chooseTenant_spec h,
    fun s f => ⟨State.countIssue_tenant, State.countIssue_child⟩⟩

end Sys2Proof.Machine
end

section
/-!
PROOFS. A step that issues a bundle of one instruction (R120, R156, R157).
-/

namespace Sys2Proof.Machine

theorem Table.set_get_of_ne {α : Type} {d : α} {t : Table α} {k : Nat} (h : Table.get d t k ≠ d) : Table.set t k (Table.get d t k) = t := by
  induction t with
  | nil => exact absurd rfl h
  | cons p t ih =>
    obtain ⟨j, x⟩ := p
    simp only [Table.get] at h
    rw [Table.set, Table.get]
    split at h
    · exact absurd rfl h
    · split at h
      next hlt heq => simp only [heq, lt_irrefl, if_true, if_false]
      next hlt hne => rw [if_neg hlt, if_neg hne, if_neg hlt, if_neg hne, ih h]

/-- A context with a task is one that the state holds: writing it as it is changes nothing. -/
theorem State.setCtx_ctx {s : State} {id : Nat} {t : Machine.Task} (h : (s.ctx id).task = some t) : s.setCtx id (s.ctx id) = s := by
  have hne : Table.get {} s.ctxs id ≠ ({} : Ctx) := fun h' => by
    rw [State.ctx, h'] at h
    cases h
  rw [State.setCtx, State.ctx, Table.set_get_of_ne hne]

theorem Ctx.setWaits_fields (c : Ctx) (ws : List Wait) : ∃ w more, c.setWaits ws = { c with wait := w, more := more } := by
  unfold Ctx.setWaits
  split <;> exact ⟨_, _, rfl⟩

theorem Ctx.land_setWaits (c : Ctx) (ws : List Wait) : (c.setWaits ws).land.pend = c.land.pend := by
  obtain ⟨w, more, h⟩ := c.setWaits_fields ws
  rw [h]
  rfl

/-- The outcome of a bundle of one slot whose instruction has an outcome: the commit of its effect, or the outcome as it is. -/
theorem State.issue_go_single {s u : State} {id bit len : Nat} {t : Machine.Task} {i : Instr} (htask : (s.ctx id).task = some t)
    (hwait : (s.ctx id).wait = none) (hexec : exec i (s.at id bit len i) = .next u) :
    State.issue.go s id ⟨[(bit, i)], len⟩ =
      if u.cur.verdict = .effect then .next (s.finish id len (u.setCtx id ((u.ctx id).setWaits (u.ctx id).wait.toList))) else .next u := by
  have hsame : s.setCtx id { s.ctx id with wait := none } = s := by
    have hw : { s.ctx id with wait := none } = s.ctx id := by rw [← hwait]
    rw [hw, State.setCtx_ctx htask]
  have horder : slotOrder [(bit, i)] = [(bit, i)] := by
    by_cases hi : i = .tail <;> simp [slotOrder, hi]
  have hrun : State.runSlots id len s [] [(bit, i)] =
      match u.cur.verdict with
      | .effect => .next (u.setCtx id ((u.ctx id).setWaits (u.ctx id).wait.toList))
      | .ended => .next u
      | .held => if fenceHold (u.ctx id).wait then .next (s.setCtx id ((s.ctx id).setWaits [])) else .next u
      | .trapped => .next u := by
    have hexec' : exec i ((s.setCtx id { s.ctx id with wait := none }).at id bit len i) = .next u := by rw [hsame, hexec]
    unfold State.runSlots
    simp only [hexec', List.nil_append, State.runSlots] <;> rfl
  unfold State.issue.go
  cases hv : u.cur.verdict <;> simp only [List.map_cons, List.map_nil, hexec, verdict, hv, horder, hrun, List.find?_cons, List.find?_nil,
    Option.some.injEq, reduceCtorEq, decide_true, decide_false, if_true, if_false, State.setCtx_cur]

/-- Settles O40, through the outcome of a bundle of one slot. -/
theorem stepRunsTheInstruction : Obligations.StepRunsTheInstruction := by
  unfold Obligations.StepRunsTheInstruction
  intro s s0 u id bit len t i hgrant hs0 htask hlate hwait hafter hfetch hlock hexec
  have hctx : s0.ctx id = s.ctx id := by rw [hs0]; rfl
  have hattempt : s0.attempt id = State.issue.go s0 id ⟨[(bit, i)], len⟩ := by
    have hnone : (if (s.ctx id).delay.isNone then (s.ctx id).after else none) = none := by
      rcases hafter with h | h
      · rw [h, ite_self]
      · rw [Option.isNone_eq_false_iff.2 h]; rfl
    simp only [State.attempt, hctx, htask, hnone, hlate, Option.filter_none, State.attempt.go, hfetch]
    simp only [State.issue, hctx, List.map_cons, List.map_nil, hlock, Bool.false_eq_true, if_false, hlate]
  have hstep : step s = match s0.attempt id with | .next v => .next { v with cur := {} } | r => r := by
    rw [step, hgrant, hs0]
    rfl
  rw [hstep, hattempt, State.issue_go_single (by rw [hctx]; exact htask) (by rw [hctx]; exact hwait) hexec]
  refine ⟨fun heff hpend => ?_, fun hne => by rw [if_neg hne]⟩
  rw [if_pos heff, State.finish]
  simp only [State.ctx_setCtx, if_true, Ctx.land_setWaits, if_neg (Nat.not_lt.2 hpend), State.setCtx_setCtx, hctx]

end Sys2Proof.Machine
end

section
/-!
PROOFS. What the operations on bytes, on frames of memory and on translations leave as it is.
-/

namespace Sys2Proof.Machine

/-! ### Bytes -/

/-- Only what memory holds, and the writes on their way to it, differ. -/
def State.OnlyBytes (s t : State) : Prop := ∃ m ls ws, t = { s with mem := m, lines := ls, writes := ws }

theorem State.OnlyBytes.refl (s : State) : s.OnlyBytes s := ⟨s.mem, s.lines, s.writes, rfl⟩

theorem State.OnlyBytes.trans {s t u : State} : s.OnlyBytes t → t.OnlyBytes u → s.OnlyBytes u := by
  rintro ⟨m, ls, ws, rfl⟩ ⟨m', ls', ws', rfl⟩
  exact ⟨m', ls', ws', rfl⟩

theorem State.OnlyBytes.foldl {β : Type} {f : State → β → State} (h : ∀ (s : State) x, s.OnlyBytes (f s x)) (xs : List β) (s : State) :
    s.OnlyBytes (xs.foldl f s) := by
  induction xs generalizing s with
  | nil => exact .refl s
  | cons x xs ih => exact (h s x).trans (ih _)

theorem State.onlyBytes_rawLine (s : State) (slot tweak line : Nat) : s.OnlyBytes (s.rawLine slot tweak line) := by
  unfold State.rawLine
  split <;> exact ⟨_, _, s.writes, rfl⟩

theorem State.onlyBytes_rekeyLine (s : State) (k line : Nat) : s.OnlyBytes (s.rekeyLine k line) := by
  unfold State.rekeyLine
  split
  · split
    · exact .refl s
    · exact ⟨_, _, s.writes, rfl⟩
  · exact ⟨_, _, s.writes, rfl⟩
  · exact ⟨_, _, s.writes, rfl⟩

theorem State.onlyBytes_poke (s : State) (slot : Nat) (c : Host.Cell) : s.OnlyBytes (s.poke slot c) := by
  have hline : s.OnlyBytes
      (if 256 ≤ slot then s.rawLine (slot % 256) ((slot - 256) / 256) (c.1 / 128)
       else if ciphered c.1 then s.rekeyLine (s.keyFor slot (c.1 / 128)) (c.1 / 128)
       else match Table.find s.lines (c.1 / 128) with
        | none => s
        | some _ => { s with lines := Table.del s.lines (c.1 / 128) }) := by
    split
    · exact s.onlyBytes_rawLine _ _ _
    · split
      · exact s.onlyBytes_rekeyLine _ _
      · split
        · exact .refl s
        · exact ⟨s.mem, _, s.writes, rfl⟩
  refine hline.trans ?_
  exact ⟨_, _, _, rfl⟩

theorem State.onlyBytes_pokeCells (slot : Nat) (cs : List Host.Cell) (s : State) : s.OnlyBytes (s.pokeCells slot cs) := by
  induction cs generalizing s with
  | nil => exact .refl s
  | cons c cs ih => exact (s.onlyBytes_poke slot c).trans (ih _)

theorem State.onlyBytes_memWrite (s : State) (slot : Nat) (cells : List Host.Cell) : s.OnlyBytes (s.memWrite slot cells) := by
  have htrim : s.OnlyBytes
      { s with writes := (s.writes.map (·.trim (cells.map (·.1)))).filter fun w => !w.cells.isEmpty || decide (w.level < 3) } :=
    ⟨s.mem, s.lines, _, rfl⟩
  exact htrim.trans (State.onlyBytes_pokeCells _ _ _)

theorem State.onlyBytes_moveTo (s : State) (level : Nat) (w : Write) : s.OnlyBytes (s.moveTo level w) := by
  have hmem : s.OnlyBytes (if level = 3 then s.memWrite w.key w.cells else s) := by
    split
    · exact s.onlyBytes_memWrite _ _
    · exact .refl s
  refine hmem.trans ?_
  exact ⟨_, _, _, rfl⟩

theorem State.onlyBytes_sweepWrites (s : State) : s.OnlyBytes s.sweepWrites := ⟨s.mem, s.lines, _, rfl⟩

theorem State.onlyBytes_forceOut (s : State) (level : Nat) (as : List Nat) : s.OnlyBytes (s.forceOut level as) :=
  (State.OnlyBytes.foldl (fun t w => t.onlyBytes_moveTo level w) (mustMove level (placed s.writes) as).reverse s).trans
    (State.onlyBytes_sweepWrites _)

theorem State.onlyBytes_settle (s : State) (lo n : Nat) : s.OnlyBytes (s.settle lo n) := s.onlyBytes_forceOut _ _

theorem State.onlyBytes_settleTiles (s : State) (core : Nat) (ns : List Nat) : s.OnlyBytes (s.settleTiles core ns) :=
  .foldl (fun u _ => u.onlyBytes_settle _ _) ns s

theorem State.onlyBytes_wipe (s : State) (lo n : Nat) : s.OnlyBytes (s.wipe lo n) := by
  have hzero : ∀ t : State, t.OnlyBytes ((t.zeroRange lo n).zeroTags lo n) := fun t => ⟨_, _, t.writes, rfl⟩
  exact (s.onlyBytes_settle lo n).trans (hzero _)

/-! ### Frames of memory -/

/-- Only what memory holds, the writes on their way to it and the frames handed out differ. -/
def State.OnlyFrames (s t : State) : Prop := ∃ m ls ws fs ps, t = { s with mem := m, lines := ls, writes := ws, frames := fs, pool := ps }

theorem State.OnlyFrames.refl (s : State) : s.OnlyFrames s := ⟨s.mem, s.lines, s.writes, s.frames, s.pool, rfl⟩

theorem State.OnlyFrames.trans {s t u : State} : s.OnlyFrames t → t.OnlyFrames u → s.OnlyFrames u := by
  rintro ⟨m, ls, ws, fs, ps, rfl⟩ ⟨m', ls', ws', fs', ps', rfl⟩
  exact ⟨m', ls', ws', fs', ps', rfl⟩

theorem State.OnlyFrames.foldl {β : Type} {f : State → β → State} (h : ∀ (s : State) x, s.OnlyFrames (f s x)) (xs : List β) (s : State) :
    s.OnlyFrames (xs.foldl f s) := by
  induction xs generalizing s with
  | nil => exact .refl s
  | cons x xs ih => exact (h s x).trans (ih _)

theorem State.OnlyBytes.onlyFrames {s t : State} : s.OnlyBytes t → s.OnlyFrames t := by
  rintro ⟨m, ls, ws, rfl⟩
  exact ⟨m, ls, ws, s.frames, s.pool, rfl⟩

theorem State.onlyFrames_frameBy {s : State} {zero : Bool} {f size : Nat} {take : Nat → State} (ht : ∀ a, s.OnlyFrames (take a))
    {p : Nat × State} (h : s.frameBy zero f size take = some p) : s.OnlyFrames p.2 := by
  unfold State.frameBy at h
  split at h
  · obtain rfl := Option.some.inj h
    exact ⟨s.mem, s.lines, s.writes, s.frames, _, rfl⟩
  · obtain ⟨a, -, rfl⟩ := Option.map_eq_some_iff.1 h
    refine (ht a).trans ?_
    exact ⟨_, _, _, _, _, rfl⟩

theorem State.onlyFrames_newFrame {s : State} {f size : Nat} {p : Nat × State} (h : s.newFrame f size = some p) : s.OnlyFrames p.2 :=
  State.onlyFrames_frameBy (fun a => (s.onlyBytes_wipe a size).onlyFrames) h

theorem State.onlyFrames_newFrames {f n : Nat} {s : State} {p : List Nat × State} (h : s.newFrames f n = some p) : s.OnlyFrames p.2 := by
  induction n generalizing s p with
  | zero => exact Option.some.inj h ▸ .refl s
  | succ n ih =>
    obtain ⟨q, hq, hrest⟩ := Option.bind_eq_some_iff.1 h
    obtain ⟨r, hr, rfl⟩ := Option.map_eq_some_iff.1 hrest
    have hr' := ih hr
    exact (State.onlyFrames_newFrame hq).trans hr'

theorem State.onlyFrames_giveBack (s : State) (lo n : Nat) : s.OnlyFrames (s.giveBack lo n) := by
  refine (s.onlyBytes_wipe lo n).onlyFrames.trans ?_
  exact ⟨_, _, _, _, _, rfl⟩

/-! ### Which frames are free -/

/-- What decides which frames are free is the same. -/
def State.SameFree (s t : State) : Prop :=
  t.pool = s.pool ∧ t.frames = s.frames ∧ t.ptes = s.ptes ∧ t.roots = s.roots ∧ t.parts = s.parts ∧ t.lostPairs = s.lostPairs

theorem State.SameFree.taken {s t : State} (h : s.SameFree t) : t.taken = s.taken := by
  obtain ⟨-, hframes, hptes, hroots, hparts, -⟩ := h
  simp only [State.taken, State.leaves, hframes, hptes, hroots, hparts]

theorem State.SameFree.barred {s t : State} (h : s.SameFree t) (f : Nat) : t.barred f = s.barred f := by
  obtain ⟨-, -, -, -, hparts, hlost⟩ := h
  simp only [State.barred, State.part, hparts, hlost]

theorem State.SameFree.frameFrom {s t : State} (h : s.SameFree t) (f size step n a : Nat) :
    t.frameFrom false f size step n a = s.frameFrom false f size step n a := by
  induction n generalizing a with
  | zero => rfl
  | succ n ih => simp only [State.frameFrom, State.frameOk, State.frameFits, h.taken, h.barred, Bool.not_false, Bool.true_or, ih]

theorem State.SameFree.freeFrame {s t : State} (h : s.SameFree t) (f size : Nat) : t.freeFrame false f size = s.freeFrame false f size := by
  simp only [State.freeFrame, h.barred, h.frameFrom]

theorem State.OnlyBytes.sameFree {s t s' t' : State} (hs : s.OnlyBytes s') (ht : t.OnlyBytes t') (h : s.SameFree t) : s'.SameFree t' := by
  obtain ⟨_, _, _, rfl⟩ := hs
  obtain ⟨_, _, _, rfl⟩ := ht
  exact h

/-- A frame is found in both or in neither, and then the same is free in both afterwards. -/
theorem State.SameFree.newFrame {s t : State} (h : s.SameFree t) (f size : Nat) :
    (s.newFrame f size = none ∧ t.newFrame f size = none) ∨
    ∃ p q, s.newFrame f size = some p ∧ t.newFrame f size = some q ∧ p.2.SameFree q.2 := by
  have hpool := h.1
  unfold State.newFrame State.frameBy
  rw [h.freeFrame, hpool]
  split
  next p _ =>
    refine .inr ⟨_, _, rfl, rfl, ?_⟩
    exact ⟨rfl, h.2⟩
  · cases s.freeFrame false f size with
    | none => exact .inl ⟨rfl, rfl⟩
    | some a =>
      refine .inr ⟨_, _, rfl, rfl, ?_⟩
      obtain ⟨h1, h2, h3⟩ := State.OnlyBytes.sameFree (s.onlyBytes_wipe a size) (t.onlyBytes_wipe a size) h
      exact ⟨h1, by simp only [h.2.1], h3⟩

theorem State.SameFree.newFrames_isSome {s t : State} (h : s.SameFree t) (f n : Nat) :
    (t.newFrames f n).isSome = (s.newFrames f n).isSome := by
  induction n generalizing s t with
  | zero => rfl
  | succ n ih =>
    rcases h.newFrame f 4096 with ⟨hs, ht⟩ | ⟨p, q, hs, ht, hpq⟩
    · simp only [State.newFrames, hs, ht, Option.bind_none]
    · simp only [State.newFrames, hs, ht, Option.bind_some, Option.isSome_map, ih hpq]

/-! ### Translations -/

/-- Only the page tables, the cores and the clusters differ. -/
def State.OnlyTables (s t : State) : Prop := ∃ ps ks cs, t = { s with ptes := ps, cores := ks, clusters := cs }

theorem State.OnlyTables.refl (s : State) : s.OnlyTables s := ⟨s.ptes, s.cores, s.clusters, rfl⟩

theorem State.OnlyTables.trans {s t u : State} : s.OnlyTables t → t.OnlyTables u → s.OnlyTables u := by
  rintro ⟨ps, ks, cs, rfl⟩ ⟨ps', ks', cs', rfl⟩
  exact ⟨ps', ks', cs', rfl⟩

theorem State.OnlyTables.foldl {β : Type} {f : State → β → State} (h : ∀ (s : State) x, s.OnlyTables (f s x)) (xs : List β) (s : State) :
    s.OnlyTables (xs.foldl f s) := by
  induction xs generalizing s with
  | nil => exact .refl s
  | cons x xs ih => exact (h s x).trans (ih _)

theorem State.onlyTables_setPte (s : State) (k : Nat) (w : Word) : s.OnlyTables (s.setPte k w) := ⟨_, s.cores, s.clusters, rfl⟩

theorem State.onlyTables_setCore (s : State) (n : Nat) (k : Core) : s.OnlyTables (s.setCore n k) := ⟨s.ptes, _, s.clusters, rfl⟩

theorem State.onlyTables_setCluster (s : State) (n : Nat) (k : Cluster) : s.OnlyTables (s.setCluster n k) := ⟨s.ptes, s.cores, _, rfl⟩

theorem State.onlyTables_firstLevel (s : State) (core : Nat) (e : Nat × Nat × Nat × Nat) : s.OnlyTables (s.firstLevel core e) := by
  unfold State.firstLevel
  dsimp only
  split
  · exact .refl s
  · exact s.onlyTables_setCore _ _

theorem State.onlyTables_ite {s t u : State} {p : Prop} [Decidable p] (ht : s.OnlyTables t) (hu : s.OnlyTables u) :
    s.OnlyTables (if p then t else u) := by
  split
  · exact ht
  · exact hu

theorem State.onlyTables_touch (s : State) (core func space va : Nat) (l : Leaf) (write : Bool) :
    s.OnlyTables (s.touch core func space va l write) := by
  unfold State.touch
  extract_lets ent cl locked clean fill s0 k s1 tlb s2
  have h1 : s.OnlyTables s1 := (s.onlyTables_firstLevel core ent).trans (State.onlyTables_setCore _ _ _)
  have h2 : s.OnlyTables s2 := State.onlyTables_ite (h1.trans (State.onlyTables_setCluster _ _ _)) h1
  have hpte : ∀ w, s.OnlyTables (s2.setPte l.key w) := fun w => h2.trans (State.onlyTables_setPte _ _ _)
  exact State.onlyTables_ite (State.onlyTables_ite (hpte _) (State.onlyTables_ite (hpte _) h2)) (State.onlyTables_ite (hpte _) h2)

theorem State.onlyTables_prepare_read (s : State) (t : Machine.Task) (ctx space va : Nat) : s.OnlyTables (s.prepare t ctx space va false) := by
  unfold State.prepare
  split
  · split
    · exact .refl s
    · exact State.onlyTables_ite (.refl s) (s.onlyTables_touch _ _ _ _ _ _)
  · exact .refl s

theorem State.onlyTables_prepareReads (t : Machine.Task) (ctx space : Nat) (cs : List (Nat × Nat)) (s : State) :
    s.OnlyTables (State.prepareReads t ctx space s cs) :=
  State.OnlyTables.foldl (f := fun u (c : Nat × Nat) => u.prepare t ctx space c.1 false)
    (fun u c => u.onlyTables_prepare_read t ctx space c.1) cs s

end Sys2Proof.Machine
end

section
/-!
PROOFS. Requests, pre-emption, switch-in and the debugger (R107, R108, R413 to R417, R429 to R432).
-/

namespace Sys2Proof.Machine

/-! ### Key releases -/

theorem Table.get_map {α : Type} (d : α) (f : α → α) (hd : f d = d) (t : Table α) (n : Nat) :
    Table.get d (t.map fun p => (p.1, f p.2)) n = f (Table.get d t n) := by
  induction t with
  | nil => exact hd.symm
  | cons p t ih =>
    obtain ⟨j, x⟩ := p
    simp only [List.map_cons, Table.get]
    split
    · exact hd.symm
    · split
      · rfl
      · exact ih

theorem State.not_mem_release_unrelease (s : State) (id n : Nat) : id ∉ (Table.get {} (s.unrelease id).keys n : KeySlot).release := by
  have hget := Table.get_map ({} : KeySlot) (fun k => { k with release := k.release.filter fun x => decide (x ≠ id) }) rfl s.keys n
  unfold State.unrelease
  rw [hget]
  simp

/-! ### Requests and posts -/

theorem exec_intpost {s : State} {w : BitVec 64} {id : Nat} {t : Machine.Task} (hw : w.toNat < 2 ^ 25) (hid : w.toNat / 2 ^ 16 = id)
    (ht : (s.ctx id).task = some t) (f : Nat) :
    exec (.intpost f w) s = if t.func = f ∧ (s.part f).state = 1 then
        .next (s.setCtx id { s.ctx id with ipend := (s.ctx id).ipend ||| w.setWidth 16 })
      else .next (s.setPart f { s.part f with dropped := (s.part f).dropped + 1 }) := by
  change execIntpost f w s = _
  simp only [execIntpost, if_neg (Nat.not_le.2 hw), hid, ht]

theorem exec_debugRead_plane (s : State) (id off : Nat) : ∃ u, exec (.debugRead id true off) s = .next u ∧ u.hostOut = [0] := by
  change ∃ u, execDebugRead id true off s = .next u ∧ u.hostOut = [0]
  simp only [execDebugRead, Bool.true_or, if_true]
  split <;> exact ⟨_, rfl, rfl⟩

theorem exec_debugRead_byte (s : State) (id off : Nat) :
    exec (.debugRead id false off) s = .next (if s.sealedLine ((flatW (id / 4) + off % 0x200000) / 128)
      then (match s.clusterOwner (id / 4 / 8) with
        | some f => State.event { s with hostOut := [0] } f 0x1A id
        | none => { s with hostOut := [0] })
      else { s with hostOut := [s.see chipViewer 0 (flatW (id / 4) + off % 0x200000)] }) := by
  change execDebugRead id false off s = _
  simp only [execDebugRead, Bool.false_or, coreOf, clusterOf]
  split
  · cases s.clusterOwner (id / 4 / 8) <;> rfl
  · rfl

/-! ### Pre-emption -/

/-- The context of a task that is switched out (R413). -/
def State.switchedOut (s : State) (id : Nat) : Ctx :=
  let c := s.ctx id
  let k := s.core (coreOf id)
  { c.landRest with
    saved := some { c.frameFor c.pc 0x48 0 0 with
      wait := switchWait c.waits, more := (c.waits.filter fun w => decide (w = .asc) || w.kept).drop 1 }
    late := none, stack := [], wait := none, more := [], fb := none, after := none, delay := none, preempt := .out, prq := none, drains := []
    owned := if decide (k.owner = some id) then some ⟨k.wa, k.wb, k.sl, k.s1, k.cfgd⟩ else c.owned
    tiles := c.touched.map fun n => (n, (s.settleTiles (coreOf id) c.touched).tileBytes (coreOf id) n, k.header n)
    locks := c.locks.map fun (l : Lock) => { l with pages := [] } }

/-- The state in which the save area is allocated (R413, R415). -/
def State.stopping (s : State) (id tid : Nat) : State :=
  let s0 := s.settleTiles (coreOf id) (s.ctx id).touched
  { s0 with atoms := s0.atoms.map fun (a : Atom) => a.stop tid, outs := s0.outs.map fun (o : Out) => o.unhold tid }

/-- The core that a task leaves (R302, R328). -/
def Core.left (k : Core) (id tid : Nat) : Core :=
  let k1 := if decide (k.owner = some id) then { k.zeroArray with owner := none, queue := k.queue.filter fun e => decide (e.tid ≠ tid) } else k
  { k1 with waiters := k1.waiters.filter fun w => decide (w ≠ id) }

theorem Core.left_owner_ne (k : Core) (id tid : Nat) : (k.left id tid).owner ≠ some id := by
  unfold Core.left
  by_cases h : k.owner = some id <;> simp [h]

theorem State.switchedOut_fields (s : State) (id : Nat) : ∃ f, (s.switchedOut id).saved = some f ∧ (s.switchedOut id).preempt = .out ∧
    (s.switchedOut id).prq = none ∧ f.pc = (s.ctx id).pc ∧ f.cause = 0x48 ∧ f.stack = (s.ctx id).landRest.stack ∧ f.pf = (s.ctx id).late ∧
    (s.switchedOut id).g = (s.ctx id).landRest.g ∧ (s.switchedOut id).frame = (s.ctx id).frame ∧
    ∀ l ∈ (s.switchedOut id).locks, l.pages = [] := by
  obtain ⟨_, _, _, _, _, _, _, h⟩ := Ctx.applyAll_frame ((s.ctx id).pend.filter fun r => !r.val.exposed) (s.ctx id)
  have hframe : (s.ctx id).landRest.frame = (s.ctx id).frame := by rw [Ctx.landRest, h]
  refine ⟨_, rfl, rfl, rfl, rfl, rfl, rfl, rfl, rfl, hframe, fun l hl => ?_⟩
  obtain ⟨k, -, rfl⟩ := List.mem_map.1 hl
  rfl

theorem State.sameFree_stopping (s : State) (id tid : Nat) :
    (s.settleTiles (coreOf id) (s.ctx id).touched).SameFree (s.stopping id tid) := ⟨rfl, rfl, rfl, rfl, rfl, rfl⟩

section
variable {s : State} {id : Nat} {t : Machine.Task}

theorem exec_preempt (ht : (s.ctx id).task = some t) (hp : s.preempting id = true)
    (hb : (s.ctx id).preemptible = true) (hl : (s.ctx id).locking = false) (hq : s.quiet id t.tid = true) :
    exec (.preempt id) s =
      match (s.stopping id t.tid).saveArea id t (s.switchedOut id) with
      | none => .next s
      | some u => .next (State.unrelease (u.setCore (coreOf id) ((s.core (coreOf id)).left id t.tid)) id) := by
  change execPreempt id s = _
  unfold execPreempt
  simp only [ht]
  rw [if_neg (by simp [hp, hb, hl, hq])]
  rfl

theorem State.saveArea_none (c : Ctx) (h : (s.newFrames t.func (areaFrames c.tiles.length)).isSome = false) :
    s.saveArea id t c = none := by
  rw [State.saveArea, Option.isNone_iff_eq_none.1 (Option.isSome_eq_false_iff.1 h), Option.map_none]

theorem State.saveArea_some {c : Ctx} (h : (s.newFrames t.func (areaFrames c.tiles.length)).isSome = true) :
    ∃ (u : State) (area : List Nat), s.saveArea id t c = some (u.setCtx id { c with area := area }) := by
  obtain ⟨p, hp⟩ := Option.isSome_iff_exists.1 h
  rw [State.saveArea, hp]
  exact ⟨_, _, rfl⟩

theorem exec_preempt_waits (ht : (s.ctx id).task = some t) (hp : s.preempting id = true)
    (hb : (s.ctx id).preemptible = true) (hl : (s.ctx id).locking = false) (hq : s.quiet id t.tid = true)
    (h : ((s.settleTiles (coreOf id) (s.ctx id).touched).newFrames t.func (areaFrames (s.ctx id).touched.length)).isSome = false) :
    exec (.preempt id) s = .next s := by
  have hlen : (s.switchedOut id).tiles.length = (s.ctx id).touched.length := List.length_map _
  rw [exec_preempt ht hp hb hl hq, State.saveArea_none]
  rw [hlen, (s.sameFree_stopping id t.tid).newFrames_isSome, h]

theorem exec_preempt_out (ht : (s.ctx id).task = some t) (hp : s.preempting id = true)
    (hb : (s.ctx id).preemptible = true) (hl : (s.ctx id).locking = false) (hq : s.quiet id t.tid = true)
    (h : ((s.settleTiles (coreOf id) (s.ctx id).touched).newFrames t.func (areaFrames (s.ctx id).touched.length)).isSome = true) :
    ∃ u f, exec (.preempt id) s = .next u ∧ (u.ctx id).preempt = .out ∧ (u.ctx id).prq = none ∧ (u.ctx id).saved = some f ∧
      f.pc = (s.ctx id).pc ∧ f.cause = 0x48 ∧ f.stack = (s.ctx id).landRest.stack ∧ f.pf = (s.ctx id).late ∧
      (u.ctx id).g = (s.ctx id).landRest.g ∧ (u.ctx id).frame = (s.ctx id).frame ∧ (∀ l ∈ (u.ctx id).locks, l.pages = []) ∧
      (∀ n, id ∉ (Table.get {} u.keys n : KeySlot).release) ∧ (u.core (id / 4)).owner ≠ some id := by
  have hlen : (s.switchedOut id).tiles.length = (s.ctx id).touched.length := List.length_map _
  obtain ⟨v, area, hv⟩ := State.saveArea_some (s := s.stopping id t.tid) (id := id) (t := t) (c := s.switchedOut id)
    (by rw [hlen, (s.sameFree_stopping id t.tid).newFrames_isSome, h])
  obtain ⟨f, hsaved, hout, hprq, hpc, hcause, hstack, hpf, hg, hframe, hlocks⟩ := s.switchedOut_fields id
  have hctx : ∀ k, (State.unrelease ((v.setCtx id { s.switchedOut id with area := area }).setCore (coreOf id) k) id).ctx id =
      { s.switchedOut id with area := area } := fun k => Table.get_set_same _ _ _ _
  have hcore : ∀ k, (State.unrelease ((v.setCtx id { s.switchedOut id with area := area }).setCore (coreOf id) k) id).core (id / 4) =
      k := fun k => Table.get_set_same _ _ _ _
  refine ⟨_, f, by rw [exec_preempt ht hp hb hl hq, hv], ?_⟩
  rw [hctx, hcore]
  exact ⟨hout, hprq, hsaved, hpc, hcause, hstack, hpf, hg, hframe, hlocks, State.not_mem_release_unrelease _ id, Core.left_owner_ne _ _ _⟩

end

/-! ### Switch-in -/

section
variable {s : State} {id : Nat}

/-- What a restored tile leaves: every context, and the owner, the queue and the waiters of every core. -/
def State.SameTurns (s t : State) : Prop := t.ctxs = s.ctxs ∧ ∀ n, (t.core n).owner = (s.core n).owner ∧ (t.core n).queue = (s.core n).queue ∧
  (t.core n).waiters = (s.core n).waiters

theorem State.SameTurns.trans {s t u : State} (h : s.SameTurns t) (h' : t.SameTurns u) : s.SameTurns u := by
  refine ⟨h'.1.trans h.1, fun n => ?_⟩
  obtain ⟨h1, h2, h3⟩ := h.2 n
  obtain ⟨h1', h2', h3'⟩ := h'.2 n
  exact ⟨h1'.trans h1, h2'.trans h2, h3'.trans h3⟩

theorem State.SameTurns.foldl {β : Type} {f : State → β → State} (h : ∀ (s : State) x, s.SameTurns (f s x)) (xs : List β) (s : State) :
    s.SameTurns (xs.foldl f s) := by
  induction xs generalizing s with
  | nil => exact ⟨rfl, fun n => ⟨rfl, rfl, rfl⟩⟩
  | cons x xs ih => exact (h s x).trans (ih _)

theorem State.OnlyFrames.sameTurns {s t : State} (h : s.OnlyFrames t) : s.SameTurns t := by
  obtain ⟨_, _, _, _, _, rfl⟩ := h
  exact ⟨rfl, fun n => ⟨rfl, rfl, rfl⟩⟩

theorem State.core_setCore (s : State) (n m : Nat) (k : Core) : (s.setCore n k).core m = if m = n then k else s.core m := Table.get_set _ _ _ _ _

theorem State.sameTurns_restoreTile (s : State) (core : Nat) (x : Nat × Memory × TileHdr) : s.SameTurns (s.restoreTile core x) := by
  refine (s.onlyBytes_settle (tileAt core x.1) 0x40000).onlyFrames.sameTurns.trans ⟨rfl, fun n => ?_⟩
  have hcore : (s.restoreTile core x).core n = ((s.settle (tileAt core x.1) 0x40000).setCore core
      { (s.settle (tileAt core x.1) 0x40000).core core with
        hdr := Table.set ((s.settle (tileAt core x.1) 0x40000).core core).hdr x.1 x.2.2
        mode := Table.set ((s.settle (tileAt core x.1) 0x40000).core core).mode x.1 ⟨x.2.2.wa, x.2.2.wb, x.2.2.sl⟩ }).core n := rfl
  rw [hcore, State.core_setCore]
  by_cases hn : n = core
  · rw [if_pos hn, hn]
    exact ⟨rfl, rfl, rfl⟩
  · rw [if_neg hn]
    exact ⟨rfl, rfl, rfl⟩

theorem State.ctx_freeArea (s : State) (id : Nat) : (s.freeArea id).ctx id = { s.ctx id with area := [] } := Table.get_set_same _ _ _ _

theorem State.cores_freeArea (s : State) (id : Nat) : (s.freeArea id).cores = s.cores := by
  obtain ⟨_, _, _, _, _, h⟩ := State.OnlyFrames.foldl (fun u (a : Nat) => u.onlyFrames_giveBack a 4096) (s.ctx id).area s
  have hcores : (s.freeArea id).cores = ((s.ctx id).area.foldl (fun u a => u.giveBack a 4096) s).cores := rfl
  rw [hcores, h]

/-- A context with its tiles put back and its save area given back. -/
def State.tilesBack (s : State) (id : Nat) : State :=
  let s1 := ((s.ctx id).tiles.foldl (fun u x => u.restoreTile (coreOf id) x) s).freeArea id
  s1.setCtx id { s1.ctx id with tiles := [] }

theorem State.ctx_tilesBack (s : State) (id : Nat) : (s.tilesBack id).ctx id = { s.ctx id with area := [], tiles := [] } := by
  have hturns := State.SameTurns.foldl (fun u x => u.sameTurns_restoreTile (coreOf id) x) (s.ctx id).tiles s
  have hctx : (((s.ctx id).tiles.foldl (fun u x => u.restoreTile (coreOf id) x) s)).ctx id = s.ctx id :=
    congrArg (fun cs => Table.get ({} : Ctx) cs id) hturns.1
  rw [State.tilesBack, State.ctx_setCtx, if_pos rfl, State.ctx_freeArea, hctx]

theorem State.arrayFree_tilesBack (s : State) (id n : Nat) : ((s.tilesBack id).core n).arrayFree = (s.core n).arrayFree := by
  have hturns := State.SameTurns.foldl (fun u x => u.sameTurns_restoreTile (coreOf id) x) (s.ctx id).tiles s
  have hcore : (s.tilesBack id).core n = ((s.ctx id).tiles.foldl (fun u x => u.restoreTile (coreOf id) x) s).core n :=
    congrArg (fun ks => Table.get ({} : Core) ks n) (State.cores_freeArea _ id)
  obtain ⟨howner, hqueue, hwaiters⟩ := hturns.2 n
  simp only [Core.arrayFree, hcore, howner, hqueue, hwaiters]

theorem State.ctx_relock (s : State) (id : Nat) : ∃ ls, (s.relock id).ctx id = { s.ctx id with locks := ls } := by
  unfold State.relock
  dsimp only
  split
  · exact ⟨_, rfl⟩
  · exact ⟨_, Table.get_set_same _ _ _ _⟩

theorem State.ctx_releaseKeys (s : State) (id j : Nat) : (s.releaseKeys id).ctx j = s.ctx j := by
  unfold State.releaseKeys
  split <;> rfl

theorem State.ctx_comeBack {f : Frame} (h : (s.ctx id).saved = some f) (hpf : f.pf = none) :
    ∃ ls, (s.comeBack id).ctx id = Ctx.resume { s.ctx id with locks := ls, saved := none, preempt := .none } f := by
  obtain ⟨ls, hls⟩ := s.ctx_relock id
  refine ⟨ls, ?_⟩
  simp only [State.comeBack, h, hpf]
  rw [State.ctx_setCtx, if_pos rfl, State.ctx_releaseKeys, hls]

theorem exec_switchIn {f : Frame} (hout : (s.ctx id).preempt = .out) (h : (s.ctx id).saved = some f) :
    exec (.switchIn id) s =
      if (s.ctx id).owned.isNone then .next ((s.tilesBack id).comeBack id)
      else if ((s.tilesBack id).core (coreOf id)).arrayFree then .next (((s.tilesBack id).acquire id).comeBack id)
      else .next (((s.tilesBack id).setCtx id { (s.tilesBack id).ctx id with preempt := .entering }).setCore (coreOf id)
        { (s.tilesBack id).core (coreOf id) with waiters := ((s.tilesBack id).core (coreOf id)).waiters ++ [id] }) := by
  change execSwitchIn id s = _
  unfold execSwitchIn
  dsimp only
  rw [if_neg (by simp [h, hout])]
  rfl

theorem exec_switchIn_waits {f : Frame} (hout : (s.ctx id).preempt = .out) (h : (s.ctx id).saved = some f)
    (howned : (s.ctx id).owned.isSome = true) (hfree : (s.core (id / 4)).arrayFree = false) :
    ∃ u, exec (.switchIn id) s = .next u ∧ (u.ctx id).preempt = .entering ∧ (u.ctx id).saved = some f ∧ id ∈ (u.core (id / 4)).waiters := by
  have hnone : (s.ctx id).owned.isNone = false := Option.isNone_eq_false_iff.2 howned
  have hfree : ((s.tilesBack id).core (coreOf id)).arrayFree = false := (s.arrayFree_tilesBack id _).trans hfree
  rw [exec_switchIn hout h, hnone, hfree]
  refine ⟨_, rfl, ?_⟩
  have hctx : ∀ (c : Ctx) (k : Core), (((s.tilesBack id).setCtx id c).setCore (coreOf id) k).ctx id = c := fun c k => Table.get_set_same _ _ _ _
  have hcore : ∀ (c : Ctx) (k : Core), (((s.tilesBack id).setCtx id c).setCore (coreOf id) k).core (id / 4) = k :=
    fun c k => Table.get_set_same _ _ _ _
  rw [hctx, hcore, State.ctx_tilesBack]
  exact ⟨rfl, h, List.mem_append_right _ (List.mem_singleton_self id)⟩

theorem exec_switchIn_back {f : Frame} (hout : (s.ctx id).preempt = .out) (h : (s.ctx id).saved = some f) (hpf : f.pf = none)
    (hcan : (s.ctx id).owned = none ∨ (s.core (id / 4)).arrayFree = true) :
    ∃ u, exec (.switchIn id) s = .next u ∧ (u.ctx id).preempt = .none ∧ (u.ctx id).saved = none ∧ (u.ctx id).pc = f.pc ∧
      (u.ctx id).stack = f.stack ∧
      (u.ctx id).wait = ((s.ctx id).wait.toList ++ (s.ctx id).more ++ f.wait.toList ++ f.more).head? ∧ (u.ctx id).g = (s.ctx id).g ∧
      (u.ctx id).frame = (s.ctx id).frame := by
  rw [exec_switchIn hout h]
  have hresume : ∀ c : Ctx, (Ctx.resume c f).preempt = c.preempt ∧ (Ctx.resume c f).saved = c.saved ∧ (Ctx.resume c f).pc = f.pc ∧
      (Ctx.resume c f).stack = f.stack ∧ (Ctx.resume c f).wait = (c.wait.toList ++ c.more ++ f.wait.toList ++ f.more).head? ∧
      (Ctx.resume c f).g = c.g ∧ (Ctx.resume c f).frame = c.frame := fun c =>
    ⟨rfl, rfl, rfl, rfl, by rw [List.append_assoc _ f.wait.toList]; rfl, rfl, rfl⟩
  have hback := s.ctx_tilesBack id
  cases howned : (s.ctx id).owned with
  | none =>
    obtain ⟨ls, hls⟩ := State.ctx_comeBack (s := s.tilesBack id) (id := id) (f := f) (by rw [hback, h]) hpf
    refine ⟨_, if_pos rfl, ?_⟩
    rw [hls, hback]
    exact hresume _
  | some g =>
    have hfree : (s.core (id / 4)).arrayFree = true := hcan.resolve_left (by rw [howned]; exact Option.some_ne_none g)
    have hfree : ((s.tilesBack id).core (coreOf id)).arrayFree = true := (s.arrayFree_tilesBack id _).trans hfree
    have hacq : ((s.tilesBack id).acquire id).ctx id = { s.ctx id with
        area := [], tiles := [], owned := none, mpc := (s.ctx id).mpc ||| BitVec.ofNat 64 0x4000 } := by
      have howned' : ((s.tilesBack id).ctx id).owned = some g := by rw [hback, howned]
      simp only [State.acquire, howned']
      rw [State.ctx_setCtx, if_pos rfl, hback]
    obtain ⟨ls, hls⟩ := State.ctx_comeBack (s := (s.tilesBack id).acquire id) (id := id) (f := f) (by rw [hacq, h]) hpf
    refine ⟨_, (if_neg Bool.false_ne_true).trans (if_pos hfree), ?_⟩
    rw [hls, hacq]
    exact hresume _

end

/-- Settles O46, clause by clause: what a pre-emption saves and gives up, and how a switch frame is resumed. -/
theorem preemptionSteps : Obligations.PreemptionSteps := by
  unfold Obligations.PreemptionSteps
  intro s id t
  refine ⟨fun e he => ?_, rfl, s.not_mem_release_unrelease id, rfl, rfl, exec_debugRead_byte s id, exec_debugRead_plane s id, fun ht =>
    ⟨fun hp => ?_, fun g hg hp hprq => ?_, fun q hq hle hp => ?_, fun w hw hid => ⟨fun hready => ?_, fun f hf => ?_⟩,
      fun hp hb hl hq => ⟨exec_preempt_waits ht hp hb hl hq, exec_preempt_out ht hp hb hl hq⟩,
      fun f hout hsaved hpf => ⟨exec_switchIn_waits hout hsaved, exec_switchIn_back hout hsaved hpf⟩⟩⟩
  · change execTrapEntry id s = _
    simp only [execTrapEntry, he]
  · change execPreemptRequest id s = _
    simp only [execPreemptRequest, ht, hp, Option.isSome_some, and_self, if_true]
  · change ∃ u, execGracefulPreemptRequest id g s = .next u ∧ _
    unfold execGracefulPreemptRequest
    dsimp only
    rw [if_neg (by simpa [ht, hp, hprq] using hg)]
    refine ⟨_, rfl, ?_⟩
    rw [State.ctx_setCtx, if_pos rfl]
    exact ⟨rfl, rfl⟩
  · change execGraceExpire id s = _
    simp only [execGraceExpire, hq, hle, hp, and_self, if_true]
  · rw [exec_intpost hw hid ht, if_pos ⟨rfl, hready⟩]
  · rw [exec_intpost hw hid ht, if_neg]
    rintro ⟨rfl, hready⟩
    exact hf.elim (fun h => h rfl) fun h => h hready

end Sys2Proof.Machine
end

section
/-!
PROOFS. Control transfers (R189 to R193), and the moves and mask instructions of the vector unit (R291 to R293).
-/

namespace Sys2Proof.Machine

/-! ### Control transfers -/

/-- A conditional branch on an unpoisoned register notes the outcome of its test. -/
theorem condBranch_of_clear {s : State} {g : Fin 64} (hg : s.gp g = false) (test : Word → Bool) (d : Imm 18) :
    condBranch test g d s = .next (s.branch (test (s.gv g)) (s.target d)) := by
  rw [condBranch, hg]
  exact if_neg Bool.false_ne_true

theorem exec_branch_of_clear {s : State} {g : Fin 64} {d : Imm 18} {i : Instr} {P : Prop} (hg : s.gp g = false)
    (test : Word → Bool) (hi : exec i s = condBranch test g d s) (hP : test (s.gv g) = true ↔ P) :
    ∃ b : Bool, (b = true ↔ P) ∧ exec i s = .next (s.branch b (s.target d)) := ⟨_, hP, hi.trans (condBranch_of_clear hg test d)⟩

theorem execJr_of_clear {s : State} {g : Fin 64} (hg : s.gp g = false) : execJr g s = .next (s.branch true (s.gv g)) := by
  rw [execJr, hg]
  exact if_neg Bool.false_ne_true

theorem execJlr_of_clear {s : State} {g : Fin 64} (hg : s.gp g = false) (d : Fin 64) : execJlr d g s = linkBranch d (s.gv g) s := by
  rw [execJlr, hg]
  exact if_neg Bool.false_ne_true

theorem State.delayCame_iff {s : State} :
    s.delayCame = true ↔ s.after.toNat / 64 = s.me.pc.toNat / 64 ∨ s.after.toNat / 64 ∈ s.me.lines := by
  rw [State.delayCame, Bool.or_eq_true, decide_eq_true_eq, List.contains_iff_mem]

/-- A transfer with a link whose delay bundle has a length: it goes on once the bytes of that bundle have come. -/
theorem linkBranch_of_len {s : State} {n : Nat} (h : s.bundleLen (s.task.elim 0 s.codeFunc) s.after.toNat = some n) (d : Fin 64) (x : Word) :
    linkBranch d x s = if s.delayCame then .next ((s.branch true x).putG 1 d (s.after + BitVec.ofNat 64 n) false) else .next s.holdFull := by
  simp only [linkBranch, h]

/-- Settles O7, by the shared forms of the conditional branches and of the transfers with a link. -/
theorem controlTransfers : Obligations.ControlTransfers := by
  unfold Obligations.ControlTransfers
  intro s d x hx
  have hx : x = s.target d := by
    rw [hx, State.target]
    cases d <;> rfl
  subst hx
  refine ⟨rfl, ?_, fun g hg => ⟨?_, execJr_of_clear hg⟩, fun l a n hn => ?_⟩
  · have htop : s.me.top = s.me.stack.headD (BitVec.allOnes 64) := by
      rw [Ctx.top]
      cases s.me.stack <;> rfl
    rw [← htop]
    rfl
  · have hzero : s.gv g = 0 ↔ (s.gv g).toInt = 0 := by rw [← BitVec.toInt_inj, BitVec.ofNat_eq_ofNat, BitVec.toInt_zero]
    simp only [List.forall_mem_cons, List.not_mem_nil, false_implies, implies_true, and_true]
    exact ⟨exec_branch_of_clear hg (fun x => decide (x = 0)) rfl (decide_eq_true_iff.trans hzero),
      exec_branch_of_clear hg (fun x => decide (x ≠ 0)) rfl (decide_eq_true_iff.trans hzero.not),
      exec_branch_of_clear hg (fun x => decide (x.toInt < 0)) rfl decide_eq_true_iff,
      exec_branch_of_clear hg (fun x => decide (0 ≤ x.toInt)) rfl decide_eq_true_iff,
      exec_branch_of_clear hg (fun x => decide (0 < x.toInt)) rfl decide_eq_true_iff,
      exec_branch_of_clear hg (fun x => decide (x.toInt ≤ 0)) rfl decide_eq_true_iff⟩
  · refine ⟨fun hcame => ?_, fun hline hlines => ?_⟩
    · have hcame : s.delayCame = true := State.delayCame_iff.2 hcame
      refine ⟨?_, fun ha => ?_⟩
      · change linkBranch l (s.target d) s = _
        rw [linkBranch_of_len hn, if_pos hcame]
        rfl
      · change execJlr l a s = _
        rw [execJlr_of_clear ha, linkBranch_of_len hn, if_pos hcame]
        rfl
    · have hcame : ¬ s.delayCame = true := fun h => (State.delayCame_iff.1 h).elim hline hlines
      refine ⟨?_, fun ha => ?_⟩
      · change linkBranch l (s.target d) s = _
        rw [linkBranch_of_len hn, if_neg hcame]
      · change execJlr l a s = _
        rw [execJlr_of_clear ha, linkBranch_of_len hn, if_neg hcame]

/-! ### Moves and masks -/

/-- Settles O31: the moves are their definitions; the mask-stack forms go by the depth of the stack. -/
theorem vectorMoves : Obligations.VectorMoves := by
  unfold Obligations.VectorMoves
  rintro s d a b n m t x y l w lw rfl rfl
  refine ⟨rfl, rfl, rfl, rfl, rfl, rfl, rfl, rfl, rfl, fun hroom => ?_, fun hfull => ?_, fun u us hstack => ⟨?_, ?_⟩, fun hempty => ⟨?_, ?_⟩⟩
  · change execMskpsh x s = _
    rw [execMskpsh, if_neg (Nat.not_le.2 hroom)]
  · change execMskpsh x s = _
    rw [execMskpsh, if_pos hfull]
  · change execMskpop s = _
    simp only [execMskpop, hstack]
  · change execMskinv s = _
    simp only [execMskinv, hstack]
    cases us <;> rfl
  · change execMskpop s = _
    simp only [execMskpop, hempty]
  · change execMskinv s = _
    simp only [execMskinv, hempty]

end Sys2Proof.Machine
end

section
/-!
PROOFS. What the translation of a store leaves as it is, and the loads and stores of the memory engine (R228 to R241).
-/

namespace Sys2Proof.Machine

/-! ### The translation of a store -/

/-- Only the page tables, the translations held, the frames handed out and the leases differ. -/
def State.OnlyPlaces (s t : State) : Prop :=
  ∃ ps ks cs fs pl la, t = { s with ptes := ps, cores := ks, clusters := cs, frames := fs, pool := pl, launches := la }

theorem State.OnlyPlaces.refl (s : State) : s.OnlyPlaces s := ⟨s.ptes, s.cores, s.clusters, s.frames, s.pool, s.launches, rfl⟩

theorem State.OnlyPlaces.trans {s t u : State} : s.OnlyPlaces t → t.OnlyPlaces u → s.OnlyPlaces u := by
  rintro ⟨ps, ks, cs, fs, pl, la, rfl⟩ ⟨ps', ks', cs', fs', pl', la', rfl⟩
  exact ⟨ps', ks', cs', fs', pl', la', rfl⟩

theorem State.OnlyTables.onlyPlaces {s t : State} : s.OnlyTables t → s.OnlyPlaces t := by
  rintro ⟨ps, ks, cs, rfl⟩
  exact ⟨ps, ks, cs, s.frames, s.pool, s.launches, rfl⟩

theorem State.onlyPlaces_zeroFrame {s : State} {f size : Nat} {p : Nat × State} (h : s.zeroFrame f size = some p) : s.OnlyPlaces p.2 := by
  unfold State.zeroFrame State.frameBy at h
  split at h
  · obtain rfl := Option.some.inj h
    exact ⟨s.ptes, s.cores, s.clusters, s.frames, _, s.launches, rfl⟩
  · obtain ⟨a, -, rfl⟩ := Option.map_eq_some_iff.1 h
    exact ⟨s.ptes, s.cores, s.clusters, _, s.pool, s.launches, rfl⟩

theorem State.onlyPlaces_takeReserved {s : State} {launch size : Nat} {p : Nat × State} (h : s.takeReserved launch size = some p) :
    s.OnlyPlaces p.2 := by
  unfold State.takeReserved at h
  split at h
  · cases h
  · obtain ⟨a, -, rfl⟩ := Option.map_eq_some_iff.1 h
    exact ⟨s.ptes, s.cores, s.clusters, s.frames, s.pool, _, rfl⟩

theorem State.onlyPlaces_keepFrame (s : State) (l : Leaf) : s.OnlyPlaces (s.keepFrame l) := by
  unfold State.keepFrame
  dsimp only
  split
  · exact ⟨s.ptes, s.cores, s.clusters, _, s.pool, s.launches, rfl⟩
  · exact .refl s

theorem State.onlyPlaces_firstTouch (s : State) (launch : Option Nat) (f gen : Nat) (l : Leaf) :
    s.OnlyPlaces (s.firstTouch launch f gen l) := by
  unfold State.firstTouch
  split
  · exact .refl s
  next frame s1 h =>
    have h1 : s.OnlyPlaces s1 := by
      rcases Option.or_eq_some_iff.1 h with h | ⟨-, h⟩
      · obtain ⟨n, -, hn⟩ := Option.bind_eq_some_iff.1 h
        exact State.onlyPlaces_takeReserved hn
      · exact State.onlyPlaces_zeroFrame h
    refine (h1.trans (s1.onlyPlaces_keepFrame l)).trans ?_
    exact ⟨_, _, _, _, _, _, rfl⟩

theorem State.onlyPlaces_prepare (s : State) (t : Machine.Task) (ctx space va : Nat) (write : Bool) :
    s.OnlyPlaces (s.prepare t ctx space va write) := by
  unfold State.prepare
  split
  · split
    · exact .refl s
    · split
      · split
        · exact s.onlyPlaces_firstTouch _ _ _ _
        · exact .refl s
      · exact (s.onlyTables_touch _ _ _ _ _ _).onlyPlaces
  · exact .refl s

theorem State.onlyPlaces_writePlaces {t : Machine.Task} {ctx space : Nat} {cs : List (Nat × Nat)} {s : State} {ls : List Nat} {u : State}
    (h : State.writePlaces t ctx space s cs = .ok (ls, u)) : s.OnlyPlaces u := by
  induction cs generalizing s ls u with
  | nil =>
    obtain ⟨-, rfl⟩ := Prod.mk.inj (Except.ok.inj h)
    exact .refl s
  | cons c cs ih =>
    simp only [State.writePlaces] at h
    split at h
    · cases h
    · split at h
      · split at h
        · cases h
        next hrest =>
          obtain ⟨-, rfl⟩ := Prod.mk.inj (Except.ok.inj h)
          exact (s.onlyPlaces_prepare t ctx space c.1 true).trans (ih hrest)
      · cases h

/-- What the translation of a store leaves: the contexts, the bytes and the lists of operations, among the rest. -/
theorem State.OnlyPlaces.kept {s t : State} (h : s.OnlyPlaces t) : t.ctxs = s.ctxs ∧ t.cur = s.cur ∧ t.time = s.time ∧ t.fresh = s.fresh ∧
    t.writes = s.writes ∧ t.atoms = s.atoms ∧ t.mem = s.mem ∧ t.groups = s.groups ∧ t.parts = s.parts := by
  obtain ⟨_, _, _, _, _, _, rfl⟩ := h
  exact ⟨rfl, rfl, rfl, rfl, rfl, rfl, rfl, rfl, rfl⟩

/-! ### Offsets and forms -/

/-- The displacement of an M-A word, written out (R228). -/
theorem State.offset_eq (s : State) (g : Fin 64) (n : Nat) (i : Imm 7) :
    s.offset g n i = s.gv g + (match i with | .short v => v.signExtend 64 * BitVec.ofNat 64 n | .long l => l.signExtend 64) := by
  cases i <;> rfl

theorem exec_scalarStoreForm {j : Instr} {n : Nat} {d g : Fin 64} {k : Fin 32} {i : Imm 7}
    (hj : scalarStoreForm j = some (n, d, k, g, i)) (s : State) : exec j s = scalarStore n d k g i s := by
  cases j <;> cases hj <;> rfl

theorem not_of_eq_false {b : Bool} (h : b = false) : ¬ b = true := by rw [h]; exact Bool.false_ne_true

/-! ### Loads -/

/-- A context whose register k1 holds the first 1 KiB of L2, readable. -/
def reader : State :=
  { State.reset with ctxs := [(0, { k := [(1, ⟨BitVec.ofNat 128 (0x400 * 2 ^ 57 + pR * 2 ^ 104 + 2 * 2 ^ 116), true⟩)] })] }

theorem reader_loadCheck : reader.loadCheck reader.cur.id (reader.me.kr (1 : Fin 32).val) memSpaces (reader.offset 0 8 (.long 0)).toInt 8 pR 8 true =
    .ok ⟨2, 0, 8, 0⟩ := by decide +kernel

theorem reader_ldI64 : exec (.ldI64 1 1 0 (.long 0)) reader = .next (reader.issueLoad 2 0 [(0, 0, 8)] (.g 1 8 false) false false) := by
  change scalarLoad 8 false 1 1 0 (.long 0) reader = _
  rw [scalarLoad, if_neg (by decide)]
  rw [reader_loadCheck]
  rfl

/-- Refutes O17: LD.i64 enters the engine as a load of 8 bytes without a sign, where the statement has it signed. -/
theorem not_loadsComplete : ¬ Obligations.LoadsComplete := by
  unfold Obligations.LoadsComplete
  intro h
  obtain ⟨hscalar, -⟩ := (h.1 reader 1 0 (.long 0) (fun n => reader.offset 0 n (.long 0)) fun n => rfl).1 (by decide)
  have hsigned := hscalar (.ldI64 1 1 0 (.long 0)) 8 true 1 ⟨2, 0, 8, 0⟩ rfl reader_loadCheck
  have hloads := congrArg State.loads (Host.Outcome.next.inj (reader_ldI64.symm.trans hsigned))
  exact absurd hloads (by decide)

/-! ### Stores -/

/-- A lane of 32 bits as an element. -/
theorem elem_eq_extractLsb' (x : Vec) (j : Nat) : elem 32 x j = (x.extractLsb' (32 * j) 32).toNat := by
  rw [elem, BitVec.extractLsb'_toNat, Nat.shiftRight_eq_div_pow]

theorem exec_cst {s u : State} {k d : Fin 32} {g : Fin 64} {i : Imm 7} {a : Acc} {t : Machine.Task} {ls : List Nat} (hg : s.gp g = false)
    (ha : s.capCheck s.cur.id (s.me.kr k.val) [8] (s.offset g 16 i).toInt 16 (pW + pCAPST) 16 = .ok a)
    (hglob : (s.me.kr k.val).holds pGLOB = true → (s.me.kr d.val).holds pGLOB = true) (ht : s.task = some t)
    (hp : State.writePlaces t s.cur.id 8 (s.setMe { s.me with iss := s.me.iss + 1 }) (chunks a.addr 16) = .ok (ls, u)) :
    exec (.cst d k g i) s = .next (u.putWrite t.tid s.me.iss 8 a.key
      (ls.zip (leBytes 16 (s.me.kr d.val).bits.toNat) ++ [(tagCell (ls.headD 0), BitVec.ofNat 8 (s.me.kr d.val).tag.toNat)])
      [(a.addr, 16)] true) := by
  have hboth : ¬ (((s.me.kr k.val).holds pGLOB && !(s.me.kr d.val).holds pGLOB) = true) := by
    rw [Bool.and_eq_true, Bool.not_eq_true']
    rintro ⟨hk, hd⟩
    rw [hglob hk] at hd
    cases hd
  change execCst d k g i s = _
  simp only [execCst, if_neg (not_of_eq_false hg), ha, if_neg hboth, ht, hp]

/-- Settles O18, by the checks of each form of store. -/
theorem storesComplete : Obligations.StoresComplete := by
  unfold Obligations.StoresComplete
  intro s k g i off hoff hg
  have hoff : off = fun n => s.offset g n i := funext fun n => (hoff n).trans (s.offset_eq g n i).symm
  subst hoff
  have hclear := not_of_eq_false hg
  refine ⟨fun j n d a hj hd ha => ?_, fun d a hd ha => ?_, fun d a ha => ?_, fun d a t ls u ha hglob ht hp => ?_⟩
  · have ha : s.capCheck s.cur.id (s.me.kr k.val) memSpaces (s.offset g n i).toInt n pW n true true = .ok a := ha
    rw [exec_scalarStoreForm hj, scalarStore, if_neg hclear, if_neg (not_of_eq_false hd), ha]
  · have ha : s.capCheck s.cur.id (s.me.kr k.val) memSpaces (s.offset g 256 i).toInt 256 pW 64 true true = .ok a := ha
    change execVst d k g i s = _
    rw [execVst, if_neg hclear, if_neg (not_of_eq_false hd), ha]
    simp only [laneBytes, Nat.reduceMul, elem_eq_extractLsb']
    rfl
  · have ha : s.capCheck s.cur.id (s.me.kr k.val) memSpaces (s.offset g 8 i).toInt 8 pW 8 true true = .ok a := ha
    change execVstm d k g i s = _
    rw [execVstm, if_neg hclear, ha]
  · rw [exec_cst hg ha hglob ht hp]
    obtain ⟨hctxs, hcur, htime, -⟩ := (State.onlyPlaces_writePlaces hp).kept
    have hid : u.cur.id = s.cur.id := by rw [hcur]; rfl
    have hctx : u.ctx s.cur.id = { s.me with iss := s.me.iss + 1 } := by
      rw [State.ctx, hctxs]
      exact Table.get_set_same _ _ _ _
    have htime : u.time = s.time := htime
    simp only [State.putWrite, hid, hctx, htime, plainScope]
    rfl

end Sys2Proof.Machine
end

section
/-!
PROOFS. How atomics, flags, barrier instructions and group instructions issue (R166 to R168, R384 to R395, R451).
-/

namespace Sys2Proof.Machine

/-! ### Checks of the block and room in the atomic unit -/

theorem Ctx.firstPoison_cons_clear {c : Ctx} {n : Nat} (h : (c.gr n).p = false) (ns : List Nat) :
    c.firstPoison (n :: ns) = c.firstPoison ns := by
  rw [Ctx.firstPoison, if_neg (not_of_eq_false h)]

theorem blockCheck_of_ok {s : State} {k : Fin 32} {a : Fin 64} {n size perm : Nat} {x : Acc} (hp : s.me.firstPoison (block a n) = none)
    (hx : s.loadCheck s.cur.id (s.me.kr k.val) atomSpaces (s.blk a 0).toInt size perm size = .ok x) (go : Acc → Result) :
    blockCheck k a n size perm s go = go x := by
  simp only [blockCheck, hp, hx]

theorem State.atomsFull_of_room {s : State} (h : s.inAtomUnit < 16) : ¬ s.atomsFull = true := by
  rw [State.atomsFull, decide_eq_true_eq]
  exact Nat.not_le.2 h

theorem State.atomsFull_of_full {s : State} (h : 16 ≤ s.inAtomUnit) : s.atomsFull = true := decide_eq_true h

theorem State.issueAtom_of_room {s : State} (h : s.inAtomUnit < 16) (a : Acc) (op : AtomOp) (x y : Word) (use scope : Nat) (dest : Option Nat)
    (asc : Bool) : s.issueAtom a op x y use scope dest asc =
      if use = 5 ∧ s.me.late.isSome = true then s.setMe { s.me with iss := s.me.iss + 1 } else s.inUnit a op x y use scope dest asc := by
  simp only [State.issueAtom, State.issueAtomAt, if_neg (State.atomsFull_of_room h)]
  rfl

/-- An operation that is not .SPC enters the unit where there is room. -/
theorem State.issueAtom_enters {s : State} (h : s.inAtomUnit < 16) (a : Acc) (op : AtomOp) (x y : Word) (scope : Nat) (dest : Option Nat)
    (asc : Bool) : s.issueAtom a op x y 0 scope dest asc = s.inUnit a op x y 0 scope dest asc := by
  rw [State.issueAtom_of_room h, if_neg fun h' => absurd h'.1 (by decide)]

theorem State.issueAtom_full {s : State} (h : 16 ≤ s.inAtomUnit) (a : Acc) (op : AtomOp) (x y : Word) (use scope : Nat) (dest : Option Nat)
    (asc : Bool) : s.issueAtom a op x y use scope dest asc = s.holdFull := by
  simp only [State.issueAtom, State.issueAtomAt, if_pos (State.atomsFull_of_full h)]

/-! ### Atomics -/

theorem atomic_of_ok {s : State} {op : AtomOp} {perm : Nat} {reads : List Nat} {k : Fin 32} {a : Fin 64} {z : Fin 2} {l : Lit} {p : Acc}
    (hr : s.me.firstPoison reads = none)
    (hp : s.atomCheck (s.me.kr k.val) (s.gv a + litVal l).toInt (if z.val = 1 then 4 else 8) perm op = .ok p)
    (dest : Option Nat) (x y : Word) (use scope : Nat) (asc : Bool) :
    atomic op perm reads dest x y k a use scope z asc l s = .next (s.issueAtom p op x y use scope dest asc) := by
  simp only [atomic, hr, hp]

theorem ascOp_of_ok {s : State} {op : AtomOp} {reads : List Nat} {k : Fin 32} {a : Fin 64} {z : Fin 2} {l : Lit} {p : Acc} {t : Machine.Task}
    (hr : s.me.firstPoison reads = none)
    (hp : s.atomCheck (s.me.kr k.val) (s.gv a + litVal l).toInt (if z.val = 1 then 4 else 8) pATOM op = .ok p)
    (ht : s.task = some t) (hw : s.wheelPositions t ≠ []) (dest : Option Nat) (x y : Word) :
    ascOp op reads dest x y k a z l s = .next (s.issueAtom p op x y 0 2 dest true) := by
  have hwheel : ¬ (s.task.elim [] s.wheelPositions).isEmpty = true := by
    rw [ht, List.isEmpty_iff]
    exact hw
  simp only [ascOp, hr, hp, if_neg hwheel]

/-- Settles O23, by the two shared forms of atomics. -/
theorem atomicsComplete : Obligations.AtomicsComplete := by
  unfold Obligations.AtomicsComplete
  rintro s d a k u sc z l n off p rfl rfl ha hroom
  have h1 : s.me.firstPoison [a.val] = none := Ctx.firstPoison_cons_clear ha []
  have h2 : s.gp d = false → s.me.firstPoison [d.val, a.val] = none := fun hd => (Ctx.firstPoison_cons_clear hd _).trans h1
  have h3 : s.gp d = false → (s.me.gr (d.val + 1)).p = false → s.me.firstPoison [d.val, a.val, d.val + 1] = none := fun hd hd1 =>
    ((Ctx.firstPoison_cons_clear hd _).trans (Ctx.firstPoison_cons_clear ha _)).trans (Ctx.firstPoison_cons_clear hd1 [])
  have hread : ∀ op perm, op ≠ .ast →
      s.loadCheck s.cur.id (s.me.kr k.val) atomSpaces (s.gv a + litVal l).toInt (if z.val = 1 then 4 else 8) perm
        (if z.val = 1 then 4 else 8) = .ok p →
      s.atomCheck (s.me.kr k.val) (s.gv a + litVal l).toInt (if z.val = 1 then 4 else 8) perm op = .ok p := fun op perm hop hp => by
    rw [State.atomCheck, if_neg hop, hp]
  have hwrite : ∀ perm,
      s.capCheck s.cur.id (s.me.kr k.val) atomSpaces (s.gv a + litVal l).toInt (if z.val = 1 then 4 else 8) perm
        (if z.val = 1 then 4 else 8) = .ok p →
      s.atomCheck (s.me.kr k.val) (s.gv a + litVal l).toInt (if z.val = 1 then 4 else 8) perm .ast = .ok p := fun perm hp => by
    rw [State.atomCheck, if_pos rfl, hp]
  have hatomic : ∀ {i : Instr} {op : AtomOp} {reads : List Nat} {dest : Option Nat} {x y : Word} {use scope : Nat},
      exec i s = atomic op pATOM reads dest x y k a use scope z false l s → s.me.firstPoison reads = none →
      s.atomCheck (s.me.kr k.val) (s.gv a + litVal l).toInt (if z.val = 1 then 4 else 8) pATOM op = .ok p →
      exec i s = .next (if use = 5 ∧ s.me.late.isSome = true then s.setMe { s.me with iss := s.me.iss + 1 }
        else s.inUnit p op x y use scope dest false) := fun hi hr hp => by
    rw [hi, atomic_of_ok hr hp, State.issueAtom_of_room hroom]
  have hasc : ∀ {i : Instr} {op : AtomOp} {reads : List Nat} {dest : Option Nat} {x y : Word} {t : Machine.Task},
      exec i s = ascOp op reads dest x y k a z l s → s.me.firstPoison reads = none →
      s.atomCheck (s.me.kr k.val) (s.gv a + litVal l).toInt (if z.val = 1 then 4 else 8) pATOM op = .ok p →
      s.task = some t → s.wheelPositions t ≠ [] → exec i s = .next (s.inUnit p op x y 0 2 dest true) := fun hi hr hp ht hw => by
    rw [hi, ascOp_of_ok hr hp ht hw, State.issueAtom_enters hroom]
  refine ⟨fun hp => ?_, fun hd hp => ?_, fun hd hp t ht hw => hasc rfl (h2 hd) (hwrite _ hp) ht hw, fun hd hp => ⟨?_, fun hd1 => ?_,
    fun t ht hw => ⟨?_, ?_, ?_, ?_, fun hd1 => ?_⟩⟩⟩
  · change atomic .ald pR [a.val] (some d.val) 0 0 k a 0 sc.val z false l s = _
    rw [atomic_of_ok h1 (hread .ald pR (by decide) hp), State.issueAtom_enters hroom]
  · change atomic .ast pW [d.val, a.val] none (s.gv d) 0 k a 0 sc.val z false l s = _
    rw [atomic_of_ok (h2 hd) (hwrite pW hp), State.issueAtom_enters hroom]
  · have hq : ∀ op, op ≠ .ast → s.atomCheck (s.me.kr k.val) (s.gv a + litVal l).toInt (if z.val = 1 then 4 else 8) pATOM op = .ok p :=
      fun op hop => hread op _ hop hp
    simp only [List.forall_mem_cons, List.not_mem_nil, false_implies, implies_true, and_true]
    exact ⟨hatomic rfl (h2 hd) (hq _ (by decide)), hatomic rfl (h2 hd) (hq _ (by decide)), hatomic rfl (h2 hd) (hq _ (by decide)),
      hatomic rfl (h2 hd) (hq _ (by decide)), hatomic rfl (h2 hd) (hq _ (by decide)), hatomic rfl (h2 hd) (hq _ (by decide)),
      hatomic rfl (h2 hd) (hq _ (by decide)), hatomic rfl (h2 hd) (hq _ (by decide)), hatomic rfl (h2 hd) (hq _ (by decide)),
      hatomic rfl (h2 hd) (hq _ (by decide))⟩
  · exact hatomic rfl (h3 hd hd1) (hread _ _ (by decide) hp)
  · exact hasc rfl (h2 hd) (hread _ _ (by decide) hp) ht hw
  · exact hasc rfl (h2 hd) (hread _ _ (by decide) hp) ht hw
  · exact hasc rfl (h2 hd) (hread _ _ (by decide) hp) ht hw
  · exact hasc rfl h1 (hread _ _ (by decide) hp) ht hw
  · exact hasc rfl (h3 hd hd1) (hread _ _ (by decide) hp) ht hw

/-! ### What a wait of the issuing context reads -/

section
variable {s : State} {c : Ctx}

theorem State.ctx_setMe_cur (s : State) (c : Ctx) : (s.setMe c).ctx s.cur.id = c := Table.get_set_same _ _ _ _

theorem State.me_locks (s : State) : s.me.locks = (s.ctx s.cur.id).locks := by
  obtain ⟨_, _, _, _, _, _, _, _, h⟩ := (s.ctx s.cur.id).land_frame
  rw [State.me, h]

/-- What an address is for a context does not depend on the context, but for its locked ranges. -/
theorem State.place_setMe (h : c.locks = s.me.locks) (t : Machine.Task) (space va n : Nat) (w : Bool) :
    (s.setMe c).place t s.cur.id space va n w = s.place t s.cur.id space va n w := by
  have hl : ((s.setMe c).ctx s.cur.id).locks = (s.ctx s.cur.id).locks := by rw [State.ctx_setMe_cur, h, State.me_locks]
  simp only [State.place, hl]
  rfl

theorem State.readPlaces_setMe (h : c.locks = s.me.locks) (t : Machine.Task) (space : Nat) (cs : List (Nat × Nat)) :
    (s.setMe c).readPlaces t s.cur.id space cs = s.readPlaces t s.cur.id space cs := by
  induction cs with
  | nil => rfl
  | cons x cs ih => simp only [State.readPlaces, State.place_setMe h, ih]

theorem State.waitRead_setMe (h : c.locks = s.me.locks) (t : Machine.Task) (a : Acc) (iss : Nat) :
    (s.setMe c).waitRead t s.cur.id a iss = s.waitRead t s.cur.id a iss := by
  have hsee : ∀ v slot p, (s.setMe c).seePlace v slot p = s.seePlace v slot p := fun v slot p => by
    cases p with
    | none => rfl
    | some x => exact State.see_congr (s := s) (t := s.setMe c) rfl rfl rfl rfl v slot x
  have hsee : ∀ v slot, (s.setMe c).seePlace v slot = s.seePlace v slot := fun v slot => funext (hsee v slot)
  simp only [State.waitRead, State.readPlaces_setMe h, hsee]
  rfl

theorem State.take_setMe_isSome (s : State) (c : Ctx) (f : Nat) (k : Token) : ((s.setMe c).take f k).isSome = (s.take f k).isSome := by
  have hcond : ((s.setMe c).chain f).all (fun g => decide (1 ≤ ((s.setMe c).part g).left k)) =
      (s.chain f).all fun g => decide (1 ≤ (s.part g).left k) := rfl
  unfold State.take
  rw [hcond]
  split <;> rfl

/-- A wait has its token where none is needed, or one is there. -/
theorem State.waitPay_snd (s : State) (t : Machine.Task) (id : Nat) (a : Acc) : (s.waitPay t id a).2 =
    match s.readPlaces t id a.space [(a.addr, a.size)] with
    | .error _ => true
    | .ok ls => decide (hbmTokens (ls.filterMap fun x => x) = 0) || (s.take t.func .memory).isSome := by
  unfold State.waitPay
  cases s.readPlaces t id a.space [(a.addr, a.size)] with
  | error e => rfl
  | ok ls =>
    dsimp only
    split
    next h => rw [decide_eq_true h, Bool.true_or]
    next h =>
      rw [decide_eq_false h, Bool.false_or]
      cases s.take t.func .memory <;> rfl

theorem State.waitPay_setMe (h : c.locks = s.me.locks) (t : Machine.Task) (a : Acc) :
    ((s.setMe c).waitPay t s.cur.id a).2 = (s.waitPay t s.cur.id a).2 := by
  simp only [State.waitPay_snd, State.readPlaces_setMe h, State.take_setMe_isSome]

theorem State.onlyParts_waitPay (s : State) (t : Machine.Task) (id : Nat) (a : Acc) : s.OnlyParts (s.waitPay t id a).1 := by
  unfold State.waitPay
  split
  · exact .refl s
  · split
    · exact .refl s
    · split
      next u hu => exact (State.take_cases hu).2.trans (u.onlyParts_waitOver _ _)
      · exact s.onlyParts_tokenWait _ _ _ _

end

/-- A flag at or above the value, whose read has its token, ends the wait as an acquire (R364, R384). -/
theorem State.tryFlag_ends {s : State} {t : Machine.Task} {id n : Nat} {a : Acc} {v : Word} {iss : Nat} {pc : Word} {ws : List Write}
    (hread : s.waitRead t id a iss = .ok (n, ws)) (hv : v.toNat ≤ n) (hpay : (s.waitPay t id a).2 = true) :
    ((s.tryFlag t id a v iss pc).ctx id) = { s.ctx id with wait := none }.observe ws 5 iss ∧
    (s.tryFlag t id a v iss pc).mem = s.mem ∧ (s.tryFlag t id a v iss pc).writes = s.writes := by
  obtain ⟨u, hu⟩ : ∃ u, s.waitPay t id a = (u, true) := ⟨_, Prod.ext rfl hpay⟩
  obtain ⟨ps, hps⟩ := s.onlyParts_waitPay t id a
  obtain ⟨_, _, _, hprep⟩ := State.onlyTables_prepareReads t id a.space [(a.addr, a.size)] u
  have hps : u = { s with parts := ps } := (congrArg Prod.fst hu).symm.trans hps
  simp only [State.tryFlag, hread, if_pos hv, hu]
  refine ⟨by rw [State.ctx_setCtx, if_pos rfl], ?_, ?_⟩
  · change (State.prepareReads t id a.space u [(a.addr, a.size)]).mem = s.mem
    rw [hprep, hps]
  · change (State.prepareReads t id a.space u [(a.addr, a.size)]).writes = s.writes
    rw [hprep, hps]

theorem mem_obs_observe {c : Ctx} {ws : List Write} {scope iss : Nat} {w : Write} (hw : w ∈ ws) {i : Nat} (hi : i = w.id ∨ i ∈ w.rel) :
    (i, scope, iss) ∈ (c.observe ws scope iss).obs :=
  List.mem_append_right _ (List.mem_flatMap.2 ⟨w, hw, List.mem_map.2 ⟨i, List.mem_cons.2 hi, rfl⟩⟩)

/-! ### Flags and barriers -/

section
variable {s : State} {k : Fin 32} {a : Fin 64} {x : Acc}

/-- The state in which a FWAIT holds its context. -/
def State.flagWaiting (s : State) (x : Acc) (v : Word) (scope : Nat) : State :=
  s.setMe { s.me with wait := some (.fwait x v scope s.me.iss s.me.pc), iss := s.me.iss + 1 }

theorem exec_fwait (hp : s.me.firstPoison (block a 2) = none)
    (hx : s.loadCheck s.cur.id (s.me.kr k.val) atomSpaces (s.blk a 0).toInt 8 pFLAG 8 = .ok x) (sc : Fin 8) :
    exec (.fwait k a sc) s =
      match s.task with
      | none => .next (s.flagWaiting x (s.blk a 1) sc.val)
      | some t =>
        if s.blk a 1 = 0 ∧ s.waitFree t s.cur.id x s.me.iss = true then
          .next ((s.flagWaiting x (s.blk a 1) sc.val).tryFlag t s.cur.id x 0 s.me.iss s.me.pc)
        else .next (s.flagWaiting x (s.blk a 1) sc.val) := by
  change execFwait k a sc s = _
  rw [execFwait, blockCheck_of_ok hp hx]
  rfl

theorem exec_fwait_zero (hp : s.me.firstPoison (block a 2) = none)
    (hx : s.loadCheck s.cur.id (s.me.kr k.val) atomSpaces (s.blk a 0).toInt 8 pFLAG 8 = .ok x) (sc : Fin 8)
    {t : Machine.Task} {n : Nat} {ws : List Write} (hv : s.blk a 1 = 0) (ht : s.task = some t)
    (hfree : s.waitFree t s.cur.id x s.me.iss = true) (hread : s.waitRead t s.cur.id x s.me.iss = .ok (n, ws))
    (hpay : (s.waitPay t s.cur.id x).2 = true) :
    ∃ u, exec (.fwait k a sc) s = .next u ∧ (u.ctx s.cur.id).wait = none ∧ (u.ctx s.cur.id).iss = s.me.iss + 1 ∧
      (u.ctx s.cur.id).g = s.me.g ∧ u.mem = s.mem ∧ u.writes = s.writes ∧
      ∀ w ∈ ws, ∀ i, i = w.id ∨ i ∈ w.rel → (i, 5, s.me.iss) ∈ (u.ctx s.cur.id).obs := by
  obtain ⟨c, hc⟩ : ∃ c : Ctx, c = { s.me with wait := some (.fwait x (s.blk a 1) sc.val s.me.iss s.me.pc), iss := s.me.iss + 1 } := ⟨_, rfl⟩
  have hlocks : c.locks = s.me.locks := by rw [hc]
  have hflag : s.flagWaiting x (s.blk a 1) sc.val = s.setMe c := by rw [hc]; rfl
  obtain ⟨hctx, hmem, hwrites⟩ := State.tryFlag_ends (pc := s.me.pc) (v := 0) ((State.waitRead_setMe hlocks t x s.me.iss).trans hread)
    (Nat.zero_le n) ((State.waitPay_setMe hlocks t x).trans hpay)
  refine ⟨_, by rw [exec_fwait hp hx, ht, hflag]; exact if_pos ⟨hv, hfree⟩, ?_⟩
  rw [hctx, State.ctx_setMe_cur]
  exact ⟨rfl, by rw [hc]; rfl, by rw [hc]; rfl, hmem, hwrites, fun w hw i hi => mem_obs_observe hw hi⟩

end

/-- Settles O24, by the check of the block and the room in the atomic unit. -/
theorem flagsAndBarriers : Obligations.FlagsAndBarriers := by
  unfold Obligations.FlagsAndBarriers
  intro s k a sc x
  refine ⟨fun hp hx => ?_, fun hp hx => ?_, fun hp hx => ?_⟩
  · have hp : s.me.firstPoison (block a 2) = none := hp
    have hx : s.loadCheck s.cur.id (s.me.kr k.val) atomSpaces (s.blk a 0).toInt 8 pFLAG 8 = .ok x := hx
    refine ⟨fun hroom => ?_, fun hfull => ?_, fun hv => ?_, fun t n ws hv ht hfree hread hpay => ?_⟩
    · change execFadd k a sc s = _
      rw [execFadd, blockCheck_of_ok hp hx, State.issueAtom_enters hroom]
      rfl
    · change execFadd k a sc s = _
      rw [execFadd, blockCheck_of_ok hp hx, State.issueAtom_full hfull]
    · have hne : ∀ t, ¬ (s.blk a 1 = 0 ∧ s.waitFree t s.cur.id x s.me.iss = true) := fun t h => hv h.1
      rw [exec_fwait hp hx sc]
      cases s.task with
      | none => rfl
      | some t => exact if_neg (hne t)
    · exact exec_fwait_zero hp hx sc hv ht hfree hread hpay
  · have hp : s.me.firstPoison (block a 2) = none := hp
    have hx : s.loadCheck s.cur.id (s.me.kr k.val) atomSpaces (s.blk a 0).toInt 16 pATOM 16 = .ok x := hx
    refine ⟨fun hroom hcount => ?_, fun hcount => ?_⟩
    · change execBinit k a sc s = _
      have hcount : ¬ 2 ^ 24 ≤ (s.blk a 1).toNat := Nat.not_le.2 hcount
      rw [execBinit, blockCheck_of_ok hp hx, if_neg hcount, State.issueAtom_enters hroom]
      rfl
    · change execBinit k a sc s = _
      rw [execBinit, blockCheck_of_ok hp hx]
      exact if_pos hcount
  · have hp : s.me.firstPoison (block a 1) = none := hp
    have hx : s.loadCheck s.cur.id (s.me.kr k.val) atomSpaces (s.blk a 0).toInt 16 pATOM 16 = .ok x := hx
    refine ⟨fun hroom => ⟨?_, ?_⟩, fun hfull => ⟨?_, ?_⟩, fun harr => ?_, fun harr => ⟨fun w gen hfind => ?_, fun hfind => ?_⟩⟩
    · change execBarrive k a sc s = _
      rw [execBarrive, blockCheck_of_ok hp hx, State.issueAtom_enters hroom]
    · change execBabort k a sc s = _
      rw [execBabort, blockCheck_of_ok hp hx, State.issueAtom_enters hroom]
    · change execBarrive k a sc s = _
      rw [execBarrive, blockCheck_of_ok hp hx, State.issueAtom_full hfull]
    · change execBabort k a sc s = _
      rw [execBabort, blockCheck_of_ok hp hx, State.issueAtom_full hfull]
    · change execBwait k a sc s = _
      rw [execBwait, blockCheck_of_ok hp hx, if_pos harr]
    · change execBwait k a sc s = _
      rw [execBwait, blockCheck_of_ok hp hx, if_neg (not_of_eq_false harr), hfind]
    · change execBwait k a sc s = _
      rw [execBwait, blockCheck_of_ok hp hx, if_neg (not_of_eq_false harr), hfind]
      rfl

end Sys2Proof.Machine
end

section
/-!
PROOFS. GJOIN and GLEAVE (R166, R168, R390, R451).
-/

namespace Sys2Proof.Machine

theorem Table.find_eq_none_of_lt {α : Type} {t : Table α} {k : Nat} (h : ∀ p ∈ t, p.1 < k) : Table.find t k = none := by
  induction t with
  | nil => rfl
  | cons p t ih =>
    obtain ⟨j, x⟩ := p
    have hj : j < k := h (j, x) List.mem_cons_self
    rw [Table.find, if_neg (Nat.lt_asymm hj), if_neg (Nat.ne_of_gt hj)]
    exact ih fun q hq => h q (List.mem_cons_of_mem _ hq)

/-- The slot that an unbound record takes lies past every slot in use. -/
theorem lt_freeSlot {gs : Table Group} {p : Nat × Group} (h : p ∈ gs) : p.1 < freeSlot gs := by
  induction gs with
  | nil => cases h
  | cons q gs ih =>
    have hcons : freeSlot (q :: gs) = max (freeSlot gs) (q.1 + 1) := rfl
    rw [hcons]
    rcases List.mem_cons.1 h with rfl | h
    · exact Nat.lt_of_lt_of_le (Nat.lt_succ_self _) (Nat.le_max_right _ _)
    · exact Nat.lt_of_lt_of_le (ih h) (Nat.le_max_left _ _)

section
variable {s : State} {k : Fin 32} {a : Fin 64} {x : Acc} {t : Machine.Task}

theorem State.firstPoison_block_one (h : s.gp a = false) : s.me.firstPoison (block a 1) = none := Ctx.firstPoison_cons_clear h []

variable (ha : s.gp a = false) (hx : s.loadCheck s.cur.id (s.me.kr k.val) atomSpaces (s.blk a 0).toInt 16 pATOM 16 = .ok x)
  (ht : s.task = some t) (hhost : s.hostWaits t.func x.space x.addr 16 = false) (hroom : s.inAtomUnit < 16)
include ha hx ht hhost hroom

/-- A GJOIN that neither its checks nor the atomic unit holds back goes by the access of its record. -/
theorem exec_gjoin : exec (.gjoin k a) s =
    match State.writePlaces t s.cur.id x.space s [(x.addr, 16)] with
    | .error e =>
      match s.joinReason t (s.groupFor t x none) with
      | some r => .next (s.trapGroup r)
      | none => .next (s.lateRecord e)
    | .ok (ls, s1) =>
      let g := s.groupFor t x ls.head?
      if g.any fun p => p.2.draining then .next s.holdFull
      else
        match s.joinReason t g, g with
        | some r, _ => .next (s.trapGroup r)
        | none, some p => .next (s1.joinGroup t x ls p.1 (some p.2))
        | none, none => .next (s1.joinGroup t x ls (freeSlot s1.groups) none) := by
  change execGjoin k a s = _
  rw [execGjoin, blockCheck_of_ok (State.firstPoison_block_one ha) hx]
  simp only [ht]
  exact if_neg (by rw [hhost, Bool.false_or]; exact State.atomsFull_of_room hroom)

theorem exec_gleave {ls : List Nat} {s1 : State} (hp : State.writePlaces t s.cur.id x.space s [(x.addr, 16)] = .ok (ls, s1)) :
    exec (.gleave k a) s =
      match s.groupFor t x ls.head? with
      | none => .next (s.trapGroup 4)
      | some p =>
        if p.2.members.contains (s.cur.id, t.tid) then
          .next ((s1.setMe { s.me with iss := s.me.iss + 1 }).leaveGroup s.cur.id t.tid s.me.iss s.me.pc false ls p.1)
        else .next (s.trapGroup 4) := by
  change execGleave k a s = _
  rw [execGleave, blockCheck_of_ok (State.firstPoison_block_one ha) hx]
  simp only [ht]
  rw [if_neg (by rw [hhost, Bool.false_or]; exact State.atomsFull_of_room hroom), hp]
  rfl

end

/-- The operation of a group instruction enters the atomic unit, with the locations of its record. -/
def State.enterUnit (s : State) (x : Acc) (op : AtomOp) (locs : List Nat) : State :=
  { s.setMe { s.me with iss := s.me.iss + 1 } with
    atoms := s.atoms ++ [⟨s.fresh, s.tid, s.cur.id, s.me.iss, s.me.pc, x, op, 0, 0, 0, 2, none, false, s.time, locs, none, s.cur.src⟩]
    fresh := s.fresh + 1 }

theorem State.issueAtomAt_enters {s : State} (hroom : s.inAtomUnit < 16) (x : Acc) (op : AtomOp) (locs : List Nat) :
    s.issueAtomAt x op 0 0 0 2 none false locs = s.enterUnit x op locs := by
  unfold State.issueAtomAt
  dsimp only
  rw [if_neg (State.atomsFull_of_room hroom), if_neg fun h => absurd h.1 (by decide)]
  rfl

/-- What a join leaves: the group with the new member, its operation last in the atomic unit, the membership in the context. -/
theorem State.joinGroup_fields {s : State} (hroom : s.inAtomUnit < 16) (t : Machine.Task) (x : Acc) (locs : List Nat) (i : Nat) (g : Option Group) :
    (s.joinGroup t x locs i g).groups = Table.set s.groups i { g.getD ⟨t.l1, locs.headD 0, x, [], false⟩ with
      members := (g.getD ⟨t.l1, locs.headD 0, x, [], false⟩).members ++ [(s.cur.id, t.tid)] } ∧
    (s.joinGroup t x locs i g).atoms = s.atoms ++ [⟨s.fresh, s.tid, s.cur.id, s.me.iss, s.me.pc, x,
      if g.isSome then .gjoin else .gcreate, 0, 0, 0, 2, none, false, s.time, locs, none, s.cur.src⟩] ∧
    ((s.joinGroup t x locs i g).ctx s.cur.id).groups = s.me.groups ++ [i] ∧ ((s.joinGroup t x locs i g).ctx s.cur.id).iss = s.me.iss + 1 := by
  obtain ⟨u, hu⟩ : ∃ u, u = s.enterUnit x (if g.isSome then .gjoin else .gcreate) locs := ⟨_, rfl⟩
  have hissue : s.issueAtomAt x (if g.isSome then .gjoin else .gcreate) 0 0 0 2 none false locs = u := by
    rw [State.issueAtomAt_enters hroom, hu]
  have hcur : u.cur.id = s.cur.id := by rw [hu]; rfl
  obtain ⟨_, _, _, _, _, _, _, _, hland⟩ := ({ s.me with iss := s.me.iss + 1 } : Ctx).land_frame
  have hme : u.me = ({ s.me with iss := s.me.iss + 1 } : Ctx).land := by
    rw [State.me, hcur, hu]
    exact congrArg Ctx.land (s.ctx_setMe_cur _)
  have hctx : (s.joinGroup t x locs i g).ctx s.cur.id = { u.me with groups := u.me.groups ++ [i] } := by
    rw [State.joinGroup, hissue, ← hcur]
    exact u.ctx_setMe_cur _
  refine ⟨?_, ?_, ?_, ?_⟩
  · rw [State.joinGroup, hissue, hu]
    rfl
  · rw [State.joinGroup, hissue, hu]
    rfl
  · rw [hctx, hme, hland]
  · rw [hctx, hme, hland]

/-- Settles O25, by the access of the record and the reasons against a join. -/
theorem groupsComplete : Obligations.GroupsComplete := by
  unfold Obligations.GroupsComplete
  refine ⟨fun s k a x t e ht ha hx hhost hp hroom hreason => ?_, fun s s1 k a x t f fs ht ha hx hhost hroom hp => ?_⟩
  · rw [exec_gjoin ha hx ht hhost hroom, hp]
    simp only [hreason]
    rfl
  have hx : s.loadCheck s.cur.id (s.me.kr k.val) atomSpaces (s.blk a 0).toInt 16 pATOM 16 = .ok x := hx
  have hjoin := exec_gjoin ha hx ht hhost hroom
  have hleave := exec_gleave ha hx ht hhost hroom hp
  have hfor : s.groupFor t x (f :: fs).head? = groupAt t.l1 f s.groups := rfl
  simp only [hp, hfor] at hjoin hleave
  obtain ⟨hctxs, hcur, htime, hfresh, -, hatoms, -, hgroups, -⟩ := (State.onlyPlaces_writePlaces hp).kept
  have hroom1 : s1.inAtomUnit < 16 := by rw [State.inAtomUnit, hatoms, hcur]; exact hroom
  have hme : s1.me = s.me := by rw [State.me, State.ctx, hctxs, hcur]; rfl
  have htid : s1.tid = t.tid := by
    rw [State.tid, show s1.task = some t by rw [State.task, State.ctx, hctxs, hcur]; exact ht]
  have hjoined := fun (i : Nat) (g : Option Group) => State.joinGroup_fields hroom1 t x (f :: fs) i g
  simp only [hgroups, hcur, hme, htid, htime] at hjoined
  refine ⟨fun i g hg => ?_, fun hg => ?_⟩
  · have hreason : s.joinReason t (groupAt t.l1 f s.groups) = if (s.cur.id, t.tid) ∈ g.members then some 3
        else if 4 ≤ s.me.groups.length then some 2 else none := by
      simp only [hg, State.joinReason, List.contains_iff_mem]
    have hcontains : g.members.contains (s.cur.id, t.tid) = decide ((s.cur.id, t.tid) ∈ g.members) := List.contains_eq_mem _ _
    rw [hreason] at hjoin
    simp only [hg, hcontains, decide_eq_true_eq, Option.any_some] at hjoin hleave
    refine ⟨fun hmem hdrain hlt => ?_, fun hmem hdrain => ?_, fun hmem hdrain hle => ?_, fun hdrain => ?_, fun hmem => ?_, fun hmem => ?_⟩
    · rw [if_neg (not_of_eq_false hdrain), if_neg hmem, if_neg (Nat.not_le.2 hlt)] at hjoin
      obtain ⟨hgs, has, hc, hi⟩ := hjoined i (some g)
      exact ⟨_, hjoin, hgs, has, hc, hi⟩
    · rw [hjoin, if_neg (not_of_eq_false hdrain), if_pos hmem]
      rfl
    · rw [hjoin, if_neg (not_of_eq_false hdrain), if_neg hmem, if_pos hle]
      rfl
    · rw [hjoin, if_pos hdrain]
    · rw [hleave, if_pos hmem]
    · rw [hleave, if_neg hmem]
      rfl
  · have hreason : s.joinReason t (groupAt t.l1 f s.groups) =
        if s.groupSlots t.l1 ≤ (s.groups.filter fun p => decide (p.2.l1 = t.l1)).length then some 1
        else if 4 ≤ s.me.groups.length then some 2 else none := by
      simp only [hg, State.joinReason]
    rw [hreason] at hjoin
    simp only [hg, Option.any_none, Bool.false_eq_true, if_false, hgroups] at hjoin hleave
    refine ⟨hleave, fun hle => ?_, fun hlt hle => ?_, fun hlt hroom4 => ?_⟩
    · rw [hjoin, if_pos hle]
      rfl
    · rw [hjoin, if_neg (Nat.not_le.2 hlt), if_pos hle]
      rfl
    · rw [if_neg (Nat.not_le.2 hlt), if_neg (Nat.not_le.2 hroom4)] at hjoin
      obtain ⟨hgs, -, hc, hi⟩ := hjoined (freeSlot s.groups) none
      exact ⟨_, freeSlot s.groups, hjoin, Table.find_eq_none_of_lt fun p hp => lt_freeSlot hp, hgs, hc, hi⟩

end Sys2Proof.Machine
end

section
/-!
PROOFS. Translation locks, circular buffers (R242 to R247), and how copies enter their queue (R248 to R253).
-/

namespace Sys2Proof.Machine

/-! ### Translation locks -/

/-- Two ranges have an address in common exactly where each begins before the other ends, and neither is empty. -/
theorem exists_common_iff (a lo hi : Int) (n : Nat) :
    (∃ y : Int, a ≤ y ∧ y < a + n ∧ lo ≤ y ∧ y < hi) ↔ lo < a + n ∧ a < hi ∧ lo < hi ∧ 0 < n := by
  constructor
  · rintro ⟨y, h1, h2, h3, h4⟩
    omega
  · rintro ⟨h1, h2, h3, h4⟩
    exact ⟨max a lo, by omega, by omega, by omega, by omega⟩

theorem exec_tlock {s : State} {k : Fin 32} {a b : Fin 64} (ha : s.gp a = false) (hb : s.gp b = false) (htag : (s.me.kr k.val).tag = true)
    (hspace : (s.me.kr k.val).space ∈ [0, 1, 7, 8]) (hperm : (s.me.kr k.val).holds pR = true ∨ (s.me.kr k.val).holds pW = true)
    (hoff : 0 ≤ (s.gv a).toInt) (hlen : (s.gv a).toInt + (s.gv b).toNat ≤ (s.me.kr k.val).len)
    (hentries : s.lockedEntries (s.cur.id / 4) + (populatedPages (s.pages s.func (s.me.kr k.val).space
        ((s.me.kr k.val).base + (s.gv a).toInt.toNat) (s.gv b).toNat)).length ≤ 32) (hlocks : s.me.locks.length < 4) :
    exec (.tlock k a b) s = .next (s.setMe { s.me with iss := s.me.iss + 1, wait := some (.tlock
        ⟨(s.me.kr k.val).space, (s.me.kr k.val).base + (s.gv a).toInt.toNat, (s.gv b).toNat, (s.me.kr k.val).key⟩ s.me.iss s.me.pc
        (populatedPages (s.pages s.func (s.me.kr k.val).space ((s.me.kr k.val).base + (s.gv a).toInt.toNat) (s.gv b).toNat))) }) := by
  have hspace' : ¬ (! [0, 1, 7, 8].contains (s.me.kr k.val).space) = true := by
    rw [Bool.not_eq_true', Bool.not_eq_false, List.contains_iff_mem]
    exact hspace
  have hperm' : ¬ (!(s.me.kr k.val).holds pR && !(s.me.kr k.val).holds pW) = true := by
    rcases hperm with h | h <;> simp [h]
  have hbounds : ¬ ((s.gv a).toInt < 0 ∨ ((s.me.kr k.val).len : Int) < (s.gv a).toInt + (s.gv b).toNat) := by omega
  have hroom : ¬ (32 < s.lockedEntries (coreOf s.cur.id) + (populatedPages (s.pages s.func (s.me.kr k.val).space
        ((s.me.kr k.val).base + (s.gv a).toInt.toNat) (s.gv b).toNat)).length ∨ 4 ≤ s.me.locks.length) := by
    rw [coreOf]
    omega
  change execTlock k a b s = _
  unfold execTlock
  dsimp only
  rw [if_neg (not_of_eq_false ha), if_neg (not_of_eq_false hb), if_neg (by rw [htag]; decide), if_neg hspace', if_neg hperm', if_neg hbounds,
    if_neg hroom]

theorem exec_tunlk {s : State} {k : Fin 32} {a b : Fin 64} (ha : s.gp a = false) (hb : s.gp b = false) (htag : (s.me.kr k.val).tag = true) :
    ∃ ls, exec (.tunlk k a b) s = .next (s.setMe { s.me with locks := ls }) ∧
      ∀ x, x ∈ ls ↔ x ∈ s.me.locks ∧ ¬ ((s.me.kr k.val).space ∈ [0, 1, 7, 8] ∧ rootSpace x.space = rootSpace (s.me.kr k.val).space ∧
        ∃ y : Int, (x.addr : Int) ≤ y ∧ y < x.addr + x.len ∧ ((s.me.kr k.val).base : Int) + (s.gv a).toInt ≤ y ∧
          y < (s.me.kr k.val).base + (s.gv a).toInt + (s.gv b).toNat) := by
  refine ⟨_, (if_neg (not_of_eq_false ha)).trans ((if_neg (not_of_eq_false hb)).trans ((if_neg (by rw [htag]; decide)).trans rfl)), fun x => ?_⟩
  rw [List.mem_filter, exists_common_iff]
  simp only [Bool.not_eq_true', Bool.and_eq_false_imp, Bool.and_eq_true, List.contains_iff_mem, decide_eq_true_eq, decide_eq_false_iff_not]
  tauto

/-! ### Circular buffers -/

theorem slotsOf_eq (n : BitVec 8) : slotsOf n = if n = 0 then 256 else n.toNat := by
  have hzero : n.toNat = 0 ↔ n = 0 := by rw [← BitVec.toNat_inj]; rfl
  simp only [slotsOf, hzero]

theorem exec_cbset_query {s : State} {h : Fin 16} {a b : Fin 64} (hb : s.gp b = false) (hquery : (s.gv b).getLsbD 63 = true)
    (hzero : field (s.gv b) 61 16 = 0) : exec (.cbset h a b) s = .next (s.putG 1 a (BitVec.ofNat 64
      ((s.me.hr h.val).addr (((if (s.gv b).getLsbD 62 then (s.me.hr h.val).pcnt else (s.me.hr h.val).ccnt) + field (s.gv b) 15 0) % 2 ^ 16)))
        false) := by
  change execCbset h a b s = _
  unfold execCbset
  dsimp only
  rw [if_neg (by rw [hquery]; simp), if_neg (not_of_eq_false hb), if_pos hquery, if_neg (not_not.2 hzero)]

theorem exec_cbset_configure {s : State} {h : Fin 16} {a b : Fin 64} (hb : s.gp b = false) (hset : (s.gv b).getLsbD 63 = false)
    (ha : s.gp a = false) (hzero : field (s.gv b) 62 18 = 0) (hslot : field (s.gv b) 17 8 ≠ 0) (halign : (s.gv a).toNat % 64 = 0)
    (hfits : (s.gv a).toNat + 64 * field (s.gv b) 17 8 * (if field (s.gv b) 7 0 = 0 then 256 else field (s.gv b) 7 0) ≤ 0x300000)
    (hforeign : s.foreign (s.cur.id / 4) s.func 3 (s.gv a).toNat
      (64 * field (s.gv b) 17 8 * (if field (s.gv b) 7 0 = 0 then 256 else field (s.gv b) 7 0)) = false)
    (hbusy : s.cbBusy s.cur.id h.val = false) : exec (.cbset h a b) s = .next (s.put 1 (.h h.val
      { slot := field (s.gv b) 17 8, count := field (s.gv b) 7 0, base := (s.gv a).toNat })) := by
  change execCbset h a b s = _
  unfold execCbset
  dsimp only
  rw [if_neg (by rw [ha]; simp), if_neg (not_of_eq_false hb), if_neg (not_of_eq_false hset), if_neg (by simp [hzero, hslot]),
    if_neg (not_not.2 halign), if_neg (Nat.not_lt.2 hfits)]
  exact (if_neg (not_of_eq_false hforeign)).trans (if_neg (not_of_eq_false hbusy))

/-- Settles O21, by the checks of each instruction and what it counts. -/
theorem locksAndBuffers : Obligations.LocksAndBuffers := by
  unfold Obligations.LocksAndBuffers
  refine ⟨fun s k a b ha hb htag => ⟨exec_tlock ha hb htag, exec_tunlk ha hb htag⟩,
    fun s h a b hb => ⟨exec_cbset_query hb, exec_cbset_configure hb⟩, fun s h n m hm => ?_⟩
  obtain rfl : m = slotsOf n := hm.trans (slotsOf_eq n).symm
  refine ⟨fun hle => ⟨⟨_, (if_pos hle).trans rfl, ?_⟩, _, (if_neg (Nat.not_lt.2 hle)).trans rfl, ?_⟩,
    fun hle => ⟨if_pos hle, if_neg (not_lt.2 hle)⟩, fun hlt => ⟨if_neg (Nat.not_le.2 hlt), if_pos hlt⟩,
    fun hlt => ⟨if_neg (not_le.2 hlt), if_pos hlt⟩⟩
  · rw [List.map_map]
    refine List.map_congr_left fun w _ => ?_
    dsimp only [Function.comp]
    split <;> rfl
  · rw [List.map_map]
    refine List.map_congr_left fun l _ => ?_
    dsimp only [Function.comp]
    split <;> rfl

/-! ### Copies -/

/-- A checked copy as it enters its queue, from the state in which its record has been attached (R249, R252). -/
def State.queueCopy (s1 : State) (src : Origin) (x y : Cap) (rows : List (Acc × Acc)) (att : Option Acc) (cb : Option (Nat × Nat)) : State :=
  { s1.setMe { s1.me with iss := s1.me.iss + 1, pend := s1.me.pend ++ (cb.toList.map fun p => ⟨s1.me.step + 1, .hRes p.1 p.2⟩) } with
    fresh := s1.fresh + 1
    copies := s1.copies ++ [⟨s1.fresh, s1.tid, s1.cur.id, s1.me.iss, s1.me.pc, x.space, x.key, y.space, y.key,
      (rows.map rowBeats).flatten, att, cb, s1.me.groups, 0, s1.me.loans, src⟩] }

theorem State.issueCopy_enters {s s1 : State} {x y : Cap} {rows : List (Acc × Acc)} {b : Option (Fin 32)} {w : Word} {bar att : Option Acc}
    (hbar : s.barAcc b w = .ok bar) (hroom : (s.copies.filter fun c => decide (c.ctx = s.cur.id)).length < 16)
    (hatt : s.attachBar bar (rows.map rowBeats).flatten.length false = some (s1, att)) (cb : Option (Nat × Nat)) :
    s.issueCopy x y rows b w cb = .next (s1.queueCopy s.cur.src x y rows att cb) := by
  have hfull : ¬ s.copyQueueFull = true := by
    rw [State.copyQueueFull, decide_eq_true_eq]
    exact Nat.not_le.2 hroom
  simp only [State.issueCopy, hbar, if_neg hfull, hatt]
  cases cb with
  | none =>
    have hnil : s1.me.pend = s1.me.pend ++ [] := (List.append_nil _).symm
    rw [State.queueCopy, Option.toList_none, List.map_nil, ← hnil]
  | some p => rfl

/-- The beats of the rows are as many as their chunks. -/
theorem length_rowBeats (rows : List (Acc × Acc)) :
    (rows.map rowBeats).flatten.length = (rows.map fun r => chunks r.2.addr r.2.size).flatten.length := by
  simp only [List.length_flatten, List.map_map]
  refine congrArg List.sum (List.map_congr_left fun r _ => ?_)
  exact List.length_map _

theorem exec_cpy {s : State} {ks kd : Fin 32} {a : Fin 64} {b : Option (Fin 32)} {rows : List (Acc × Acc)}
    (hp : s.me.firstPoison (blockRegs a 3 b) = none)
    (hrows : s.checkRows (s.me.kr ks.val) (s.me.kr kd.val) [⟨s.blk a 0, s.blk a 1, (s.blk a 2).toNat⟩] = .ok rows) :
    exec (.cpy ks kd a b) s = s.issueCopy (s.me.kr ks.val) (s.me.kr kd.val) rows b (s.blk a 3) none := by
  change execCpy ks kd a b s = _
  simp only [execCpy, hp, hrows]

theorem exec_cpys {s : State} {ks kd : Fin 32} {a : Fin 64} {b : Option (Fin 32)} {rows : List (Acc × Acc)}
    (hp : s.me.firstPoison (blockRegs a 6 b) = none) (hrows : s.checkRows (s.me.kr ks.val) (s.me.kr kd.val) (s.stridedRows a) = .ok rows) :
    exec (.cpys ks kd a b) s = s.issueCopy (s.me.kr ks.val) (s.me.kr kd.val) rows b (s.blk a 6) none := by
  change execCpys ks kd a b s = _
  simp only [execCpys, hp, hrows]

theorem exec_cpyg {s sp : State} {ks kd : Fin 32} {a : Fin 64} {b : Option (Fin 32)} {rows : List (Acc × Acc)} {l : Acc} {t : Machine.Task}
    {ps : List (Option Nat)} (hp : s.me.firstPoison (blockRegs a 5 b) = none) (ht : s.task = some t)
    (hl : s.loadCheck s.cur.id (s.me.kr kd.val) copySources (s.blk a 3).toInt (4 * (s.blk a 4).toNat) pR 4 true = .ok l)
    (hhost : s.hostWaits t.func l.space l.addr (4 * (s.blk a 4).toNat) = false) (hacq : s.acquirePending s.cur.id s.me.iss = false)
    (hfault : s.listFault t l.space l.addr (s.blk a 4).toNat = none)
    (hplaces : s.readPlaces t s.cur.id l.space (chunks l.addr (4 * (s.blk a 4).toNat)) = .ok ps)
    (hown : s.ownStore s.cur.id s.me.iss (ps.filterMap fun x => x) = false) (hspc : s.spcLocked (ps.filterMap fun x => x) = false)
    (hpay : s.payPart (requestNo 5 t.tid) t.func .memory (hbmTokens (ps.filterMap fun x => x)) = (sp, true))
    (hrows : sp.checkEach (s.me.kr ks.val) (s.me.kr kd.val) (s.gatherRows a (ps.map (s.seePlace
      (engineViewer s.cur.id (coreEngine (s.me.kr ks.val).space (s.me.kr kd.val).space)) l.key))) = .ok rows) :
    exec (.cpyg ks kd a b) s =
      spent ((State.prepareReads t s.cur.id l.space sp (chunks l.addr (4 * (s.blk a 4).toNat))).issueCopy (s.me.kr ks.val) (s.me.kr kd.val) rows
        b (s.blk a 5) none) (requestNo 5 t.tid) t.func := by
  have hhold : ¬ (s.hostWaits t.func l.space l.addr (4 * (s.blk a 4).toNat) || s.acquirePending s.cur.id s.me.iss) = true := by
    rw [hhost, hacq]; decide
  have hwait : ¬ (s.ownStore s.cur.id s.me.iss (ps.filterMap fun x => x) || s.spcLocked (ps.filterMap fun x => x)) = true := by
    rw [hown, hspc]; decide
  change execCpyg ks kd a b s = _
  simp only [execCpyg, hp, hl, ht, if_neg hhold, hfault, hplaces, if_neg hwait, hpay, hrows]

theorem exec_cpycb {s : State} {ks : Fin 32} {h : Fin 16} {a : Fin 64} {b : Option (Fin 32)} {rows : List (Acc × Acc)} {k : Nat}
    (hp : s.me.firstPoison (blockRegs a 2 b) = none) (hslot : (s.me.hr h.val).slot ≠ 0)
    (hk : k = ((s.blk a 1).toNat + 64 * (s.me.hr h.val).slot - 1) / (64 * (s.me.hr h.val).slot)) (hmain : k ≤ (s.me.hr h.val).main)
    (hroom : (k : Int) ≤ (s.me.hr h.val).room)
    (hrows : s.checkRing (s.me.kr ks.val) (s.blk a 1).toNat (ringRows (s.me.hr h.val) (s.blk a 0) (s.blk a 1).toNat k
      ((s.me.hr h.val).pcnt + (s.me.hr h.val).p)) = .ok rows) :
    exec (.cpycb ks h a b) s = s.issueCopy (s.me.kr ks.val) ringCap rows b (s.blk a 2) (some (h.val, k)) := by
  subst hk
  change execCpycb ks h a b s = _
  unfold execCpycb
  rw [hp]
  dsimp only
  rw [if_neg (not_or.2 ⟨hslot, Nat.not_lt.2 hmain⟩), if_neg (not_lt.2 hroom), hrows]

/-- What a CPYG leaves of its state before the copy enters the queue (R87, R221). -/
theorem copies_prepared {s sp : State} {t : Machine.Task} {r f n : Nat} (hpay : s.payPart r f .memory n = (sp, true)) (id space : Nat)
    (cs : List (Nat × Nat)) : (State.prepareReads t id space sp cs).copies = s.copies ∧ (State.prepareReads t id space sp cs).cur = s.cur := by
  obtain ⟨_, _, _, hprep⟩ := State.onlyTables_prepareReads t id space cs sp
  obtain ⟨_, _, hpaid⟩ := s.payPart_frame r f .memory n
  rw [hpay] at hpaid
  have hpaid : sp = _ := hpaid
  rw [hprep, hpaid]
  exact ⟨rfl, rfl⟩

/-- What has been paid for an instruction that takes effect is spent. -/
theorem spent_effect {u : State} (h : u.cur.verdict = .effect) (id f : Nat) : spent (.next u) id f = .next (u.spend id f) := by
  simp only [spent, h, reduceCtorEq, if_false]

/-- Settles O28: each copy comes to `issueCopy` by its own checks. -/
theorem copiesComplete : Obligations.CopiesComplete := by
  unfold Obligations.CopiesComplete
  intro s s0 s1 ks kd h a b att x y n w rows bar cb i fin hx hp hw hform hbar hroom hatt
  have hp : s.me.firstPoison (blockRegs a n b) = none := hp
  have hatt : s0.attachBar bar (rows.map rowBeats).flatten.length false = some (s1, att) := by rw [length_rowBeats]; exact hatt
  subst hx hw
  rcases hform with ⟨rfl, rfl, rfl, rfl, rfl, rfl, hrows⟩ | ⟨rfl, rfl, rfl, rfl, rfl, rfl, hrows⟩ |
    ⟨rfl, rfl, rfl, rfl, l, t, ps, sp, ht, rfl, hl, hhost, hacq, hfault, hplaces, hown, hspc, hpay, hs0, hrows⟩ |
    ⟨rfl, rfl, rfl, rfl, rfl, k, hslot, rfl, hk, hmain, hroomk, hrows⟩
  · rw [exec_cpy hp hrows, State.issueCopy_enters hbar hroom hatt]
    rfl
  · rw [exec_cpys hp hrows, State.issueCopy_enters hbar hroom hatt]
    rfl
  · obtain ⟨hcopies, hcur⟩ := copies_prepared hpay s.cur.id l.space (chunks l.addr (4 * (s.blk a 4).toNat))
    rw [← hs0] at hcopies hcur
    have hroom : (s0.copies.filter fun c => decide (c.ctx = s0.cur.id)).length < 16 := by rw [hcopies, hcur]; exact hroom
    rw [exec_cpyg hp ht hl hhost hacq hfault hplaces hown hspc hpay hrows, ← hs0, State.issueCopy_enters hbar hroom hatt, hcur,
      spent_effect rfl]
    rfl
  · rw [exec_cpycb hp hslot hk hmain hroomk hrows, State.issueCopy_enters hbar hroom hatt]
    rfl

end Sys2Proof.Machine
end

section
/-!
PROOFS. What a write leaves as it is, and how remote instructions enter their queue (R143, R252, R396, R397).
-/

namespace Sys2Proof.Machine

/-! ### Writes -/

/-- Only bytes, the writes on their way and what translations, frames and leases hold differ, with the numbers of writes and the owner tags. -/
def State.OnlyStored (s t : State) : Prop := ∃ m ls ws fr st ow ps ks cs fs pl la, t = { s with
  mem := m, lines := ls, writes := ws, fresh := fr, stamp := st, owners := ow
  ptes := ps, cores := ks, clusters := cs, frames := fs, pool := pl, launches := la }

theorem State.OnlyStored.refl (s : State) : s.OnlyStored s := ⟨_, _, _, _, _, _, _, _, _, _, _, _, rfl⟩

theorem State.OnlyStored.trans {s t u : State} : s.OnlyStored t → t.OnlyStored u → s.OnlyStored u := by
  rintro ⟨_, _, _, _, _, _, _, _, _, _, _, _, rfl⟩ ⟨_, _, _, _, _, _, _, _, _, _, _, _, rfl⟩
  exact ⟨_, _, _, _, _, _, _, _, _, _, _, _, rfl⟩

theorem State.OnlyStored.foldl {β : Type} {f : State → β → State} (h : ∀ (s : State) x, s.OnlyStored (f s x)) (xs : List β) (s : State) :
    s.OnlyStored (xs.foldl f s) := by
  induction xs generalizing s with
  | nil => exact .refl s
  | cons x xs ih => exact (h s x).trans (ih _)

theorem State.OnlyBytes.stored {s t : State} : s.OnlyBytes t → s.OnlyStored t := by
  rintro ⟨_, _, _, rfl⟩
  exact ⟨_, _, _, _, _, _, _, _, _, _, _, _, rfl⟩

theorem State.OnlyFrames.stored {s t : State} : s.OnlyFrames t → s.OnlyStored t := by
  rintro ⟨_, _, _, _, _, rfl⟩
  exact ⟨_, _, _, _, _, _, _, _, _, _, _, _, rfl⟩

theorem State.OnlyPlaces.stored {s t : State} : s.OnlyPlaces t → s.OnlyStored t := by
  rintro ⟨_, _, _, _, _, _, rfl⟩
  exact ⟨_, _, _, _, _, _, _, _, _, _, _, _, rfl⟩

/-- What such a change leaves, field by field. -/
theorem State.OnlyStored.kept {s t : State} (h : s.OnlyStored t) : t.ctxs = s.ctxs ∧ t.cur = s.cur ∧ t.time = s.time ∧ t.outs = s.outs ∧
    t.copies = s.copies ∧ t.atoms = s.atoms ∧ t.loads = s.loads ∧ t.groups = s.groups ∧ t.parts = s.parts := by
  obtain ⟨_, _, _, _, _, _, _, _, _, _, _, _, rfl⟩ := h
  exact ⟨rfl, rfl, rfl, rfl, rfl, rfl, rfl, rfl, rfl⟩

theorem State.stored_placeWrite (s : State) (w : Write) : s.OnlyStored (s.placeWrite w) := ⟨_, _, _, _, _, _, _, _, _, _, _, _, rfl⟩

theorem State.stored_tagGranules (s : State) (core func space addr n : Nat) : s.OnlyStored (s.tagGranules core func space addr n) :=
  ⟨_, _, _, _, _, _, _, _, _, _, _, _, rfl⟩

theorem State.stored_forceSeen (s : State) (v : Viewer) (level : Nat) (as : List Nat) : s.OnlyStored (s.forceSeen v level as) :=
  ((State.OnlyBytes.foldl (fun t w => t.onlyBytes_moveTo level w) (s.seenFirst v level as).reverse s).trans
    (State.onlyBytes_sweepWrites _)).stored

theorem State.stored_writeAs (s : State) (cover : Option Nat) (tid ctx iss scope key : Nat) (cells : List Host.Cell) (rel : List Nat) :
    s.OnlyStored (s.writeAs cover tid ctx iss scope key cells rel) := by
  unfold State.writeAs
  extract_lets s1 s2 w
  have h1 : s.OnlyStored s1 := (s.onlyBytes_forceOut _ _).stored
  have h2 : s1.OnlyStored s2 := by
    dsimp only [s2]
    split
    · exact (s1.onlyBytes_memWrite _ _).stored
    · exact .refl s1
  have h3 : s2.OnlyStored { s2 with stamp := s2.stamp + 1, fresh := s2.fresh + 1, writes := s2.writes ++ [w] } :=
    ⟨_, _, _, _, _, _, _, _, _, _, _, _, rfl⟩
  exact ((h1.trans h2).trans h3).trans (State.onlyBytes_sweepWrites _).stored

theorem State.stored_recWrite (s : State) (tid ctx iss scope : Nat) (a : Acc) (locs rel : List Nat) (f : BarRec → BarRec) :
    s.OnlyStored (s.recWrite tid ctx iss scope a locs rel f) := s.stored_writeAs _ _ _ _ _ _ _ _

/-- A late fault that is recorded leaves the issuing instruction and the outgoing operations. -/
theorem State.addLate_kept (s : State) (tid : Nat) (l : Late) : (s.addLate tid l).cur = s.cur ∧ (s.addLate tid l).outs = s.outs ∧
    (s.addLate tid l).copies = s.copies := by
  unfold State.addLate
  dsimp only
  split
  · split
    · split <;> exact ⟨rfl, rfl, rfl⟩
    · exact ⟨rfl, rfl, rfl⟩
  · exact ⟨rfl, rfl, rfl⟩

theorem State.attachBar_cur {s s1 : State} {b att : Option Acc} {n : Nat} {remote : Bool} (h : s.attachBar b n remote = some (s1, att)) :
    s1.cur = s.cur := by
  unfold State.attachBar at h
  split at h
  next a t _ =>
    split at h
    · obtain ⟨rfl, -⟩ := Prod.mk.inj (Option.some.inj h)
      exact (s.addLate_kept _ _).1
    next ls s0 hp =>
      dsimp only at h
      split at h
      · cases h
      · split at h
        · cases h
        · obtain ⟨rfl, -⟩ := Prod.mk.inj (Option.some.inj h)
          have hplaced := State.OnlyStored.foldl (fun t w => t.stored_placeWrite w) (ownBefore s.cur.id s0.writes.reverse ls).reverse s0
          have hall := ((State.onlyPlaces_writePlaces hp).stored.trans hplaced).trans ((State.stored_recWrite _ t.tid s.cur.id s.me.iss 2 a ls []
            (·.attach n remote)).trans (State.stored_tagGranules _ (coreOf s.cur.id) t.func a.space a.addr 16))
          obtain ⟨-, hcur, -⟩ := hall.kept
          exact hcur
  · obtain ⟨rfl, -⟩ := Prod.mk.inj (Option.some.inj h)
    rfl

/-! ### Remote instructions -/

section
variable {s s1 : State} {e : Fin 16} {j : Job}

theorem remoteCheck_of_ok {t : Machine.Task} {q : Nat} {regs : List Nat} (ht : s.task = some t) (hj : s.jobOf t = some (q, j))
    (hpeer : j.peerOk (s.me.er e.val) = true) (hp : s.me.firstPoison regs = none) (go : BitVec 13 → Job → Result) :
    remoteCheck e regs s go = go (s.me.er e.val) j := by
  simp only [remoteCheck, hp, ht, Option.bind_some, hj, if_pos hpeer]

theorem State.issueRemote_enters {b : Option (Fin 32)} {w : Word} {bar att : Option Acc} {ops : List RemOp} {pr : BitVec 13}
    (hbar : s.barAcc b w = .ok bar) (hroom : (s.remoteQueue s.cur.id e.val).length < 16)
    (hhold : ∀ o ∈ ops, s.holdFullAt j (peerRank pr) o.hoff = false)
    (hatt : s.attachBar bar ((ops.map RemOp.beats).sum) true = some (s1, att)) :
    s.issueRemote e pr j b w ops = .next (s1.enterQueue e.val pr att ops) := by
  have hnot : ¬ (16 ≤ (s.remoteQueue s.cur.id e.val).length ∨ ops.any (fun o => s.holdFullAt j (peerRank pr) o.hoff) = true) := by
    rintro (hfull | hany)
    · exact absurd hroom (Nat.not_lt.2 hfull)
    · obtain ⟨o, ho, htrue⟩ := List.any_eq_true.1 hany
      rw [hhold o ho] at htrue
      cases htrue
  simp only [State.issueRemote, hbar, if_neg hnot, hatt]

/-- What the operations of an instruction are once they stand in their queue (R397). -/
theorem State.enterQueue_fields (s : State) (n : Nat) (pr : BitVec 13) (att : Option Acc) (ops : List RemOp) :
    (s.enterQueue n pr att ops).ctx s.cur.id = { s.me with iss := s.me.iss + 1 } ∧ (s.enterQueue n pr att ops).mem = s.mem ∧
    (s.enterQueue n pr att ops).writes = s.writes ∧
    ∃ new : List Out, (s.enterQueue n pr att ops).outs = s.outs ++ new ∧ new.length = ops.length ∧
      ∀ (m : Nat) (o : Out) (p : RemOp), new[m]? = some o → ops[m]? = some p → o.stage = .queue ∧ o.op.tid = s.tid ∧ o.op.peer = n ∧
        o.op.rank = pr.toNat % 1024 ∧ o.op.scope = pr.toNat / 1024 ∧ o.op.kind = p.kind ∧
        o.op.hoff = p.hoff ∧ o.op.len = p.len ∧ o.op.flag = p.flag ∧ o.op.addend = p.addend ∧ o.op.bar = att ∧ o.op.iss = s.me.iss ∧
        (∀ l, p.acc = some l → o.op.lspace = l.space ∧ o.op.laddr = l.addr ∧ o.op.lkey = l.key) := by
  refine ⟨s.ctx_setMe_cur _, rfl, rfl, _, rfl, List.length_mapIdx, fun m o p ho hp => ?_⟩
  rw [List.getElem?_mapIdx, hp] at ho
  obtain rfl := Option.some.inj ho
  exact ⟨rfl, rfl, rfl, rfl, rfl, rfl, rfl, rfl, rfl, rfl, rfl, rfl, fun l hl => by dsimp only; rw [hl]; exact ⟨rfl, rfl, rfl⟩⟩

theorem putOps_none (rows : List (Acc × Acc)) :
    putOps rows none = rows.map fun r => ⟨.put, some r.1, r.2.addr, r.2.size, none, 0⟩ := by
  refine List.ext_getElem? fun i => ?_
  rw [putOps, List.getElem?_mapIdx, List.getElem?_map]
  refine congrArg (Option.map · rows[i]?) (funext fun r => ?_)
  rw [ite_self]

theorem putOps_append (rs : List (Acc × Acc)) (r : Acc × Acc) (f : Nat) (x : Word) :
    putOps (rs ++ [r]) (some (f, x)) = (rs.map fun x => (⟨.put, some x.1, x.2.addr, x.2.size, none, 0⟩ : RemOp)) ++
      [⟨.putf, some r.1, r.2.addr, r.2.size, some f, x⟩] := by
  have hlast : ∀ i, i + 1 = (rs ++ [r]).length ↔ i = rs.length := fun i => by rw [List.length_append, List.length_singleton]; omega
  simp only [putOps, List.mapIdx_append, hlast]
  refine congrArg₂ (· ++ ·) (List.ext_getElem? fun i => ?_) ?_
  · rw [List.getElem?_mapIdx, List.getElem?_map]
    cases h : rs[i]? with
    | none => rfl
    | some y =>
      obtain ⟨hi, -⟩ := List.getElem?_eq_some_iff.1 h
      rw [Option.map_some, Option.map_some, if_neg (Nat.ne_of_lt hi)]
  · rw [List.mapIdx_cons, List.mapIdx_nil, Nat.zero_add, if_pos rfl]

end

/-- Settles O29: each form comes to `issueRemote` by its own checks, with the operations that the statement lists. -/
theorem remotesComplete : Obligations.RemotesComplete := by
  unfold Obligations.RemotesComplete
  intro s s1 e c k a b t q j att bar n w ops rows i ht hj hpeer hp hform hbar hroom hhold hatt
  have hp : s.me.firstPoison (blockRegs a n b) = none := hp
  have hexec : exec i s = s.issueRemote e (s.me.er e.val) j b w ops := by
    rcases hform with ⟨rfl, rfl, rfl, hlen, r, hr, rfl⟩ | ⟨rfl, rfl, rfl, hlen, r, f, hr, hf, rfl⟩ |
      ⟨rfl, rfl, rfl, hlen, hcount, hrows, rfl⟩ | ⟨rfl, rfl, rfl, hlen, hcount, g, f, hrows, hg, hf, hops⟩ |
      ⟨rfl, rfl, rfl, hlen, r, hr, rfl⟩ | ⟨rfl, rfl, rfl, rfl, f, hf, rfl⟩
    · change execRput e c k a b s = _
      rw [execRput, remoteCheck_of_ok ht hj hpeer hp, maxLen, if_neg (Nat.not_lt.2 hlen), hr]
      rfl
    · change execRputf e c k a b s = _
      rw [execRputf, remoteCheck_of_ok ht hj hpeer hp, maxLen, if_neg (Nat.not_lt.2 hlen), hr]
      dsimp only
      rw [hf]
      rfl
    · change execRputs e c k a b s = _
      rw [execRputs, remoteCheck_of_ok ht hj hpeer hp, maxLen, if_neg (not_or.2 ⟨Nat.not_lt.2 hlen, Nat.not_lt.2 hcount⟩), hrows]
      dsimp only
      rw [putOps_none]
    · have hg : s.capCheck s.cur.id (s.me.kr k.val) heapSpaces (s.blk a 1).toInt 0 pRPUT 1 = .ok g := hg
      change execRputsf e c k a b s = _
      rw [execRputsf, remoteCheck_of_ok ht hj hpeer hp, maxLen, if_neg (not_or.2 ⟨Nat.not_lt.2 hlen, Nat.not_lt.2 hcount⟩), hrows]
      dsimp only
      rw [hg, hf]
      rcases hops with ⟨rfl, rfl⟩ | ⟨rs, r, rfl, rfl⟩
      · rfl
      · dsimp only
        rw [if_neg (by simp), putOps_append]
    · change execRpull e c k a b s = _
      rw [execRpull, remoteCheck_of_ok ht hj hpeer hp, maxLen, if_neg (Nat.not_lt.2 hlen), hr]
    · have hp : s.me.firstPoison (block a 2) = none := hp
      change execRsemadd e k a s = _
      rw [execRsemadd, remoteCheck_of_ok ht hj hpeer hp, hf]
  have hfields := s1.enterQueue_fields e.val (s.me.er e.val) att ops
  rw [State.attachBar_cur hatt] at hfields
  exact ⟨_, hexec.trans (State.issueRemote_enters hbar hroom hhold hatt), hfields⟩

end Sys2Proof.Machine
end

section
/-!
PROOFS. Where control transfers, loads, stores and matrix instructions trap (R189, R193, R210, R304, R305, R330).
-/

namespace Sys2Proof.Machine

/-! ### Operands of scalar accesses -/

theorem exec_branch_of_poison {s : State} {g : Fin 64} {d : Imm 18} {i : Instr} (hg : s.gp g = true) (test : Word → Bool)
    (hi : exec i s = condBranch test g d s) : exec i s = .next (s.trapPoison false g.val) := by
  rw [hi, condBranch, if_pos hg]

/-- The scalar loads are one definition, but for the sign flag, which a load of 8 bytes leaves clear. -/
theorem exec_scalarLoadForm {j : Instr} {n : Nat} {sg : Bool} {d g : Fin 64} {k : Fin 32} {i : Imm 7}
    (hj : scalarLoadForm j = some (n, sg, d, k, g, i)) (s : State) : ∃ sg', exec j s = scalarLoad n sg' d k g i s := by
  cases j <;> cases hj <;> exact ⟨_, rfl⟩

theorem linkBranch_of_none {s : State} (h : s.bundleLen (s.task.elim 0 s.codeFunc) s.after.toNat = none) (d : Fin 64) (x : Word) :
    linkBranch d x s = .next (s.trap 0x03 s.after s.me.pc) := by
  simp only [linkBranch, h]

/-! ### The checks of the matrix instructions -/

theorem State.ownsArray_iff {s : State} : s.ownsArray = true ↔ (s.core (s.cur.id / 4)).owner = some s.cur.id := decide_eq_true_iff

theorem Ctx.firstPoison_cons_poison {c : Ctx} {n : Nat} (h : (c.gr n).p = true) (ns : List Nat) : c.firstPoison (n :: ns) = some n := by
  rw [Ctx.firstPoison, if_pos h]

theorem matrixCheck_lost {s : State} (h : s.me.lost = true) (vs gs : List (Fin 64)) (go : Result) :
    matrixCheck vs gs s go = .next (s.setMe s.me) := by
  rw [matrixCheck, if_pos h]
  rfl

theorem not_ownsArray {s : State} (h : (s.core (s.cur.id / 4)).owner ≠ some s.cur.id) : (!s.ownsArray) = true := by
  rw [Bool.not_eq_true', ← Bool.not_eq_true]
  exact fun ho => h (State.ownsArray_iff.1 ho)

theorem matrixCheck_foreign {s : State} (hl : s.me.lost = false) (ho : (s.core (s.cur.id / 4)).owner ≠ some s.cur.id)
    (vs gs : List (Fin 64)) (go : Result) : matrixCheck vs gs s go = .next (s.trapBare 0x40) := by
  rw [matrixCheck, if_neg (not_of_eq_false hl), if_pos (not_ownsArray ho)]

/-- A beat of an owner starts with the shared checks: it is discarded while LOST is set, and faults without ownership. -/
theorem matrixBeat_checked {i : Instr} {s : State} (vs gs : List (Fin 64)) (h : ∃ go, exec i s = matrixCheck vs gs s go) :
    (s.me.lost = true → exec i s = .next (s.setMe s.me)) ∧
      (s.me.lost = false → (s.core (s.cur.id / 4)).owner ≠ some s.cur.id → exec i s = .next (s.trapBare 0x40)) := by
  obtain ⟨go, h⟩ := h
  exact ⟨fun hl => h.trans (matrixCheck_lost hl vs gs go), fun hl ho => h.trans (matrixCheck_foreign hl ho vs gs go)⟩

theorem owns_of_owner {s : State} (ho : (s.core (s.cur.id / 4)).owner = some s.cur.id) : ¬ (!s.ownsArray) = true := by
  rw [State.ownsArray_iff.2 ho]
  exact Bool.false_ne_true

/-- The beats of the owner that reads g registers alone go by the first poisoned one. -/
theorem matrixCheck_owner_g {s : State} (hl : s.me.lost = false) (ho : (s.core (s.cur.id / 4)).owner = some s.cur.id)
    (gs : List (Fin 64)) (go : Result) :
    matrixCheck [] gs s go = (s.me.firstPoison (gs.map (·.val))).elim go fun r => .next (s.trapPoison false r) := by
  rw [matrixCheck, if_neg (not_of_eq_false hl), if_neg (owns_of_owner ho), State.vecPoison]
  cases s.me.firstPoison (gs.map (·.val)) <;> rfl

theorem matrixCheck_owner_clear {s : State} (hl : s.me.lost = false) (ho : (s.core (s.cur.id / 4)).owner = some s.cur.id)
    {gs : List (Fin 64)} (h : s.me.firstPoison (gs.map (·.val)) = none) (go : Result) : matrixCheck [] gs s go = go := by
  rw [matrixCheck_owner_g hl ho, h]
  rfl

theorem matrixCheck_owner_poison {s : State} (hl : s.me.lost = false) (ho : (s.core (s.cur.id / 4)).owner = some s.cur.id)
    {a : Fin 64} (h : s.gp a = true) (gs : List (Fin 64)) (go : Result) : matrixCheck [] (a :: gs) s go = .next (s.trapPoison false a.val) := by
  rw [matrixCheck_owner_g hl ho, List.map_cons, Ctx.firstPoison_cons_poison h]
  rfl

theorem matrixCheck_owner_v {s : State} (hl : s.me.lost = false) (ho : (s.core (s.cur.id / 4)).owner = some s.cur.id)
    {a : Fin 64} (h : s.vp a = false) (go : Result) : matrixCheck [a] [] s go = go := by
  rw [matrixCheck, if_neg (not_of_eq_false hl), if_neg (owns_of_owner ho), State.vecPoison, if_neg (not_of_eq_false h)]
  rfl

/-- The first condition behind the shared checks decides, once they pass. -/
theorem matrixBeat_first {i : Instr} {s : State} {vs gs : List (Fin 64)} {P : Prop} [Decidable P] {x : Result}
    (hpass : ∀ go, matrixCheck vs gs s go = go) (hP : P) (h : ∃ y, exec i s = matrixCheck vs gs s (if P then x else y)) : exec i s = x := by
  obtain ⟨y, h⟩ := h
  rw [h, hpass, if_pos hP]

/-- Settles O8, by the order of the checks that the forms of each kind share. -/
theorem operandFaults : Obligations.OperandFaults := by
  unfold Obligations.OperandFaults
  refine ⟨fun s g l d => ⟨fun hg => ?_, fun hn => ⟨linkBranch_of_none hn l _, fun hg => ?_⟩⟩,
    fun s k g d i m c => ⟨fun hg => ⟨fun j n sg hj => ?_, fun j n hj => ?_, ?_⟩, fun hg => ⟨fun j n sg e hj he => ?_, fun j n hj hd => ?_,
      fun j n e hj hd he => ?_⟩⟩, ?_⟩
  · simp only [List.forall_mem_cons, List.not_mem_nil, false_implies, implies_true, and_true]
    exact ⟨exec_branch_of_poison hg (fun x => decide (x = 0)) rfl, exec_branch_of_poison hg (fun x => decide (x ≠ 0)) rfl,
      exec_branch_of_poison hg (fun x => decide (x.toInt < 0)) rfl, exec_branch_of_poison hg (fun x => decide (0 ≤ x.toInt)) rfl,
      exec_branch_of_poison hg (fun x => decide (0 < x.toInt)) rfl, exec_branch_of_poison hg (fun x => decide (x.toInt ≤ 0)) rfl,
      if_pos hg, if_pos hg⟩
  · exact (execJlr_of_clear hg l).trans (linkBranch_of_none hn l _)
  · obtain ⟨sg', h⟩ := exec_scalarLoadForm hj s
    rw [h, scalarLoad, if_pos hg]
  · rw [exec_scalarStoreForm hj, scalarStore, if_pos hg]
  · simp only [List.forall_mem_cons, List.not_mem_nil, false_implies, implies_true, and_true]
    exact ⟨if_pos hg, if_pos hg, if_pos hg, if_pos hg, if_pos hg, if_pos hg⟩
  · obtain ⟨sg', h⟩ := exec_scalarLoadForm hj s
    rw [h, scalarLoad, if_neg (not_of_eq_false hg), he]
    rfl
  · rw [exec_scalarStoreForm hj, scalarStore, if_neg (not_of_eq_false hg), if_pos hd]
  · rw [exec_scalarStoreForm hj, scalarStore, if_neg (not_of_eq_false hg), if_neg (not_of_eq_false hd), he]
    rfl
  · rintro s k a b t m e _ rfl
    refine ⟨?_, fun ho => if_pos (not_ownsArray ho), fun hl ho => ?_⟩
    · simp only [List.forall_mem_cons, List.not_mem_nil, false_implies, implies_true, and_true]
      exact ⟨matrixBeat_checked [] [] ⟨_, rfl⟩, matrixBeat_checked [] [] ⟨_, rfl⟩, matrixBeat_checked [] [a, b] ⟨_, rfl⟩,
        matrixBeat_checked [] [a, b] ⟨_, rfl⟩, matrixBeat_checked [] [] ⟨_, rfl⟩, matrixBeat_checked [] [] ⟨_, rfl⟩,
        matrixBeat_checked [a] [] ⟨_, rfl⟩, matrixBeat_checked [] [a, b] ⟨_, rfl⟩, matrixBeat_checked [] [] ⟨_, rfl⟩,
        matrixBeat_checked [] [a] ⟨_, rfl⟩, matrixBeat_checked [] [] ⟨_, rfl⟩, matrixBeat_checked [] [a, b] ⟨_, rfl⟩,
        matrixBeat_checked [] [a] ⟨_, rfl⟩⟩
    have hpass {gs : List (Fin 64)} := matrixCheck_owner_clear (gs := gs) hl ho
    have hnone := hpass (gs := [])
    refine ⟨fun ha => ?_, fun hrows => ?_, fun hcfg => ?_⟩
    · simp only [List.forall_mem_cons, List.not_mem_nil, false_implies, implies_true, and_true]
      exact ⟨matrixCheck_owner_poison hl ho ha _ _, matrixCheck_owner_poison hl ho ha _ _, matrixCheck_owner_poison hl ho ha _ _,
        matrixCheck_owner_poison hl ho ha _ _, matrixCheck_owner_poison hl ho ha _ _, matrixCheck_owner_poison hl ho ha _ _⟩
    · exact ⟨matrixBeat_first (hnone rfl) hrows ⟨_, rfl⟩, matrixBeat_first (hnone rfl) hrows ⟨_, rfl⟩⟩
    · have hcfg : (!s.myCore.cfgd) = true := by
        rw [Bool.not_eq_true']
        exact hcfg
      refine ⟨matrixBeat_first (hnone rfl) hcfg ⟨_, rfl⟩, matrixBeat_first (hnone rfl) hcfg ⟨_, rfl⟩,
        matrixBeat_first (hnone rfl) hcfg ⟨_, rfl⟩, fun hv => matrixBeat_first (matrixCheck_owner_v hl ho hv) hcfg ⟨_, rfl⟩, fun ha hb => ?_⟩
      have hclear : s.me.firstPoison ([a, b].map (·.val)) = none :=
        (Ctx.firstPoison_cons_clear ha _).trans (Ctx.firstPoison_cons_clear hb [])
      exact ⟨matrixBeat_first (hpass hclear) hcfg ⟨_, rfl⟩, matrixBeat_first (hpass hclear) hcfg ⟨_, rfl⟩,
        matrixBeat_first (hpass hclear) hcfg ⟨_, rfl⟩⟩

end Sys2Proof.Machine
end

section
/-!
PROOFS. The element-wise vector instructions (R285 to R289): the forms of one definition differ in the function of an element alone.
-/

namespace Sys2Proof.Machine

theorem elem_lt (w : Nat) (v : Vec) (j : Nat) : elem w v j < 2 ^ w := Nat.mod_lt _ (Nat.two_pow_pos w)

theorem wrap_natCast (w n : Nat) : wrap w (n : Int) = n % 2 ^ w := by
  rw [wrap]
  norm_cast

theorem wrap_sub (w u v : Nat) (hv : v < 2 ^ w) : wrap w ((u : Int) - v) = (u + 2 ^ w - v) % 2 ^ w := by
  have h : ((u : Int) - v) % ((2 ^ w : Nat) : Int) = ((u + 2 ^ w - v : Nat) : Int) % ((2 ^ w : Nat) : Int) := by
    rw [Nat.cast_sub (by omega), Nat.cast_add, add_sub_right_comm, Int.add_emod_right]
  rw [wrap, ← wrap_natCast, wrap]
  exact congrArg Int.toNat h

theorem wrap_fdiv (w k : Nat) (x : Int) : wrap w (x.fdiv ((2 ^ k : Nat) : Int)) = (x.fdiv (2 ^ k : Int) % 2 ^ w).toNat := by
  rw [wrap, Nat.cast_pow, Nat.cast_two]

/-- Two instructions of one source form answer alike where their functions agree on elements. -/
theorem lanewise_congr {s : State} {lat : Nat} {d : Fin 64} {ew lw : Nat} {m : Mask} {tag : Bool} {f g : Nat → Elem} (h : ∀ j, f j = g j) :
    s.lanewise lat d ew lw m tag f = s.lanewise lat d ew lw m tag g := congrArg _ (funext h)

/-- Settles O30: VADD, VSUB and VSHR over the integers are the natural-number functions on elements; the rest is by definition. -/
theorem vectorArithmetic : Obligations.VectorArithmetic := by
  unfold Obligations.VectorArithmetic
  intro s d a b m t x
  refine ⟨?_, ?_⟩
  · rintro ew lw f rfl rfl rfl
    simp only [List.forall_mem_cons, List.not_mem_nil, false_implies, implies_true, and_true]
    exact ⟨⟨rfl, rfl, rfl, rfl, rfl⟩, ⟨rfl, rfl⟩, ⟨rfl, rfl, rfl, rfl, rfl, rfl⟩, rfl⟩
  · rintro w lw sg rfl rfl rfl
    simp only [List.forall_mem_cons, List.not_mem_nil, false_implies, implies_true, and_true]
    refine ⟨⟨?_, ?_, rfl, rfl, rfl, rfl, rfl, ?_, rfl, rfl, rfl, rfl⟩, rfl, rfl⟩
    · exact congrArg Host.Outcome.next (lanewise_congr fun j => Prod.ext (wrap_natCast _ _) rfl)
    · exact congrArg Host.Outcome.next (lanewise_congr fun j => Prod.ext (wrap_sub _ _ _ (elem_lt _ _ _)) rfl)
    · exact congrArg Host.Outcome.next (lanewise_congr fun j => Prod.ext (wrap_fdiv _ _ _) rfl)

end Sys2Proof.Machine
end

section
/-!
PROOFS. Reductions, conversions, packing, slicing and recombination (R276, R295 to R301).
-/

namespace Sys2Proof.Machine

/-! ### The least exponent of VAMAX (R296) -/

theorem maxInt_isLeast {xs : List Int} : (maxInt xs = none ↔ xs = []) ∧ ∀ e, maxInt xs = some e → e ∈ xs ∧ ∀ x ∈ xs, x ≤ e := by
  induction xs with
  | nil => exact ⟨⟨fun _ => rfl, fun _ => rfl⟩, fun e h => by cases h⟩
  | cons x xs ih =>
    obtain ⟨hnone, hsome⟩ := ih
    cases hm : maxInt xs with
    | none =>
      obtain rfl := hnone.1 hm
      refine ⟨by simp [maxInt], fun e h => ?_⟩
      obtain rfl := Option.some.inj h
      simp
    | some y =>
      obtain ⟨hy, hle⟩ := hsome y hm
      have hmax : maxInt (x :: xs) = some (max x y) := by
        rw [maxInt]
        simp only [hm]
      refine ⟨by simp [hmax], fun e h => ?_⟩
      obtain rfl := Option.some.inj (hmax.symm.trans h)
      refine ⟨(max_choice x y).elim (fun h => by simp [h]) (fun h => by simp [h, hy]), fun z hz => ?_⟩
      obtain rfl | hz := List.mem_cons.1 hz
      · exact le_max_left _ _
      · exact (hle z hz).trans (le_max_right _ _)

theorem maxInt_getD_mem {xs : List Int} {x : Int} (h : x ∈ xs) : (maxInt xs).getD 0 ∈ xs ∧ x ≤ (maxInt xs).getD 0 := by
  cases hm : maxInt xs with
  | none => exact absurd (maxInt_isLeast.1.1 hm) (List.ne_nil_of_mem h)
  | some e =>
    obtain ⟨he, hle⟩ := maxInt_isLeast.2 e hm
    exact ⟨he, hle x h⟩

/-- The exponents of the selected finite elements that are not zero (R296). -/
def finiteExps (f : Fmt) (ew lw : Nat) (k : Mask) (p : Vec) : List Int :=
  (List.range (2048 / ew)).filterMap fun j =>
    if k.getLsbD (j * ew / lw) then
      match f.value (elem ew p j) with
      | .fin _ u e => if u = 0 then none else some (leastExp u e)
      | _ => none
    else none

theorem mem_finiteExps {f : Fmt} {ew lw : Nat} {k : Mask} {p : Vec} {x : Int} : x ∈ finiteExps f ew lw k p ↔
    ∃ j n u q, j < 2048 / ew ∧ k.getLsbD (j * ew / lw) = true ∧ f.value (elem ew p j) = .fin n u q ∧ u ≠ 0 ∧ leastExp u q = x := by
  rw [finiteExps, List.mem_filterMap]
  constructor
  · rintro ⟨j, hj, h⟩
    split_ifs at h with hk
    split at h
    next n u q hv =>
      split_ifs at h with hu
      exact ⟨j, n, u, q, List.mem_range.1 hj, hk, hv, hu, Option.some.inj h⟩
    next => cases h
  · rintro ⟨j, n, u, q, hj, hk, hv, hu, rfl⟩
    refine ⟨j, List.mem_range.2 hj, ?_⟩
    rw [if_pos hk]
    simp only [hv, hu, if_false]

theorem two_pow_bitLen {u : Nat} (hu : u ≠ 0) : 2 ^ (bitLen u - 1) ≤ u ∧ u < 2 ^ bitLen u ∧ 1 ≤ bitLen u := by
  rw [bitLen, if_neg hu, Nat.add_sub_cancel]
  exact ⟨Nat.log2_self_le hu, Nat.lt_log2_self, Nat.le_add_left 1 _⟩

theorem lt_two_pow_leastExp {u : Nat} (hu : u ≠ 0) (q : Int) : (u : ℚ) * 2 ^ q < 2 ^ leastExp u q := by
  rw [leastExp, zpow_add₀ two_ne_zero, mul_comm, zpow_natCast]
  exact mul_lt_mul_of_pos_left (by exact_mod_cast (two_pow_bitLen hu).2.1) (zpow_pos two_pos q)

theorem two_pow_leastExp_le {u : Nat} (hu : u ≠ 0) (q : Int) : (2 : ℚ) ^ (leastExp u q - 1) ≤ (u : ℚ) * 2 ^ q := by
  obtain ⟨hle, -, hpos⟩ := two_pow_bitLen hu
  have he : leastExp u q - 1 = q + ((bitLen u - 1 : Nat) : Int) := by
    rw [leastExp, Nat.cast_sub hpos]
    ring
  rw [he, zpow_add₀ two_ne_zero, mul_comm, zpow_natCast]
  exact mul_le_mul_of_nonneg_right (by exact_mod_cast hle) (zpow_pos two_pos q).le

/-- The exponent of VAMAX bounds every selected finite element and no lesser one does; without such an element it is 0. -/
theorem finiteExps_max (f : Fmt) (ew lw : Nat) (k : Mask) (p : Vec) (e : Int) (he : e = (maxInt (finiteExps f ew lw k p)).getD 0) :
    (∀ j n u q, j < 2048 / ew → k.getLsbD (j * ew / lw) = true → f.value (elem ew p j) = .fin n u q → u ≠ 0 → (u : ℚ) * 2 ^ q < 2 ^ e) ∧
    ((∃ j n u q, j < 2048 / ew ∧ k.getLsbD (j * ew / lw) = true ∧ f.value (elem ew p j) = .fin n u q ∧ u ≠ 0) →
      ∃ j n u q, j < 2048 / ew ∧ k.getLsbD (j * ew / lw) = true ∧ f.value (elem ew p j) = .fin n u q ∧
        (2 : ℚ) ^ (e - 1) ≤ (u : ℚ) * 2 ^ q) ∧
    ((∀ j n u q, j < 2048 / ew → k.getLsbD (j * ew / lw) = true → f.value (elem ew p j) = .fin n u q → u = 0) → e = 0) := by
  subst he
  refine ⟨fun j n u q hj hk hv hu => ?_, fun ⟨j, n, u, q, hj, hk, hv, hu⟩ => ?_, fun hzero => ?_⟩
  · refine (lt_two_pow_leastExp hu q).trans_le (zpow_le_zpow_right₀ one_le_two ?_)
    exact (maxInt_getD_mem (mem_finiteExps.2 ⟨j, n, u, q, hj, hk, hv, hu, rfl⟩)).2
  · have hmem := (maxInt_getD_mem (mem_finiteExps.2 ⟨j, n, u, q, hj, hk, hv, hu, rfl⟩)).1
    obtain ⟨j', n', u', q', hj', hk', hv', hu', he⟩ := mem_finiteExps.1 hmem
    refine ⟨j', n', u', q', hj', hk', hv', ?_⟩
    rw [← he]
    exact two_pow_leastExp_le hu' q'
  · have hnil : finiteExps f ew lw k p = [] := List.eq_nil_iff_forall_not_mem.2 fun x hx => by
      obtain ⟨j, n, u, q, hj, hk, hv, hu, -⟩ := mem_finiteExps.1 hx
      exact hu (hzero j n u q hj hk hv)
    rw [hnil]
    rfl

/-! ### Identities and slices -/

/-- The least value of an integer type, as its bits (R295). -/
theorem wrap_intRange_fst {w : Nat} (hw : 1 ≤ w) (sg : Bool) : wrap w (intRange w sg).1 = if sg then 2 ^ (w - 1) else 0 := by
  cases sg with
  | false => simp [wrap, intRange]
  | true =>
    obtain ⟨v, rfl⟩ := Nat.exists_eq_add_of_le' hw
    have hmod : (-((2 ^ v : Nat) : Int)) % (2 ^ (v + 1) : Int) = ((2 ^ v : Nat) : Int) := by
      rw [← Int.add_emod_right, pow_succ, Int.emod_eq_of_lt]
      · push_cast; ring
      · push_cast; linarith [pow_pos (two_pos (α := Int)) v]
      · push_cast; linarith [pow_pos (two_pos (α := Int)) v]
    rw [wrap, intRange, if_pos rfl, Nat.add_sub_cancel, hmod, if_pos rfl, Int.toNat_natCast]

theorem one_le_elemWI (t : Nat) : 1 ≤ elemWI t := Nat.mul_pos (by decide) (Nat.two_pow_pos _)

/-- VSPLIT of unpoisoned sources (R300). -/
theorem execVsplit_of_clear {s : State} {a b : Fin 64} (ha : s.vp a = false) (hb : s.vp b = false) : s.vecPoison [a, b] = none := by
  rw [State.vecPoison, if_neg (not_of_eq_false ha), State.vecPoison, if_neg (not_of_eq_false hb), State.vecPoison]

/-! ### Reading tiles -/

/-- Without an uncovered XACC a context reads each tile as it stands (R327). -/
theorem tileElems_of_covered {s : State} {core iss : Nat} (h : s.uncovered core s.tid iss = []) (units : List Nat) (t m : Nat) :
    s.tileElems ⟨s.cur.id, some core, iss, 0⟩ core units t m = s.tileRow ⟨s.cur.id, some core, iss, 0⟩ core t m := by
  have hbyte (a : Nat) : s.tileByte ⟨s.cur.id, some core, iss, 0⟩ core units a = s.see ⟨s.cur.id, some core, iss, 0⟩ 0 a := by
    unfold State.tileByte
    extract_lets us
    have hus : us = [] := h
    rw [hus, List.drop_nil, List.findSome?_nil]
    exact ite_self _
  simp only [State.tileElems, State.tileRow, State.seeAll, List.map_map, hbyte, Function.comp_def]

theorem not_any_notSl {co : Core} {tiles : List Nat} (h : ∀ j ∈ tiles, (co.modeOf j).sl = true) :
    ¬ (tiles.any fun i => !(co.modeOf i).sl) = true := by
  rw [List.any_eq_true]
  rintro ⟨j, hj, hj'⟩
  rw [h j hj] at hj'
  cases hj'

/-- Settles O32: by definition but for VAMAX, the identity of VRMAX, and the row as VRCMB reads it. -/
theorem vectorConversions : Obligations.VectorConversions := by
  unfold Obligations.VectorConversions
  refine ⟨?_, ?_⟩
  · rintro s d a b m t z l _ rfl
    refine ⟨?_, ?_, ?_, ?_, ?_, ?_⟩
    · rintro ew lw f rfl rfl rfl
      simp only [List.forall_mem_cons, List.not_mem_nil, false_implies, implies_true, and_true]
      exact ⟨⟨⟨_, rfl, rfl⟩, ⟨_, rfl, rfl⟩⟩, _, rfl, finiteExps_max _ _ _ _ _ _ rfl⟩
    · rintro w lw sg rfl rfl rfl
      simp only [List.forall_mem_cons, List.not_mem_nil, false_implies, implies_true, and_true]
      refine ⟨⟨_, rfl, rfl⟩, ⟨_, rfl, ?_⟩⟩
      rw [← wrap_intRange_fst (one_le_elemWI _)]
      rfl
    · rintro y c ew sw lw n es rfl rfl rfl rfl rfl
      rfl
    · rintro w base es rfl rfl rfl
      rfl
    · rintro w base rfl rfl
      rfl
    · rintro x f ew n r ha hb rfl rfl rfl rfl
      refine ⟨⟨x.toNat / 16 % 8, Nat.mod_lt _ (by decide)⟩, rfl, ?_⟩
      change execVsplit d a b x s = _
      simp only [execVsplit, execVsplit_of_clear ha hb]
      cases x.getLsbD 3 <;> rfl
  · rintro s d a g x co tiles ew mm n0 f es v rfl rfl htiles hew rfl rfl rfl hes hforeign
    have hnot : ¬ tiles.any s.tileForeign = true := by
      rw [List.any_eq_true]
      rintro ⟨j, hj, h⟩
      exact not_of_eq_false (hforeign j hj) h
    subst htiles
    refine ⟨fun hsl hacq => ⟨fun hu us j m => tileElems_of_covered hu us j m, ?_⟩, fun hsl => ?_⟩
    · have hmode := not_any_notSl hsl
      subst hes hew
      change execVrcmb d a g x s = _
      rw [execVrcmb]
      refine (if_neg hnot).trans ((if_neg hmode).trans ((if_neg (not_of_eq_false hacq)).trans ?_))
      simp only [List.map_map, Function.comp_def]
      cases x.getLsbD 6 <;> rfl
    · change execVrcmb d a g x s = _
      rw [execVrcmb]
      refine (if_neg hnot).trans ((if_pos ?_).trans rfl)
      obtain ⟨j, hj, h⟩ := hsl
      rw [List.any_eq_true]
      exact ⟨j, hj, by simp only [State.myCore, coreOf, h, Bool.not_false]⟩

end Sys2Proof.Machine
end

section
/-!
PROOFS. The matrix instructions complete (R302 to R325).
-/

namespace Sys2Proof.Machine

/-! ### What sr.mpc held -/

theorem keepMpc_loads (s : State) (id : Nat) : ∃ ls, s.keepMpc id = { s with loads := ls } ∧ ls.length = s.loads.length ∧
    ∀ (n : Nat) (x y : Load), s.loads[n]? = some x → ls[n]? = some y →
      y = x ∨ x.ctx = id ∧ s.matrixBefore id x.iss = false ∧
        ((∃ d lost, x.dest = .xmpc d none lost ∧ y = { x with dest := .xmpc d (some (s.ctx id).mpc) lost }) ∨
          ∃ d, x.dest = .xres d none ∧ y = { x with dest := .xres d (some (s.ctx id).mpc) }) := by
  refine ⟨_, rfl, List.length_map _, fun n x y hx hy => ?_⟩
  rw [List.getElem?_map, hx] at hy
  obtain rfl := Option.some.inj hy
  dsimp only
  split_ifs with h
  · split
    next d lost hd => exact .inr ⟨h.1, h.2, .inl ⟨d, lost, hd, rfl⟩⟩
    next d hd => exact .inr ⟨h.1, h.2, .inr ⟨d, hd, rfl⟩⟩
    next => exact .inl rfl
  · exact .inl rfl

theorem keepLost_loads (s : State) (id : Nat) : ∃ ls, s.keepLost id = { s with loads := ls } ∧ ls.length = s.loads.length ∧
    ∀ (n : Nat) (x y : Load), s.loads[n]? = some x → ls[n]? = some y →
      (∀ d lost, x.ctx = id → x.dest = .xmpc d none lost →
        y = { x with dest := .xmpc d none (lost || (s.ctx id).mpc.getLsbD 14) }) ∧
      ((x.ctx ≠ id ∨ ∀ d lost, x.dest ≠ .xmpc d none lost) → y = x) := by
  refine ⟨_, rfl, List.length_map _, fun n x y hx hy => ?_⟩
  rw [List.getElem?_map, hx] at hy
  obtain rfl := Option.some.inj hy
  dsimp only
  refine ⟨fun d lost hc hd => ?_, fun hnot => ?_⟩
  · rw [if_pos hc]
    simp only [hd]
  · split_ifs with hc
    · split
      next d lost hd => exact (hnot.elim (absurd hc) fun h => absurd hd (h d lost))
      next => rfl
    · rfl

/-! ### Entering the queue -/

theorem enqueue_of_room {s : State} (h : (s.core (s.cur.id / 4)).queue.length < 32) (op : XOp) (f : Core → Core) :
    s.enqueue op f = .next (s.queued op (f (s.core (s.cur.id / 4)))) := if_neg (Nat.not_le.2 h)

theorem not_unconfigured {s : State} (h : (s.core (s.cur.id / 4)).cfgd = true) : ¬ (!s.myCore.cfgd) = true := by
  rw [show s.myCore.cfgd = true from h]
  exact Bool.false_ne_true

/-- The beats of an owner without rows enter the queue with the configuration they name (R314). -/
theorem configure_of_empty {s : State} {k : Core} (hk : k = s.core (s.cur.id / 4)) (hpass : ∀ go, matrixCheck [] [] s go = go)
    (hroom : k.queue.length < 32) (h : k.np + k.ns = 0) (wa wb : Nat) (sl : Bool) (s1 : Nat) :
    configure wa wb sl s1 s = .next (s.queued .cfg { k with wa := wa, wb := wb, sl := sl, s1 := s1, cfgd := true }) := by
  subst hk
  rw [configure, hpass]
  exact (if_neg (not_not.2 h)).trans (enqueue_of_room hroom _ _)

section
variable {s : State} {k : Core} (hk : k = s.core (s.cur.id / 4)) (hroom : k.queue.length < 32)

include hk hroom

theorem execXpushA_of_room {c : Fin 32} {a b : Fin 64} {rows : List Acc} (hpass : ∀ go, matrixCheck [] [a, b] s go = go) (hcfg : k.cfgd = true)
    (h1 : field (s.gv b) 7 3 = 0) (h2 : field (s.gv b) 63 32 = 0) (hnp : k.np + (field (s.gv b) 2 0 + 1) ≤ 8)
    (hrows : checkAll (fun j : Nat => s.capCheck s.cur.id (s.me.kr c.val) [3] ((s.gv a).toInt + j * field (s.gv b) 31 8)
      (32 * widthB k.wa) 1 32) (List.range (field (s.gv b) 2 0 + 1)) = .ok rows) :
    execXpushA c a b s = .next (s.queued (.pushA (rows.map (·.addr)) (32 * widthB k.wa)) { k with np := k.np + (field (s.gv b) 2 0 + 1) }) := by
  subst hk
  have hrows' : checkAll (fun j : Nat => s.capCheck s.cur.id (s.me.kr c.val) [3] ((s.gv a).toInt + j * field (s.gv b) 31 8)
      (32 * widthB s.myCore.wa) pR 32) (List.range (field (s.gv b) 2 0 + 1)) = .ok rows := hrows
  rw [execXpushA, hpass]
  refine (if_neg (not_unconfigured hcfg)).trans ?_
  simp only [hrows']
  exact (if_neg (Nat.not_lt.2 hnp)).trans ((if_neg (not_or.2 ⟨not_not.2 h1, not_not.2 h2⟩)).trans (enqueue_of_room hroom _ _))

theorem execXpushW_of_room {c : Fin 32} {a b : Fin 64} {n : Nat} {lines : List (Nat × Nat × Nat)} {x : Acc}
    (hpass : ∀ go, matrixCheck [] [a, b] s go = go) (hcfg : k.cfgd = true) (h1 : field (s.gv b) 63 16 = 0)
    (hn : n = 4 * widthB k.wb * ones 8 (field (s.gv b) 15 8))
    (hlines : lines = s.sealedLines s.cur.id ((s.me.kr c.val).base + (s.gv a).toInt).toNat n)
    (hrel : ∀ l ∈ lines, s.released s.cur.id l.2.1 = true)
    (hx : s.capCheck s.cur.id (s.me.kr c.val) [4] (s.gv a).toInt n (if lines = [] then 1 else 257) 4 = .ok x) :
    execXpushW c a b s = .next (s.queued (.pushW x.addr (field (s.gv b) 7 0) (field (s.gv b) 15 8) (widthB k.wb)
      (lines.foldl (fun t l => Table.set t l.1 (s.sealKey l.2.1 l.2.2 l.1)) [])) k) := by
  subst hk hn
  have hperm : (if lines.isEmpty then pR else pR + pSEAL) = if lines = [] then 1 else 257 := if_congr List.isEmpty_iff rfl rfl
  have hkeys : ¬ (lines.any fun l => !s.released s.cur.id l.2.1) = true := by
    rw [List.any_eq_true]
    rintro ⟨l, hl, h⟩
    rw [hrel l hl] at h
    cases h
  rw [← hperm] at hx
  subst hlines
  rw [execXpushW, hpass]
  refine (if_neg (not_unconfigured hcfg)).trans ?_
  have hx' : s.capCheck s.cur.id (s.me.kr c.val) [4] (s.gv a).toInt (4 * widthB s.myCore.wb * ones 8 (field (s.gv b) 15 8))
      (if (s.sealedLines s.cur.id ((s.me.kr c.val).base + (s.gv a).toInt).toNat
        (4 * widthB s.myCore.wb * ones 8 (field (s.gv b) 15 8))).isEmpty then pR else pR + pSEAL) 4 = .ok x := hx
  simp only [hx']
  exact (if_neg (not_not.2 h1)).trans ((if_neg hkeys).trans (enqueue_of_room hroom _ _))

theorem execXacc_of_room {t : Fin 8} {a b : Fin 64} (hpass : ∀ go, matrixCheck [] [a, b] s go = go) (hcfg : k.cfgd = true)
    (hown : s.tileForeign t.val = false) (hns : k.ns ≠ 0) (hmode : k.modeDiffers t.val = false) (h1 : field (s.gv b) 15 14 = 0)
    (h2 : field (s.gv b) 63 48 = 0) (hsl : k.sl = false ∨ field (s.gv b) 13 8 < (k.s1 + 1) * (k.s1 + 2) / 2) :
    execXacc t a b s = .next (s.queued
      (.acc t.val (field (s.gv b) 7 0) (field (s.gv b) 13 8) (field (s.gv b) 47 16) k.sl (s.gv a)) { k with ns := k.ns - 1 }) := by
  subst hk
  have hslice : ¬ (s.myCore.sl && decide ((s.myCore.s1 + 1) * (s.myCore.s1 + 2) / 2 ≤ field (s.gv b) 13 8)) = true := by
    rw [Bool.and_eq_true, decide_eq_true_eq]
    exact fun h => hsl.elim (fun hf => not_of_eq_false hf h.1) fun hlt => Nat.not_le.2 hlt h.2
  rw [execXacc, hpass]
  refine (if_neg (not_unconfigured hcfg)).trans ((if_neg (not_of_eq_false hown)).trans ((if_neg hns).trans ((if_neg (not_of_eq_false hmode)).trans
    ((if_neg (not_or.2 ⟨not_not.2 h1, not_not.2 h2⟩)).trans ((if_neg hslice).trans (enqueue_of_room hroom _ _))))))

theorem execXdrain_of_room {t m : Fin 8} {a b : Fin 64} (hpass : ∀ go, matrixCheck [] [a] s go = go) (hown : s.tileForeign t.val = false)
    (h1 : field (s.gv a) 15 10 = 0) (h2 : field (s.gv a) 63 24 = 0) (hsl : m.val = 0 ∨ (k.modeOf t.val).sl = false)
    (hq : m.val < 2 ∨ field (s.gv a) 9 8 = 0) (hbusy : s.matrixBusy s.cur.id = false) (hacq : s.acquirePending s.cur.id s.me.iss = false) :
    ∃ u, u = State.put
        (s.queued (.drain t.val (field (s.gv a) 7 0) (field (s.gv a) 9 8) (field (s.gv a) 23 16) m.val b.val (s.me.step + 8)) k) 8
        (.v b.val (drainValue (k.header t.val) (s.tileRow ⟨s.cur.id, some (s.cur.id / 4), s.me.iss, 0⟩ (s.cur.id / 4) t.val (field (s.gv a) 7 0))
          (field (s.gv a) 7 0) (field (s.gv a) 9 8) (field (s.gv a) 23 16) m.val) (BitVec.allOnes 2048) false) ∧
      execXdrain t a b m s = .next (u.setMe { u.me with drains := u.me.drains ++ [s.me.iss] }) := by
  subst hk
  have hmode : ¬ ((decide (1 ≤ m.val) && (s.myCore.modeOf t.val).sl) = true ∨ 2 ≤ m.val ∧ field (s.gv a) 9 8 ≠ 0) := by
    rw [Bool.and_eq_true, decide_eq_true_eq]
    rintro (⟨hm, hs⟩ | ⟨hm, hf⟩)
    · exact hsl.elim (fun h0 => by omega) fun hf => not_of_eq_false hf hs
    · exact hq.elim (fun h0 => by omega) hf
  have hwait : ¬ (s.matrixBusy s.cur.id || s.acquirePending s.cur.id s.me.iss) = true := by
    rw [hbusy, hacq]
    exact Bool.false_ne_true
  refine ⟨_, rfl, ?_⟩
  rw [execXdrain, hpass]
  refine (if_neg (not_of_eq_false hown)).trans ((if_neg hmode).trans ((if_neg (not_or.2 ⟨not_not.2 h1, not_not.2 h2⟩)).trans
    ((if_neg hwait).trans ?_)))
  simp only [enqueue_of_room hroom]
  exact if_pos rfl

omit hroom in
theorem execXrel_of_quiet (ho : k.owner = some s.cur.id) (hbusy : s.matrixBusy s.cur.id = false) :
    execXrel s = .next (State.setMe ((s.keepMpc s.cur.id).setCore (s.cur.id / 4) { k with
      owner := none, cfgd := false, np := 0, ns := 0, active := [], shadow := [], fifo := [], banks := [], scales := [] })
      { s.me with mpc := s.me.mpc &&& ~~~0x4000#64 }) := by
  subst hk
  exact (if_neg (owns_of_owner ho)).trans ((if_neg (not_of_eq_false hbusy)).trans rfl)

theorem execXhdr_of_room {t m : Fin 8} {a b : Fin 64} {u : State} (ho : k.owner = some s.cur.id) (hb : s.gp b = false ∨ m.val = 0)
    (hown : s.tileForeign t.val = false) (hf : m.val = 0 ∨ field (s.gv b) 63 2 = 0)
    (hu : u = s.issueLoad 5 0 [] (.xhdr a.val t.val m.val (field (s.gv b) 1 0)) false false) :
    execXhdr t a b m s = .next (u.setCore (s.cur.id / 4) { k with queue := k.queue ++ [⟨s.tid, s.cur.id, s.me.iss, .hdr s.fresh⟩] }) := by
  subst hk hu
  have hpoison : ¬ (s.gp b && decide (m.val ≠ 0)) = true := by
    rw [Bool.and_eq_true, decide_eq_true_eq]
    exact fun h => hb.elim (fun hp => not_of_eq_false hp h.1) h.2
  have hword : ¬ (m.val ≠ 0 ∧ field (s.gv b) 63 2 ≠ 0) := fun h => hf.elim h.1 h.2
  rw [execXhdr]
  exact (if_neg (owns_of_owner ho)).trans ((if_neg hpoison).trans ((if_neg (not_of_eq_false hown)).trans ((if_neg hword).trans
    ((if_neg (Nat.not_le.2 hroom)).trans rfl))))

end

theorem execXacq_free {s : State} {k : Core} (hk : k = s.core (s.cur.id / 4)) (ho : k.owner = none) (hq : k.queue = []) (hw : k.waiters = []) :
    execXacq s = .next (State.setMe ((s.keepMpc s.cur.id).setCore (s.cur.id / 4) { k with
      owner := some s.cur.id, wa := 0, wb := 0, sl := false, s1 := 0, cfgd := false, np := 0, ns := 0
      active := [], shadow := [], fifo := [], banks := [], scales := [] }) { s.me with mpc := 0 }) := by
  subst hk
  have hnot : s.myCore.owner ≠ some s.cur.id := fun h => by
    rw [show s.myCore.owner = none from ho] at h
    cases h
  have hfree : (s.myCore.owner.isNone && s.myCore.queue.isEmpty && s.myCore.waiters.isEmpty) = true := by
    rw [show s.myCore.owner = none from ho, show s.myCore.queue = [] from hq, show s.myCore.waiters = [] from hw]
    rfl
  exact (if_neg hnot).trans ((if_pos hfree).trans rfl)

/-- Settles O36, by the rule of each instruction. -/
theorem matrixComplete : Obligations.MatrixComplete := by
  unfold Obligations.MatrixComplete
  refine ⟨fun s r => ⟨rfl, rfl⟩, keepMpc_loads, keepLost_loads, fun s hb => (if_neg (not_of_eq_false hb)).trans rfl,
    fun s k hk => ⟨execXacq_free hk, fun ho => ⟨?_, execXrel_of_quiet hk ho, fun t m a b u hroom => execXhdr_of_room hk hroom ho⟩⟩,
    fun s k hk ho hl hroom => ?_⟩
  · subst hk
    exact if_pos ho
  have hg {gs : List (Fin 64)} (h : s.me.firstPoison (gs.map (·.val)) = none) (go : Result) : matrixCheck [] gs s go = go := by
    subst hk
    exact matrixCheck_owner_clear hl ho h go
  have hg0 := hg (gs := []) rfl
  have hg1 {a : Fin 64} (ha : s.gp a = false) := hg (gs := [a]) (Ctx.firstPoison_cons_clear ha [])
  have hg2 {a b : Fin 64} (ha : s.gp a = false) (hb : s.gp b = false) :=
    hg (gs := [a, b]) ((Ctx.firstPoison_cons_clear ha _).trans (Ctx.firstPoison_cons_clear hb []))
  refine ⟨fun a b h => configure_of_empty hk hg0 hroom h _ _ _ _, fun n h => configure_of_empty hk hg0 hroom h _ _ _ _,
    fun c a b rows hcfg ha hb h1 h2 hnp => execXpushA_of_room hk hroom (hg2 ha hb) hcfg h1 h2 hnp,
    fun c a b n lines x hcfg ha hb h1 hn hlines hrel => execXpushW_of_room hk hroom (hg2 ha hb) hcfg h1 hn hlines hrel,
    fun hcfg => ?_, fun hcfg hnp hns => ?_, fun r g hcfg hr => ?_,
    fun t a b hcfg ha hb hown hns hmode h1 h2 => execXacc_of_room hk hroom (hg2 ha hb) hcfg hown hns hmode h1 h2,
    fun t hcfg hown => ?_, fun t a hown ha hf => ?_, fun t hown => ?_, fun t a b e hown ha hb hf => ?_,
    fun t m a b hown ha h1 h2 hsl hq => execXdrain_of_room hk hroom (hg1 ha) hown h1 h2 hsl hq⟩
  all_goals subst hk
  · exact (hg0 _).trans ((if_neg (not_unconfigured hcfg)).trans (enqueue_of_room hroom _ _))
  · have hrows : ¬ (s.myCore.np = 0 ∨ s.myCore.ns = 2) := not_or.2 ⟨Nat.one_le_iff_ne_zero.1 hnp, hns⟩
    exact (hg0 _).trans ((if_neg (not_unconfigured hcfg)).trans ((if_neg hrows).trans (enqueue_of_room hroom _ _)))
  · exact (matrixCheck_owner_v hl ho hr _).trans ((if_neg (not_unconfigured hcfg)).trans (enqueue_of_room hroom _ _))
  · exact (hg0 _).trans ((if_neg (not_unconfigured hcfg)).trans ((if_neg (not_of_eq_false hown)).trans (enqueue_of_room hroom _ _)))
  · exact (hg1 ha _).trans ((if_neg (not_of_eq_false hown)).trans ((if_neg (not_not.2 hf)).trans (enqueue_of_room hroom _ _)))
  · exact (hg0 _).trans ((if_neg (not_of_eq_false hown)).trans (enqueue_of_room hroom _ _))
  · exact (hg2 ha hb _).trans ((if_neg (not_of_eq_false hown)).trans ((if_neg (not_not.2 hf)).trans (enqueue_of_room hroom _ _)))

end Sys2Proof.Machine
end

section
/-!
PROOFS. The matrix queue (R306, R372): an XPUSH.A at its head waits while an atomic locks a word of its rows, which O50 leaves out.
-/

namespace Sys2Proof.Machine

/-- An XPUSH.A of one row of 32 bytes of the A buffer. -/
def rowPush : XEntry := ⟨0, 0, 0, .pushA [0] 32⟩

/-- An atomic of the A buffer's first word, which holds that word locked (R372). -/
def lockingAtom : Atom :=
  { id := 0, tid := 0, ctx := 0, iss := 0, pc := 0, a := ⟨3, 0, 0, 0⟩, op := .add, x := 0, y := 0, use := 1, scope := 0, dest := none
    asc := false, issued := 0, got := some (0, [flatA 0 / 8]) }

/-- A core whose oldest matrix operation reads the word that the atomic locks. -/
def lockedRow : State := { State.reset with cores := [(0, { queue := [rowPush] })], atoms := [lockingAtom] }

theorem lockedRow_waits : exec (.xpushAPerform 0) lockedRow = .next lockedRow := by
  change execXpushAPerform 0 lockedRow = _
  rw [execXpushAPerform, atHead, if_neg (by decide)]
  have hgo : ¬ (lockedRow.entryWaits rowPush || lockedRow.haltedFor rowPush.tid) = true := by decide +kernel
  refine (if_neg hgo).trans ?_
  rfl

theorem lockedRow_free : lockedRow.entryWaits rowPush = false ∧ lockedRow.haltedFor rowPush.tid = false ∧
    ∀ a ∈ [0], (lockedRow.setCore 0 { lockedRow.core 0 with queue := [] }).ownStore rowPush.ctx rowPush.iss (bufPlaces 0 3 a 32) = false := by
  decide +kernel

/-- Refutes O50: an XPUSH.A whose rows hold a word that an atomic locks is not performed, though its context has no store to them pending. -/
theorem not_matrixQueue : ¬ Obligations.MatrixQueue := by
  unfold Obligations.MatrixQueue
  intro h
  obtain ⟨hwaits, hhalted, hown⟩ := lockedRow_free
  obtain ⟨hperform, -⟩ := h lockedRow _ 0 rowPush [] _ (by decide) rfl rfl rfl
  obtain ⟨hpush, -⟩ := hperform hwaits hhalted
  have hstep := Host.Outcome.next.inj (lockedRow_waits.symm.trans (hpush [0] 32 rfl hown))
  have hqueue : (lockedRow.core 0).queue = [] := by
    rw [hstep, State.core_setCore, if_pos rfl]
  exact absurd hqueue (by decide)

end Sys2Proof.Machine
end

section
/-!
PROOFS. How a wait ends (R164, R215, R242 to R247, R313, R324, R371 to R389).
-/

namespace Sys2Proof.Machine

section
variable {s : State} {id : Nat} {t : Machine.Task} (ht : (s.ctx id).task = some t)

include ht

/-! ### Waits on a flag or a record -/

theorem exec_fwaitComplete {a : Acc} {v pc : Word} {sc iss : Nat} (hw : (s.ctx id).wait = some (.fwait a v sc iss pc)) :
    exec (.fwaitComplete id) s = if s.waitFree t id a iss then .next (s.tryFlag t id a v iss pc) else .next s := by
  change execFwaitComplete id s = _
  simp only [execFwaitComplete, hw, ht]

theorem exec_bwaitComplete_held {a : Acc} {gen sc iss : Nat} {pc : Word} (hw : (s.ctx id).wait = some (.bwait a gen sc iss pc))
    (hf : s.waitFree t id a iss = false) : exec (.bwaitComplete id) s = .next s := by
  change execBwaitComplete id s = _
  simp only [execBwaitComplete, hw, ht, hf, Bool.not_false, if_true]

theorem exec_bwaitComplete_late {a : Acc} {gen sc iss : Nat} {pc : Word} {e : Nat × Nat} (hw : (s.ctx id).wait = some (.bwait a gen sc iss pc))
    (hf : s.waitFree t id a iss = true) (hr : s.waitRead t id a iss = .error e) :
    exec (.bwaitComplete id) s = .next (s.waitLate id t.tid e iss pc) := by
  change execBwaitComplete id s = _
  simp only [execBwaitComplete, hw, ht, hf, hr, Bool.not_true, Bool.false_eq_true, if_false]

/-- A BWAIT whose record has not moved on leaves the state as it is. -/
theorem exec_bwaitComplete_same {a : Acc} {gen sc iss x : Nat} {pc : Word} {ws : List Write}
    (hw : (s.ctx id).wait = some (.bwait a gen sc iss pc)) (hf : s.waitFree t id a iss = true) (hr : s.waitRead t id a iss = .ok (x, ws))
    (hgen : (barRec x).gen = gen) (hab : (barRec x).aborted = false) : exec (.bwaitComplete id) s = .next s := by
  change execBwaitComplete id s = _
  simp only [execBwaitComplete, hw, ht, hf, hr, hgen, hab, Bool.not_true, Bool.not_false, Bool.false_eq_true, if_false, and_self, if_true]

section
variable {a : Acc} {gen sc iss x : Nat} {pc : Word} {ws : List Write} {p : State} (hw : (s.ctx id).wait = some (.bwait a gen sc iss pc))
  (hf : s.waitFree t id a iss = true) (hr : s.waitRead t id a iss = .ok (x, ws)) (hmoved : (barRec x).aborted = true ∨ (barRec x).gen ≠ gen)

include hw hf hr hmoved

theorem exec_bwaitComplete_token (hp : s.waitPay t id a = (p, false)) : exec (.bwaitComplete id) s = .next p := by
  have hnot : ¬ ((barRec x).gen = gen ∧ (!(barRec x).aborted) = true) := fun h =>
    hmoved.elim (fun hab => by rw [hab] at h; exact Bool.false_ne_true h.2) fun hgen => hgen h.1
  change execBwaitComplete id s = _
  simp only [execBwaitComplete, hw, ht, hf, hr, hnot, hp, Bool.not_true, Bool.false_eq_true, if_false]

/-- A BWAIT whose record has moved on ends, with a fault left behind where the record has ERROR or ABORTED set. -/
theorem exec_bwaitComplete_ends (hp : s.waitPay t id a = (p, true)) : exec (.bwaitComplete id) s =
    .next (State.setCtx (State.prepareReads t id a.space p [(a.addr, a.size)]) id
      { Ctx.observe { s.ctx id with wait := none, arrive := (s.ctx id).arrive.filter fun q => decide (q.1 ≠ a.where) } ws 5 iss with
        after := if (barRec x).error || (barRec x).aborted then some (BitVec.ofNat 64 (barRec x).flags) else (s.ctx id).after }) := by
  have hnot : ¬ ((barRec x).gen = gen ∧ (!(barRec x).aborted) = true) := fun h =>
    hmoved.elim (fun hab => by rw [hab] at h; exact Bool.false_ne_true h.2) fun hgen => hgen h.1
  change execBwaitComplete id s = _
  simp only [execBwaitComplete, hw, ht, hf, hr, hnot, hp, Bool.not_true, Bool.false_eq_true, if_false]

end

/-- A barrier fault left behind by a BWAIT comes before the next bundle that is no delay bundle. -/
theorem attempt_of_after {a : Word} (ha : (s.ctx id).after = some a) (hd : (s.ctx id).delay = none) :
    s.attempt id = .next { s.barrierFault id a with cur := { id := id, verdict := .trapped } } := by
  simp only [State.attempt, ht, hd, ha, Option.isNone_none, if_true]

/-! ### Waits on matrix operations, pages, fences and queues -/

theorem exec_xwaitComplete (hw : (s.ctx id).wait = some .xwait) : exec (.xwaitComplete id) s =
    .next (if s.matrixBusy id then s else State.setCtx (s.coverXaccs (id / 4) id t.tid (s.ctx id).iss) id { s.ctx id with wait := none }) := by
  change execXwaitComplete id s = _
  simp only [execXwaitComplete, hw, ht]
  exact (apply_ite _ _ _ _).symm

section
variable {a : Acc} {iss : Nat} {pc : Word} {promised : List (Nat × Nat)} (hw : (s.ctx id).wait = some (.tlock a iss pc promised))

include hw

theorem exec_tlockComplete_held (hh : s.hostWaits t.func a.space a.addr a.size = true) : exec (.tlockComplete id) s = .next s := by
  change execTlockComplete id s = _
  simp only [execTlockComplete, hw, ht, hh, if_true]

theorem exec_tlockComplete_locks (hh : s.hostWaits t.func a.space a.addr a.size = false)
    (hf : (s.pages t.func a.space a.addr a.size).filterMap (s.lockFault t a) = []) : exec (.tlockComplete id) s =
    .next (State.setCtx (State.prepareReads t id a.space s (s.lockNow (id / 4) promised (populatedPages (s.pages t.func a.space a.addr a.size)))) id
      { s.ctx id with wait := none, locks := (s.ctx id).locks ++
        [⟨a.space, a.addr, a.size, s.lockNow (id / 4) promised (populatedPages (s.pages t.func a.space a.addr a.size))⟩] }) := by
  change execTlockComplete id s = _
  simp only [execTlockComplete, hw, ht, hh, hf, Bool.false_eq_true, if_false]
  rfl

theorem exec_tlockComplete_late {e : Nat × Nat} {es : List (Nat × Nat)} (hh : s.hostWaits t.func a.space a.addr a.size = false)
    (hf : (s.pages t.func a.space a.addr a.size).filterMap (s.lockFault t a) = e :: es) : exec (.tlockComplete id) s =
    .next ((s.setCtx id { s.ctx id with wait := none }).addLate t.tid ⟨e.1, BitVec.ofNat 64 e.2, pc, iss, [], false⟩) := by
  change execTlockComplete id s = _
  simp only [execTlockComplete, hw, ht, hh, hf, Bool.false_eq_true, if_false]

end

theorem exec_fenceComplete_held {sc : Nat} (hw : (s.ctx id).wait = some (.fence sc)) (h : s.fenceReady id sc = false ∨ s.yields id = true) :
    exec (.fenceComplete id) s = .next s := by
  have hheld : (!s.fenceReady id sc || s.yields id) = true := by
    rw [Bool.or_eq_true, Bool.not_eq_true']
    exact h
  change execFenceComplete id s = _
  simp only [execFenceComplete, hw, ht, hheld, if_true]

theorem exec_fenceComplete_ends {sc : Nat} (hw : (s.ctx id).wait = some (.fence sc)) (hr : s.fenceReady id sc = true) (hy : s.yields id = false)
    (hl : (s.ctx id).late = none) (hrej : ∀ r ∈ s.rejects, r.tid = t.tid → sc < r.scope) :
    exec (.fenceComplete id) s = .next ((s.setCtx id { s.ctx id with wait := none }).coverWrites id (s.ctx id).iss) := by
  have hgo : ¬ (!s.fenceReady id sc || s.yields id) = true := by
    rw [hr, hy]
    exact Bool.false_ne_true
  change execFenceComplete id s = _
  unfold execFenceComplete
  extract_lets c s1
  split
  next sc' t' hw' ht' =>
    obtain rfl : sc = sc' := Wait.fence.inj (Option.some.inj (hw.symm.trans hw'))
    obtain rfl : t = t' := Option.some.inj (ht.symm.trans ht')
    rw [if_neg hgo]
    have hlate : (s1.ctx id).late = none := (congrArg Ctx.late (State.ctx_setCtx_same s id _)).trans hl
    rw [State.fenceFault_none hlate hrej]
  next h => exact absurd ht (h sc t hw)

end

theorem exec_qfenceComplete {s : State} {id q : Nat} (hw : (s.ctx id).wait = some (.qfence q)) : exec (.qfenceComplete id) s =
    .next (if s.queuesDone id q then State.setCtx (s.coverQueues id (s.ctx id).iss q) id { s.ctx id with wait := none } else s) := by
  change execQfenceComplete id s = _
  simp only [execQfenceComplete, hw]
  exact (apply_ite _ _ _ _).symm

/-- What a TLOCK locks: populated pages, those it was promised entries for among them, and others within the core's 32 entries. -/
theorem lockNow_spec (s : State) (core : Nat) (promised now : List (Nat × Nat)) :
    (∀ p ∈ s.lockNow core promised now, p ∈ now) ∧ (∀ p ∈ now, p ∈ promised → p ∈ s.lockNow core promised now) ∧
      ((s.lockNow core promised now).filter fun p => decide (p ∉ promised)).length ≤ 32 - s.lockedEntries core := by
  refine ⟨fun p hp => ?_, fun p hp hpr => ?_, ?_⟩
  · exact (List.mem_append.1 hp).elim List.mem_of_mem_filter fun h => List.mem_of_mem_filter (List.mem_of_mem_take h)
  · exact List.mem_append_left _ (List.mem_filter.2 ⟨hp, List.contains_iff_mem.2 hpr⟩)
  · have hnone : (now.filter promised.contains).filter (fun p => decide (p ∉ promised)) = [] :=
      List.filter_eq_nil_iff.2 fun p hp => by simpa using (List.mem_filter.1 hp).2
    rw [State.lockNow, List.filter_append, hnone, List.nil_append]
    exact (List.length_filter_le _ _).trans (List.length_take_le _ _)

/-- Settles O49, by the rule of each wait. -/
theorem waitsComplete : Obligations.WaitsComplete := by
  unfold Obligations.WaitsComplete
  intro s id t
  refine ⟨fun ht => ⟨fun a v sc iss pc hw => ⟨fun hf => ?_, fun x ws hf hr => ⟨fun u hv hp => ?_, fun u hv hp => ?_, fun hv => ?_⟩, fun e hf hr => ?_⟩,
    fun a gen sc iss pc hw => ⟨exec_bwaitComplete_held ht hw, fun x ws p c hf hr hp hc => ⟨fun hgen her hab => ?_, fun h => ?_⟩,
      fun x ws p hf hr hp hm => exec_bwaitComplete_token ht hw hf hr hm hp, fun x ws hf hr => exec_bwaitComplete_same ht hw hf hr,
      fun e => exec_bwaitComplete_late ht hw⟩,
    fun a => attempt_of_after ht, exec_xwaitComplete ht, fun hw hb => ?_, fun hw hb => ?_, ?_,
    fun sc hw => ⟨exec_fenceComplete_held ht hw, exec_fenceComplete_ends ht hw⟩, fun q => exec_qfenceComplete⟩,
    fun h n hw => ?_, fun h n hw => ?_, fun l1 slot g hg hl hd hb ha => ?_, fun core w ws hc ho hq hws hw hp hall u hu => ?_,
    fun core hc he hd hi => ?_, fun core hc he => ?_⟩
  · rw [exec_fwaitComplete ht hw, if_neg (not_of_eq_false hf)]
  · rw [exec_fwaitComplete ht hw, if_pos hf, State.tryFlag, hr]
    simp only [hv, if_true, hp]
  · rw [exec_fwaitComplete ht hw, if_pos hf, State.tryFlag, hr]
    simp only [hv, if_true, hp]
  · rw [exec_fwaitComplete ht hw, if_pos hf, State.tryFlag, hr]
    simp only [Nat.not_le.2 hv, if_false]
  · rw [exec_fwaitComplete ht hw, if_pos hf, State.tryFlag, hr]
  · rw [exec_bwaitComplete_ends ht hw hf hr (.inr hgen) hp, her, hab, hc]
    rfl
  · have hflags : ((barRec x).error || (barRec x).aborted) = true := by
      rw [Bool.or_eq_true]
      exact h.elim .inr fun h => .inl h.2
    rw [exec_bwaitComplete_ends ht hw hf hr (h.imp_right And.left) hp, hflags, hc]
    rfl
  · change execXrelComplete id s = _
    simp only [execXrelComplete, hw, hb, Bool.false_eq_true, if_false]
    rfl
  · change execXrelComplete id s = _
    simp only [execXrelComplete, hw, hb, if_true]
  · rintro a iss pc promised _ hw rfl
    exact ⟨exec_tlockComplete_held ht hw, fun hh => ⟨exec_tlockComplete_locks ht hw hh, fun e es => exec_tlockComplete_late ht hw hh⟩,
      lockNow_spec s (id / 4) promised _⟩
  · change execCbwaitComplete id s = _
    simp only [execCbwaitComplete, hw]
    exact (apply_ite _ _ _ _).symm
  · change execCbwaitComplete id s = _
    simp only [execCbwaitComplete, hw]
    exact (apply_ite _ _ _ _).symm
  · have hgone : ¬ (s.atoms.any fun a => decide (a.op = .gleave) && decide (a.a = g.acc)) = true := by
      rw [List.any_eq_true]
      rintro ⟨a, hm, h⟩
      rw [Bool.and_eq_true, decide_eq_true_eq, decide_eq_true_eq] at h
      exact ha a hm h.1 h.2
    change execGroupDrainComplete l1 slot s = _
    simp only [execGroupDrainComplete, hg, hl, hd, hb, hgone, ne_eq, not_true_eq_false, Bool.not_false, Bool.and_self, if_false, if_true]
  · have hfilter : (s.core core).waiters.filter (fun w => (s.ctx w).wantsArray && decide ((s.ctx w).preempt ≠ .out)) = w :: ws := by
      rw [hws, List.filter_eq_self]
      intro x hx
      rw [Bool.and_eq_true, decide_eq_true_eq]
      exact (List.mem_cons.1 hx).elim (fun h => h ▸ ⟨hw, hp⟩) (hall x)
    change execArrayAcquire core s = _
    simp only [execArrayAcquire, Nat.not_le.2 hc, ho, hq, hfilter, hu, Option.isSome_none, List.isEmpty_nil, Bool.not_true, Bool.or_self,
      Bool.false_eq_true, if_false]
  · have hdue : s.escapeDue core = true := by rw [State.escapeDue, hd, Bool.and_true, decide_eq_true_eq]; exact he
    have hlower : ¬ ((List.range (core % 8)).any fun i => s.escapeDue (core / 8 * 8 + i)) = true := by
      rw [List.any_eq_true]
      rintro ⟨i, hlt, h⟩
      exact not_of_eq_false (hi i (List.mem_range.1 hlt)) h
    change execCbEscape core s = _
    simp only [execCbEscape, Nat.not_le.2 hc, hdue, hlower, Bool.not_false, Bool.and_self, if_false, if_true]
  · have hnot : s.escapeDue core = false := by rw [State.escapeDue, decide_eq_false (Nat.not_le.2 he), Bool.false_and]
    change execCbEscape core s = _
    simp only [execCbEscape, Nat.not_le.2 hc, hnot, Bool.false_and, Bool.false_eq_true, if_false]

end Sys2Proof.Machine
end

section
/-!
PROOFS. The steps of operations in flight (R120, R158, R160, R230, R250 to R253, R325, R360, R372 to R379).
-/

namespace Sys2Proof.Machine

/-! ### Writes, copies and atomics -/

theorem exec_writePropagate {s : State} {id : Nat} {w : Write} (hw : s.writes.find? (fun x => decide (x.id = id)) = some w) :
    (s.canMove w = false → exec (.writePropagate id) s = .next s) ∧
    (s.canMove w = true → w.level = 0 → exec (.writePropagate id) s = .next ((s.placeWrite w).forgetTile w)) ∧
    (s.canMove w = true → w.level = 1 → exec (.writePropagate id) s = .next (s.moveTo 2 w)) ∧
    (∀ u, s.canMove w = true → w.level = 2 → s.pay w.id (s.funcOf w.tid) .memory (hbmTokens (w.cells.map (·.1))) = (u, true) →
      exec (.writePropagate id) s = .next (u.moveTo 3 w).sweepWrites) := by
  have hx : exec (.writePropagate id) s = execWritePropagate id s := rfl
  refine ⟨fun hm => ?_, fun hm hl => ?_, fun hm hl => ?_, fun u hm hl hp => ?_⟩
  · simp only [hx, execWritePropagate, hw, hm, if_true]
  · simp only [hx, execWritePropagate, hw, hm, hl, Bool.true_eq_false, if_true, if_false]
  · simp only [hx, execWritePropagate, hw, hm, hl, Bool.true_eq_false, if_true, if_false, one_ne_zero]
  · simp only [hx, execWritePropagate, hw, hm, hl, hp, Bool.true_eq_false, if_false, OfNat.ofNat_ne_zero, OfNat.ofNat_ne_one]

section
variable {s : State} {id : Nat} {c : Copy} {t : Machine.Task} (hc : s.copies.find? (fun x => decide (x.id = id)) = some c)
  (ht : s.taskOf c.tid = some t) (hf : s.copyFree c = true)

include hc ht hf

theorem exec_copyBeat_done (hb : c.beats = []) : exec (.copyBeat id) s = .next ((s.dropCopy c.id).endRing c) := by
  change execCopyBeat id s = _
  simp only [execCopyBeat, hc, ht, hf, hb, Bool.not_true, Bool.false_eq_true, if_false]

theorem exec_copyBeat_moves {b : Beat} {bs : List Beat} {src : List (Option Nat)} (hb : c.beats = b :: bs) (hn : s.beatFault t c b = none)
    (hs : s.readPlaces t c.ctx c.sspace (chunks b.src b.len) = .ok src) :
    exec (.copyBeat id) s = .next (if s.beatWaits t c b (src.filterMap fun x => x) then s else s.doBeat t c b bs src) := by
  change execCopyBeat id s = _
  simp only [execCopyBeat, hc, ht, hf, hb, hn, hs, Bool.not_true, Bool.false_eq_true, if_false]
  exact (apply_ite _ _ _ _).symm

theorem exec_copyBeat_stops {b : Beat} {bs : List Beat} {e : Nat × Nat} (hb : c.beats = b :: bs) (he : s.beatFault t c b = some e)
    (hw : s.copyBarWaits c c.beats.length true = false) : exec (.copyBeat id) s = .next (s.stopCopy c e.1 e.2) := by
  rw [hb] at hw
  change execCopyBeat id s = _
  simp only [execCopyBeat, hc, ht, hf, hb, he, hw, Bool.not_true, Bool.false_eq_true, if_false]

end

section
variable {s : State} {id : Nat} {a : Atom} (ha : s.atoms.find? (fun x => decide (x.id = id)) = some a)

include ha

theorem exec_atomicPerform_free (hasc : a.asc = false) (hfree : s.atomFree a = true) :
    exec (.atomicPerform id) s = .next (s.perform a) ∧ (s.haltedFor a.tid = true → exec (.qntFlush id) s = .next s) ∧
      (a.use = 4 → s.haltedFor a.tid = false → exec (.qntFlush id) s =
        .next ((s.merged a).foldl (fun u b => if u.atomFree b then u.perform b else u) (s.perform a))) := by
  have hx : exec (.qntFlush id) s = execQntFlush id s := rfl
  refine ⟨?_, fun hh => ?_, fun hu hh => ?_⟩
  · change execAtomicPerform id s = _
    simp only [execAtomicPerform, ha, hasc, hfree, Bool.false_eq_true, if_true, if_false]
  · simp only [hx, execQntFlush, ha, hh, or_true, if_true]
  · simp only [hx, execQntFlush, ha, hu, hasc, hfree, hh, ne_eq, not_true_eq_false, Bool.not_true, Bool.false_eq_true, or_self, if_false]

theorem exec_atomicPerform_waits {t : Machine.Task} (hasc : a.asc = false) (hfree : s.atomFree a = false) (ht : s.taskOf a.tid = some t) :
    exec (.atomicPerform id) s = .next (
      if s.isOut a.ctx a.tid || s.acquirePending a.ctx a.iss || s.hostWaits t.func a.a.space a.a.addr a.a.size then s
      else if a.locs = [] then s.translateAtom a t
      else if a.use = 5 ∧ (a.got.isSome = true ∨ (s.atomOpen a = true ∧ s.mayLock a = true)) then s.readEarly a
      else s) := by
  change execAtomicPerform id s = _
  simp only [execAtomicPerform, ha, hasc, hfree, ht, Bool.false_eq_true, if_false, List.isEmpty_iff, Bool.or_eq_true, Bool.and_eq_true]
  split_ifs <;> rfl

/-- The slot wheel performs what it picks in the first cycle of a position, and counts it once it has left the unit (R376). -/
theorem exec_ascPerform_picked {last : Nat} (htime : s.time % 4 = 0)
    (hlast : Table.find s.served (s.time / 4 % 256) = none ∧ last = 127 ∨
      ∃ at', Table.find s.served (s.time / 4 % 256) = some (last, at') ∧ at' ≠ s.time) (hpick : pickAsc last s.ascReady = some a) :
    exec (.ascPerform id) s = .next (if (s.perform a).atoms.any fun b => decide (b.id = id) then s.perform a
      else { s.perform a with served := Table.set (s.perform a).served (s.time / 4 % 256) (a.ctx / 4, s.time) }) := by
  have hid : a.id = id := of_decide_eq_true (p := a.id = id) (List.find?_some (p := fun x : Atom => decide (x.id = id)) ha)
  change execAscPerform id s = _
  rcases hlast with ⟨hnone, rfl⟩ | ⟨at', hsome, hne⟩
  · have hpick : pickAsc (nCores - 1) s.ascReady = some a := hpick
    simp only [execAscPerform, wheelPos, coreOf, hnone, hpick, htime, hid, ne_eq, not_true_eq_false, Option.any_none, Bool.false_eq_true, or_self, if_false]
    exact (apply_ite _ _ _ _).symm
  · simp only [execAscPerform, wheelPos, coreOf, hsome, hpick, htime, hid, hne, ne_eq, not_true_eq_false, Option.any_some, decide_false, Bool.false_eq_true,
      or_self, if_false]
    exact (apply_ite _ _ _ _).symm

end

/-! ### Interlocked readouts -/

theorem matrixBefore_of_queue {s : State} {id iss : Nat} (h : ∀ e ∈ (s.core (id / 4)).queue, e.ctx = id → iss ≤ e.iss) :
    s.matrixBefore id iss = false := by
  rw [State.matrixBefore, List.any_eq_false]
  intro e he hb
  rw [Bool.and_eq_true, decide_eq_true_eq, decide_eq_true_eq] at hb
  exact Nat.not_lt.2 (h e he hb.1) hb.2

/-- A change of a context that still runs its task, in a state that has its contexts. -/
theorem ifRuns_of_ctx {u s : State} {id tid : Nat} {t : Machine.Task} (hu : u.ctx id = s.ctx id) (h : (s.ctx id).task = some t) (ht : t.tid = tid)
    (f : Ctx → Ctx) : u.ifRuns id tid f = u.setCtx id (f (s.ctx id)) := by
  rw [State.ifRuns_of_task (by rw [hu, h]) ht, hu]

/-- An interlocked readout returns what its destination reads from the state without it. -/
theorem exec_loadReturn_readout {s u : State} {id : Nat} {l : Load} (hl : s.loads.find? (fun x => decide (x.id = id)) = some l)
    (hr : State.returnReadout { s with loads := s.loads.filter fun x => decide (x.id ≠ id) } l = some u) :
    exec (.loadReturn id) s = .next u := by
  change execLoadReturn id s = _
  cases hd : l.dest with
  | g => simp only [State.returnReadout, hd, reduceCtorEq] at hr
  | v => simp only [State.returnReadout, hd, reduceCtorEq] at hr
  | m => simp only [State.returnReadout, hd, reduceCtorEq] at hr
  | k => simp only [State.returnReadout, hd, reduceCtorEq] at hr
  | xhdr => simp only [execLoadReturn, hl, hd, hr]
  | xmpc => simp only [execLoadReturn, hl, hd, hr]
  | xres => simp only [execLoadReturn, hl, hd, hr]
  | word => simp only [execLoadReturn, hl, hd, hr]

section
variable {s : State} {l : Load}

theorem returnReadout_xhdr {d tile mode i : Nat} {k : Core} (hd : l.dest = .xhdr d tile mode i) (hk : (s.core (l.ctx / 4)).popHdr l.id = some k) :
    s.returnReadout l = some ((s.setCore (l.ctx / 4) k).ifRuns l.ctx l.tid fun c => c.comeFrom l.id (.g d ((k.header tile).read mode i) false)) := by
  simp only [State.returnReadout, coreOf, hd, hk]

theorem returnReadout_xmpc {d : Nat} {got : Option Word} {lost : Bool} (hd : l.dest = .xmpc d got lost) (hm : s.matrixBefore l.ctx l.iss = false) :
    s.returnReadout l = some (s.ifRuns l.ctx l.tid fun c =>
      c.comeFrom l.id (.g d (got.getD c.mpc ||| if lost then BitVec.ofNat 64 0x4000 else 0) false)) := by
  simp only [State.returnReadout, hd, hm, Bool.false_eq_true, if_false]

theorem returnReadout_xres {d : Nat} {got : Option Word} (hd : l.dest = .xres d got) (hm : s.matrixBefore l.ctx l.iss = false) :
    s.returnReadout l = some (s.ifRuns l.ctx l.tid fun c => ((c.comeFrom l.id (.g d (resumePoint (got.getD c.mpc)).1 false)).comeFrom l.id
      (.g (d + 1) (resumePoint (got.getD c.mpc)).2.1 false)).comeFrom l.id (.g (d + 2) (resumePoint (got.getD c.mpc)).2.2 false)) := by
  simp only [State.returnReadout, hd, hm, Bool.false_eq_true, if_false]

end

/-- Settles O47, by the rule of each step. -/
theorem operationsComplete : Obligations.OperationsComplete := by
  unfold Obligations.OperationsComplete
  intro s id
  refine ⟨fun h => if_neg (not_of_eq_false h), fun h => if_pos h, fun d t hd ht htid => ?_, fun w => exec_writePropagate,
    fun c t hc ht hf => ⟨exec_copyBeat_done hc ht hf, fun b bs src hb => exec_copyBeat_moves hc ht hf hb,
      fun b bs e hb => exec_copyBeat_stops hc ht hf hb⟩,
    fun a ha => ⟨exec_atomicPerform_free ha, fun t => exec_atomicPerform_waits ha, fun last => exec_ascPerform_picked ha⟩,
    fun l t s1 hl ht htid hs1 => ?_⟩
  · change execDivideComplete id s = _
    simp only [execDivideComplete, hd]
    rw [ifRuns_of_ctx (s := s) ?_ ht htid]
    rfl
  · have hctx : s1.ctx l.ctx = s.ctx l.ctx := by
      rw [hs1]
      rfl
    have hcore : s1.core (l.ctx / 4) = s.core (l.ctx / 4) := by
      rw [hs1]
      rfl
    have hruns {u : State} (hu : u.ctx l.ctx = s1.ctx l.ctx) (f : Ctx → Ctx) : u.ifRuns l.ctx l.tid f = u.setCtx l.ctx (f (s.ctx l.ctx)) :=
      ifRuns_of_ctx (hu.trans hctx) ht htid f
    have hbefore (hq : ∀ e ∈ (s.core (l.ctx / 4)).queue, e.ctx = l.ctx → l.iss ≤ e.iss) : s1.matrixBefore l.ctx l.iss = false :=
      matrixBefore_of_queue (by rw [hcore]; exact hq)
    have hreturn {u : State} (hr : s1.returnReadout l = some u) : exec (.loadReturn id) s = .next u := by
      rw [hs1] at hr
      exact exec_loadReturn_readout hl hr
    refine ⟨fun n v p hd => hreturn ?_, fun n tile mode i e q hd hq he => hreturn ?_, fun n got lost hd hq => hreturn ?_,
      fun n got r hd hq hr => hreturn ?_⟩
    · rw [State.returnReadout]
      simp only [hd]
      exact congrArg some (hruns (u := s1) rfl _)
    · have hpop : (s1.core (l.ctx / 4)).popHdr l.id = some { s.core (l.ctx / 4) with queue := q } := by
        rw [hcore]
        simp only [Core.popHdr, hq, he, if_true]
      rw [returnReadout_xhdr hd hpop, hruns (by rfl)]
      rfl
    · exact (returnReadout_xmpc hd (hbefore hq)).trans (congrArg some (hruns (u := s1) rfl _))
    · subst hr
      exact (returnReadout_xres hd (hbefore hq)).trans (congrArg some (hruns (u := s1) rfl _))

end Sys2Proof.Machine
end

section
/-!
PROOFS. What a posted store changes (R203, R238, R358 to R361).
-/

namespace Sys2Proof.Machine

/-! ### Bytes of one line after a write to it -/

theorem Memory.read_writeCells {m : Memory} (w : m.wf = true) (cs : List Host.Cell) (x : Nat) :
    (m.writeCells cs).read x = (cellAt x cs).getD (m.read x) := by
  induction cs generalizing m with
  | nil => rfl
  | cons c cs ih =>
    obtain ⟨a, b⟩ := c
    rw [Memory.writeCells, ih (Memory.wf_write a b w), Memory.read_write a x b w]
    simp only [cellAt]
    cases cellAt x cs with
    | some y => rfl
    | none =>
      by_cases h : a = x
      · rw [if_pos h, if_pos h.symm, Option.getD_none, Option.getD_some]
      · rw [if_neg h, if_neg (Ne.symm h), Option.getD_none]

theorem cellAt_eq_none {x : Nat} {cs : List Host.Cell} (h : ∀ c ∈ cs, c.1 ≠ x) : cellAt x cs = none := by
  induction cs with
  | nil => rfl
  | cons c cs ih =>
    obtain ⟨a, b⟩ := c
    simp only [cellAt, ih fun d hd => h d (List.mem_cons_of_mem _ hd), if_neg (h (a, b) List.mem_cons_self)]

theorem mem_of_cellAt {x : Nat} {b : Byte} {cs : List Host.Cell} (h : cellAt x cs = some b) : ∃ c ∈ cs, c.1 = x := by
  by_contra hno
  push Not at hno
  rw [cellAt_eq_none hno] at h
  cases h

/-- The cells of one function over distinct addresses give each its value. -/
theorem cellAt_map {f : Nat → Byte} {as : List Nat} {x : Nat} (h : x ∈ as) : cellAt x (as.map fun a => (a, f a)) = some (f x) := by
  induction as with
  | nil => cases h
  | cons a as ih =>
    rw [List.map_cons, cellAt]
    by_cases hx : x ∈ as
    · rw [ih hx]
    · obtain rfl : x = a := (List.mem_cons.1 h).resolve_right hx
      rw [cellAt_eq_none (by simpa using fun y hy (e : y = x) => hx (e ▸ hy))]
      exact if_pos rfl

theorem mem_lineCells {x line : Nat} (h : x / 128 = line) : x ∈ (List.range 128).map fun i => line * 128 + i :=
  List.mem_map.2 ⟨x % 128, List.mem_range.2 (Nat.mod_lt _ (by decide)), by omega⟩

/-- The bytes of a line after it has come under a key: each as decryption under that key gave it. -/
theorem read_rekeyLine {s : State} (w : s.mem.wf = true) (k : Nat) {line x : Nat} (h : x / 128 = line) :
    (s.rekeyLine k line).mem.read x = s.peekKey k x := by
  have hcells : (s.mem.writeCells ((List.range 128).map fun i => (line * 128 + i, s.peekKey k (line * 128 + i)))).read x = s.peekKey k x := by
    have hmap : ((List.range 128).map fun i => (line * 128 + i, s.peekKey k (line * 128 + i))) =
        ((List.range 128).map fun i => line * 128 + i).map fun a => (a, s.peekKey k a) := by
      rw [List.map_map]
      rfl
    rw [Memory.read_writeCells w, hmap, cellAt_map (mem_lineCells h)]
    rfl
  unfold State.rekeyLine
  split
  next k' t' hf =>
    by_cases hsame : k' = k ∧ t' = line
    · rw [if_pos hsame, State.peekKey, h]
      simp only [hf, if_pos hsame]
    · rw [if_neg hsame]
      dsimp only
      exact hcells
  next =>
    dsimp only
    exact hcells
  next hf =>
    rw [State.peekKey, h]
    simp only [hf]

theorem find_rekeyLine (s : State) (k line : Nat) : Table.find (s.rekeyLine k line).lines line = some (.key k line) := by
  unfold State.rekeyLine
  split
  next k' t' hf =>
    by_cases hsame : k' = k ∧ t' = line
    · obtain ⟨rfl, rfl⟩ := hsame
      rw [if_pos ⟨rfl, rfl⟩]
      exact hf
    · rw [if_neg hsame]
      exact Table.find_set_same _ _ _
  next => exact Table.find_set_same _ _ _
  next => exact Table.find_set_same _ _ _

/-- A byte of a line that is kept under a key reads plainly under that key. -/
theorem peekKey_of_line {s : State} {k x : Nat} (h : Table.find s.lines (x / 128) = some (.key k (x / 128))) : s.peekKey k x = s.mem.read x := by
  rw [State.peekKey]
  simp only [h, and_self, if_true]

theorem ciphered_of_line {x y : Nat} (h : x / 128 = y / 128) : ciphered x = ciphered y := by
  have h1 : x < 2 ^ 60 ↔ y < 2 ^ 60 := by omega
  have h2 : 2 ^ 62 ≤ x ↔ 2 ^ 62 ≤ y := by omega
  have h3 : x < 2 ^ 62 + 2 ^ 40 ↔ y < 2 ^ 62 + 2 ^ 40 := by omega
  simp only [ciphered, h1, h2, h3]

theorem keys_poke (s : State) (slot : Nat) (c : Host.Cell) : (s.poke slot c).keys = s.keys := by
  obtain ⟨m, ls, ws, h⟩ := s.onlyBytes_poke slot c
  rw [h]

theorem keyFor_poke (s : State) (slot : Nat) (c : Host.Cell) : (s.poke slot c).keyFor = s.keyFor := by
  funext i line
  simp only [State.keyFor, keys_poke]

theorem mem_poke_ciphered (s : State) {key : Nat} {c : Host.Cell} (hkey : key < 256) (hc : ciphered c.1 = true) :
    (s.poke key c).mem = (s.rekeyLine (s.keyFor key (c.1 / 128)) (c.1 / 128)).mem.write c.1 c.2 := by
  rw [State.poke, if_neg (Nat.not_le.2 hkey), if_pos hc]

theorem lines_poke_ciphered (s : State) {key : Nat} {c : Host.Cell} (hkey : key < 256) (hc : ciphered c.1 = true) :
    (s.poke key c).lines = (s.rekeyLine (s.keyFor key (c.1 / 128)) (c.1 / 128)).lines := by
  rw [State.poke, if_neg (Nat.not_le.2 hkey), if_pos hc]

theorem mem_poke_plain (s : State) {key : Nat} {c : Host.Cell} (hkey : key < 256) (hc : ciphered c.1 = false) :
    (s.poke key c).mem = s.mem.write c.1 c.2 := by
  rw [State.poke, if_neg (Nat.not_le.2 hkey), if_neg (not_of_eq_false hc)]
  split <;> rfl

/-- The bytes of a line after a write of one of them, for a reader whose key is that of the write. -/
theorem peek_poke {s : State} (w : s.mem.wf = true) {key slot x : Nat} {c : Host.Cell} (hkey : key < 256) (hline : c.1 / 128 = x / 128)
    (hk : s.keyFor slot (x / 128) = s.keyFor key (x / 128)) : (s.poke key c).peek slot x = if x = c.1 then c.2 else s.peek slot x := by
  have hc : ciphered c.1 = ciphered x := ciphered_of_line hline
  have hkeys : (s.poke key c).keyFor = s.keyFor := keyFor_poke s key c
  unfold State.peek
  rw [hkeys, hk]
  cases hx : ciphered x with
  | true =>
    simp only [if_true]
    have hcc := hc.trans hx
    have hfind : Table.find (s.poke key c).lines (x / 128) = some (.key (s.keyFor key (x / 128)) (x / 128)) := by
      rw [lines_poke_ciphered s hkey hcc, hline]
      exact find_rekeyLine s _ _
    rw [peekKey_of_line hfind, mem_poke_ciphered s hkey hcc, Memory.read_write _ x _ (State.rekeyLine_wf _ _ w), hline, read_rekeyLine w _ rfl]
  | false =>
    simp only [Bool.false_eq_true, if_false]
    rw [mem_poke_plain s hkey (hc.trans hx), Memory.read_write _ x _ w]

/-- The bytes of a line after writes to it under one key, for a reader whose key is that of the writes: the last named stands. -/
theorem peek_pokeCells {key slot x : Nat} (hkey : key < 256) (cs : List Host.Cell) (hline : ∀ c ∈ cs, c.1 / 128 = x / 128) {s : State}
    (w : s.mem.wf = true) (hk : s.keyFor slot (x / 128) = s.keyFor key (x / 128)) :
    (s.pokeCells key cs).peek slot x = (cellAt x cs).getD (s.peek slot x) := by
  induction cs generalizing s with
  | nil => rfl
  | cons c cs ih =>
    have hcl := hline c List.mem_cons_self
    rw [State.pokeCells, ih (fun d hd => hline d (List.mem_cons_of_mem _ hd)) (State.poke_wf key c w) (by rw [keyFor_poke]; exact hk),
      peek_poke w hkey hcl hk]
    obtain ⟨a, b⟩ := c
    simp only [cellAt]
    cases cellAt x cs with
    | some y => simp only [Option.getD_some]
    | none =>
      by_cases h : a = x
      · rw [if_pos h, if_pos h.symm, Option.getD_none, Option.getD_some]
      · rw [if_neg h, if_neg (Ne.symm h)]

theorem cellAt_filter_line (x : Nat) (cs : List Host.Cell) : cellAt x (cs.filter fun c => decide (c.1 / 128 = x / 128)) = cellAt x cs := by
  induction cs with
  | nil => rfl
  | cons c cs ih =>
    obtain ⟨a, b⟩ := c
    by_cases h : a / 128 = x / 128
    · simp only [List.filter_cons, h, decide_true, if_true, cellAt, ih]
    · have hne : a ≠ x := fun e => h (by rw [e])
      simp only [List.filter_cons, h, decide_false, Bool.false_eq_true, if_false, ih, cellAt, hne]
      cases cellAt x cs <;> rfl

/-! ### A reader's view with one more write -/

theorem insertSeen_last {w u : Write} (h : w.after u = false) (us : List Write) : insertSeen u (us ++ [w]) = insertSeen u us ++ [w] := by
  induction us with
  | nil => exact if_neg (not_of_eq_false h)
  | cons x xs ih =>
    rw [List.cons_append, insertSeen, insertSeen]
    split
    · rw [ih]
      rfl
    · rfl

/-- Whether a reader sees a write to a line. -/
def Write.shows (w : Write) (v : Viewer) (line : Nat) : Bool := w.seenBy v && w.cells.any fun c => decide (c.1 / 128 = line)

theorem foldr_insertSeen_last {w : Write} {us : List Write} (h : ∀ u ∈ us, w.after u = false) (base : List Write) :
    us.foldr insertSeen (base ++ [w]) = us.foldr insertSeen base ++ [w] := by
  induction us with
  | nil => rfl
  | cons u us ih =>
    rw [List.foldr_cons, ih fun x hx => h x (List.mem_cons_of_mem _ hx), insertSeen_last (h u List.mem_cons_self)]
    rfl

/-- A write that comes last for a reader stands last in its view; one that it does not see, or to another line, is not in it. -/
theorem seenWrites_append {v : Viewer} {line : Nat} {ws : List Write} {w : Write}
    (h : w.shows v line = true → ∀ u ∈ ws, u.seenBy v = true → w.after u = false) :
    seenWrites v line (ws ++ [w]) = if w.shows v line then seenWrites v line ws ++ [w] else seenWrites v line ws := by
  simp only [seenWrites, List.filter_append]
  by_cases hw : w.shows v line = true
  · have hone : [w].filter (fun w => w.seenBy v && w.cells.any fun c => decide (c.1 / 128 = line)) = [w] :=
      List.filter_eq_self.2 fun u hu => by rw [List.mem_singleton.1 hu]; exact hw
    have hseen : ∀ u ∈ ws.filter fun w => w.seenBy v && w.cells.any fun c => decide (c.1 / 128 = line), w.after u = false := fun u hu => by
      obtain ⟨hm, hs⟩ := List.mem_filter.1 hu
      exact h hw u hm (Bool.and_eq_true_iff.1 hs).1
    rw [if_pos hw, hone, List.foldr_append, ← foldr_insertSeen_last hseen]
    rfl
  · have hone : [w].filter (fun w => w.seenBy v && w.cells.any fun c => decide (c.1 / 128 = line)) = [] :=
      List.filter_eq_nil_iff.2 fun u hu => by rw [List.mem_singleton.1 hu]; exact hw
    rw [if_neg hw, hone, List.append_nil]

theorem viewOf_wf {s : State} (w : s.mem.wf = true) (v : Viewer) (line : Nat) : (s.viewOf v line).mem.wf = true :=
  foldl_keeps (P := fun u => u.mem.wf = true)
    (f := fun (u : State) (w : Write) => u.pokeCells w.key (w.cells.filter fun c => decide (c.1 / 128 = line)))
    (fun _ x hu => State.pokeCells_wf x.key (x.cells.filter fun c => decide (c.1 / 128 = line)) hu) _ w

theorem keyFor_pokeCells (slot : Nat) (cs : List Host.Cell) (s : State) : (s.pokeCells slot cs).keyFor = s.keyFor := by
  induction cs generalizing s with
  | nil => rfl
  | cons c cs ih => rw [State.pokeCells, ih, keyFor_poke]

theorem keyFor_viewOf (s : State) (v : Viewer) (line : Nat) : (s.viewOf v line).keyFor = s.keyFor := by
  unfold State.viewOf
  generalize seenWrites v line s.writes = ws
  induction ws generalizing s with
  | nil => rfl
  | cons x xs ih => rw [List.foldl_cons, ih, keyFor_pokeCells]

/-- What a reader sees with one more buffered write that comes last for it. -/
theorem see_append {s u : State} {w : Write} {v : Viewer} {a : Nat} (hb : s.SameBytes u) (hw : u.writes = s.writes ++ [w])
    (h : w.shows v (a / 128) = true → ∀ x ∈ s.writes, x.seenBy v = true → w.after x = false) (slot : Nat) :
    u.see v slot a = if w.shows v (a / 128) then
      ((s.viewOf v (a / 128)).pokeCells w.key (w.cells.filter fun c => decide (c.1 / 128 = a / 128))).peek slot a else s.see v slot a := by
  have hview : ((seenWrites v (a / 128) (s.writes ++ [w])).foldl
      (fun u w => u.pokeCells w.key (w.cells.filter fun c => decide (c.1 / 128 = a / 128))) s).SameBytes (u.viewOf v (a / 128)) := by
    unfold State.viewOf
    rw [hw]
    exact State.SameBytes.foldl
      (f := fun (u : State) (w : Write) => u.pokeCells w.key (w.cells.filter fun c => decide (c.1 / 128 = a / 128)))
      (fun _ g => g.pokeCells _ _) _ hb
  rw [State.see, hview.peek, seenWrites_append h]
  split
  · rw [List.foldl_append]
    rfl
  · rfl

/-- A write that is still in its context's own buffer comes last for the accesses of its own context up to the one after it, and no other context
sees it. -/
theorem after_own {w u : Write} {v : Viewer} (hl : w.level = 0) (hv : v.iss ≤ w.iss + 1) (hu : u.seenBy v = true) : w.after u = false := by
  rw [Write.after, if_pos hl]
  by_contra hne
  obtain ⟨hul, hlt⟩ := Bool.and_eq_true_iff.1 (Bool.not_eq_false _ ▸ hne)
  have hul := of_decide_eq_true hul
  have hlt := of_decide_eq_true hlt
  unfold Write.seenBy at hu
  rw [hul] at hu
  split at hu
  · cases hu
  · split at hu
    · cases hu
    · obtain ⟨-, h⟩ := Bool.and_eq_true_iff.1 hu
      have h := of_decide_eq_true h
      omega

theorem not_seenBy_other {w : Write} {v : Viewer} (hl : w.level = 0) (hc : v.ctx ≠ w.ctx) : w.seenBy v = false := by
  unfold Write.seenBy
  rw [hl]
  split
  · rfl
  · split
    · rfl
    · simp [Ne.symm hc]

theorem seenBy_own {w : Write} (hl : w.level = 0) (core : Nat) : w.seenBy ⟨w.ctx, some core, w.iss + 1, 0⟩ = true := by
  simp [Write.seenBy, hl]

section
variable {s u : State} {w : Write} (hb : s.SameBytes u) (hw : u.writes = s.writes ++ [w]) (hl : w.level = 0)

include hb hw hl

theorem see_post_other {v : Viewer} (hc : v.ctx ≠ w.ctx) (slot x : Nat) : u.see v slot x = s.see v slot x := by
  have hshow : ¬ w.shows v (x / 128) = true := by
    rw [Write.shows, not_seenBy_other hl hc, Bool.false_and]
    exact Bool.false_ne_true
  rw [see_append hb hw (fun h => absurd h hshow), if_neg hshow]

/-- A byte that a posted store does not name reads as before for its own context's next access, under the key of the store or in a line that the
store does not touch. -/
theorem see_post_outside (hwf : s.mem.wf = true) (hkey : w.key < 256) {v : Viewer} {slot x : Nat} (hv : v.iss ≤ w.iss + 1)
    (hx : cellAt x w.cells = none) (hk : s.keyFor slot (x / 128) = s.keyFor w.key (x / 128) ∨ ∀ c ∈ w.cells, c.1 / 128 ≠ x / 128) :
    u.see v slot x = s.see v slot x := by
  rw [see_append hb hw (fun _ y _ hy => after_own hl hv hy)]
  split
  next hshow =>
    have hk := hk.resolve_right fun hno => by
      obtain ⟨c, hc, hcl⟩ := List.any_eq_true.1 (Bool.and_eq_true_iff.1 hshow).2
      exact hno c hc (of_decide_eq_true hcl)
    rw [peek_pokeCells hkey _ (fun c hc => of_decide_eq_true (List.mem_filter.1 hc).2) (viewOf_wf hwf v _) (by rw [keyFor_viewOf]; exact hk),
      cellAt_filter_line, hx]
    rfl
  next => rfl

/-- The next access of the storing context reads what was stored. -/
theorem see_post_own (hwf : s.mem.wf = true) (hkey : w.key < 256) {x core : Nat} {b : Byte} (hx : cellAt x w.cells = some b) :
    u.see ⟨w.ctx, some core, w.iss + 1, 0⟩ w.key x = b := by
  have hshow : w.shows ⟨w.ctx, some core, w.iss + 1, 0⟩ (x / 128) = true := by
    obtain ⟨c, hc, hcx⟩ := mem_of_cellAt hx
    rw [Write.shows, seenBy_own hl, Bool.true_and, List.any_eq_true]
    exact ⟨c, hc, decide_eq_true (by rw [hcx])⟩
  rw [see_append hb hw (fun _ y _ hy => after_own hl le_rfl hy), if_pos hshow,
    peek_pokeCells hkey _ (fun c hc => of_decide_eq_true (List.mem_filter.1 hc).2) (viewOf_wf hwf _ _) rfl, cellAt_filter_line, hx]
  rfl

end

/-! ### Posting -/

section
variable {s s1 : State} {t : Machine.Task} {space key addr : Nat} {bs : List Byte} (ht : s.task = some t)
  (hs1 : s1 = (s.setMe { s.me with iss := s.me.iss + 1, touched := (s.me.touched ++ if space = 5 then [addr / 0x40000] else []).eraseDups }).tagGranules
      (s.cur.id / 4) t.func space addr bs.length)

include ht hs1

/-- A posted store whose chunks translate adds its write to the own buffer of its context, after translation. -/
theorem issueStore_posts {ls : List Nat} {u : State} (hp : State.writePlaces t s.cur.id space s1 (chunks addr bs.length) = .ok (ls, u)) :
    s.issueStore space key [(addr, bs)] true = u.putWrite t.tid s.me.iss space key (ls.zip bs) (chunks addr bs.length) true := by
  have hparts : placeParts t s.cur.id space s1 [(addr, bs)] = (u, ls.zip bs, none) := by
    simp only [placeParts, hp, List.append_nil]
  unfold State.issueStore
  split
  next h => cases h.symm.trans ht
  next t' h =>
    obtain rfl : t = t' := Option.some.inj (ht.symm.trans h)
    extract_lets c id tiles s0 s1' r at0
    have hr : r = (u, ls.zip bs, none) := by
      rw [← hparts, hs1]
      rfl
    have hat : at0 = chunks addr bs.length := List.append_nil _
    rw [hr, hat]

/-- A posted store of which a chunk meets a late fault stores nothing. -/
theorem issueStore_late {e : Nat × Nat} (hp : State.writePlaces t s.cur.id space s1 (chunks addr bs.length) = .error e) :
    s.issueStore space key [(addr, bs)] true =
      (s.setMe { s.me with iss := s.me.iss + 1, touched := (s.me.touched ++ if space = 5 then [addr / 0x40000] else []).eraseDups }).lateHere
        e.1 e.2 s.me.iss false := by
  have hparts : (placeParts t s.cur.id space s1 [(addr, bs)]).2.2 = some e := by
    simp only [placeParts, hp]
  unfold State.issueStore
  split
  next h => cases h.symm.trans ht
  next t' h =>
    obtain rfl : t = t' := Option.some.inj (ht.symm.trans h)
    extract_lets c id tiles s0 s1' r at0
    have hr : r.2.2 = some e := by
      rw [← hparts, hs1]
      rfl
    rw [hr]
    rfl

/-- What a posted store leaves: the bytes as they are, one write more in the own buffer, and the next issue number. -/
theorem issueStore_fields {ls : List Nat} {u : State} (hp : State.writePlaces t s.cur.id space s1 (chunks addr bs.length) = .ok (ls, u)) :
    ∃ w : Write, s.SameBytes (s.issueStore space key [(addr, bs)] true) ∧ (s.issueStore space key [(addr, bs)] true).writes = s.writes ++ [w] ∧
      w.level = 0 ∧ w.ctx = s.cur.id ∧ w.iss = s.me.iss ∧ w.key = key ∧ w.cells = ls.zip bs ∧
      ((s.issueStore space key [(addr, bs)] true).ctx s.cur.id).g = s.me.g ∧
      ((s.issueStore space key [(addr, bs)] true).ctx s.cur.id).iss = s.me.iss + 1 := by
  rw [issueStore_posts ht hs1 hp]
  obtain ⟨ps, ks, cs, fs, pl, la, hu⟩ := State.onlyPlaces_writePlaces hp
  have hctx : u.ctx s.cur.id = { s.me with iss := s.me.iss + 1, touched := (s.me.touched ++ if space = 5 then [addr / 0x40000] else []).eraseDups } := by
    rw [hu, hs1]
    exact State.ctx_setMe_same s _
  refine ⟨_, ?_, congrArg (· ++ _) ?_, rfl, ?_, rfl, rfl, rfl, (congrArg Ctx.g hctx).trans rfl, (congrArg Ctx.iss hctx).trans rfl⟩
  · rw [hu, hs1]
    exact ⟨rfl, rfl, rfl⟩
  · rw [hu, hs1]
    rfl
  · change u.cur.id = s.cur.id
    rw [hu, hs1]
    rfl

end

theorem addLate_data (s : State) (tid : Nat) (l : Late) : s.SameBytes (s.addLate tid l) ∧ (s.addLate tid l).writes = s.writes := by
  unfold State.addLate
  dsimp only
  split
  · split
    · split <;> exact ⟨⟨rfl, rfl, rfl⟩, rfl⟩
    · exact ⟨⟨rfl, rfl, rfl⟩, rfl⟩
  · exact ⟨⟨rfl, rfl, rfl⟩, rfl⟩

theorem addLate_bytesKept (s : State) (tid : Nat) (l : Late) : s.BytesKept (s.addLate tid l) := by
  obtain ⟨⟨hm, hl, hk⟩, hw⟩ := addLate_data s tid l
  exact State.see_congr hm hl hk hw

theorem ctxOfTid_cons (tid j : Nat) (x : Ctx) (l : Table Ctx) :
    ctxOfTid tid ((j, x) :: l) = if x.task.any (fun t => decide (t.tid = tid)) then some j else ctxOfTid tid l := by
  cases hx : x.task with
  | none => simp only [ctxOfTid, hx, Option.any_none, Bool.false_eq_true, if_false]
  | some t => simp only [ctxOfTid, hx, Option.any_some, decide_eq_true_eq]

/-- The context found for a task is found again when it is replaced by one with that task. -/
theorem ctxOfTid_set {t : Machine.Task} {l : Table Ctx} {k : Nat} {c : Ctx} (h : ctxOfTid t.tid l = some k) (hk : (Table.get {} l k).task = some t)
    (hc : c.task = some t) : ctxOfTid t.tid (Table.set l k c) = some k := by
  induction l with
  | nil => cases h
  | cons p l ih =>
    obtain ⟨j, x⟩ := p
    rw [Table.get] at hk
    rw [Table.set]
    by_cases hlt : k < j
    · rw [if_pos hlt] at hk
      cases hk
    rw [if_neg hlt] at hk ⊢
    by_cases hj : k = j
    · subst hj
      rw [if_pos rfl]
      rw [ctxOfTid_cons, hc, Option.any_some, if_pos (decide_eq_true rfl)]
    rw [if_neg hj] at hk ⊢
    rw [ctxOfTid_cons] at h ⊢
    split at h
    next => exact absurd (Option.some.inj h).symm hj
    next hx =>
      rw [if_neg hx]
      exact ih h hk

/-- A late fault is recorded in the context that runs the task, where none is recorded yet (R235). -/
theorem late_addLate {s : State} {tid i : Nat} {l : Late} (hi : ctxOfTid tid s.ctxs = some i) (hn : (s.ctx i).late = none) :
    ((s.addLate tid l).ctx i).late = some l := by
  have hn : ((s.cancelAfter tid l.iss).ctx i).late = none := hn
  have hi : ctxOfTid tid (s.cancelAfter tid l.iss).ctxs = some i := hi
  rw [State.addLate]
  simp only [hi, hn]
  rw [State.ctx_setCtx_same]

/-- Settles O19: the store's write comes last for the storing context, and no other context sees it. -/
theorem storeEffect : Obligations.StoreEffect := by
  unfold Obligations.StoreEffect
  intro s t space key addr bs s1 hwf ht hs1
  refine ⟨fun ls u hkey hp => ?_, fun e hp => ?_⟩
  · obtain ⟨w, hb, hw, hl, hctx, hiss, hk, hcells, hg, hi⟩ := issueStore_fields (key := key) ht hs1 hp
    have hmem {c : Host.Cell} (hc : c ∈ w.cells) : c.1 ∈ ls := by
      rw [hcells] at hc
      exact (List.of_mem_zip hc).1
    refine ⟨fun v slot x hv hx hsame => ?_, fun v slot x hv => ?_, fun x b hx => ?_, hg, hi⟩
    · refine see_post_outside hb hw hl hwf (by rw [hk]; exact hkey) (by rw [hiss]; exact hv)
        (cellAt_eq_none fun c hc e => hx (e ▸ hmem hc)) ?_
      rw [hk]
      exact hsame.imp_right fun hno c hc => hno c.1 (hmem hc)
    · exact see_post_other hb hw hl (by rw [hctx]; exact hv) slot x
    · have hown := see_post_own (core := s.cur.id / 4) hb hw hl hwf (by rw [hk]; exact hkey) (by rw [hcells]; exact hx)
      rw [hctx, hiss, hk] at hown
      exact hown
  · rw [issueStore_late ht hs1 hp]
    refine ⟨fun v slot x => ?_, fun htid hlate => ?_⟩
    · exact (addLate_bytesKept _ _ _ v slot x).trans ((State.onlyMe_setMe s _).bytesKept v slot x)
    · have htask : s.me.task = some t := (State.me_task s).trans ht
      have hown : (s.ctx s.cur.id).task = some t := ht
      obtain ⟨m, hm⟩ : ∃ m : Ctx, m = { s.me with iss := s.me.iss + 1
                                                  touched := (s.me.touched ++ if space = 5 then [addr / 0x40000] else []).eraseDups } := ⟨_, rfl⟩
      have hmt : m.task = some t := by rw [hm]; exact htask
      have hml : m.late = none := by rw [hm]; exact hlate
      have hmp : m.pc = s.me.pc := by rw [hm]
      rw [← hm]
      have hme : (s.setMe m).ctx s.cur.id = m := State.ctx_setMe_same s m
      have htid' : (s.setMe m).tid = t.tid := by
        have : (s.setMe m).task = some t := (congrArg Ctx.task hme).trans hmt
        rw [State.tid, this]
      rw [State.lateHere, htid', late_addLate (ctxOfTid_set htid hown hmt) (by rw [hme]; exact hml)]
      have hpc : ((s.setMe m).ctx (s.setMe m).cur.id).pc = s.me.pc := (congrArg Ctx.pc hme).trans hmp
      rw [hpc]

end Sys2Proof.Machine
end

section
/-!
PROOFS. What a scalar load and an atomic give their register and their location (R120, R160, R230, R235, R361, R363, R393).
-/

namespace Sys2Proof.Machine

/-! ### A result that comes to a register -/

/-- A register once a result has come from an operation: the result of a higher slot stays (R120). -/
theorem gr_comeFrom_g (c : Ctx) {d : Nat} (hd : d ≠ 0) (n j : Nat) (v : Word) (p : Bool) :
    (c.comeFrom n (.g d v p)).gr j = if j = d then (if n < Table.get 0 c.won d then c.gr d else ⟨v, p⟩) else c.gr j := by
  by_cases hlt : n < Table.get 0 c.won d
  · rw [Ctx.comeFrom_g_of_lt hlt, if_pos hlt]
    split
    next h => rw [h]
    next => rfl
  · rw [Ctx.comeFrom_g_of_le (Nat.not_lt.1 hlt), if_neg hlt]
    exact (c.gr_come_g d j v p).trans (by rw [if_neg hd])

theorem pend_comeFrom_g {c : Ctx} {d n : Nat} (h : Table.get 0 c.won d ≤ n) (v : Word) (p : Bool) :
    ∀ r ∈ (c.comeFrom n (.g d v p)).pend, r.val.reg ≠ some (.g d) := by
  rw [Ctx.comeFrom_g_of_le h]
  exact c.pend_come_g d v p

/-! ### Bytes and words -/

theorem leNat_lt (bs : List Byte) : leNat bs < 256 ^ bs.length := by
  induction bs with
  | nil => decide
  | cons b bs ih =>
    rw [leNat, List.length_cons, pow_succ]
    have hb := b.isLt
    omega

/-- Bytes at ascending places add up to the little-endian number. -/
theorem foldl_places (bs : List Byte) (o x : Nat) :
    (bs.mapIdx fun i b => (o + i, b)).foldl (fun x p => x + p.2.toNat * 256 ^ p.1) x = x + 256 ^ o * leNat bs := by
  induction bs generalizing o x with
  | nil => rfl
  | cons b bs ih =>
    have hshift : (bs.mapIdx fun i b => (o + (i + 1), b)) = bs.mapIdx fun i b => (o + 1 + i, b) := by
      congr 1
      funext i b
      rw [Nat.add_comm i 1, Nat.add_assoc]
    rw [List.mapIdx_cons, List.foldl_cons, hshift, ih, leNat]
    simp only [Nat.add_zero]
    ring

theorem foldl_zeros (ps : List Nat) (x : Nat) :
    (ps.map fun i => (i, (0 : Byte))).foldl (fun x p => x + p.2.toNat * 256 ^ p.1) x = x := by
  induction ps generalizing x with
  | nil => rfl
  | cons p ps ih =>
    rw [List.map_cons, List.foldl_cons, ih]
    simp

theorem toInt_zero (w : Nat) (sg : Bool) : toInt w sg 0 = 0 := by
  simp [toInt]

theorem ofInt_toInt (sg : Bool) (x : Nat) : BitVec.ofInt 64 (toInt 64 sg x) = BitVec.ofNat 64 x := by
  unfold toInt
  split
  · apply BitVec.eq_of_toNat_eq
    rw [BitVec.toNat_ofInt, BitVec.toNat_ofNat]
    omega
  · rw [BitVec.ofInt_natCast]

/-! ### Loads -/

section
variable {s : State} {l : Load} {t : Machine.Task} {n addr size : Nat} {sg : Bool} (hl : s.loads.find? (fun x => decide (x.id = l.id)) = some l)
  (ht : s.taskOf l.tid = some t) (hf : s.loadFree l = true) (hd : l.dest = .g n size sg)

include hl ht hf hd

theorem exec_loadReturn_g : exec (.loadReturn l.id) s = .next (s.returnLoad l t) := by
  change execLoadReturn l.id s = _
  simp only [execLoadReturn, hl, hd, ht, hf, if_true]

end

theorem partPlaces_one (s : State) (t : Machine.Task) (ctx space addr size : Nat) :
    s.partPlaces t ctx space [(0, addr, size)] =
      (s.readPlaces t ctx space (chunks addr size)).map fun ls => ls.mapIdx fun i l => (i, l) := by
  simp only [State.partPlaces]
  cases s.readPlaces t ctx space (chunks addr size) with
  | error e => rfl
  | ok ls => simp [Except.map]

theorem located_mapIdx (ls : List (Option Nat)) : located (ls.mapIdx fun i l => (i, l)) = ls.filterMap fun x => x := by
  rw [located, List.mapIdx_eq_zipIdx_map, List.filterMap_map]
  conv_rhs => rw [← List.zipIdx_map_fst 0 ls, List.filterMap_map]
  rfl

/-- The payload of a scalar load from the places that it reads. -/
theorem value_of_places {s : State} {l : Load} {n size : Nat} {sg : Bool} (hd : l.dest = .g n size sg) (hsp : l.space ≠ 5) (ho : l.old = [])
    (ls : List (Option Nat)) (units : List Nat) (tag : Bool) :
    l.dest.value ((ls.mapIdx fun i l => (i, l)).map fun p => (p.1, match p.2 with | some a => s.loadByte l units a | none => 0)) tag false =
      .g n (BitVec.ofInt 64 (toInt (8 * size) sg (leNat (ls.map (s.seePlace l.viewer l.key))))) false := by
  have hbyte (p : Option Nat) : (match p with | some a => s.loadByte l units a | none => 0) = s.seePlace l.viewer l.key p := by
    cases p with
    | none => rfl
    | some a =>
      simp only [State.loadByte, hsp, if_false, State.chunkByte, ho, List.drop_nil, List.findSome?_nil]
      rfl
  have hbytes : ((ls.mapIdx fun i l => (i, l)).map fun p => (p.1, match p.2 with | some a => s.loadByte l units a | none => 0)) =
      (ls.map (s.seePlace l.viewer l.key)).mapIdx fun i b => (0 + i, b) := by
    simp only [hbyte, Nat.zero_add]
    exact List.ext_getElem (by simp) fun i h1 h2 => by simp
  have hnum := foldl_places (ls.map (s.seePlace l.viewer l.key)) 0 0
  rw [Nat.zero_add, pow_zero, one_mul] at hnum
  rw [hbytes, hd]
  simp only [LoadDest.value, hnum]

theorem pay_data {s s1 : State} {id f n : Nat} {k : Token} {b : Bool} (h : s.pay id f k n = (s1, b)) :
    ∃ ps pd, s1 = { s with parts := ps, paid := pd } := by
  obtain ⟨ps, pd, hp⟩ := s.pay_frame id f k n
  rw [h] at hp
  exact ⟨ps, pd, hp⟩

section
variable {s : State} {l : Load} {t : Machine.Task} {n addr size : Nat} {sg : Bool} (hctx : (s.ctx l.ctx).task = some t) (htid : t.tid = l.tid)
  (hsoft0 : l.soft0 = false) (hd : l.dest = .g n size sg) (hparts : l.parts = [(0, addr, size)])

include hctx htid hsoft0 hd hparts

/-- A load that is performed leaves the engine; its context gets the value of the bytes that it sees, and observes what it read. -/
theorem returnLoad_reads (hsp : l.space ≠ 5) (ho : l.old = []) {ls : List (Option Nat)} {s1 : State}
    (hls : s.readPlaces t l.ctx l.space (chunks addr size) = .ok ls)
    (hpay : s.pay l.id t.func .memory (hbmTokens (ls.filterMap fun x => x)) = (s1, true)) :
    ∃ (s2 : State) (ws : List Write), s.returnLoad l t = s2.setCtx l.ctx (Ctx.observe ((s.ctx l.ctx).comeFrom l.id (.g n (BitVec.ofInt 64
        (toInt (8 * size) sg (leNat (ls.map (s.seePlace l.viewer l.key))))) false)) ws (plainScope l.space) l.iss) ∧
      s2.ctxs = s.ctxs ∧ s2.loads = s1.loads.filter (fun x => decide (x.id ≠ l.id)) ∧ s.SameBytes s2 ∧ s2.writes = s.writes := by
  have hps : s.partPlaces t l.ctx l.space l.parts = .ok (ls.mapIdx fun i l => (i, l)) := by
    rw [hparts, partPlaces_one, hls]
    rfl
  have hloc := located_mapIdx ls
  rw [← hloc] at hpay
  unfold State.returnLoad
  extract_lets s0
  rw [if_neg (not_of_eq_false hsoft0)]
  split
  next e he => cases he.symm.trans hps
  next ps h =>
    obtain rfl := Except.ok.inj (h.symm.trans hps)
    split
    next u hu => cases hu.symm.trans hpay
    next u hu =>
      obtain ⟨rfl, -⟩ := Prod.mk.inj (hu.symm.trans hpay)
      extract_lets units bytes tag s2
      obtain ⟨qs, pd, hpaid⟩ := pay_data hpay
      obtain ⟨ps', ks, cs, hs2⟩ := State.onlyTables_prepareReads t l.ctx l.space (l.parts.flatMap fun p => chunks p.2.1 p.2.2)
        { u with loads := u.loads.filter fun x => decide (x.id ≠ l.id)
                 choice := if s.freeRead l then u.choice + units.length else u.choice }
      have hs2 : s2 = _ := hs2
      have hctxs : s2.ctxs = s.ctxs := by
        rw [hs2, hpaid]
      refine ⟨s2, s.observed l.viewer (located (ls.mapIdx fun i l => (i, l))), ?_, hctxs, ?_, ?_, ?_⟩
      · have hc : s2.ctx l.ctx = s.ctx l.ctx := by rw [State.ctx, hctxs, State.ctx]
        refine (ifRuns_of_ctx hc hctx htid _).trans ?_
        exact congrArg (fun p => s2.setCtx l.ctx (Ctx.observe ((s.ctx l.ctx).comeFrom l.id p)
          (s.observed l.viewer (located (ls.mapIdx fun i l => (i, l)))) (plainScope l.space) l.iss)) (value_of_places hd hsp ho ls units tag)
      · rw [hs2]
      · rw [hs2, hpaid]
        exact ⟨rfl, rfl, rfl⟩
      · rw [hs2, hpaid]

/-- A load that meets a late fault: a deferred one gives 0 with poison, another records the fault. -/
theorem returnLoad_late {e : Nat × Nat} (hls : s.readPlaces t l.ctx l.space (chunks addr size) = .error e) :
    (l.soft = true → s.returnLoad l t = State.setCtx { s with loads := s.loads.filter fun x => decide (x.id ≠ l.id) } l.ctx
      ((s.ctx l.ctx).comeFrom l.id (.g n 0 true))) ∧
    (l.soft = false → s.returnLoad l t = State.addLate { s with loads := s.loads.filter fun x => decide (x.id ≠ l.id) }
      l.tid ⟨e.1, BitVec.ofNat 64 e.2, l.pc, l.iss, [.g n], false⟩) := by
  have hps : s.partPlaces t l.ctx l.space l.parts = .error e := by
    rw [hparts, partPlaces_one, hls]
    rfl
  have hgiven : l.givenUp = .g n 0 true := by
    have hzero := foldl_zeros (List.range size) 0
    simp only [Load.givenUp, hparts, hd, List.map_cons, List.map_nil, List.flatten_cons, List.flatten_nil, List.append_nil, LoadDest.value, Nat.zero_add,
      hzero, toInt_zero]
    rfl
  refine ⟨fun hs => ?_, fun hs => ?_⟩
  · unfold State.returnLoad
    extract_lets s0
    rw [if_neg (not_of_eq_false hsoft0)]
    split
    next e' he =>
      rw [if_pos hs, hgiven, ifRuns_of_ctx (s := s) (by rfl) hctx htid]
    next ps h => cases h.symm.trans hps
  · unfold State.returnLoad
    extract_lets s0
    rw [if_neg (not_of_eq_false hsoft0)]
    split
    next e' he =>
      obtain rfl := Except.error.inj (he.symm.trans hps)
      rw [if_neg (not_of_eq_false hs), hd]
      rfl
    next ps h => cases h.symm.trans hps

end

/-! ### Writes that move within the cluster -/

/-- The same state but for the levels of its writes and those that are gone. -/
def State.OnlyLevels (s t : State) : Prop := ∃ ws, t = { s with writes := ws } ∧ ∀ w ∈ ws, ∃ w0 ∈ s.writes, w.stamp = w0.stamp

theorem State.OnlyLevels.refl (s : State) : s.OnlyLevels s := ⟨s.writes, rfl, fun w hw => ⟨w, hw, rfl⟩⟩

theorem State.OnlyLevels.trans {s t u : State} : s.OnlyLevels t → t.OnlyLevels u → s.OnlyLevels u := by
  rintro ⟨ws, rfl, h⟩ ⟨ws', rfl, h'⟩
  refine ⟨ws', rfl, fun w hw => ?_⟩
  obtain ⟨w1, hw1, e1⟩ := h' w hw
  obtain ⟨w0, hw0, e0⟩ := h w1 hw1
  exact ⟨w0, hw0, e1.trans e0⟩

theorem State.onlyLevels_moveTo (s : State) {level : Nat} (h : level ≠ 3) (w : Write) : s.OnlyLevels (s.moveTo level w) := by
  rw [State.moveTo]
  simp only [if_neg h]
  refine ⟨_, rfl, fun x hx => ?_⟩
  obtain ⟨y, hy, rfl⟩ := List.mem_map.1 hx
  refine ⟨y, hy, ?_⟩
  split <;> rfl

theorem State.onlyLevels_sweepWrites (s : State) : s.OnlyLevels s.sweepWrites := ⟨_, rfl, fun w hw => ⟨w, List.mem_of_mem_filter hw, rfl⟩⟩

theorem State.onlyLevels_moves {level : Nat} (h : level ≠ 3) (ws : List Write) (s : State) :
    s.OnlyLevels (ws.foldl (fun t w => t.moveTo level w) s) := by
  induction ws generalizing s with
  | nil => exact .refl s
  | cons w ws ih => exact (s.onlyLevels_moveTo h w).trans (ih _)

theorem State.onlyLevels_forceOut (s : State) {level : Nat} (h : level ≠ 3) (as : List Nat) : s.OnlyLevels (s.forceOut level as) :=
  (State.onlyLevels_moves h _ s).trans (State.onlyLevels_sweepWrites _)

theorem State.onlyLevels_forceSeen (s : State) (v : Viewer) {level : Nat} (h : level ≠ 3) (as : List Nat) : s.OnlyLevels (s.forceSeen v level as) :=
  (State.onlyLevels_moves h _ s).trans (State.onlyLevels_sweepWrites _)

theorem State.OnlyLevels.stamps {s t : State} (h : s.OnlyLevels t) (hs : ∀ w ∈ s.writes, w.stamp < s.stamp) : ∀ w ∈ t.writes, w.stamp < t.stamp := by
  obtain ⟨ws, rfl, hw⟩ := h
  intro w hm
  obtain ⟨w0, h0, e⟩ := hw w hm
  rw [e]
  exact hs w0 h0

theorem levelOf_of_lt {scope : Nat} (h : scope < 2) : levelOf scope = scope + 1 := by
  interval_cases scope <;> rfl

/-- A write performed at CORE or CLUSTER stands there, the latest: a reader of the core sees it. -/
theorem see_writeAs {s : State} (hwf : s.mem.wf = true) (hs : ∀ w ∈ s.writes, w.stamp < s.stamp) {scope : Nat} (hscope : scope < 2)
    {key : Nat} (hkey : key < 256) (cover : Option Nat) (tid ctx iss : Nat) (cells : List Host.Cell) (rel : List Nat) {x : Nat} {b : Byte}
    (hx : cellAt x cells = some b) :
    (s.writeAs cover tid ctx iss scope key cells rel).see ⟨0, some (ctx / 4), 0, 1⟩ key x = b := by
  have hl := levelOf_of_lt hscope
  have hne : levelOf scope ≠ 3 := by omega
  have hforce := s.onlyLevels_forceOut hne (cells.map (·.1))
  have hstamps := hforce.stamps hs
  have hwf2 : (s.forceOut (levelOf scope) (cells.map (·.1))).mem.wf = true := by
    obtain ⟨ws, hu, -⟩ := hforce
    rw [hu]
    exact hwf
  unfold State.writeAs
  extract_lets s1 s2 w
  have hs2 : s2 = s.forceOut (levelOf scope) (cells.map (·.1)) := if_neg hne
  rw [← hs2] at hstamps hwf2
  have hlevel : w.level = scope + 1 := hl
  have hstamp : w.stamp = s2.stamp := rfl
  have hctx : w.ctx = ctx := rfl
  have hcells : w.cells = cells := rfl
  have hkey' : w.key = key := rfl
  obtain ⟨stays, hstays⟩ : ∃ p : Write → Bool, p = fun u => decide (u.level < 3) ||
    u.rel.any fun i => (s2.writes ++ [w]).any fun x => decide (x.id = i) && decide (x.level < 3) := ⟨_, rfl⟩
  have hw : (State.sweepWrites { s2 with stamp := s2.stamp + 1, fresh := s2.fresh + 1, writes := s2.writes ++ [w] }).writes =
      s2.writes.filter stays ++ [w] := by
    have hstay : stays w = true := by
      rw [hstays]
      simp only [hlevel, Bool.or_eq_true, decide_eq_true_eq]
      exact .inl (by omega)
    rw [State.sweepWrites, ← hstays, List.filter_append, List.filter_cons_of_pos hstay, List.filter_nil]
  clear_value w s2
  have hseen : w.seenBy ⟨0, some (ctx / 4), 0, 1⟩ = true := by
    interval_cases scope <;> simp [Write.seenBy, hlevel, hctx, coreOf]
  have hlast : ∀ u ∈ s2.writes.filter stays, u.seenBy ⟨0, some (ctx / 4), 0, 1⟩ = true → w.after u = false := fun u hu hv => by
    have hlt := hstamps u (List.mem_of_mem_filter hu)
    have hu0 : u.level ≠ 0 := fun h0 => by simp [Write.seenBy, h0] at hv
    have hnot : ¬ w.stamp < u.stamp := by omega
    rw [Write.after, if_neg (by omega), decide_eq_false hu0, decide_eq_false hnot, Bool.or_false]
  have hshow : w.shows ⟨0, some (ctx / 4), 0, 1⟩ (x / 128) = true := by
    obtain ⟨c, hc, hcx⟩ := mem_of_cellAt hx
    rw [Write.shows, hseen, Bool.true_and, List.any_eq_true, hcells]
    exact ⟨c, hc, decide_eq_true (by rw [hcx])⟩
  have hb : State.SameBytes { s2 with writes := s2.writes.filter stays }
      (State.sweepWrites { s2 with stamp := s2.stamp + 1, fresh := s2.fresh + 1, writes := s2.writes ++ [w] }) := ⟨rfl, rfl, rfl⟩
  rw [see_append hb hw (fun _ => hlast), if_pos hshow, hkey',
    peek_pokeCells hkey _ (fun c hc => of_decide_eq_true (List.mem_filter.1 hc).2)
      (viewOf_wf (s := { s2 with writes := s2.writes.filter stays }) hwf2 _ _) rfl, cellAt_filter_line, hcells, hx]
  rfl

/-! ### Atomics -/

/-- What an atomic read-modify-write of 8 bytes leaves of the old value (R393). -/
def Atom.gives (a : Atom) (old new : Nat) : Prop :=
  (a.op = .add ∧ new = (old + a.x.toNat) % 2 ^ 64) ∨ (a.op = .and ∧ new = (BitVec.ofNat 64 old &&& a.x).toNat) ∨
    (a.op = .or ∧ new = (BitVec.ofNat 64 old ||| a.x).toNat) ∨ (a.op = .xor ∧ new = (BitVec.ofNat 64 old ^^^ a.x).toNat) ∨
    (a.op = .min ∧ new = if (BitVec.ofNat 64 old).toInt ≤ a.x.toInt then old else a.x.toNat) ∨
    (a.op = .max ∧ new = if (BitVec.ofNat 64 old).toInt ≤ a.x.toInt then a.x.toNat else old) ∨
    (a.op = .minn ∧ new = min old a.x.toNat) ∨ (a.op = .maxn ∧ new = max old a.x.toNat) ∨ (a.op = .xchg ∧ new = a.x.toNat) ∨
    (a.op = .maxrs ∧ new = a.x.toNat) ∨ (a.op = .cas ∧ new = if old = a.x.toNat then a.y.toNat else old)

/-- An atomic of 8 bytes returns the old value as it is. -/
theorem returned_word (op : AtomOp) (old : Nat) : op.returned 64 old = BitVec.ofNat 64 old := by
  unfold AtomOp.returned
  split
  · rfl
  · rfl
  · exact ofInt_toInt true old

/-- Such an atomic updates its location so, and is no operation on a record. -/
theorem Atom.gives_update {a : Atom} {old new : Nat} (h : a.gives old new) (hold : old < 2 ^ 64) :
    a.op.update 64 old (a.x.toNat % 2 ^ 64) (a.y.toNat % 2 ^ 64) = some new ∧
      a.op.writes = true ∧ a.op.isRecord = false ∧ a.op ≠ .barrive := by
  have hx : a.x.toNat % 2 ^ 64 = a.x.toNat := Nat.mod_eq_of_lt a.x.isLt
  have hy : a.y.toNat % 2 ^ 64 = a.y.toNat := Nat.mod_eq_of_lt a.y.isLt
  have hmod : old % 2 ^ 64 = old := Nat.mod_eq_of_lt hold
  have hold' : (BitVec.ofNat 64 old).toNat = old := by rw [BitVec.toNat_ofNat, hmod]
  have hsigned : toInt 64 true old = (BitVec.ofNat 64 old).toInt := by rw [← toInt_mod_eq, hmod]
  have hsignedx : toInt 64 true a.x.toNat = a.x.toInt := by
    have h := toInt_mod_eq 63 a.x.toNat
    rw [hx, BitVec.ofNat_toNat] at h
    simpa using h
  rw [hx, hy]
  rcases h with ⟨ho, hn⟩ | ⟨ho, hn⟩ | ⟨ho, hn⟩ | ⟨ho, hn⟩ | ⟨ho, hn⟩ | ⟨ho, hn⟩ | ⟨ho, hn⟩ | ⟨ho, hn⟩ | ⟨ho, hn⟩ | ⟨ho, hn⟩ | ⟨ho, hn⟩ <;>
    refine ⟨?_, by rw [ho]; rfl, by rw [ho]; rfl, by rw [ho]; decide⟩ <;> rw [ho] <;>
      simp only [AtomOp.update, hn, hsigned, hsignedx, BitVec.toNat_and, BitVec.toNat_or, BitVec.toNat_xor, hold', Nat.min_def, Nat.max_def]

section
variable {s s1 : State} {a : Atom} {t : Machine.Task} {old new : Nat}

/-- An atomic whose location is known, and whose tokens are there, is performed. -/
theorem perform_pays (ht : s.taskOf a.tid = some t) (hlocs : a.locs ≠ []) (hsp : a.a.space ≠ 1) (hasc : a.asc = false) (hscope : a.scope < 2)
    (hpay : s.pay a.id t.func .memory (a.tokens a.locs) = (s1, true)) : s.perform a = s1.doAtom a a.locs a.op.writes := by
  have hwhere : a.where = a.scope := by
    rw [Atom.where, if_neg (by simp [hasc, hsp]), Atom.reach]
    omega
  have htokens : s.atomTokens a a.locs = a.tokens a.locs := by
    rw [State.atomTokens, if_pos (by omega), Nat.add_zero]
  have hrefused : s.atomRefused a = false := by
    rw [State.atomRefused, decide_eq_false hsp, Bool.false_and]
  have hempty : a.locs.isEmpty = false := List.isEmpty_eq_false_iff.2 hlocs
  simp only [State.perform, ht, hempty, hrefused, Bool.false_eq_true, if_false, State.payAtom, htokens, hpay]

theorem stored_settleFor (s : State) (a : Atom) (locs : List Nat) (write : Bool) : s.OnlyStored (s.settleFor a locs write) := by
  unfold State.settleFor
  split
  · exact s.stored_forceSeen _ _ _
  · exact .refl s

theorem dropAtom_of_plain (hasc : a.asc = false) : s.dropAtom a = { s with atoms := s.atoms.filter fun x => decide (x.id ≠ a.id) } :=
  if_neg (not_of_eq_false hasc)

/-- An atomic read-modify-write at a scope within the cluster: its write is performed there, and its context gets the old value. -/
theorem doAtom_writes {locs : List Nat} (hctx : (s.ctx a.ctx).task = some t) (htid : t.tid = a.tid) (hasc : a.asc = false) (hsize : a.a.size = 8)
    (hold : old = leNat ((s.settleFor a locs true).seeAll (atomViewer a.ctx a.where) a.a.key locs)) (hlt : old < 2 ^ 64) (hgives : a.gives old new) :
    ∃ (rel : List Nat) (n : Nat) (c : Ctx), s.doAtom a locs true = State.setCtx (State.tagGranules
        (State.writeAt ((s.settleFor a locs true).dropAtom a) a.tid a.ctx a.iss a.where a.a.key (locs.zip (leBytes 8 new)) rel)
        (coreOf a.ctx) n a.a.space a.a.addr 8) a.ctx c ∧
      ∀ d, a.dest = some d → c.g = ((s.ctx a.ctx).comeFrom a.id (.g d (BitVec.ofNat 64 old) false)).g := by
  obtain ⟨hupdate, -, hrecord, hbar⟩ := Atom.gives_update hgives hlt
  unfold State.doAtom
  extract_lets u v n old' seen rel s1 bound urec s2 s3
  have hn : n = 64 := by dsimp only [n]; rw [hsize]
  have hold' : old' = old := by
    rw [hold]
    rfl
  have hs2 : s2 = s1.writeAt a.tid a.ctx a.iss a.where a.a.key (locs.zip (leBytes 8 new)) rel := by
    dsimp only [s2]
    rw [if_neg (not_of_eq_false hrecord), if_pos rfl, hold', hn, hupdate, hsize]
  have hc : s3.ctx a.ctx = s.ctx a.ctx := by
    have hu : u.ctxs = s.ctxs := (stored_settleFor s a locs true).kept.1
    have h1 : s1.ctxs = u.ctxs := by
      dsimp only [s1]
      rw [dropAtom_of_plain hasc]
    have h2 : s2.ctxs = s1.ctxs := by
      rw [hs2]
      exact (State.stored_writeAs s1 _ _ _ _ _ _ _ _).kept.1
    have h3 : s3.ctxs = s2.ctxs := rfl
    rw [State.ctx, h3, h2, h1, hu, State.ctx]
  have hs3 : s3 = State.tagGranules (s1.writeAt a.tid a.ctx a.iss a.where a.a.key (locs.zip (leBytes 8 new)) rel) (coreOf a.ctx) (u.funcOf a.tid)
      a.a.space a.a.addr 8 := by
    dsimp only [s3]
    rw [hs2, if_pos rfl, hsize]
  refine ⟨rel, u.funcOf a.tid, _, (ifRuns_of_ctx hc hctx htid _).trans (by rw [hs3]), fun d hd => ?_⟩
  have hnot : ¬ (a.op = .barrive ∧ u.leaveAfter a = none) := fun h => hbar h.1
  simp only [hd, hnot, if_false, hn, hold', returned_word]
  split <;> rfl

end

theorem gr_congr {c d : Ctx} (h : c.g = d.g) (j : Nat) : c.gr j = d.gr j := by rw [Ctx.gr, Ctx.gr, h]

theorem leNat_seeAll_lt (s : State) (v : Viewer) (key : Nat) {locs : List Nat} (h : locs.length = 8) : leNat (s.seeAll v key locs) < 2 ^ 64 := by
  have hlt := leNat_lt (s.seeAll v key locs)
  rw [State.seeAll, List.length_map, h] at hlt
  exact hlt

theorem onlyLevels_settleFor (s : State) {a : Atom} (h : levelOf a.where ≠ 3) (locs : List Nat) : s.OnlyLevels (s.settleFor a locs true) := by
  unfold State.settleFor
  split
  · exact s.onlyLevels_forceSeen _ h _
  · exact .refl s

theorem setCtx_bytesKept {s : State} (id : Nat) (c : Ctx) : s.BytesKept (s.setCtx id c) := State.see_congr rfl rfl rfl rfl

theorem tagGranules_bytesKept (s : State) (core func space addr n : Nat) : s.BytesKept (s.tagGranules core func space addr n) :=
  State.see_congr rfl rfl rfl rfl

/-- A scalar load: its value, or its late fault. -/
theorem scalarLoad_returns {s : State} {l : Load} {t : Machine.Task} {n addr size : Nat} {sg : Bool}
    (hl : s.loads.find? (fun x => decide (x.id = l.id)) = some l) (ht : s.taskOf l.tid = some t) (hctx : (s.ctx l.ctx).task = some t)
    (htid : t.tid = l.tid) (hf : s.loadFree l = true) (hsoft0 : l.soft0 = false) (hn : n ≠ 0) (hd : l.dest = .g n size sg)
    (hparts : l.parts = [(0, addr, size)]) (hsp : l.space ≠ 5) (ho : l.old = []) {ls : List (Option Nat)} {s1 : State}
    (hls : s.readPlaces t l.ctx l.space (chunks addr size) = .ok ls)
    (hpay : s.pay l.id t.func .memory (hbmTokens (ls.filterMap fun x => x)) = (s1, true)) :
    ∃ u, exec (.loadReturn l.id) s = .next u ∧ u.loads = s1.loads.filter (fun x => decide (x.id ≠ l.id)) ∧
      (Table.get 0 (s.ctx l.ctx).won n ≤ l.id → (u.ctx l.ctx).gr n = ⟨BitVec.ofInt 64 (toInt (8 * size) sg
          (leNat (ls.map (s.seePlace ⟨l.ctx, some (l.ctx / 4), l.iss, 0⟩ l.key)))), false⟩ ∧
        (∀ r ∈ (u.ctx l.ctx).pend, r.val.reg ≠ some (.g n))) ∧
      (l.id < Table.get 0 (s.ctx l.ctx).won n → (u.ctx l.ctx).gr n = (s.ctx l.ctx).gr n) ∧
      (∀ m, m ≠ n → (u.ctx l.ctx).gr m = (s.ctx l.ctx).gr m) ∧ (∀ j, j ≠ l.ctx → u.ctx j = s.ctx j) ∧ s.BytesKept u := by
  obtain ⟨s2, ws, hret, hctxs, hloads, ⟨hm, hln, hk⟩, hw⟩ := returnLoad_reads hctx htid hsoft0 hd hparts hsp ho hls hpay
  refine ⟨_, (exec_loadReturn_g hl ht hf hd).trans (congrArg Host.Outcome.next hret), hloads, ?_⟩
  rw [State.ctx_setCtx_same]
  refine ⟨fun hle => ⟨?_, pend_comeFrom_g hle _ _⟩, fun hlt => ?_, fun m hm => ?_, fun j hj => ?_, ?_⟩
  · refine (gr_comeFrom_g _ hn l.id n _ _).trans ?_
    rw [if_pos rfl, if_neg (Nat.not_lt.2 hle)]
    rfl
  · refine (gr_comeFrom_g _ hn l.id n _ _).trans ?_
    rw [if_pos rfl, if_pos hlt]
  · refine (gr_comeFrom_g _ hn l.id m _ _).trans ?_
    rw [if_neg hm]
  · rw [State.ctx_setCtx, if_neg hj, State.ctx, hctxs, State.ctx]
  · exact fun v slot x => (setCtx_bytesKept _ _ v slot x).trans (State.see_congr hm hln hk hw v slot x)

/-- Settles O48: a load gets what its context sees, and an atomic's write stands last at its scope. -/
theorem loadedAndAtomicValues : Obligations.LoadedAndAtomicValues := by
  unfold Obligations.LoadedAndAtomicValues
  refine ⟨fun s l t n addr size sg hl ht hctx htid hf hsoft0 hn hd hparts hsize hsp ho =>
    ⟨fun ls s1 hls hpay => scalarLoad_returns hl ht hctx htid hf hsoft0 hn hd hparts hsp ho hls hpay, fun e hls => ⟨fun hs => ?_, fun hs => ?_⟩⟩, ?_⟩
  · obtain ⟨hsoft, -⟩ := returnLoad_late hctx htid hsoft0 hd hparts hls
    refine ⟨_, (exec_loadReturn_g hl ht hf hd).trans (congrArg Host.Outcome.next (hsoft hs)), ?_⟩
    rw [State.ctx_setCtx_same, gr_comeFrom_g _ hn, if_pos rfl]
  · obtain ⟨-, hhard⟩ := returnLoad_late hctx htid hsoft0 hd hparts hls
    exact (exec_loadReturn_g hl ht hf hd).trans (congrArg Host.Outcome.next (hhard hs))
  · intro s s1 a t old new hwf ha hasc hfree ht hctx htid hsize hscope hsp hkey hlocs hpay hstamps hold hgives hlen
    have hwhere : a.where = a.scope := by
      rw [Atom.where, if_neg (by simp [hasc, hsp]), Atom.reach]
      omega
    have hlevel : levelOf a.where = a.scope + 1 := by rw [hwhere, levelOf_of_lt hscope]
    have hold' : old = leNat ((s1.settleFor a a.locs true).seeAll (atomViewer a.ctx a.where) a.a.key a.locs) := by
      rw [hold, atomViewer, hlevel]
      rfl
    have hlt : old < 2 ^ 64 := hold ▸ leNat_seeAll_lt _ _ _ hlen
    obtain ⟨ps, pd, hs1⟩ := pay_data hpay
    have hctx1 : s1.ctx a.ctx = s.ctx a.ctx := by
      rw [hs1]
      rfl
    obtain ⟨hrun, -⟩ := exec_atomicPerform_free ha hasc hfree
    obtain ⟨-, hwrites, -⟩ := Atom.gives_update hgives hlt
    obtain ⟨rel, f, c, hdo, hc⟩ := doAtom_writes (by rw [hctx1]; exact hctx) htid hasc hsize hold' hlt hgives
    rw [perform_pays ht hlocs hsp hasc hscope hpay, hwrites, hdo] at hrun
    have hlv := onlyLevels_settleFor s1 (a := a) (by omega) a.locs
    rw [dropAtom_of_plain hasc] at hrun
    refine ⟨_, hrun, ?_, fun d hd hd0 => ?_, fun x b hx => ?_⟩
    · obtain ⟨-, -, -, -, -, hw, -⟩ := (State.stored_writeAs { s1.settleFor a a.locs true with
        atoms := (s1.settleFor a a.locs true).atoms.filter fun x => decide (x.id ≠ a.id) } (some 0) a.tid a.ctx a.iss a.where a.a.key
        (a.locs.zip (leBytes 8 new)) rel).kept
      obtain ⟨-, -, -, -, -, hset, -⟩ := (stored_settleFor s1 a a.locs true).kept
      refine Eq.trans hw ?_
      simp only [hset]
    · rw [State.ctx_setCtx_same, gr_congr (hc d hd), hctx1, gr_comeFrom_g _ hd0, if_pos rfl]
    · have hst : ∀ w ∈ s1.writes, w.stamp < s1.stamp := by
        rw [hs1]
        exact hstamps
      have hwf1 : (s1.settleFor a a.locs true).mem.wf = true := by
        obtain ⟨ws, hu, -⟩ := hlv
        rw [hu, hs1]
        exact hwf
      rw [setCtx_bytesKept, tagGranules_bytesKept]
      exact see_writeAs (s := { s1.settleFor a a.locs true with
        atoms := (s1.settleFor a a.locs true).atoms.filter fun x => decide (x.id ≠ a.id) }) hwf1 (hlv.stamps hst) (by omega) hkey _ _ _ _ _ _ hx

end Sys2Proof.Machine
end

section
/-!
PROOFS. Launch slots are written, walks start, and each kind of node completes (R58 to R72, R82, R352, R372).
-/

namespace Sys2Proof.Machine

/-! ### What Spindle pays -/

theorem State.visiting_of_paid {s u : State} {w : Walk} {n : Nat} {more : List SpinAcc} (go : State → Result)
    (hl : s.spinLocked w.func ((w.graph + 64 * n, 64, false) :: more) = false)
    (hp : s.pay (walkRequest w.slot n) w.func .memory (s.spinTokens w.func ((w.graph + 64 * n, 64, false) :: more)) = (u, true)) :
    s.visiting w n more go = go u := State.paying_of_paid hl hp go

theorem spinLocked_head {s : State} {f : Nat} {a : SpinAcc} {c : List SpinAcc} (h : s.spinLocked f (a :: c) = false) :
    s.spinLocked f [a] = false := by
  simp only [State.spinLocked, List.any_cons, Bool.or_eq_false_iff] at h
  simp [State.spinLocked, h.1]

/-! ### Launch slots -/

section
variable {s : State} {q : SlotRef} {w : Nat} {v : BitVec 64}

/-- A function's write of a word of its own slot. -/
theorem execLaunchSlotWrite_own (hq : slotExists q = true) (ht : s.monitor.update ≠ .trial) (hs : (s.part (slotFunc q (s.slot q))).state = 1)
    (hw : w ≠ 8) : exec (.launchSlotWrite (slotFunc q (s.slot q)) q w v) s = .next (s.writeSlot q w v.toNat) := by
  change execLaunchSlotWrite _ q w v s = _
  unfold execLaunchSlotWrite
  rw [if_neg (by simp [hq]), if_neg ht, if_neg hw, if_neg (by simp [hs])]

/-- The firmware's assignment of a slot. -/
theorem execLaunchSlotWrite_assign (hq : slotExists q = true) (ht : s.monitor.update ≠ .trial) (f : Nat) (hv : v.toNat ≤ 8) :
    exec (.launchSlotWrite f q 8 v) s = .next { s.setSlot q { s.slot q with func := v.toNat, walks := 0 } with fwStatus := 0 } := by
  change execLaunchSlotWrite _ q 8 v s = _
  unfold execLaunchSlotWrite
  rw [if_neg (by simp [hq]), if_neg ht, if_pos rfl, if_pos hv]

theorem decide_bit (v : BitVec 64) (i : Nat) : decide (v.toNat / 2 ^ i % 2 = 1) = v.getLsbD i := by
  rw [BitVec.getLsbD, Nat.testBit_eq_decide_div_mod_eq]

/-- The word with EN clears or keeps it while it is set. -/
theorem writeSlot_en (he : (s.slot q).en = true) : s.writeSlot q 4 v.toNat = s.setSlot q { s.slot q with en := v.getLsbD 31 } := by
  unfold State.writeSlot
  simp only [he, if_true, decide_bit]

/-- Setting EN is checked first. -/
theorem writeSlot_enable (he : (s.slot q).en = false) (hv : v.getLsbD 31 = true) {y : Slot}
    (hy : y = { s.slot q with start := field v 63 48, nodes := field v 47 32, en := true, enerr := 0 }) :
    s.writeSlot q 4 v.toNat = if s.enError q y = 0 then s.setSlot q y else s.setSlot q { s.slot q with enerr := s.enError q y } := by
  subst hy
  unfold State.writeSlot
  simp only [he, decide_bit, hv, Bool.not_true, Bool.false_eq_true, if_false]
  rfl

end

/-! ### Walks -/

/-- A walk starts when the flag of an enabled slot has reached THRESH. -/
theorem execWalkStart_ready {s : State} {q : SlotRef} {f v : Nat} (hq : slotExists q = true) (hf : f = slotFunc q (s.slot q))
    (he : (s.slot q).en = true) (hw : Table.find s.walks (slotKey q) = none) (hd : q.die ∉ s.quiesced) (hs : (s.part f).state = 1)
    (hv : s.spinWord f (s.slot q).flag 8 = some v) (hr : s.spinReady f (s.slot q).flag = true) :
    exec (.walkStart q) s = if v < (s.slot q).thresh then .next s else
      s.paying (walkRequest q 0xFFFF) f [((s.slot q).flag, 8, false)] fun u =>
        if (Table.find s.insts (s.slot q).inst).all (·.unloading) then
          .next (u.setSlot q { s.slot q with
            thresh := ((s.slot q).thresh + (s.slot q).step) % 2 ^ 64, walks := ((s.slot q).walks + 1) % 2 ^ 64, lastStatus := 8, lastNode := 0xFFFF })
        else .next ((u.setSlot q { s.slot q with thresh := ((s.slot q).thresh + (s.slot q).step) % 2 ^ 64 }).setWalk
          ⟨q, f, (s.slot q).inst, (s.slot q).graph, (s.slot q).nodes, [(s.slot q).start], 0, none, []⟩) := by
  subst hf
  change execWalkStart q s = _
  unfold execWalkStart
  rw [if_neg (by simp [hq])]
  refine (if_neg (by simp [he, hw, hd, hs])).trans ?_
  rw [hv]
  simp only [hr, Bool.true_eq_false, or_false]

section
variable {s u : State} {q : SlotRef} {n x v : Nat} {w w1 : Walk} {d : Node}

/-- What a visit of a valid node stands under: a path of a walk at a node that Spindle may read. -/
structure Visited (s : State) (q : SlotRef) (n : Nat) (w w1 : Walk) (d : Node) : Prop where
  found : Table.find s.walks (slotKey q) = some w
  path : n ∈ w.paths
  die : q.die ∉ s.quiesced
  ready : (s.part w.func).state = 1
  form : w.graph + 64 * n < 2 ^ 57
  read : (s.spinWord w.func (w.graph + 64 * n) 64).map node = some d
  visits : w.visits + 1 < 2 ^ 24
  valid : d.ok w.nodes = true
  next : w1 = { w with paths := w.paths.erase n, visits := w.visits + 1 }
  free : s.spinLocked w.func [(w.graph + 64 * n, 64, false)] = false

/-- Such a visit does what the node's kind does. -/
theorem Visited.visit (h : Visited s q n w w1 d) {mine : Nat → Bool} (hm : mine d.kind = true) (go : Walk → Node → Result) :
    visit q n mine s go = go w1 d := by
  obtain ⟨hf, hp, hd, hs, hg, hr, hv, hok, rfl, hfree⟩ := h
  unfold Sys2Proof.Machine.visit
  rw [hf]
  refine (if_neg (by simp [hp, hd, hs])).trans ?_
  refine (if_neg (Nat.not_le.2 hv)).trans ?_
  refine (if_neg (by simp [hfree])).trans ?_
  rw [if_pos hg, hr]
  refine (if_neg (by simp [hm])).trans (if_neg (by simp [hok]))

end

section
variable {s : State} {q : SlotRef} {w x : Walk} {addr p g v : Nat} (fail : Walk → Result) (go : Walk → Nat → Result)

/-- A walk at a node whose word lies in a missing host page asks for the page. -/
theorem nodeWord_asks (hpage : s.nodePage w.func addr = some p) (hdue : s.pageDue w p = true) (hx : Table.find s.walks (slotKey q) = some x)
    (hg : (s.leaseOn w.func p).or (s.freeGen q.l1) = some g) :
    s.nodeWord q w addr fail go =
      .next ((s.ask w.func p g).setWalk { x with asked := if x.asked.contains p then x.asked else x.asked ++ [p] }) := by
  have hask : s.askFor q w p = (s.ask w.func p g).setWalk { x with asked := if x.asked.contains p then x.asked else x.asked ++ [p] } := by
    unfold State.askFor
    rw [hg, hx]
  unfold State.nodeWord
  rw [hpage, Option.filter_some, if_pos hdue]
  exact congrArg _ hask

/-- The walk that goes on from a node's word: what it has asked for is there. -/
def Walk.answered (w : Walk) : Option Nat → Walk
  | some p => { w with asked := w.asked.filter fun x => decide (x ≠ p) }
  | none => w

/-- A walk at a node whose word can be read goes on with its value. -/
theorem nodeWord_reads (hpage : ∀ p, s.nodePage w.func addr = some p → s.pageDue w p = false)
    (hv : s.spinWord w.func addr 8 = some v) (hr : s.spinReady w.func addr = true) :
    s.nodeWord q w addr fail go = go (w.answered (s.nodePage w.func addr)) v := by
  have hnone : (s.nodePage w.func addr).filter (s.pageDue w) = none := by
    cases hp : s.nodePage w.func addr with
    | none => rfl
    | some p => rw [Option.filter_some, if_neg (by simp [hpage p hp])]
  unfold State.nodeWord
  rw [hnone]
  simp only [hv, hr, if_true]
  cases s.nodePage w.func addr <;> rfl

end

/-! ### Nodes -/

/-- The summary of a skein without iterations (R82). -/
theorem summary_zero : summary 0 0 0 0 0 0 0 = 0 := by
  simp only [summary, Nat.zero_mul, Nat.add_zero]

/-- The summary of a node that fails before its launch begins (R82). -/
theorem summary_failed (st : Nat) : summary 0 0 0 0 0 0 st = st * 2 ^ 328 := by
  simp only [summary, Nat.zero_mul, Nat.zero_add, Nat.add_zero]

/-- The launch that a skein node begins (R58, R71 to R75). -/
def skeinLaunch (s : State) (q : SlotRef) (n : Nat) (w : Walk) (d : Node) (sk : BitVec 1024) (count : Nat)
    (ranges : List (Nat × Nat × Nat)) : Launch :=
  let x := sk.toNat
  let t := s.tenant w.slot.l1 w.func (bitsAt x 56 3)
  { id := s.fresh, walk := slotKey q, node := n, die := q.die, func := w.func, l1 := q.l1, child := t.2.1, expl := t.2.2
    inst := w.inst, skein := d.a % 2 ^ 16, entry := bitsAt x 0 16, root := bitsAt x 32 16, dims := skeinDims x, order := skeinOrder x
    n := iterations (skeinDims x), persist := decide (bitsAt x 29 1 = 1), count := count, weight := max 1 (bitsAt x 48 8)
    matrix := decide (bitsAt x 28 1 = 1), rmode := decide (d.a / 2 ^ 16 % 2 = 1), rcap := d.a / 2 ^ 32, crec := d.b, summ := d.c
    succ := [d.succ0, d.succ1], err := d.err, ranges := ranges, stage := .lease, lease := 64, next := 0, turn := 0, seq := 0
    launched := 0, normal := 0, faulted := 0, dropped := 0, left := 0, first := 0, recs := 0 }

section
variable {s u : State} {q : SlotRef} {n v : Nat} {w w1 : Walk} {d : Node} (h : Visited s q n w w1 d)
include h

theorem Visited.func_eq : w1.func = w.func := by rw [h.next]

theorem Visited.slot_eq : w1.slot = w.slot := by rw [h.next]

theorem Visited.workAt_eq : w1.workAt n = w.graph + 64 * n + 56 := by rw [h.next]; rfl

/-- A visit that has paid for its node, and for `more`, goes on. -/
theorem Visited.pays {more : List SpinAcc} (hl : s.spinLocked w.func ((w.graph + 64 * n, 64, false) :: more) = false)
    (hp : s.pay (walkRequest w.slot n) w.func .memory (s.spinTokens w.func ((w.graph + 64 * n, 64, false) :: more)) = (u, true))
    (go : State → Result) : s.visiting w1 n more go = go u := by
  have hn := h.next
  subst hn
  exact State.visiting_of_paid go hl hp

/-- A join counts its arrivals and goes on at the last. -/
theorem Visited.join (hk : d.kind = 2)
    (hl : s.spinLocked w.func ((w.graph + 64 * n, 64, false) :: [(w1.workAt n, 8, true)]) = false)
    (hp : s.pay (walkRequest w.slot n) w.func .memory
      (s.spinTokens w.func ((w.graph + 64 * n, 64, false) :: [(w1.workAt n, 8, true)])) = (u, true)) :
    exec (.joinNodeVisit q n) s =
      if (d.work + 1) % 2 ^ 64 = d.a then
        .next ((u.spinWrite w.func (w.graph + 64 * n + 56) 8 0).goOn (w1.follow [d.succ0, d.succ1]))
      else .next ((u.spinWrite w.func (w.graph + 64 * n + 56) 8 ((d.work + 1) % 2 ^ 64)).goOn w1) := by
  change execJoinNodeVisit q n s = _
  unfold execJoinNodeVisit
  rw [h.visit (by rw [hk]; rfl), ← h.workAt_eq, ← h.func_eq]
  exact h.pays hl hp _

/-- A condition, a while and a flag node whose word lies in a missing host page ask for the page. -/
theorem Visited.asks {p g : Nat} {i : Instr} (hpage : s.nodePage w.func d.a = some p) (hdue : s.pageDue w1 p = true)
    (hg : (s.leaseOn w.func p).or (s.freeGen q.l1) = some g)
    (hi : (d.kind = 3 ∧ i = .conditionalNodeVisit q n) ∨ (d.kind = 4 ∧ i = .whileNodeVisit q n) ∨ (d.kind = 5 ∧ i = .flagNodeVisit q n)) :
    exec i s = .next ((s.ask w.func p g).setWalk { w with asked := if w.asked.contains p then w.asked else w.asked ++ [p] }) := by
  have hword : ∀ fail go, s.nodeWord q w1 d.a fail go =
      .next ((s.ask w.func p g).setWalk { w with asked := if w.asked.contains p then w.asked else w.asked ++ [p] }) := by
    intro fail go
    rw [← h.func_eq] at hpage hg
    rw [nodeWord_asks fail go hpage hdue h.found hg, h.func_eq]
  rcases hi with ⟨hk, rfl⟩ | ⟨hk, rfl⟩ | ⟨hk, rfl⟩
  · change execConditionalNodeVisit q n s = _
    exact (h.visit (by rw [hk]; rfl) _).trans (hword _ _)
  · change execWhileNodeVisit q n s = _
    exact (h.visit (by rw [hk]; rfl) _).trans (hword _ _)
  · change execFlagNodeVisit q n s = _
    exact (h.visit (by rw [hk]; rfl) _).trans (hword _ _)

section
variable (hpage : ∀ p, s.nodePage w.func d.a = some p → s.pageDue w1 p = false) (hv : s.spinWord w.func d.a 8 = some v)
  (hr : s.spinReady w.func d.a = true)
include hpage hv hr

theorem Visited.reads (fail : Walk → Result) (go : Walk → Nat → Result) :
    s.nodeWord q w1 d.a fail go = go (w1.answered (s.nodePage w.func d.a)) v := by
  rw [← h.func_eq] at hpage hv hr ⊢
  exact nodeWord_reads _ _ hpage hv hr

/-- A condition chooses a successor. -/
theorem Visited.conditional (hk : d.kind = 3) (hl : s.spinLocked w.func ((w.graph + 64 * n, 64, false) :: [(d.a, 8, false)]) = false)
    (hp : s.pay (walkRequest w.slot n) w.func .memory
      (s.spinTokens w.func ((w.graph + 64 * n, 64, false) :: [(d.a, 8, false)])) = (u, true)) :
    exec (.conditionalNodeVisit q n) s =
      .next (u.goOn ((w1.answered (s.nodePage w.func d.a)).follow [if v = 0 then d.succ1 else d.succ0])) := by
  change execConditionalNodeVisit q n s = _
  unfold execConditionalNodeVisit
  rw [h.visit (by rw [hk]; rfl), h.reads hpage hv hr, h.pays hl hp]
  simp only [ne_eq, ite_not]

/-- A while node goes on, runs its body again or fails. -/
theorem Visited.while (hk : d.kind = 4)
    (hl : s.spinLocked w.func ((w.graph + 64 * n, 64, false) :: [(d.a, 8, false), (w1.workAt n, 8, true)]) = false)
    (hp : s.pay (walkRequest w.slot n) w.func .memory
      (s.spinTokens w.func ((w.graph + 64 * n, 64, false) :: [(d.a, 8, false), (w1.workAt n, 8, true)])) = (u, true)) :
    exec (.whileNodeVisit q n) s =
      if v = 0 then .next ((u.spinWrite w.func (w.graph + 64 * n + 56) 8 0).goOn ((w1.answered (s.nodePage w.func d.a)).follow [d.succ0]))
      else if d.work < d.b then
        .next ((u.spinWrite w.func (w.graph + 64 * n + 56) 8 (d.work + 1)).goOn ((w1.answered (s.nodePage w.func d.a)).follow [d.succ1]))
      else .next ((u.spinWrite w.func (w.graph + 64 * n + 56) 8 0).goOn ((w1.answered (s.nodePage w.func d.a)).fail n 6 d.err)) := by
  change execWhileNodeVisit q n s = _
  unfold execWhileNodeVisit
  rw [h.visit (by rw [hk]; rfl), h.reads hpage hv hr, h.pays hl hp, h.workAt_eq, h.func_eq]

/-- A flag node adds. -/
theorem Visited.flag (hk : d.kind = 5)
    (hl : s.spinLocked w.func ((w.graph + 64 * n, 64, false) :: [(d.a, 8, false), (d.a, 8, true)]) = false)
    (hp : s.pay (walkRequest w.slot n) w.func .memory
      (s.spinTokens w.func ((w.graph + 64 * n, 64, false) :: [(d.a, 8, false), (d.a, 8, true)])) = (u, true)) :
    exec (.flagNodeVisit q n) s = .next ((u.spinWrite w.func d.a 8 ((v + d.b) % 2 ^ 64)).goOn
      ((w1.answered (s.nodePage w.func d.a)).follow [d.succ0, d.succ1])) := by
  change execFlagNodeVisit q n s = _
  unfold execFlagNodeVisit
  rw [h.visit (by rw [hk]; rfl), h.reads hpage hv hr, h.pays hl hp, h.func_eq]

end

/-- A skein node of an image that is there and that has the skein: the checks that stand before the launch. -/
theorem Visited.skein {i : Image} {sk : BitVec 1024} {rs : List (Nat × Nat × Nat)} {m : Nat} (hk : d.kind = 1)
    (hi : Table.find s.insts w.inst = some i) (hsk : i.skeins[d.a % 2 ^ 16]? = some sk)
    (hok : s.skeinOk w i (d.a % 2 ^ 16) sk.toNat = true)
    (hrs : leaseRanges i.roots sk.toNat (List.range (bitsAt sk.toNat 88 4)) = some rs)
    (hseed : seedLeased i.roots (bitsAt sk.toNat 32 16) rs = true)
    (hm : m = (if bitsAt sk.toNat 29 1 = 0 then iterations (skeinDims sk.toNat) else if bitsAt sk.toNat 96 16 = 0 then
      ((List.range (4 * s.coreCount)).filter (s.part (s.tenant w.slot.l1 w.func (bitsAt sk.toNat 56 3)).1).ownsCtx).length
      else bitsAt sk.toNat 96 16))
    (hfit : d.b % 2 ^ 57 + 64 * (if d.a / 2 ^ 16 % 2 = 1 then d.a / 2 ^ 32 else m) ≤ 2 ^ 57)
    (hl : s.spinLocked w.func ((w.graph + 64 * n, 64, false) ::
      if iterations (skeinDims sk.toNat) = 0 then summaryAccs d.c else []) = false)
    (hp : s.pay (walkRequest w.slot n) w.func .memory (s.spinTokens w.func ((w.graph + 64 * n, 64, false) ::
      if iterations (skeinDims sk.toNat) = 0 then summaryAccs d.c else [])) = (u, true)) :
    (iterations (skeinDims sk.toNat) = 0 → exec (.skeinNodeVisit q n) s =
      .next ((u.summarise w.func d.c 0).goOn (w1.follow [d.succ0, d.succ1]))) ∧
    (iterations (skeinDims sk.toNat) ≠ 0 → ∃ l : Launch, exec (.skeinNodeVisit q n) s =
        .next (State.setWalk { u with launches := Table.set u.launches s.fresh l, fresh := u.fresh + 1 } w1) ∧
      l.stage = .lease ∧ l.func = w.func ∧ l.inst = w.inst ∧ l.dims = skeinDims sk.toNat ∧ l.order = skeinOrder sk.toNat ∧
      l.n = iterations (skeinDims sk.toNat) ∧ l.count = m ∧ l.ranges = rs ∧ l.next = 0 ∧
      l.entry = bitsAt sk.toNat 0 16 ∧ l.root = bitsAt sk.toNat 32 16 ∧ l.node = n ∧ l.err = d.err ∧ l.succ = [d.succ0, d.succ1]) := by
  have hok1 : s.skeinOk w1 i (d.a % 2 ^ 16) sk.toNat = true := by rw [h.next]; exact hok
  have hinst : w1.inst = w.inst := by rw [h.next]
  have hbit : bitsAt sk.toNat 29 1 < 2 := Nat.mod_lt _ (by norm_num)
  have hm1 : (if decide (bitsAt sk.toNat 29 1 = 1) = true then
      (if bitsAt sk.toNat 96 16 = 0 then
        ((List.range (4 * s.coreCount)).filter (s.part (s.tenant w1.slot.l1 w1.func (bitsAt sk.toNat 56 3)).1).ownsCtx).length
      else bitsAt sk.toNat 96 16) else iterations (skeinDims sk.toNat)) = m := by
    rw [hm, h.slot_eq, h.func_eq]
    rcases Nat.le_one_iff_eq_zero_or_eq_one.1 (Nat.lt_succ_iff.1 hbit) with hb | hb <;> simp [hb]
  have hstep : exec (.skeinNodeVisit q n) s = if iterations (skeinDims sk.toNat) = 0 then
        s.visiting w1 n (summaryAccs d.c) fun u => .next ((u.summarise w1.func d.c 0).goOn (w1.follow [d.succ0, d.succ1]))
      else s.visiting w1 n [] fun u => .next (State.setWalk { u with
        launches := Table.set u.launches s.fresh (skeinLaunch s q n w1 d sk m rs), fresh := u.fresh + 1 } w1) := by
    change execSkeinNodeVisit q n s = _
    unfold execSkeinNodeVisit
    rw [h.visit (by rw [hk]; rfl)]
    dsimp only
    rw [hinst, hi]
    simp only [hsk, hok1, hm1, hrs, hseed, summary_zero, Bool.not_true, Bool.false_eq_true, if_false, if_neg (Nat.not_lt.2 hfit)]
    unfold skeinLaunch
    rw [hinst]
  rw [hstep]
  refine ⟨fun h0 => ?_, fun h0 => ⟨skeinLaunch s q n w1 d sk m rs, ?_, ?_⟩⟩
  · rw [if_pos h0] at hl hp ⊢
    rw [h.pays hl hp, h.func_eq]
  · rw [if_neg h0] at hl hp ⊢
    rw [h.pays hl hp]
  · simp only [skeinLaunch, h.func_eq, hinst]
    exact ⟨trivial, trivial, trivial, trivial, trivial, trivial, trivial, trivial, trivial, trivial, trivial, trivial, trivial, trivial⟩

/-- A skein index beyond the section of the image. -/
theorem Visited.skein_missing {i : Image} (hk : d.kind = 1) (hi : Table.find s.insts w.inst = some i)
    (hsk : i.skeins[d.a % 2 ^ 16]? = none) (hl : s.spinLocked w.func ((w.graph + 64 * n, 64, false) :: summaryAccs d.c) = false)
    (hp : s.pay (walkRequest w.slot n) w.func .memory
      (s.spinTokens w.func ((w.graph + 64 * n, 64, false) :: summaryAccs d.c)) = (u, true)) :
    exec (.skeinNodeVisit q n) s = .next ((u.summarise w.func d.c (2 ^ 328)).goOn (w1.fail n 1 d.err)) := by
  have hinst : w1.inst = w.inst := by rw [h.next]
  change execSkeinNodeVisit q n s = _
  unfold execSkeinNodeVisit
  rw [h.visit (by rw [hk]; rfl)]
  dsimp only
  rw [hinst, hi]
  simp only [hsk, summary_failed, Nat.one_mul]
  rw [h.pays hl hp, h.func_eq]

end

/-- Settles O53: each write of a slot, each start and each visit takes the one path of its definition that its conditions leave. -/
theorem walkSteps : Obligations.WalkSteps := by
  refine ⟨?slots, ?start, ?nodes⟩
  case slots =>
    intro s f q v x y hq ht hx hf hs
    subst hx
    subst hf
    have hw : ∀ w, w ≠ 8 → exec (.launchSlotWrite (slotFunc q (s.slot q)) q w v) s = .next (s.writeSlot q w v.toNat) :=
      fun w h => execLaunchSlotWrite_own hq ht hs h
    refine ⟨hw 1 (by decide), fun he => ⟨?_, ?_⟩, fun he => ⟨?_, ?_, ?_, ?_, fun hv hy => ⟨fun h0 => ?_, fun h0 => ?_⟩⟩,
      fun g hg => execLaunchSlotWrite_assign hq ht g hg⟩
    · intro w hmem
      have hkeep : s.writeSlot q w v.toNat = s := by
        simp only [List.mem_cons, List.not_mem_nil, or_false] at hmem
        rcases hmem with rfl | rfl | rfl | rfl <;> simp [State.writeSlot, he]
      rw [hw w (by rintro rfl; simp at hmem), hkeep]
    · rw [hw 4 (by decide), writeSlot_en he]
    · rw [hw 0 (by decide)]
      simp [State.writeSlot, he]
    · rw [hw 2 (by decide)]
      simp [State.writeSlot, he]
    · rw [hw 3 (by decide)]
      simp [State.writeSlot, he]
    · rw [hw 5 (by decide)]
      simp [State.writeSlot, he]
    · rw [hw 4 (by decide), writeSlot_enable he hv hy, if_pos h0]
    · rw [hw 4 (by decide), writeSlot_enable he hv hy, if_neg h0]
  case start =>
    intro s u q x f v i hq hx hf he hw hd hs hv hr hi hun hl
    subst hx
    have hstart := execWalkStart_ready hq hf he hw hd hs hv hr
    refine ⟨fun hle hp => ?_, fun hlt => hstart.trans (if_pos hlt)⟩
    rw [hstart, if_neg (Nat.not_lt.2 hle), State.paying_of_paid hl hp, hi, Option.all_some, hun]
    rfl
  case nodes =>
    intro s u q n x v c w w1 d hf hn hd hs hg hx hnode hvis hok hw1 hl hp
    have h : Visited s q n w w1 d := ⟨hf, hn, hd, hs, hg, by rw [hx, hnode]; rfl, hvis, hok, hw1, spinLocked_head hl⟩
    refine ⟨fun hk hc => ?_, fun p g i hpage hdue hgen hi => h.asks hpage hdue hgen hi, fun w2 hpage hv hr hw2 => ?_,
      fun hk i sk rs m hi hsk hskok hrs hseed hm hfit => ?_, fun hk i hi hsk hc => ?_⟩
    · subst hc
      exact ⟨fun hlast => (h.join hk hl hp).trans (if_pos hlast), fun hmore => (h.join hk hl hp).trans (if_neg hmore)⟩
    · obtain rfl : w2 = w1.answered (s.nodePage w.func d.a) := by
        rw [hw2]
        cases s.nodePage w.func d.a <;> rfl
      refine ⟨fun hk hc => ?_, fun hk hc => ?_, fun hk hc => ?_⟩
      · subst hc
        exact h.conditional hpage hv hr hk hl hp
      · subst hc
        have hstep := h.while hpage hv hr hk hl hp
        exact ⟨fun h0 => hstep.trans (if_pos h0), fun h0 hlt => (hstep.trans (if_neg h0)).trans (if_pos hlt),
          fun h0 hle => (hstep.trans (if_neg h0)).trans (if_neg (Nat.not_lt.2 hle))⟩
      · subst hc
        exact h.flag hpage hv hr hk hl hp
    · refine ⟨fun h0 hc => ?_, fun h0 hc => ?_⟩
      · exact (h.skein hk hi hsk hskok hrs hseed hm hfit (by rw [if_pos h0, ← hc]; exact hl) (by rw [if_pos h0, ← hc]; exact hp)).1 h0
      · exact (h.skein hk hi hsk hskok hrs hseed hm hfit (by rw [if_neg h0, ← hc]; exact hl) (by rw [if_neg h0, ← hc]; exact hp)).2 h0
    · subst hc
      exact h.skein_missing hk hi hsk hl hp

end Sys2Proof.Machine
end

section
/-!
PROOFS. A launch takes its lease, places its tasks, writes their records and completes (R72 to R82, R113, R332, R345, R350 to R352).
-/

namespace Sys2Proof.Machine

/-! ### What Spindle's writes leave -/

theorem State.stored_writeChip (s : State) (key : Nat) (cells : List Host.Cell) : s.OnlyStored (s.writeChip key cells) :=
  ((s.onlyBytes_forceOut _ _).trans (State.onlyBytes_memWrite _ _ _)).stored

theorem State.stored_setPte (s : State) (k : Nat) (w : Word) : s.OnlyStored (s.setPte k w) := ⟨_, _, _, _, _, _, _, _, _, _, _, _, rfl⟩

/-- Every launch keeps all but what its lease has reserved. -/
def State.LeasesKept (s t : State) : Prop :=
  ∀ n l, Table.find s.launches n = some l → ∃ rs, Table.find t.launches n = some { l with reserve := rs }

theorem State.LeasesKept.of_eq {s t : State} (h : t.launches = s.launches) : s.LeasesKept t := fun _ l hl => ⟨l.reserve, by rw [h, hl]⟩

theorem State.LeasesKept.trans {s t u : State} (h : s.LeasesKept t) (k : t.LeasesKept u) : s.LeasesKept u := by
  intro n l hl
  obtain ⟨rs, hrs⟩ := h n l hl
  obtain ⟨rs', hrs'⟩ := k n _ hrs
  exact ⟨rs', hrs'⟩

/-- What a write of Spindle leaves: all but what is stored, and every launch but for what its lease has reserved. -/
def State.Spun (s t : State) : Prop := s.OnlyStored t ∧ s.LeasesKept t

theorem State.Spun.refl (s : State) : s.Spun s := ⟨.refl s, .of_eq rfl⟩

theorem State.Spun.trans {s t u : State} (h : s.Spun t) (k : t.Spun u) : s.Spun u := ⟨h.1.trans k.1, h.2.trans k.2⟩

theorem State.OnlyBytes.leases {s t : State} : s.OnlyBytes t → s.LeasesKept t := by
  rintro ⟨_, _, _, rfl⟩
  exact .of_eq rfl

theorem State.spun_writeChip (s : State) (key : Nat) (cells : List Host.Cell) : s.Spun (s.writeChip key cells) :=
  ⟨s.stored_writeChip key cells, ((s.onlyBytes_forceOut _ _).trans (State.onlyBytes_memWrite _ _ _)).leases⟩

theorem State.leases_takeReserved {s : State} {launch size : Nat} {p : Nat × State} (h : s.takeReserved launch size = some p) :
    s.LeasesKept p.2 := by
  unfold State.takeReserved at h
  split at h
  · cases h
  next l hl =>
    obtain ⟨a, -, rfl⟩ := Option.map_eq_some_iff.1 h
    intro n x hx
    by_cases hn : n = launch
    · subst hn
      obtain rfl := Option.some.inj (hl.symm.trans hx)
      exact ⟨_, Table.find_set_same _ _ _⟩
    · exact ⟨x.reserve, (Table.find_set_other _ _ hn).trans hx⟩

theorem State.leases_zeroFrame {s : State} {f size : Nat} {p : Nat × State} (h : s.zeroFrame f size = some p) : s.LeasesKept p.2 := by
  unfold State.zeroFrame State.frameBy at h
  split at h
  · obtain rfl := Option.some.inj h
    exact .of_eq rfl
  · obtain ⟨a, -, rfl⟩ := Option.map_eq_some_iff.1 h
    exact .of_eq rfl

theorem State.launches_keepFrame (s : State) (l : Leaf) : (s.keepFrame l).launches = s.launches := by
  unfold State.keepFrame
  dsimp only
  split <;> rfl

theorem State.spun_firstTouch (s : State) (launch : Option Nat) (f gen : Nat) (l : Leaf) : s.Spun (s.firstTouch launch f gen l) := by
  refine ⟨(s.onlyPlaces_firstTouch launch f gen l).stored, ?_⟩
  unfold State.firstTouch
  split
  · exact .of_eq rfl
  next frame s1 h =>
    have h1 : s.LeasesKept s1 := by
      rcases Option.or_eq_some_iff.1 h with h | ⟨-, h⟩
      · obtain ⟨n, -, hn⟩ := Option.bind_eq_some_iff.1 h
        exact State.leases_takeReserved hn
      · exact State.leases_zeroFrame h
    exact h1.trans (.of_eq (s1.launches_keepFrame l))

theorem State.spun_spinPut (f space : Nat) (launch : Option Nat) (cs : List (Nat × Nat)) (s : State) (bs : List Byte) :
    s.Spun (State.spinPut f space launch s cs bs) := by
  induction cs generalizing s bs with
  | nil => exact .refl s
  | cons c cs ih =>
    refine State.Spun.trans ?_ (ih _ _)
    dsimp only
    split
    · exact .refl s
    next l _ =>
      split
      · exact .refl s
      · have htouch : s.Spun
            (if l.populated then s.setPte l.key (setField l.pte 8 8 1) else s.firstTouch launch f (field l.pte 59 54) l) := by
          split
          · exact ⟨s.stored_setPte _ _, .of_eq rfl⟩
          · exact s.spun_firstTouch _ _ _ _
        split
        · exact htouch
        · exact htouch.trans (State.spun_writeChip _ _ _)

theorem State.spun_seedPage (s : State) (i : Image) (l : Launch) : s.Spun (s.seedPage i l) := by
  unfold State.seedPage
  generalize numbered 0 (seeds i.roots l.root) = ps
  dsimp only
  induction ps generalizing s with
  | nil => exact .refl s
  | cons p ps ih =>
    refine State.Spun.trans ?_ (ih _)
    dsimp only
    split
    · split
      · exact (State.spun_spinPut _ _ _ _ _ _).trans (State.spun_writeChip _ _ _)
      · exact State.spun_spinPut _ _ _ _ _ _
    · exact State.spun_spinPut _ _ _ _ _ _

theorem State.retire_spinWrite (s : State) (f a n x : Nat) : (s.spinWrite f a n x).retire = s.retire := by
  obtain ⟨_, _, _, _, _, _, _, _, _, _, _, _, h⟩ := (State.spun_spinPut f (a / 2 ^ 60) none (chunks (a % 2 ^ 57) n) s (leBytes n x)).1
  unfold State.spinWrite
  rw [h]

/-! ### Requests of pages -/

theorem State.launches_ask (s : State) (f p g : Nat) : (s.ask f p g).launches = s.launches ∧ (s.ask f p g).retire = s.retire := by
  unfold State.ask
  split <;> exact ⟨rfl, rfl⟩

theorem State.launches_askAgain (s : State) : s.askAgain.launches = s.launches ∧ s.askAgain.retire = s.retire := by
  unfold State.askAgain
  generalize s.hostGone = es
  induction es generalizing s with
  | nil => exact ⟨rfl, rfl⟩
  | cons e es ih =>
    rw [List.foldl_cons]
    split
    next g _ => exact ⟨(ih _).1.trans (s.launches_ask _ _ _).1, (ih _).2.trans (s.launches_ask _ _ _).2⟩
    next => exact ih _

theorem State.launches_again_dropRequests (s : State) (f g : Nat) :
    (State.askAgain (s.dropRequests f g)).launches = s.launches ∧ (State.askAgain (s.dropRequests f g)).retire = s.retire :=
  State.launches_askAgain _

/-! ### Leases -/

section
variable {s : State} {n g : Nat} {l : Launch} (hl : Table.find s.launches n = some l) (hstage : l.stage = .lease)
  (hdie : l.die ∉ s.quiesced) (hserve : s.inService l = true) (hlease : 64 ≤ l.lease) (hgen : s.freeGen l.l1 = some g)
include hl hstage hdie hserve hlease hgen

/-- A launch with no missing host page takes its lease, or is refused it. -/
theorem exec_leaseEstablish_there (granted : Bool) (hmiss : s.missing l = []) :
    exec (.leaseEstablish n granted) s = (if granted then s.takeLease l g else none).elim (.next (s.refuseLease l)) fun p =>
      .next { p.2 with
        launches := Table.set p.2.launches n { l with lease := g, stage := .placing, seq := p.2.fresh, reserve := p.1 }
        fresh := p.2.fresh + 1 } := by
  change execLeaseEstablish n granted s = _
  unfold execLeaseEstablish
  rw [hl]
  refine (if_neg (by simp [hstage, hdie, hserve])).trans ?_
  rw [if_neg (Nat.not_lt.2 hlease), hgen, hmiss, List.eraseDups_nil]
  dsimp only
  generalize (if granted then s.takeLease l g else none) = o
  cases o <;> rfl

/-- A launch with a missing host page asks for each that is missing. -/
theorem exec_leaseEstablish_missing (granted : Bool) (hmiss : s.missing l ≠ []) :
    exec (.leaseEstablish n granted) s = .next { s with
      launches := Table.set s.launches n { l with lease := g }
      requests := s.requests ++ (((s.missing l).eraseDups.map fun p => (l.tenantFunc, p, g, (s.part l.tenantFunc).epoch)).filter
        fun r => !s.requests.contains r)
      hostBad := s.hostBad.filter fun e => !((s.missing l).eraseDups.map fun p => (l.tenantFunc, p)).contains e
      hostGone := s.hostGone ++ ((s.missing l).eraseDups.map fun p => (l.tenantFunc, p)).filter fun e => !s.hostGone.contains e } := by
  change execLeaseEstablish n granted s = _
  unfold execLeaseEstablish
  rw [hl]
  refine (if_neg (by simp [hstage, hdie, hserve])).trans ?_
  rw [if_neg (Nat.not_lt.2 hlease), hgen]
  cases hps : (s.missing l).eraseDups with
  | nil =>
    obtain ⟨p, hp⟩ := List.exists_mem_of_ne_nil _ hmiss
    have hmem := List.mem_eraseDups.2 hp
    rw [hps] at hmem
    cases hmem
  | cons m ms => rfl

end

/-- Every element of a list is in it once what it lacked has been appended. -/
theorem mem_append_filter_not_contains {α : Type} [BEq α] [LawfulBEq α] {xs ys : List α} {y : α} (h : y ∈ ys) :
    y ∈ xs ++ ys.filter fun e => !xs.contains e := by
  by_cases hx : y ∈ xs
  · exact List.mem_append_left _ hx
  · exact List.mem_append_right _ (List.mem_filter.2 ⟨h, by simp [hx]⟩)

theorem find_refuseLease (s : State) (l : Launch) :
    Table.find (s.refuseLease l).launches l.id = some { l with stage := .failed, lease := 64, reserve := [] } := by
  unfold State.refuseLease
  rw [(State.launches_again_dropRequests _ _ _).1]
  exact Table.find_set_same _ _ _

/-! ### Placement -/

/-- Loading router tables changes clusters only. -/
theorem clusters_foldl_setCluster {β : Type} (f : State → β → State) (h : ∀ u b, ∃ cs, f u b = { u with clusters := cs }) (bs : List β)
    (s : State) : ∃ cs, bs.foldl f s = { s with clusters := cs } := by
  induction bs generalizing s with
  | nil => exact ⟨s.clusters, rfl⟩
  | cons b bs ih =>
    obtain ⟨cs, hcs⟩ := h s b
    obtain ⟨ds, hds⟩ := ih (f s b)
    refine ⟨ds, ?_⟩
    rw [List.foldl_cons, hds, hcs]

/-- The router table of one of a level-1 partition's clusters is loaded. -/
def State.loadRouter (s u : State) (l1 : Nat) (r : Nat × List (BitVec 32)) : State :=
  match (s.part l1).clusterList[r.1]? with
  | none => u
  | some c => u.setCluster c { u.cluster c with router := numbered 0 (r.2.map routerEntry) }

/-- The image of the launch whose turn it is is loaded once no task of another image is resident. -/
theorem exec_routerTableLoad {s : State} {n : Nat} {l : Launch} {i : Image} (hl : Table.find s.launches n = some l)
    (hstage : l.stage = .placing) (hres : (s.part l.l1).resident ≠ some l.inst) (hother : s.otherResident l.l1 l.inst = false)
    (hturn : (s.turnOf l.tenantFunc).map (·.id) = some l.id) (hplace : s.placeable l.l1 = false)
    (hi : Table.find s.insts l.inst = some i) :
    exec (.routerTableLoad n) s = .next (State.setPart (i.router.foldl (fun u r => s.loadRouter u l.l1 r) s) l.l1
      { s.part l.l1 with resident := some l.inst }) := by
  have hgo : ¬(l.stage ≠ .placing ∨ (s.part l.l1).resident = some l.inst ∨ s.otherResident l.l1 l.inst = true
      ∨ (s.turnOf l.tenantFunc).map (·.id) ≠ some l.id ∨ s.placeable l.l1 = true) := by
    simp [hstage, hres, hother, hturn, hplace]
  change execRouterTableLoad n s = _
  unfold execRouterTableLoad
  rw [hl]
  refine (if_neg hgo).trans ?_
  rw [hi]
  exact congrArg _ rfl

theorem State.clusters_loadRouters (s : State) (l1 : Nat) (rs : List (Nat × List (BitVec 32))) :
    ∃ cs, rs.foldl (fun u r => s.loadRouter u l1 r) s = { s with clusters := cs } := by
  refine clusters_foldl_setCluster _ (fun u r => ?_) rs s
  unfold State.loadRouter
  split
  · exact ⟨u.clusters, rfl⟩
  · exact ⟨_, rfl⟩

theorem State.rouse_kept (s : State) (c : Nat) : (s.rouse c).ctxs = s.ctxs ∧ (s.rouse c).launches = s.launches := by
  unfold State.rouse
  dsimp only
  split <;> exact ⟨rfl, rfl⟩

theorem State.releaseKeys_kept (s : State) (id : Nat) :
    (s.releaseKeys id).ctxs = s.ctxs ∧ (s.releaseKeys id).launches = s.launches := by
  unfold State.releaseKeys
  split <;> exact ⟨rfl, rfl⟩

/-- The task that a launch places next. -/
def Launch.task (l : Launch) (tid : Nat) : Task :=
  { tid := tid, func := l.tenantFunc, l1 := l.l1, child := l.child, expl := l.expl, inst := l.inst, launch := l.id, serial := l.next
    skein := l.skein, persist := l.persist, iters := 0, dims := l.dims, order := l.order, ranges := l.ranges }

/-- The state with a launch's next task placed on a context, before its keys are released and its cluster is woken. -/
def Launch.placed (l : Launch) (i : Image) (n id cursor : Nat) (u : State) : State :=
  let s0 := if l.next = 0 then u.seedPage i l else u
  let s1 := { s0.setCtx id (startCtx i l (l.task u.fresh) (s0.ctx id)) with fresh := s0.fresh + 1 }
  let p := s1.part l.tenantFunc
  let turn := if p.rr = l.seq ∧ l.turn < l.weight then l.turn + 1 else 1
  let s2 := s1.setPart l.tenantFunc { p with cursor := cursor, rr := l.seq }
  { s2 with launches := Table.set s2.launches n { (Table.get l s2.launches n) with next := l.next + 1, turn := turn, launched := l.launched + 1 } }

/-- A seeded capability page keeps the contexts, and every launch but for what its lease has reserved. -/
theorem State.seeded_kept {v w : State} {i : Image} {l : Launch} (h : w = if l.next = 0 then v.seedPage i l else v) : v.Spun w := by
  rw [h]
  split
  · exact State.spun_seedPage _ _ _
  · exact .refl _

theorem Table.get_of_find {α : Type} (d : α) {t : Table α} {k : Nat} {x : α} (h : Table.find t k = some x) : Table.get d t k = x := by
  induction t with
  | nil => cases h
  | cons p t ih =>
    unfold Table.find at h
    unfold Table.get
    split at h
    · cases h
    · split at h
      next hlt heq => rw [if_neg hlt, if_pos heq, Option.some.inj h]
      next hlt hne => rw [if_neg hlt, if_neg hne, ih h]

/-- The launch whose turn it is places its next task on the context that is its spot. -/
theorem exec_taskPlace {s v : State} {n id : Nat} {l : Launch} {i : Image} (hl : Table.find s.launches n = some l)
    (hspot : s.spot l = some id) (hi : Table.find s.insts l.inst = some i) (hstage : l.stage = .placing) (hnext : l.next < l.count)
    (hres : (s.part l.l1).resident = some l.inst) (hready : (s.part l.tenantFunc).state = 1)
    (hturn : (s.turnOf l.tenantFunc).map (·.id) = some l.id) (hfree : s.spinLocked l.tenantFunc (seedAccs i l) = false)
    (hpay : s.pay (requestNo 2 l.id) l.tenantFunc .memory (s.spinTokens l.tenantFunc (seedAccs i l)) = (v, true)) :
    exec (.taskPlace n) s = .next (State.rouse (State.releaseKeys
      (l.placed i n id ((coreOf id + 1) % s.coreCount) v) id) (clusterOf (coreOf id))) := by
  change execTaskPlace n s = _
  unfold execTaskPlace
  rw [hl]
  dsimp only
  rw [hspot, hi]
  dsimp only
  rw [if_neg (by simp [hstage, hres, hready, hturn, hnext]), State.paying_of_paid hfree hpay]
  rfl

/-- What such a placement leaves in the contexts and in its launch. -/
theorem placed_kept {s v : State} {n id cursor c : Nat} {l : Launch} {i : Image} (hl : Table.find s.launches n = some l)
    (hctxs : v.ctxs = s.ctxs) (hlaunches : v.launches = s.launches) (hfresh : v.fresh = s.fresh) {u : State}
    (hu : u = State.rouse (State.releaseKeys (l.placed i n id cursor v) id) c) :
    u.ctxs = Table.set s.ctxs id (startCtx i l (l.task s.fresh) (s.ctx id)) ∧
    ∃ m rs, Table.find u.launches n = some { l with next := l.next + 1, launched := l.launched + 1, turn := m, reserve := rs } := by
  obtain ⟨w, hw⟩ : ∃ w, w = if l.next = 0 then v.seedPage i l else v := ⟨_, rfl⟩
  have hspun := State.seeded_kept hw
  obtain ⟨rs, hrs⟩ := hspun.2 n l (hlaunches ▸ hl)
  have hwc : w.ctxs = s.ctxs := hspun.1.kept.1.trans hctxs
  have hctx : w.ctx id = s.ctx id := by unfold State.ctx; rw [hwc]
  rw [hu, (State.rouse_kept _ _).1, (State.rouse_kept _ _).2, (State.releaseKeys_kept _ _).1, (State.releaseKeys_kept _ _).2]
  unfold Launch.placed
  rw [← hw, hfresh]
  constructor
  · change Table.set w.ctxs id (startCtx i l (l.task s.fresh) (w.ctx id)) = _
    rw [hwc, hctx]
  · refine ⟨if (w.part l.tenantFunc).rr = l.seq ∧ l.turn < l.weight then l.turn + 1 else 1, rs, (Table.find_set_same _ _ _).trans ?_⟩
    have hget : Table.get l w.launches n = { l with reserve := rs } := Table.get_of_find l hrs
    exact congrArg some (congrArg (fun x : Launch => { x with
      next := l.next + 1, turn := if (w.part l.tenantFunc).rr = l.seq ∧ l.turn < l.weight then l.turn + 1 else 1
      launched := l.launched + 1 }) hget)

/-- A register of a task as it starts (R77). -/
theorem gr_startCtx (i : Image) (l : Launch) (t : Task) (old : Ctx) {d : Nat} (hd : d ≠ 0) :
    (startCtx i l t old).gr d = Table.get {} (if l.persist then [(5, (⟨BitVec.ofNat 64 l.skein, false⟩ : GReg))] else
      [(1, ⟨coordinate l.dims l.order t.serial 0, false⟩), (2, ⟨coordinate l.dims l.order t.serial 1, false⟩),
       (3, ⟨coordinate l.dims l.order t.serial 2, false⟩), (4, ⟨coordinate l.dims l.order t.serial 3, false⟩),
       (5, ⟨BitVec.ofNat 64 l.skein, false⟩), (6, ⟨BitVec.ofNat 64 t.serial, false⟩)]) d := if_neg hd

/-! ### Completion records -/

/-- A completion record, field upon field. -/
theorem Retire.record_nested (r : Retire) (time : Nat) : r.record time =
    (r.code + r.pend.toNat * 2 ^ 8 + r.mchk.toNat * 2 ^ 9 + r.task.persist.toNat * 2 ^ 10 + r.ctx * 2 ^ 16 + r.core * 2 ^ 24
      + r.task.skein * 2 ^ 48) + 2 ^ 128 * ((if r.task.persist then r.left else 0) + 2 ^ 64 * ((if r.task.persist then r.task.iters else 1)
      + 2 ^ 64 * (r.task.serial + 2 ^ 64 * (time % 2 ^ 64 + 2 ^ 64 * ((if r.code = 0 then 0 else r.fpc.toNat)
      + 2 ^ 64 * (if r.code = 0 then 0 else r.tval.toNat)))))) := by
  have e192 : (2 : Nat) ^ 192 = 2 ^ 128 * 2 ^ 64 := (Nat.pow_add 2 128 64)
  have e256 : (2 : Nat) ^ 256 = 2 ^ 128 * 2 ^ 64 * 2 ^ 64 := by rw [← e192, ← Nat.pow_add]
  have e320 : (2 : Nat) ^ 320 = 2 ^ 128 * 2 ^ 64 * 2 ^ 64 * 2 ^ 64 := by rw [← e256, ← Nat.pow_add]
  have e384 : (2 : Nat) ^ 384 = 2 ^ 128 * 2 ^ 64 * 2 ^ 64 * 2 ^ 64 * 2 ^ 64 := by rw [← e320, ← Nat.pow_add]
  have e448 : (2 : Nat) ^ 448 = 2 ^ 128 * 2 ^ 64 * 2 ^ 64 * 2 ^ 64 * 2 ^ 64 * 2 ^ 64 := by rw [← e384, ← Nat.pow_add]
  unfold Retire.record
  rw [e448, e384, e320, e256, e192]
  ring

/-- The field above the lowest. -/
theorem bitsAt_above {a b lo k : Nat} (n : Nat) (h : a < 2 ^ lo) : bitsAt (a + 2 ^ lo * b) (lo + k) n = bitsAt b k n := by
  unfold bitsAt
  rw [Nat.pow_add, ← Nat.div_div_eq_div_mul, Nat.add_mul_div_left _ _ (Nat.two_pow_pos lo), Nat.div_eq_of_lt h, Nat.zero_add]

/-- The lowest field. -/
theorem bitsAt_lowest {a : Nat} (b n : Nat) (h : a < 2 ^ n) : bitsAt (a + 2 ^ n * b) 0 n = a := by
  unfold bitsAt
  rw [Nat.pow_zero, Nat.div_one, Nat.add_mul_mod_self_left, Nat.mod_eq_of_lt h]

/-- The fields of a completion record whose numbers fit (R80). -/
theorem Retire.record_fields (r : Retire) (time : Nat) (hcode : r.code < 256) (hctx : r.ctx < 256) (hcore : r.core < 2 ^ 24)
    (hskein : r.task.skein < 2 ^ 80) (hleft : r.left < 2 ^ 64) (hiters : r.task.iters < 2 ^ 64) (hserial : r.task.serial < 2 ^ 64) :
    bitsAt (r.record time) 0 8 = r.code ∧ bitsAt (r.record time) 256 64 = r.task.serial ∧
    bitsAt (r.record time) 384 64 = (if r.code = 0 then 0 else r.fpc.toNat) ∧
    bitsAt (r.record time) 448 64 = (if r.code = 0 then 0 else r.tval.toNat) := by
  have hpend := Bool.toNat_lt r.pend
  have hmchk := Bool.toNat_lt r.mchk
  have hpersist := Bool.toNat_lt r.task.persist
  have hlow : r.code + r.pend.toNat * 2 ^ 8 + r.mchk.toNat * 2 ^ 9 + r.task.persist.toNat * 2 ^ 10 + r.ctx * 2 ^ 16 + r.core * 2 ^ 24
      + r.task.skein * 2 ^ 48 < 2 ^ 128 := by omega
  have hleft' : (if r.task.persist then r.left else 0) < 2 ^ 64 := by split <;> omega
  have hiters' : (if r.task.persist then r.task.iters else 1) < 2 ^ 64 := by split <;> omega
  have htime : time % 2 ^ 64 < 2 ^ 64 := Nat.mod_lt _ (Nat.two_pow_pos 64)
  have hfpc : (if r.code = 0 then 0 else r.fpc.toNat) < 2 ^ 64 := by
    split
    · exact Nat.two_pow_pos 64
    · exact r.fpc.isLt
  have htval : (if r.code = 0 then 0 else r.tval.toNat) < 2 ^ 64 := by
    split
    · exact Nat.two_pow_pos 64
    · exact r.tval.isLt
  rw [r.record_nested time]
  refine ⟨?_, ?_, ?_, ?_⟩
  · unfold bitsAt
    omega
  · rw [bitsAt_above (k := 64 + 64) 64 hlow, bitsAt_above 64 hleft', bitsAt_above (k := 0) 64 hiters', bitsAt_lowest _ _ hserial]
  · rw [bitsAt_above (k := 64 + (64 + (64 + 64))) 64 hlow, bitsAt_above 64 hleft', bitsAt_above 64 hiters', bitsAt_above 64 hserial,
      bitsAt_above (k := 0) 64 htime, bitsAt_lowest _ _ hfpc]
  · rw [bitsAt_above (k := 64 + (64 + (64 + (64 + 64)))) 64 hlow, bitsAt_above 64 hleft', bitsAt_above 64 hiters',
      bitsAt_above 64 hserial, bitsAt_above 64 htime, bitsAt_above (k := 0) 64 hfpc]
    unfold bitsAt
    rw [Nat.pow_zero, Nat.div_one, Nat.mod_eq_of_lt htval]

/-! ### Completion -/

/-- The state in which a record has been written, where it is. -/
def Launch.recorded (l : Launch) (r : Retire) (time : Nat) (s : State) : State :=
  match l.recordAt r with
  | some a => s.spinWrite l.func a 64 (r.record time)
  | none => s

theorem Launch.retire_recorded (l : Launch) (r : Retire) (time : Nat) (s : State) : (l.recorded r time s).retire = s.retire := by
  unfold Launch.recorded
  split
  · exact s.retire_spinWrite _ _ _ _
  · rfl

/-- The entry of a drained task writes its record and frees itself; after the last, the lease is released. -/
theorem exec_completionRecordWrite {s v : State} {core tid : Nat} {r0 : Retire} {l : Launch}
    (hr : s.retire.find? (fun x => decide (x.core = core) && decide (x.task.tid = tid)) = some r0) (hdrained : s.drained r0 = true)
    (hready : (s.part r0.task.func).state = 1) (hl : Table.find s.launches (s.withRejects r0).task.launch = some l)
    (hfree : s.spinLocked l.func ((l.recordAt (s.withRejects r0)).toList.map fun a => (a, 64, true)) = false)
    (hpay : s.pay (requestNo 2 tid) l.func .memory
      (s.spinTokens l.func ((l.recordAt (s.withRejects r0)).toList.map fun a => (a, 64, true))) = (v, true)) :
    exec (.completionRecordWrite core tid) s =
      let s2 := l.recorded (s.withRejects r0) s.time (v.dropEntry tid)
      let l1 := l.count1 (s.withRejects r0)
      if l1.normal + l1.faulted = l1.count then
        .next (State.askAgain (State.dropRequests { s2 with
          launches := Table.set s2.launches l.id { l1 with lease := 64, reserve := [] }
          pool := s2.pool ++ l.reserve.map fun (p : Nat × Nat) => (l.l1, p.1, p.2) } l.tenantFunc l.lease))
      else .next { s2 with launches := Table.set s2.launches l.id l1 } := by
  change execCompletionRecordWrite core tid s = _
  unfold execCompletionRecordWrite
  rw [hr]
  dsimp only
  rw [if_neg (by simp [hdrained, hready]), hl]
  dsimp only
  rw [State.paying_of_paid hfree hpay]
  rfl

/-- A launch whose tasks have all written their records, or that was refused its lease, writes its summary, and its path goes on or fails. -/
theorem exec_skeinNodeComplete {s u : State} {n : Nat} {l : Launch} (hl : Table.find s.launches n = some l) (hstage : l.stage ≠ .lease)
    (hall : l.stage = .placing → l.count ≤ l.normal + l.faulted) (hserve : s.inService l = true)
    (hfree : s.spinLocked l.func (summaryAccs l.summ) = false)
    (hpay : s.pay (requestNo 2 l.id) l.func .memory (s.spinTokens l.func (summaryAccs l.summ)) = (u, true)) :
    exec (.skeinNodeComplete n) s =
      let st := if l.stage = .failed then 3 else if l.faulted = 0 then 0 else 4
      .next ((u.summarise l.func l.summ (summary l.launched l.normal l.faulted l.dropped l.left l.first st)).endLaunch l
        fun w => if st = 0 then w.follow l.succ else w.fail l.node st l.err) := by
  have hgo : ¬(s.inService l = false ∨ l.stage = .lease ∨ (l.stage = .placing ∧ l.normal + l.faulted < l.count)) := by
    rintro (h | h | ⟨h, hlt⟩)
    · rw [hserve] at h
      cases h
    · exact hstage h
    · exact Nat.not_lt.2 (hall h) hlt
  change execSkeinNodeComplete n s = _
  unfold execSkeinNodeComplete
  rw [hl]
  dsimp only
  rw [if_neg hgo, State.paying_of_paid hfree hpay]

/-- Settles O55: a lease, a placement, a record and the end of a launch each take the one path that their conditions leave; what Spindle writes
keeps contexts and launches. -/
theorem launchSteps : Obligations.LaunchSteps := by
  refine ⟨?lease, ?router, ?place, ?record, ?complete, find_refuseLease, ?quiesce⟩
  case lease =>
    intro s n g l hl hstage hdie hserve hlease hgen
    have hthere := exec_leaseEstablish_there hl hstage hdie hserve hlease hgen
    refine ⟨fun rs s1 hm htake => ?_, fun hm htake => ?_, fun hm => hthere false hm, fun p hp ok => ?_⟩
    · refine (hthere true hm).trans ?_
      rw [if_pos rfl, htake, Option.elim_some]
    · refine (hthere true hm).trans ?_
      rw [if_pos rfl, htake, Option.elim_none]
    · have hmem : (l.tenantFunc, p) ∈ (s.missing l).eraseDups.map fun p => (l.tenantFunc, p) :=
        List.mem_map.2 ⟨p, List.mem_eraseDups.2 hp, rfl⟩
      refine ⟨_, exec_leaseEstablish_missing hl hstage hdie hserve hlease hgen ok (List.ne_nil_of_mem hp),
        Table.find_set_same _ _ _, ?_, mem_append_filter_not_contains hmem, fun hbad => ?_⟩
      · exact mem_append_filter_not_contains (List.mem_map.2 ⟨p, List.mem_eraseDups.2 hp, rfl⟩)
      · have hnot := (List.mem_filter.1 hbad).2
        rw [List.contains_iff_mem.2 hmem] at hnot
        cases hnot
  case router =>
    intro s n l i hl hstage hres hother hturn hplace hi
    obtain ⟨cs, hcs⟩ := s.clusters_loadRouters l.l1 i.router
    have hstep := exec_routerTableLoad hl hstage hres hother hturn hplace hi
    rw [hcs] at hstep
    exact ⟨_, hstep, (State.part_setPart _ _ _ _).trans (if_pos rfl), rfl, rfl, rfl⟩
  case place =>
    intro s v n id l i hl hspot hi hstage hnext hres hready hturn hfree hpay
    obtain ⟨ps, pd, hv⟩ := State.pay_frame s (requestNo 2 l.id) l.tenantFunc .memory (s.spinTokens l.tenantFunc (seedAccs i l))
    obtain ⟨hvc, hvl, hvf⟩ : v.ctxs = s.ctxs ∧ v.launches = s.launches ∧ v.fresh = s.fresh := by
      rw [hpay] at hv
      obtain rfl := hv
      exact ⟨rfl, rfl, rfl⟩
    obtain ⟨u, hu⟩ : ∃ u, u = State.rouse (State.releaseKeys (l.placed i n id ((coreOf id + 1) % s.coreCount) v) id)
      (clusterOf (coreOf id)) := ⟨_, rfl⟩
    obtain ⟨hctxs, hlaunch⟩ := placed_kept hl hvc hvl hvf hu
    have hctx : u.ctx id = startCtx i l (l.task s.fresh) (s.ctx id) := by
      unfold State.ctx
      rw [hctxs]
      exact Table.get_set_same _ _ _ _
    refine ⟨u, l.task s.fresh, (exec_taskPlace hl hspot hi hstage hnext hres hready hturn hfree hpay).trans (by rw [hu]), hctx,
      rfl, rfl, rfl, rfl, rfl, rfl, fun j hj => ?_, hlaunch, ?_, ?_, fun hp d hd => ?_, fun hp => ?_, ?_⟩
    · unfold State.ctx
      rw [hctxs]
      exact Table.get_set_other _ _ _ hj
    · rw [hctx]
      rfl
    · rw [hctx]
      rfl
    · rw [hctx, gr_startCtx _ _ _ _ (Nat.succ_ne_zero d), if_neg (by simp [hp])]
      obtain rfl | rfl | rfl | rfl : d = 0 ∨ d = 1 ∨ d = 2 ∨ d = 3 := by omega
      · rfl
      · rfl
      · rfl
      · rfl
    · rw [hctx, gr_startCtx _ _ _ _ (by decide), if_neg (by simp [hp])]
      rfl
    · rw [hctx, gr_startCtx _ _ _ _ (by decide)]
      split <;> rfl
  case record =>
    intro s v u core tid r0 r l l1 c hr hdrained hready hwith hl hl1 hc hfree hpay hu
    subst hwith
    subst hl1
    subst hc
    have hstep := exec_completionRecordWrite hr hdrained hready hl hfree hpay
    have hdrop : v.dropEntry tid = u := by rw [hu]; rfl
    rw [hdrop] at hstep
    refine ⟨fun a ha hmore => ?_, fun ha hmore => ?_, fun hlast => ?_, fun h1 h2 h3 h4 h5 h6 h7 =>
      Retire.record_fields _ s.time h1 h2 h3 h4 h5 h6 h7⟩
    · have hrec : l.recorded (s.withRejects r0) s.time u = u.spinWrite l.func a 64 ((s.withRejects r0).record s.time) := by
        unfold Launch.recorded
        rw [ha]
      rw [hrec] at hstep
      exact hstep.trans (if_neg hmore)
    · have hrec : l.recorded (s.withRejects r0) s.time u = u := by
        unfold Launch.recorded
        rw [ha]
      rw [hrec] at hstep
      exact hstep.trans (if_neg hmore)
    · refine ⟨_, hstep.trans (if_pos hlast), ?_, ?_⟩
      · rw [(State.launches_again_dropRequests _ _ _).1]
        exact Table.find_set_same _ _ _
      · rw [(State.launches_again_dropRequests _ _ _).2]
        exact l.retire_recorded _ _ _
  case complete =>
    intro s u s1 n st l hl hstage hall hserve hfree hpay hst hs1
    have hstep := exec_skeinNodeComplete hl hstage hall hserve hfree hpay
    dsimp only at hstep
    rw [← hst, ← hs1] at hstep
    refine ⟨fun h0 => ?_, fun h0 => ?_⟩
    · simp only [if_pos h0] at hstep
      exact hstep
    · simp only [if_neg h0] at hstep
      exact hstep
  case quiesce =>
    intro s die hdie
    have hd : ¬ 2 ≤ die := Nat.not_le.2 hdie
    refine ⟨fun ht => ⟨?_, ?_⟩, fun ht => ⟨?_, ?_⟩⟩
    · exact (if_neg hd).trans (if_neg ht)
    · exact (if_neg hd).trans (if_neg ht)
    · exact (if_neg hd).trans (if_pos ht)
    · exact (if_neg hd).trans (if_pos ht)

end Sys2Proof.Machine
end

section
/-!
PROOFS. Images are loaded and unloaded; clusters, start-up, power and machine checks (R26, R27, R440 to R448).
-/

namespace Sys2Proof.Machine

/-! ### What the memory of an image leaves -/

/-- The loaded images, the contexts and the load statuses are the same. -/
def State.SameImages (s t : State) : Prop := t.insts = s.insts ∧ t.ctxs = s.ctxs ∧ t.loadStatus = s.loadStatus

theorem State.SameImages.refl (s : State) : s.SameImages s := ⟨rfl, rfl, rfl⟩

theorem State.SameImages.trans {s t u : State} (h : s.SameImages t) (k : t.SameImages u) : s.SameImages u :=
  ⟨k.1.trans h.1, k.2.1.trans h.2.1, k.2.2.trans h.2.2⟩

theorem State.SameImages.foldl {β : Type} {f : State → β → State} (h : ∀ (s : State) x, s.SameImages (f s x)) (xs : List β) (s : State) :
    s.SameImages (xs.foldl f s) := by
  induction xs generalizing s with
  | nil => exact .refl s
  | cons x xs ih => exact (h s x).trans (ih _)

theorem State.OnlyFrames.images {s t : State} : s.OnlyFrames t → s.SameImages t := by
  rintro ⟨_, _, _, _, _, rfl⟩
  exact .refl _

theorem State.OnlyStored.images {s t : State} : s.OnlyStored t → s.SameImages t := by
  rintro ⟨_, _, _, _, _, _, _, _, _, _, _, _, rfl⟩
  exact .refl _

theorem State.images_mapIn {f : Nat} {leaf : Word} {shs : List Nat} {tab va : Nat} {s u : State}
    (h : State.mapIn f leaf shs tab va s = some u) : s.SameImages u := by
  induction shs generalizing tab s with
  | nil => exact Option.some.inj h ▸ .refl s
  | cons sh rest ih =>
    unfold State.mapIn at h
    rw [Option.ite_none_left_eq_some] at h
    replace h := h.2
    cases rest with
    | nil => exact Option.some.inj h ▸ .refl s
    | cons sh' rest =>
      dsimp only at h
      split at h
      · exact ih h
      · split at h
        · cases h
        next hframe => exact (State.onlyFrames_newFrame hframe).images.trans (ih (s := State.setPte _ _ _) h)

theorem State.images_mapPage {s u : State} {f space va gen : Nat} (h : s.mapPage f space va gen = some u) : s.SameImages u := by
  simp only [State.mapPage, Option.bind_eq_some_iff] at h
  obtain ⟨r, hr, p, hp, h⟩ := h
  have hr : s.SameImages r.2 := by
    split at hr
    · exact Option.some.inj hr ▸ .refl s
    · obtain ⟨q, hq, rfl⟩ := Option.map_eq_some_iff.1 hr
      exact (State.onlyFrames_newFrame hq).images
  have hp : s.SameImages p.2 := by
    split at hp
    · exact Option.some.inj hp ▸ hr
    · obtain ⟨q, hq, rfl⟩ := Option.map_eq_some_iff.1 hp
      exact hr.trans (State.onlyFrames_newFrame hq).images
  exact hp.trans (State.images_mapIn h)

theorem State.images_mapImage {s u : State} {f home size : Nat} (h : s.mapImage f home size = some u) : s.SameImages u := by
  unfold State.mapImage at h
  split at h
  · cases h
  next hready =>
    clear hready
    generalize List.range ((size + 4095) / 4096) = ns at h
    induction ns generalizing s with
    | nil => exact Option.some.inj h ▸ .refl s
    | cons n ns ih =>
      rw [List.foldl_cons, Option.bind_some] at h
      cases hm : s.mapPage f 0 (home + 4096 * n) 0 with
      | none =>
        rw [hm] at h
        have hnone : ∀ ms : List Nat, ms.foldl (fun o n => o.bind fun u : State => u.mapPage f 0 (home + 4096 * n) 0) none = none := by
          intro ms
          induction ms with
          | nil => rfl
          | cons m ms ih => exact ih
        rw [hnone] at h
        cases h
      | some v =>
        rw [hm] at h
        exact (State.images_mapPage hm).trans (ih h)

theorem State.images_putMap {s : State} {f : Nat} {map : List Byte} {q : List Nat × State} (h : s.putMap f map = some q) :
    s.SameImages q.2 := by
  unfold State.putMap at h
  split at h
  · exact Option.some.inj h ▸ .refl s
  · obtain ⟨p, hp, rfl⟩ := Option.map_eq_some_iff.1 h
    exact (State.onlyFrames_newFrames hp).images.trans (State.stored_writeChip _ _ _).images

theorem State.images_putImage (s : State) (f va : Nat) (bs : List Byte) : s.SameImages (s.putImage f va bs) :=
  (State.spun_spinPut f 0 none _ s bs).1.images

theorem State.images_prune (shs : List Nat) (tab : Nat) (s : State) : s.SameImages (State.prune shs tab s).1 := by
  induction shs generalizing tab s with
  | nil => exact .refl s
  | cons sh rest ih =>
    have hfold : s.SameImages ((tableEntries s.ptes tab).foldl (fun u e =>
      if field e.2 3 0 = 15 ∧ field e.2 4 4 = 1 ∧ rest ≠ [] then
        match State.prune rest (field e.2 53 14 * 4096) u with
        | (v, true) => v.setPte (tab / 8 + e.1) 0
        | (v, false) => v
      else u) s) := by
      refine State.SameImages.foldl (fun u e => ?_) _ s
      have h := ih (field e.2 53 14 * 4096) u
      split
      · split
        next v hv => rw [hv] at h; exact h
        next v hv => rw [hv] at h; exact h
      · exact .refl u
    simp only [State.prune]
    split
    · exact hfold
    · exact hfold

theorem State.images_pruneTables (s : State) (f : Nat) : s.SameImages (s.pruneTables f) := by
  refine State.SameImages.foldl (fun u space => ?_) _ s
  split
  · exact .refl u
  next r _ =>
    have h := State.images_prune [48, 39, 30, 21, 12] r u
    split
    next v hv => rw [hv] at h; exact h
    next v hv => rw [hv] at h; exact h

theorem State.images_clearLeaf (s : State) (l : Leaf) : s.SameImages (s.clearLeaf l) := by
  unfold State.clearLeaf
  split <;> exact .refl s

theorem State.images_unmapPage (s : State) (f va : Nat) : s.SameImages (s.unmapPage f va) := by
  unfold State.unmapPage
  split
  · exact .refl s
  next l _ =>
    have hback : s.SameImages (if l.framed then s.giveBack (l.flat 0 (va / l.size * l.size)) l.size else s) := by
      split
      · exact (s.onlyFrames_giveBack _ _).images
      · exact .refl s
    exact hback.trans (State.images_clearLeaf _ l)

/-! ### Loading -/

/-- A state with a loaded image, its bytes and its translated code in memory. -/
def State.withImage (s : State) (f n : Nat) (i : Image) (img : List Byte) (c : Chosen) : State :=
  let s1 := { s with insts := Table.set s.insts n i }
  let s2 := s1.putImage f i.home img
  if c.translated then s2.putImage f i.base c.code else s2

/-- What a loaded image leaves beside itself. -/
theorem State.withImage_kept {s s0 : State} (h : s.SameImages s0) (f n : Nat) (i : Image) (img : List Byte) (c : Chosen) :
    (s0.withImage f n i img c).insts = Table.set s.insts n i ∧ (s0.withImage f n i img c).ctxs = s.ctxs ∧
    (s0.withImage f n i img c).loadStatus = s.loadStatus := by
  obtain ⟨hi, hc, hl⟩ := h
  have h1 : State.SameImages { s0 with insts := Table.set s0.insts n i } (s0.withImage f n i img c) := by
    unfold State.withImage
    dsimp only
    split
    · exact (State.images_putImage _ _ _ _).trans (State.images_putImage _ _ _ _)
    · exact State.images_putImage _ _ _ _
  exact ⟨h1.1.trans (by rw [hi]), h1.2.1.trans hc, h1.2.2.trans hl⟩

/-- An image has its place where nothing else of its function lies, in the upper half of the address space (R27, R218). -/
theorem State.home_room {s : State} {f size b : Nat} (h : s.home f size = some b) :
    (∀ p ∈ s.spans f, p.1 + p.2 ≤ b ∨ b + size ≤ p.1) ∧ 2 ^ 56 ≤ b ∧ b + size ≤ 2 ^ 57 := by
  have hroom := (List.mem_filter.1 (List.min?_mem h)).2
  have hsize : size ≤ max 4096 (pageUp size) := by
    unfold pageUp
    omega
  simp only [roomAt, Bool.and_eq_true, decide_eq_true_iff, Bool.not_eq_true', List.any_eq_false] at hroom
  obtain ⟨⟨hlow, hhigh⟩, hfree⟩ := hroom
  refine ⟨fun p hp => ?_, hlow, by omega⟩
  have := hfree p hp
  omega

/-- Every load status is one beside the others of its function. -/
theorem State.putStatus_eq (s : State) (f code value : Nat) : ∃ n, ∀ t : State, t.loadStatus = s.loadStatus →
    t.putStatus f code value = { t with
      loadStatus := Table.set s.loadStatus n (BitVec.ofNat 128 (code + Config.translatorVersion.toNat * 2 ^ 32 + value * 2 ^ 64)) } := by
  refine ⟨f * 2 ^ 32 + (s.loadStatus.filter fun p => decide (p.1 / 2 ^ 32 = f)).length, fun t ht => ?_⟩
  unfold State.putStatus
  rw [ht]

section
variable {s : State} {f : Nat} {img : List (BitVec 8)} (hf : f < nFuncs)
include hf

/-- An image that fails a check before those of its code is reported with its status. -/
theorem exec_imageLoad_early (h0 : imageStatus img ≠ 0) (h10 : imageStatus img < 10) :
    exec (.imageLoad f img) s = .next (s.putStatus f (imageStatus img) 0) := by
  change execImageLoad f img s = _
  unfold execImageLoad
  rw [if_neg (Nat.not_le.2 hf)]
  exact if_pos ⟨h0, h10⟩

/-- What a load takes: the place, the pages and the line map of the image. -/
def State.loadMemory (s : State) (f : Nat) (img : List (BitVec 8)) : Option (List Nat × State) :=
  ((s.home f (imageOf f 0 img).size).bind fun b => ({ s with fresh := s.fresh + 1 } : State).mapImage f b (imageOf f b img).size).bind
    fun u => u.putMap f (chosenCode img).map

/-- An image that passes them, with no memory for it. -/
theorem exec_imageLoad_none (h : imageStatus img = 0 ∨ 10 ≤ imageStatus img) (hmem : s.loadMemory f img = none) :
    exec (.imageLoad f img) s = .next (s.putStatus f 10 0) := by
  change execImageLoad f img s = _
  unfold execImageLoad
  rw [if_neg (Nat.not_le.2 hf)]
  refine (if_neg (by omega)).trans ?_
  unfold State.loadMemory at hmem
  dsimp only
  rw [hmem]

/-- An image that passes them, with memory for it. -/
theorem exec_imageLoad_some (h : imageStatus img = 0 ∨ 10 ≤ imageStatus img) {m : List Nat} {s0 : State}
    (hmem : s.loadMemory f img = some (m, s0)) {b : Nat} (hb : s.home f (imageOf f 0 img).size = some b) :
    exec (.imageLoad f img) s =
      if imageStatus img ≠ 0 then .next (s.putStatus f (imageStatus img) (if imageStatus img = 12 then faultOffset img else 0))
      else .next ((s0.withImage f (s.fresh + 1) { imageOf f b img with lineMap := (m, (chosenCode img).map.length) } img
        (chosenCode img)).putStatus f 0 (s.fresh + 1)) := by
  change execImageLoad f img s = _
  unfold execImageLoad
  rw [if_neg (Nat.not_le.2 hf)]
  refine (if_neg (by omega)).trans ?_
  unfold State.loadMemory at hmem
  dsimp only
  rw [hmem, hb]
  rfl

end

theorem State.loadMemory_home {s : State} {f b : Nat} {img : List (BitVec 8)} (hb : s.home f (imageOf f 0 img).size = some b) :
    s.loadMemory f img = (({ s with fresh := s.fresh + 1 } : State).mapImage f b (imageOf f b img).size).bind
      fun u => u.putMap f (chosenCode img).map := by
  unfold State.loadMemory
  rw [hb]
  rfl

theorem State.images_loadMemory {s : State} {f : Nat} {img : List (BitVec 8)} {q : List Nat × State} (h : s.loadMemory f img = some q) :
    s.SameImages q.2 := by
  obtain ⟨u, hu, hq⟩ := Option.bind_eq_some_iff.1 h
  obtain ⟨b, -, hb⟩ := Option.bind_eq_some_iff.1 hu
  have hmap := State.images_mapImage hb
  exact State.SameImages.trans hmap (State.images_putMap hq)

/-- A function that is not READY, or without a place for the image, has no memory for it. -/
theorem State.loadMemory_none {s : State} {f : Nat} {img : List (BitVec 8)}
    (h : (s.part f).state ≠ 1 ∨ s.home f (imageOf f 0 img).size = none) : s.loadMemory f img = none := by
  unfold State.loadMemory
  rcases h with h | h
  · have hmap : ∀ b, ({ s with fresh := s.fresh + 1 } : State).mapImage f b (imageOf f b img).size = none := fun b => if_pos h
    cases s.home f (imageOf f 0 img).size with
    | none => rfl
    | some b => rw [Option.bind_some, hmap, Option.bind_none]
  · rw [h]
    rfl

/-! ### Unloading -/

/-- A loaded image goes once nothing launched from it is in flight; its pages leave the tables, and the tables without a page go. -/
theorem exec_unloadComplete {s : State} {n : Nat} {i : Image} (hi : Table.find s.insts n = some i) (hun : i.unloading = true)
    (hidle : s.inFlight n = false) : exec (.unloadComplete n) s = .next (State.pruneTables
      ((List.range ((i.size + 4095) / 4096)).foldl (fun v k => v.unmapPage i.func (i.home + 4096 * k))
        { i.lineMap.1.foldl (fun u a => u.giveBack a 4096) s with insts := Table.del s.insts n }) i.func) := by
  change execUnloadComplete n s = _
  unfold execUnloadComplete
  rw [hi]
  exact if_neg (by simp [hun, hidle])

theorem unloaded_kept {s u : State} {n : Nat} {i : Image} (hu : u = State.pruneTables
      ((List.range ((i.size + 4095) / 4096)).foldl (fun v k => v.unmapPage i.func (i.home + 4096 * k))
        { i.lineMap.1.foldl (fun u a => u.giveBack a 4096) s with insts := Table.del s.insts n }) i.func) :
    u.insts = Table.del s.insts n ∧ u.ctxs = s.ctxs := by
  have hback : s.SameImages (i.lineMap.1.foldl (fun u a => u.giveBack a 4096) s) :=
    State.SameImages.foldl (fun u a => (u.onlyFrames_giveBack a 4096).images) _ s
  have hpages := (State.SameImages.foldl (fun (v : State) k => v.images_unmapPage i.func (i.home + 4096 * k))
    (List.range ((i.size + 4095) / 4096)) { i.lineMap.1.foldl (fun u a => u.giveBack a 4096) s with insts := Table.del s.insts n }).trans
    (State.images_pruneTables _ i.func)
  rw [hu]
  exact ⟨hpages.1, hpages.2.1.trans hback.2.1⟩

/-! ### Start-up -/

/-- The steps of a start pass where each of them does, none of them in an alternate form. -/
theorem runSteps_all {s : State} {pass : List Bool} {n : Nat} {bs : List Nat} (hpass : ∀ k, k < bs.length → s.stepPasses (n + k) pass = true)
    (hform : ∀ b ∈ bs, b ≠ 2 ∧ b ≠ 3) : s.runSteps pass n bs = (List.replicate bs.length 1, true) := by
  induction bs generalizing n with
  | nil => rfl
  | cons b bs ih =>
    obtain ⟨h2, h3⟩ := hform b List.mem_cons_self
    have hrest := ih (n := n + 1) (fun k hk => by rw [Nat.add_assoc, Nat.add_comm 1 k]; exact hpass (k + 1) (Nat.succ_lt_succ hk))
      fun x hx => hform x (List.mem_cons_of_mem _ hx)
    have halt : inAlternate n b = false := by simp [inAlternate, h2, h3]
    have hb : s.stepPasses n pass = true := hpass 0 (Nat.succ_pos _)
    unfold State.runSteps
    rw [if_pos hb, hrest, halt]
    rfl

/-- The image of the active slot is selected, and runs, where it verifies and step 7 has no alternate form. -/
theorem State.starts_active {s : State} (hok : s.fwOk (s.monitor.image s.monitor.active) = true)
    (hform : s.monitor.bootrec.getD 6 0 ≠ 2 ∧ s.monitor.bootrec.getD 6 0 ≠ 3) :
    s.selected = some s.monitor.active ∧ s.starts = some s.monitor.active := by
  have hsel : s.selected = some s.monitor.active := if_pos hok
  refine ⟨hsel, ?_⟩
  unfold State.starts
  rw [hsel]
  exact congrArg some (if_neg (by simp only [inAlternate, hform.1, hform.2]; decide))

theorem getD_mem {α : Type} {xs : List α} {n : Nat} (d : α) (h : n < xs.length) : xs.getD n d ∈ xs := by
  rw [List.getD_eq_getElem _ _ h]
  exact List.getElem_mem h

theorem get_numbered_range {α : Type} (d : α) (f : Nat → α) (m n : Nat) {p : Nat} (hp : p < n) :
    Table.get d ((List.range' m n).map fun k => (k, f k)) (m + p) = f (m + p) := by
  induction n generalizing m p with
  | zero => cases hp
  | succ n ih =>
    rw [List.range'_succ, List.map_cons]
    cases p with
    | zero => simp [Table.get]
    | succ p =>
      have := ih (m + 1) (Nat.lt_of_succ_lt_succ hp)
      rw [Nat.add_assoc, Nat.add_comm 1 p] at this
      simpa [Table.get] using this

/-- A port as start-up leaves it. -/
def Port.atStart (p : Port) (n : Nat) (t : StartTest) : Port := { p with up := !t.down.contains n, x2 := t.half.contains n }

section
variable {s : State} {pass : List Bool} {bad : Nat} {down half : List Nat} (hstart : s.monitor.started = false)
  (hlen : s.monitor.bootrec.length = 7) (hpass : ∀ n, n < 7 → pass.getD n false = true)
  (hok : s.fwOk (s.monitor.image s.monitor.active) = true) (hform : ∀ b ∈ s.monitor.bootrec, b ≠ 2 ∧ b ≠ 3)
include hlen hpass hok hform

/-- Every step passes where every unit works and an image verifies. -/
theorem stepPasses_all {k : Nat} (hk : k < 7) : s.stepPasses (1 + k) pass = true := by
  obtain ⟨hsel, hrun⟩ := State.starts_active hok (hform _ (getD_mem 0 (by omega)))
  unfold State.stepPasses
  rw [Nat.add_sub_cancel_left, hpass k hk, hsel, hrun]
  simp only [Bool.true_or, Bool.true_and, Option.isSome_some, hok]
  split
  · rfl
  · split <;> rfl

include hstart

/-- Such a start passes all seven steps. -/
theorem exec_deviceStart : exec (.deviceStart ⟨pass, bad, down, half⟩) s =
    let s1 := { s with monitor := { s.monitor with bootrec := [1, 1, 1, 1, 1, 1, 1] } }
    let s2 := s1.drawKey.2.setKeySlot 0 { cur := s1.drawKey.1, state := 1, gen := 1 }
    .next { s2 with
      time := 0
      refilled := 0
      ports := (List.range 16).map fun n => (n, (s.port n).atStart n ⟨pass, bad, down, half⟩)
      monitor := { s2.monitor with started := true, running := s.monitor.active, code := s.monitor.image s.monitor.active } } := by
  obtain ⟨-, hrun⟩ := State.starts_active hok (hform _ (getD_mem 0 (by omega)))
  have hsteps : s.runSteps pass 1 s.monitor.bootrec = ([1, 1, 1, 1, 1, 1, 1], true) := by
    rw [runSteps_all (fun k hk => stepPasses_all hlen hpass hok hform (hlen ▸ hk)) hform, hlen]
    rfl
  have hsecond : ¬(s.monitor.bootrec.getD 1 0 = 2) := (hform _ (getD_mem 0 (by omega))).1
  change execDeviceStart _ s = _
  unfold execDeviceStart
  rw [if_neg (by simp [hstart])]
  rw [hsteps, hrun]
  have hfused : (if s.monitor.bootrec.getD 1 0 = 2 ∧ [1, 1, 1, 1, 1, 1, 1].getD 1 0 = 1 ∧ pass.getD 1 false = false then
      min nClusters (s.fused + bad) else s.fused) = s.fused := if_neg (fun h => hsecond h.1)
  dsimp only
  rw [hfused]
  rfl

end

/-! ### Lost channels -/

/-- A field of a table whose entries are changed by their keys. -/
theorem get_map_key {α : Type} (d : α) (f : Nat → α → α) (hd : ∀ k, f k d = d) (t : Table α) (n : Nat) :
    Table.get d (t.map fun p => (p.1, f p.1 p.2)) n = f n (Table.get d t n) := by
  induction t with
  | nil => exact (hd n).symm
  | cons p t ih =>
    obtain ⟨j, x⟩ := p
    simp only [List.map_cons, Table.get]
    split
    · exact (hd n).symm
    · split
      next h => rw [h]
      next => exact ih

/-- A partition with the channels of a mask taken out of its descriptor, where it is a level-1 partition. -/
def Part.without (m : BitVec 512) (f : Nat) (p : Part) : Part := if f < 16 then { p with mask := p.mask &&& ~~~m } else p

theorem exec_lostChannelPair {s : State} {i : Nat} (hi : i < 128) : ∃ s1 : State,
    s1 = { s with lostPairs := if i ∈ s.lostPairs then s.lostPairs else s.lostPairs ++ [i] } ∧
    exec (.lostChannelPair i) s = .next { s1 with parts := s.parts.map fun p => (p.1, p.2.without s1.lostMask p.1) } := by
  have hlost : (if s.lostPairs.contains i then s else { s with lostPairs := s.lostPairs ++ [i] }) =
      { s with lostPairs := if i ∈ s.lostPairs then s.lostPairs else s.lostPairs ++ [i] } := by
    by_cases h : i ∈ s.lostPairs
    · rw [if_pos (List.contains_iff_mem.2 h), if_pos h]
    · rw [if_neg (fun hc => h (List.contains_iff_mem.1 hc)), if_neg h]
  refine ⟨_, rfl, ?_⟩
  rw [← hlost]
  change execLostChannelPair i s = _
  unfold execLostChannelPair
  rw [if_neg (Nat.not_le.2 hi)]
  have hmap : ∀ m : BitVec 512, (fun p : Nat × Part => if p.1 < 16 then (p.1, { p.2 with mask := p.2.mask &&& ~~~m }) else p) =
      fun p => (p.1, p.2.without m p.1) := by
    intro m
    funext p
    unfold Part.without
    split <;> rfl
  dsimp only
  rw [hmap]
  split <;> rfl

/-! ### Machine checks -/

/-- The address and the time of a machine-check record (R448). -/
theorem checkRecord_fields (time addr fpc unit func core ctx : Nat) :
    (checkRecord time addr fpc unit func core ctx 1).extractLsb' 384 64 = BitVec.ofNat 64 addr ∧
    (checkRecord time addr fpc unit func core ctx 1).extractLsb' 448 64 = BitVec.ofNat 64 time := by
  obtain ⟨low, hlow⟩ : ∃ low, low = 1 * 2 ^ 6 + ctx % 4 * 2 ^ 7 + core % 128 * 2 ^ 9 + func % 256 * 2 ^ 16 + unit % 256 * 2 ^ 24
    + fpc % 2 ^ 64 * 2 ^ 64 := ⟨_, rfl⟩
  have hsmall : low < 2 ^ 384 := by
    have : low < 2 ^ 128 := by omega
    exact this.trans (Nat.pow_lt_pow_right (by decide) (by decide))
  have haddr : addr % 2 ^ 64 < 2 ^ 64 := Nat.mod_lt _ (Nat.two_pow_pos 64)
  have htime : time % 2 ^ 64 < 2 ^ 64 := Nat.mod_lt _ (Nat.two_pow_pos 64)
  obtain ⟨n, hn⟩ : ∃ n, n = low + 2 ^ 384 * (addr % 2 ^ 64 + 2 ^ 64 * (time % 2 ^ 64)) := ⟨_, rfl⟩
  have hrec : checkRecord time addr fpc unit func core ctx 1 = BitVec.ofNat 512 n := by
    have e448 : (2 : Nat) ^ 448 = 2 ^ 384 * 2 ^ 64 := Nat.pow_add 2 384 64
    unfold checkRecord
    rw [← hlow, hn, e448]
    congr 1
    ring
  have hbits : ∀ k, k + 64 ≤ 512 → (BitVec.ofNat 512 n).extractLsb' k 64 = BitVec.ofNat 64 (bitsAt n k 64) := by
    intro k hk
    apply BitVec.eq_of_getLsbD_eq
    intro j hj
    rw [BitVec.getLsbD_extractLsb', BitVec.getLsbD_ofNat, BitVec.getLsbD_ofNat, bitsAt, Nat.testBit_mod_two_pow, Nat.testBit_div_two_pow]
    simp [hj, show k + j < 512 by omega, Nat.add_comm]
  rw [hrec, hbits 384 (by decide), hbits 448 (by decide), hn, bitsAt_above (k := 0) 64 hsmall, bitsAt_above (k := 64) 64 hsmall,
    bitsAt_lowest _ _ haddr, bitsAt_above (k := 0) 64 haddr]
  constructor
  · exact BitVec.eq_of_toNat_eq (by simp)
  · exact BitVec.eq_of_toNat_eq (by simp [bitsAt])

theorem length_enterCheck (log : List (BitVec 512)) (r : BitVec 512) : (enterCheck log r).length = log.length + 1 := by
  have hsplit : ∀ (xs : List (BitVec 512)) (p : BitVec 512 → Bool), (xs.filter p).length + (xs.filter fun x => !p x).length = xs.length :=
    fun xs p => (List.length_eq_length_filter_add p).symm
  have h1 := hsplit log fun x => decide (checkTime x = checkTime r)
  have h2 := hsplit (log.filter fun x => decide (checkTime x = checkTime r)) fun x => decide (checkCore x ≤ checkCore r)
  have e1 : (fun x => !decide (checkTime x = checkTime r)) = fun x => decide (checkTime x ≠ checkTime r) := by
    funext x
    exact (decide_not ..).symm
  have e2 : (fun x => !decide (checkCore x ≤ checkCore r)) = fun x => decide (checkCore r < checkCore x) := by
    funext x
    rw [← decide_not]
    exact decide_eq_decide.2 Nat.not_le
  rw [e1] at h1
  rw [e2] at h2
  unfold enterCheck
  simp only [List.length_append, List.length_cons, List.length_nil]
  omega

/-- An uncorrectable error in a word that a context's task has read, where no handler takes it, ends the task and is recorded. -/
theorem checkCtx_ends {s : State} {unit addr id : Nat} {t : Machine.Task} (ht : (s.ctx id).task = some t)
    (hh : s.handler (s.ctx id) 0x60 = none) (hroom : (s.retire.filter fun r => decide (r.core = id / 4)).length < 64) :
    ((s.checkCtx unit addr id).ctx id).task = none ∧
    (∃ r, (s.checkCtx unit addr id).retire = s.retire ++ [r] ∧ r.task = t ∧ r.code = 0x60 ∧ r.mchk = true) ∧
    (s.checkCtx unit addr id).part t.l1 = { s.part t.l1 with
      mclog := (enterCheck (s.part t.l1).mclog
        (checkRecord s.time addr (s.ctx id).last.toNat unit t.func (coreOf id) (id % 4) 1)).drop
          ((enterCheck (s.part t.l1).mclog
            (checkRecord s.time addr (s.ctx id).last.toNat unit t.func (coreOf id) (id % 4) 1)).length - 64) } := by
  obtain ⟨s1, hs1⟩ : ∃ s1, s1 = s.logCheck t.l1 (checkRecord s.time addr (s.ctx id).last.toNat unit t.func (coreOf id) (id % 4) 1) :=
    ⟨_, rfl⟩
  have hctx : s1.ctx id = s.ctx id := by rw [hs1]; rfl
  have hretire : s1.retire = s.retire := by rw [hs1]; rfl
  have hfull : s1.trackerFull (coreOf id) = false := by
    refine Bool.eq_false_iff.2 fun h => ?_
    have := (State.trackerFull_iff _ _).1 h
    rw [hretire] at this
    exact Nat.not_lt.2 this hroom
  have hhand : s1.handler (s1.ctx id) 0x60 = none := by
    rw [hctx, hs1]
    exact hh
  have hstep : s.checkCtx unit addr id = s1.takeTrap id ⟨0x60, false, false, false, false, 0, 0, (s.ctx id).pc, (s.ctx id).last⟩ := by
    unfold State.checkCtx
    dsimp only
    rw [ht, hs1]
  have hend := State.takeTrap_ends (t := ⟨0x60, false, false, false, false, 0, 0, (s.ctx id).pc, (s.ctx id).last⟩) (.inr hhand) hfull
  obtain ⟨hr, hc⟩ := State.retireTask_of_task (s := s1) (id := id) (t := t) (by rw [hctx]; exact ht) 0x60 (s.ctx id).last 0 false true false
  have hparts := (State.sameClock_takeTrap s1 id ⟨0x60, false, false, false, false, 0, 0, (s.ctx id).pc, (s.ctx id).last⟩).2.2
  refine ⟨?_, ⟨s1.retireEntry id t 0x60 (s.ctx id).last 0 false true false, ?_, ?_⟩, ?_⟩
  · rw [hstep, hend]
    exact (congrArg Ctx.task hc)
  · rw [hstep, hend, ← hretire]
    exact hr
  · exact ⟨rfl, rfl, rfl⟩
  · rw [hstep]
    unfold State.part
    rw [hparts, hs1]
    exact Table.get_set_same _ _ _ _

/-- A machine check of the word that a context has read, or of the array that it owns. -/
theorem exec_machineCheck_ctx {s : State} {unit id : Nat} {addr : BitVec 64} {w : CheckBy} (h1 : 1 ≤ unit) (h4 : unit ≤ 4)
    (hw : (unit ≠ 4 ∧ w = .context id) ∨ ∃ core, unit = 4 ∧ w = .array core ∧ core < s.coreCount ∧ (s.core core).owner = some id) :
    exec (.machineCheck unit addr w) s = .next (s.checkCtx unit addr.toNat id) := by
  change execMachineCheck unit addr w s = _
  unfold execMachineCheck
  rw [if_neg (by omega)]
  rcases hw with ⟨hu, rfl⟩ | ⟨core, rfl, rfl, hc, ho⟩
  · exact if_neg hu
  · dsimp only
    rw [if_neg (Nat.not_le.2 hc), if_neg (fun h => h rfl), ho]

/-- A machine check of a word that an ended task's operation has read marks its record. -/
theorem retire_checkRetired {s : State} {unit addr tid : Nat} {r : Retire}
    (hr : s.retire.find? (fun x => decide (x.task.tid = tid)) = some r) (hcode : r.code = 0) :
    (s.checkRetired unit addr tid).retire = s.retire.map fun x =>
      if x.task.tid = tid then { x with code := 0x60, tval := 0, pend := false, mchk := true, tail := false } else x := by
  unfold State.checkRetired
  rw [hr]
  dsimp only
  rw [if_pos (by simp [hcode])]
  rfl

/-- Settles O60: a load, an unload, a clock, a start and a machine check each take the one path that their conditions leave; what the memory of
an image changes keeps the other images, and a start that passes every step records all seven. -/
theorem imagesAndPower : Obligations.ImagesAndPower := by
  refine ⟨?load, ?noMemory, ?unload, ?gone, ?clock, ?start, fun s x h => if_pos h, ?loss, ?pair, ?check, ?corrected, ?retired⟩
  case load =>
    intro s f b img i o hf hready hb hi ho
    subst hi
    obtain ⟨hfree, hlow, hhigh⟩ := State.home_room hb
    have hmem : s.loadMemory f img = o := (State.loadMemory_home hb).trans ho.symm
    refine ⟨hfree, hlow, hhigh, fun m s1 hsome => ⟨fun h0 => ?_, fun h10 => ?_⟩, fun hnone h => ?_, fun h0 h10 => ?_⟩
    · have hstep := exec_imageLoad_some hf (.inl h0) (hmem.trans hsome) hb
      rw [if_neg (fun h => h h0)] at hstep
      obtain ⟨hinsts, hctxs, hstatus⟩ := State.withImage_kept (State.images_loadMemory (hmem.trans hsome)) f (s.fresh + 1)
        { imageOf f b img with lineMap := (m, (chosenCode img).map.length) } img (chosenCode img)
      obtain ⟨n, hn⟩ := s.putStatus_eq f 0 (s.fresh + 1)
      rw [hn _ hstatus] at hstep
      refine ⟨_, hstep, ?_, fun k hk => ?_, hctxs, n, ?_⟩
      · exact (congrArg (Table.find · _) hinsts).trans (Table.find_set_same _ _ _)
      · exact (congrArg (Table.find · k) hinsts).trans (Table.find_set_other _ _ hk)
      · exact congrArg (fun k => Table.set s.loadStatus n (BitVec.ofNat 128 (k + (s.fresh + 1) * 2 ^ 64))) (Nat.zero_add _)
    · have hstep := exec_imageLoad_some hf (.inr h10) (hmem.trans hsome) hb
      rw [if_pos (by omega)] at hstep
      obtain ⟨n, hn⟩ := s.putStatus_eq f (imageStatus img) (if imageStatus img = 12 then faultOffset img else 0)
      exact ⟨n, _, rfl, hstep.trans (congrArg _ (hn s rfl))⟩
    · obtain ⟨n, hn⟩ := s.putStatus_eq f 10 0
      exact ⟨n, (exec_imageLoad_none hf h (hmem.trans hnone)).trans (congrArg _ (by rw [hn s rfl, Nat.zero_mul, Nat.add_zero]))⟩
    · obtain ⟨n, hn⟩ := s.putStatus_eq f (imageStatus img) 0
      exact ⟨n, (exec_imageLoad_early hf h0 h10).trans (congrArg _ (by rw [hn s rfl, Nat.zero_mul, Nat.add_zero]))⟩
  case noMemory =>
    intro s f img hf h hst
    obtain ⟨n, hn⟩ := s.putStatus_eq f 10 0
    exact ⟨n, (exec_imageLoad_none hf hst (State.loadMemory_none h)).trans
      (congrArg _ (by rw [hn s rfl, Nat.zero_mul, Nat.add_zero]))⟩
  case unload =>
    intro s n i hi
    refine ⟨?_, fun hun hidle => ?_, fun hbusy => ?_⟩
    · change execUnload n s = _
      unfold execUnload
      rw [hi]
    · obtain ⟨h1, h2⟩ := unloaded_kept (s := s) (n := n) (i := i) rfl
      exact ⟨_, exec_unloadComplete hi hun hidle, h1, h2, rfl⟩
    · change execUnloadComplete n s = _
      unfold execUnloadComplete
      rw [hi]
      exact if_pos (.inr hbusy)
  case gone =>
    intro s n hn
    constructor
    · change execUnload n s = _
      unfold execUnload
      rw [hn]
    · change execUnloadComplete n s = _
      unfold execUnloadComplete
      rw [hn]
  case clock =>
    intro s c v k r hc hk
    subst hk
    have hc' : ¬ s.clusterCount ≤ c := Nat.not_le.2 hc
    refine ⟨fun h0 hi ho => (if_neg hc').trans (if_pos ⟨h0, hi, ho⟩), fun h => (if_neg hc').trans (if_neg ?_), fun h => if_pos h,
      fun h0 ht => (if_neg hc').trans (if_pos ⟨h0, ht⟩), fun h => (if_neg hc').trans (if_neg ?_),
      fun h8 h80 => ((if_neg hc').trans (if_neg (by omega))), fun h => (if_neg hc').trans (if_pos h), fun h0 ht => ?_, if_neg hc'⟩
    · rintro ⟨h0, hi, ho⟩
      rcases h with h | h | h
      · exact h h0
      · exact Nat.not_le.2 h hi
      · rw [ho] at h
        cases h
    · rintro ⟨h0, ht⟩
      rcases h with h | h
      · exact h0 h
      · exact Nat.not_le.2 h ht
    · unfold Cluster.endCycle
      dsimp only
      rw [if_pos ⟨h0, ht⟩]
  case start =>
    intro s pass bad down half hstart hlen hpass hok hform
    have hstep := exec_deviceStart (bad := bad) (down := down) (half := half) hstart hlen hpass hok hform
    refine ⟨_, hstep, rfl, rfl, rfl, rfl, rfl, rfl, Table.get_set_same _ _ _ _, fun p hp => ?_, fun p hp hp16 => ?_, rfl⟩
    · have h16 : p < 16 := Nat.lt_of_lt_of_le hp (Nat.sub_le 16 _)
      have hget := get_numbered_range ({} : Port) (fun n => (s.port n).atStart n ⟨pass, bad, down, half⟩) 0 16 h16
      rw [Nat.zero_add, ← List.range_eq_range'] at hget
      unfold State.port
      rw [if_neg (fun h => Nat.not_le.2 hp h.1)]
      exact ⟨congrArg Port.up hget, congrArg Port.x2 hget⟩
    · unfold State.port
      rw [if_pos ⟨hp, hp16⟩]
  case loss =>
    intro s
    exact ⟨_, rfl, rfl, rfl, rfl, rfl, rfl, rfl, rfl, rfl, rfl, rfl, rfl, rfl, rfl, rfl, rfl⟩
  case pair =>
    intro s i hi
    obtain ⟨s1, hs1, hstep⟩ := exec_lostChannelPair hi
    refine ⟨_, hstep, by rw [hs1], fun p => ?_, by rw [hs1], by rw [hs1]⟩
    have hget := get_map_key ({} : Part) (fun f x => x.without s1.lostMask f) (fun f => by
      unfold Part.without
      split
      · simp
      · rfl) s.parts p
    refine (congrArg Part.mask hget).trans ?_
    unfold Part.without
    split <;> rfl
  case check =>
    intro s unit id addr t w h1 h4 hw ht hh hroom
    obtain ⟨htask, ⟨r, hr, hrt, hrc, hrm⟩, hpart⟩ := checkCtx_ends (unit := unit) (addr := addr.toNat) ht hh hroom
    obtain ⟨haddr, htime⟩ := checkRecord_fields s.time addr.toNat (s.ctx id).last.toNat unit t.func (coreOf id) (id % 4)
    refine ⟨_, r, exec_machineCheck_ctx h1 h4 hw, htask, hr, hrt, hrc, hrm, fun hlog => ⟨_, ?_, ?_, htime⟩⟩
    · rw [hpart]
      have hshort : (enterCheck (s.part t.l1).mclog (checkRecord s.time addr.toNat (s.ctx id).last.toNat unit t.func (coreOf id)
          (id % 4) 1)).length - 64 = 0 := by
        rw [length_enterCheck]
        omega
      rw [hshort]
      rfl
    · rw [haddr, BitVec.ofNat_toNat, BitVec.setWidth_eq]
  case corrected =>
    intro s unit c addr h1 h4 hc
    exact (if_neg (by omega)).trans ((if_neg (Nat.not_le.2 hc)).trans (if_neg (by omega)))
  case retired =>
    intro s unit tid addr r h1 h4 hr hcode
    exact ⟨_, (if_neg (by omega)).trans (if_neg (by omega)), retire_checkRetired hr hcode⟩

end Sys2Proof.Machine
end

section
/-!
PROOFS. The firmware's and the host's steps over ranks, links, pages and windows (R218 to R227, R339 to R349, R352, R418, R439).
-/

namespace Sys2Proof.Machine

/-! ### The end of a remote operation -/

/-- The job slots are the same. -/
def State.SameJobs (s t : State) : Prop := t.jobs = s.jobs

theorem State.SameJobs.trans {s t u : State} (h : s.SameJobs t) (k : t.SameJobs u) : s.SameJobs u := Eq.trans k h

theorem State.SameJobs.foldl {β : Type} {f : State → β → State} (h : ∀ (s : State) x, s.SameJobs (f s x)) (xs : List β) (s : State) :
    s.SameJobs (xs.foldl f s) := by
  induction xs generalizing s with
  | nil => rfl
  | cons x xs ih => exact (h s x).trans (ih _)

theorem State.OnlyStored.sameJobs {s t : State} : s.OnlyStored t → s.SameJobs t := by
  rintro ⟨_, _, _, _, _, _, _, _, _, _, _, _, rfl⟩
  rfl

/-- The update of a barrier record changes only what is stored. -/
theorem State.stored_updateBar (s : State) (tid ctx iss : Nat) (a : Acc) (rel : List Nat) (f : BarRec → BarRec) :
    s.OnlyStored (s.updateBar tid ctx iss a rel f) := by
  unfold State.updateBar
  split
  · exact .refl s
  · split
    · exact .refl s
    next hp => exact (State.onlyPlaces_writePlaces hp).stored.trans ((State.stored_recWrite _ _ _ _ _ _ _ _ _).trans
        (State.stored_tagGranules _ _ _ _ _ _))

theorem State.stored_outBar (s : State) (r : Remote) (err : Bool) : s.OnlyStored (s.outBar r err) := by
  unfold State.outBar
  split
  · exact .refl s
  · exact s.stored_updateBar _ _ _ _ _ _

theorem State.sameJobs_addLate (s : State) (tid : Nat) (l : Late) : s.SameJobs (s.addLate tid l) := by
  unfold State.addLate
  dsimp only
  split
  · split
    · split <;> rfl
    · rfl
  · rfl

theorem State.sameJobs_failOut (s : State) (r : Remote) (lost : Bool) : s.SameJobs (s.failOut r lost) := by
  have h : (s.dropOut r.id).SameJobs ((s.dropOut r.id).outBar r true) := (State.stored_outBar _ _ _).sameJobs
  exact h

theorem State.sameJobs_failPull (s : State) (r : Remote) (code va : Nat) : s.SameJobs (s.failPull r code va) := by
  have h : (s.dropOut r.id).SameJobs ((s.dropOut r.id).outBar r true) := (State.stored_outBar _ _ _).sameJobs
  exact State.SameJobs.trans (s := s) h (State.sameJobs_addLate _ _ _)

theorem State.sameJobs_loseOp (s : State) (j : Job) (o : Out) : s.SameJobs (s.loseOp j o) := by
  unfold State.loseOp
  split
  · exact s.sameJobs_failPull _ _ _
  · exact s.sameJobs_failOut _ _

theorem State.sameJobs_settleOut (s : State) (o : Out) : s.SameJobs (s.settleOut o) := by
  have hdone : s.SameJobs ((s.dropOut o.op.id).outBar o.op false) := (State.stored_outBar (s.dropOut o.op.id) o.op false).sameJobs
  unfold State.settleOut
  split
  · rfl
  · split
    · exact s.sameJobs_failOut _ _
    · split
      · exact hdone
      · exact s.sameJobs_failOut _ _

theorem State.sameJobs_loseOut (s : State) (j : Job) (rank : Nat) (o : Out) : s.SameJobs (s.loseOut j rank o) := by
  unfold State.loseOut
  split
  · split
    · rfl
    · split
      · split
        · exact s.sameJobs_loseOp j o
        · rfl
      · exact s.sameJobs_settleOut _
  · split
    · exact s.sameJobs_loseOp j o
    · rfl

theorem State.sameJobs_loseRank (s : State) (l1 job : Nat) (j : Job) (rank : Nat) : s.SameJobs (s.loseRank l1 job j rank) :=
  State.SameJobs.foldl (fun u o => u.sameJobs_loseOut j rank o) _ s

theorem State.job_setJob (s : State) (l1 job : Nat) (j : Job) : (s.setJob l1 job j).job l1 job = j := Table.get_set_same _ _ _ _

/-! ### The loss of a rank -/

section
variable {s : State} {j : Job} {rank : Nat} {o : Out}

/-- An operation without a copy to the lost rank goes on. -/
theorem State.loseOut_elsewhere (hs : o.stage = .sent) (hl : ∀ l ∈ o.legs, l.rank ≠ rank) : s.loseOut j rank o = s := by
  unfold State.loseOut
  rw [hs]
  exact if_pos (List.all_eq_true.2 fun l h => by simp [hl l h])

/-- A put with a copy to the lost rank goes on without it. -/
theorem State.loseOut_put (hs : o.stage = .sent) (hk : o.op.kind ≠ .pull) (hl : ∃ l ∈ o.legs, l.rank = rank) :
    s.loseOut j rank o = s.settleOut { o with legs := o.legs.filter fun l => decide (l.rank ≠ rank) } := by
  obtain ⟨l, hm, hr⟩ := hl
  have hnot : ¬ (o.legs.all fun l => decide (l.rank ≠ rank) || decide (o.op.kind = .pull) && decide (l.state = .performed)) = true := by
    intro h
    have := List.all_eq_true.1 h l hm
    simp [hr, hk] at this
  unfold State.loseOut
  rw [hs]
  exact (if_neg hnot).trans (if_neg hk)

/-- A pull without data yet is to be sent to the mirror. -/
theorem State.loseOut_pull (hs : o.stage = .sent) (hk : o.op.kind = .pull) (hl : ∃ l ∈ o.legs, l.rank = rank ∧ l.state ≠ .performed)
    (hj : j.legs o.op ≠ []) : s.loseOut j rank o = s.setOut { o with stage := .queue, legs := [], data := [] } := by
  obtain ⟨l, hm, hr, hp⟩ := hl
  have hnot : ¬ (o.legs.all fun l => decide (l.rank ≠ rank) || decide (o.op.kind = .pull) && decide (l.state = .performed)) = true := by
    intro h
    have := List.all_eq_true.1 h l hm
    simp [hr, hp] at this
  unfold State.loseOut
  rw [hs]
  exact (if_neg hnot).trans ((if_pos hk).trans (if_neg (by simp [hj])))

/-- An operation that has not been sent is lost where no copy of it is left. -/
theorem State.loseOut_waiting (hs : o.stage ≠ .sent) :
    s.loseOut j rank o = if (j.targets o.op).contains rank && (j.legs o.op).isEmpty then s.loseOp j o else s := by
  unfold State.loseOut
  split
  next h => exact absurd h hs
  next => rfl

theorem State.loseOp_eq : s.loseOp j o =
    if o.op.kind = .pull ∧ (j.mirrorOf o.op).isSome then s.failPull o.op 0x23 o.op.laddr else s.failOut o.op true := by
  unfold State.loseOp
  by_cases h : o.op.kind = .pull ∧ (j.mirrorOf o.op).isSome
  · rw [if_pos h, if_pos (by simp [h.1, h.2])]
  · rw [if_neg h, if_neg (by rw [Bool.and_eq_true, decide_eq_true_iff]; exact h)]

end

/-! ### Links -/

section
variable {s : State} {p n : Nat} (hp : p < s.portTotal)
include hp

/-- The third failure in a row takes the link down. -/
theorem exec_flitTagFail_third (hf : 2 ≤ (s.port p).fails) (hu : (s.port p).up = true) : exec (.flitTagFail ⟨p, n⟩) s =
    .next (s.setPort p { s.port p with again := (s.port p).again + n, up := false, fails := 3, downAt := s.time }) :=
  (if_neg (Nat.not_le.2 hp)).trans (if_pos ⟨Nat.succ_le_succ hf, hu⟩)

/-- An earlier failure uses up a counter value. -/
theorem exec_flitTagFail_earlier (hf : (s.port p).fails < 2) : exec (.flitTagFail ⟨p, n⟩) s =
    .next (s.setPort p (Port.flush { s.port p with
      again := (s.port p).again + n, fails := (s.port p).fails + 1, rx := (s.port p).rx + 1 })) := by
  have hmin : min ((s.port p).fails + 1) 3 = (s.port p).fails + 1 := by omega
  change execFlitTagFail ⟨p, n⟩ s = _
  unfold execFlitTagFail
  rw [if_neg (Nat.not_le.2 hp)]
  refine (if_neg (fun h => ?_)).trans ?_
  · have := h.1
    dsimp only at this
    omega
  · dsimp only
    rw [hmin]

end

/-! ### Host pages -/

theorem State.requests_ask (s : State) (f p g : Nat) : ∃ rs, s.ask f p g = { s with requests := rs } ∧
    (∀ r ∈ s.requests, r ∈ rs) ∧ ∃ r ∈ rs, r.1 = f ∧ r.2.1 = p := by
  unfold State.ask
  split
  next h =>
    obtain ⟨r, hr, hrp⟩ := List.any_eq_true.1 h
    simp only [Bool.and_eq_true, decide_eq_true_iff] at hrp
    exact ⟨s.requests, rfl, fun r h => h, r, hr, hrp⟩
  next =>
    exact ⟨_, rfl, fun r h => List.mem_append_left _ h, _, List.mem_append_right _ (List.mem_singleton.2 rfl), rfl, rfl⟩

/-- Asking again for pages adds a request for each that a live lease covers. -/
theorem State.requests_askFold (es : List (Nat × Nat)) (s : State) : ∃ rs,
    es.foldl (fun (u : State) e => match u.leaseOn e.1 e.2 with | some g => u.ask e.1 e.2 g | none => u) s = { s with requests := rs } ∧
    (∀ r ∈ s.requests, r ∈ rs) ∧ ∀ e ∈ es, (s.leaseOn e.1 e.2).isSome = true → ∃ r ∈ rs, r.1 = e.1 ∧ r.2.1 = e.2 := by
  induction es generalizing s with
  | nil => exact ⟨s.requests, rfl, fun r h => h, fun e h => by cases h⟩
  | cons e es ih =>
    rw [List.foldl_cons]
    cases hl : s.leaseOn e.1 e.2 with
    | none =>
      obtain ⟨rs, hrs, hkeep, hall⟩ := ih s
      refine ⟨rs, hrs, hkeep, fun x hx hlx => ?_⟩
      rcases List.mem_cons.1 hx with rfl | hx
      · rw [hl] at hlx
        cases hlx
      · exact hall x hx hlx
    | some g =>
      obtain ⟨qs, hq, hqkeep, r, hr, hrp⟩ := s.requests_ask e.1 e.2 g
      obtain ⟨rs, hrs, hkeep, hall⟩ := ih { s with requests := qs }
      refine ⟨rs, ?_, fun x hx => hkeep x (hqkeep x hx), fun x hx hlx => ?_⟩
      · dsimp only
        rw [hq]
        exact hrs
      · rcases List.mem_cons.1 hx with rfl | hx
        · exact ⟨r, hkeep r hr, hrp⟩
        · exact hall x hx hlx

theorem State.requests_askAgain (s : State) : ∃ rs, s.askAgain = { s with requests := rs } ∧
    ∀ e ∈ s.hostGone, (s.leaseOn e.1 e.2).isSome = true → ∃ r ∈ rs, r.1 = e.1 ∧ r.2.1 = e.2 := by
  obtain ⟨rs, hrs, -, hall⟩ := State.requests_askFold s.hostGone s
  exact ⟨rs, hrs, hall⟩

/-- A host page that goes is asked for again where a live lease covers it. -/
theorem exec_hostTranslationInvalidate (s : State) (f page : Nat) : ∃ hg rs,
    exec (.hostTranslationInvalidate f page) s = .next { s with hostGone := hg, requests := rs } ∧ (f, page) ∈ hg ∧
    ∀ n, s.leaseOn f page = some n → ∃ r ∈ rs, r.1 = f ∧ r.2.1 = page := by
  obtain ⟨hg, hs, hmem⟩ : ∃ hg, (if s.hostGone.contains (f, page) then s else { s with hostGone := s.hostGone ++ [(f, page)] }) =
      { s with hostGone := hg } ∧ (f, page) ∈ hg := by
    split
    next h => exact ⟨s.hostGone, rfl, List.contains_iff_mem.1 h⟩
    next => exact ⟨_, rfl, List.mem_append_right _ (List.mem_singleton.2 rfl)⟩
  obtain ⟨rs, hrs, hall⟩ := State.requests_askAgain { s with hostGone := hg }
  refine ⟨hg, rs, ?_, hmem, fun n hn => hall (f, page) hmem (by
    have hl : ({ s with hostGone := hg } : State).leaseOn f page = some n := hn
    rw [hl]
    rfl)⟩
  change execHostTranslationInvalidate f page s = _
  unfold execHostTranslationInvalidate
  rw [hs, hrs]

/-! ### Shootdowns -/

/-- No translation of the page is left in the TLBs of a state without it. -/
theorem State.dropTlb_clusters {s : State} {f sp va : Nat} {c : Nat × Cluster} (hc : c ∈ (s.dropTlb f sp va).clusters)
    {e : Nat × Nat × Nat × Nat} (he : e ∈ c.2.tlb) (hf : e.1 = f) (hsp : e.2.1 = rootSpace sp) : pageHolds e.2.2 va = false := by
  obtain ⟨d, -, rfl⟩ := List.mem_map.1 hc
  have := (List.mem_filter.1 he).2
  simpa [hf, hsp] using this

theorem State.dropTlb_cores {s : State} {f sp va : Nat} {c : Nat × Core} (hc : c ∈ (s.dropTlb f sp va).cores)
    {e : Nat × Nat × Nat × Nat} (he : e ∈ c.2.tlb) (hf : e.1 = f) (hsp : e.2.1 = rootSpace sp) : pageHolds e.2.2 va = false := by
  obtain ⟨d, -, rfl⟩ := List.mem_map.1 hc
  have := (List.mem_filter.1 he).2
  simpa [hf, hsp] using this

/-- Translations of other pages stay. -/
theorem State.dropTlb_others {s : State} {f sp va : Nat} {c : Nat × Core} (hc : c ∈ s.cores) {e : Nat × Nat × Nat × Nat} (he : e ∈ c.2.tlb)
    (hp : pageHolds e.2.2 va = false) : ∃ d ∈ (s.dropTlb f sp va).cores, d.1 = c.1 ∧ e ∈ d.2.tlb := by
  refine ⟨_, List.mem_map.2 ⟨c, hc, rfl⟩, rfl, List.mem_filter.2 ⟨he, ?_⟩⟩
  simp [hp]

/-- No locked entry of the page is left to a task of the function. -/
theorem State.dropLocked_locks {s : State} {f sp va : Nat} {c : Nat × Ctx} (hc : c ∈ (s.dropLocked f sp va).ctxs) {t : Machine.Task}
    (ht : c.2.task = some t) (hf : t.func = f) {k : Lock} (hk : k ∈ c.2.locks) (hsp : rootSpace k.space = rootSpace sp)
    {p : Nat × Nat} (hp : p ∈ k.pages) : pageHolds p va = false := by
  obtain ⟨d, -, rfl⟩ := List.mem_map.1 hc
  have hdt : d.2.task = some t := by
    cases hd : d.2.task with
    | none => rw [hd] at ht; exact hd.symm.trans ht
    | some t' =>
      rw [hd] at ht
      dsimp only at ht
      split at ht
      · exact hd.symm.trans ht
      · exact hd.symm.trans ht
  rw [hdt] at hk
  dsimp only at hk
  rw [if_pos hf] at hk
  obtain ⟨k0, -, rfl⟩ := List.mem_map.1 hk
  have hsp0 : rootSpace k0.space = rootSpace sp := by
    unfold Lock.dropPage at hsp
    split at hsp
    next h => exact h
    next => exact hsp
  unfold Lock.dropPage at hp
  rw [if_pos hsp0] at hp
  simpa using (List.mem_filter.1 hp).2

/-! ### Bits of a leaf -/

theorem toNat_setField_zero (w : Word) (hi lo : Nat) :
    (setField w hi lo 0).toNat = w.toNat - field w hi lo * 2 ^ lo := by
  unfold setField
  rw [Nat.zero_mod, Nat.zero_mul, Nat.add_zero, BitVec.toNat_ofNat, Nat.mod_eq_of_lt (Nat.lt_of_le_of_lt (Nat.sub_le _ _) w.isLt)]

/-- A cleared field reads 0. -/
theorem field_setField_zero (w : Word) (hi lo : Nat) : field (setField w hi lo 0) hi lo = 0 := by
  have hw := Nat.div_add_mod w.toNat (2 ^ lo)
  unfold field
  rw [toNat_setField_zero]
  unfold field
  obtain ⟨a, ha⟩ : ∃ a, a = w.toNat / 2 ^ lo := ⟨_, rfl⟩
  obtain ⟨b, hb⟩ : ∃ b, b = w.toNat % 2 ^ lo := ⟨_, rfl⟩
  have hdiv : (w.toNat - a % 2 ^ (hi + 1 - lo) * 2 ^ lo) / 2 ^ lo = a - a % 2 ^ (hi + 1 - lo) := by
    rw [Nat.mul_comm, ha]
    exact Nat.sub_mul_div _ _ _
  rw [← ha, hdiv]
  exact Nat.sub_mod_eq_zero_of_mod_eq (Nat.mod_mod _ _).symm

/-- The fields of a leaf that hold its frame, and the bits beside them, do not touch each other. -/
theorem field_setField_frame (w : Word) : field (setField w 53 14 0) 4 4 = field w 4 4 ∧ field (setField w 53 14 0) 7 7 = field w 7 7 := by
  have hw := w.isLt
  unfold field
  rw [toNat_setField_zero]
  unfold field
  omega

theorem field_setField_present (w : Word) : field (setField w 4 4 0) 7 7 = field w 7 7 := by
  have hw := w.isLt
  unfold field
  rw [toNat_setField_zero]
  unfold field
  omega

theorem field_setField_anon (w : Word) : field (setField w 6 6 1) 7 7 = field w 7 7 := by
  have hw := w.isLt
  unfold field setField field
  rw [BitVec.toNat_ofNat]
  omega

/-- A discarded page that has been taken back is neither present nor discarded. -/
theorem fields_reclaimed (w : Word) :
    field (setField (setField (setField (setField w 7 7 0) 6 6 1) 4 4 0) 53 14 0) 4 4 = 0 ∧
    field (setField (setField (setField (setField w 7 7 0) 6 6 1) 4 4 0) 53 14 0) 7 7 = 0 := by
  constructor
  · rw [(field_setField_frame _).1, field_setField_zero]
  · rw [(field_setField_frame _).2, field_setField_present, field_setField_anon, field_setField_zero]

/-! ### Heat sweeps -/

/-- A pass of a sweeper over distinct leaves fades each of them once and no other. -/
theorem get_fadeFold (ks : List Nat) (hks : ks.Nodup) (s : State) (k : Nat) :
    Table.get 0 (ks.foldl (fun u k => u.setPte k (fade (Table.get 0 u.ptes k))) s).ptes k =
      if k ∈ ks then fade (Table.get 0 s.ptes k) else Table.get 0 s.ptes k := by
  induction ks generalizing s with
  | nil => rfl
  | cons x xs ih =>
    obtain ⟨hx, hxs⟩ := List.nodup_cons.1 hks
    have hget : Table.get 0 (s.setPte x (fade (Table.get 0 s.ptes x))).ptes k =
        if k = x then fade (Table.get 0 s.ptes x) else Table.get 0 s.ptes k := Table.get_set _ _ _ _ _
    rw [List.foldl_cons, ih hxs, hget]
    by_cases h : k = x
    · subst h
      rw [if_neg hx, if_pos rfl, if_pos List.mem_cons_self]
    · simp only [List.mem_cons, h, false_or, if_false]

theorem ptes_fadeFold (ks : List Nat) (s : State) :
    ∃ ps, ks.foldl (fun (u : State) k => u.setPte k (fade (Table.get 0 u.ptes k))) s = { s with ptes := ps } := by
  induction ks generalizing s with
  | nil => exact ⟨s.ptes, rfl⟩
  | cons x xs ih => exact ih (s.setPte x (fade (Table.get 0 s.ptes x)))

theorem nodup_eraseDups {α : Type} [BEq α] [LawfulBEq α] (xs : List α) : xs.eraseDups.Nodup := by
  match xs with
  | [] => exact List.nodup_nil
  | x :: xs =>
    rw [List.eraseDups_cons]
    refine List.nodup_cons.2 ⟨fun h => ?_, nodup_eraseDups _⟩
    have := (List.mem_filter.1 (List.mem_eraseDups.1 h)).2
    simp at this
termination_by xs.length
decreasing_by exact Nat.lt_succ_of_le (List.length_filter_le _ _)

/-- The leaves that a pass of a cluster's sweeper meets (R221). -/
def State.sweptKeys (s : State) (c : Nat) : List Nat :=
  ((s.ownersOf c).flatMap fun f => (s.leaves f 0 ++ s.leaves f 1).map (·.2.key)).eraseDups

theorem State.mem_sweptKeys {s : State} {c k : Nat} :
    k ∈ s.sweptKeys c ↔ ∃ f ∈ s.ownersOf c, ∃ p ∈ s.leaves f 0 ++ s.leaves f 1, p.2.key = k := by
  unfold State.sweptKeys
  simp only [List.mem_eraseDups, List.mem_flatMap, List.mem_map]

theorem exec_heatSweep {s : State} {c : Nat} (hc : c < s.clusterCount) (hs : (s.cluster c).sweeps ≠ 0) :
    exec (.heatSweep c) s = .next (((s.sweptKeys c).foldl (fun u k => u.setPte k (fade (Table.get 0 u.ptes k))) s).setCluster c
      { s.cluster c with sweeps := (s.cluster c).sweeps - 1 }) := (if_neg (Nat.not_le.2 hc)).trans (if_neg hs)

/-! ### Registers -/

theorem rawFault_none {a n : Nat} (h : a + n ≤ 2 ^ 39) : rawFault (BitVec.ofNat 64 a) n = none := by
  unfold rawFault
  rw [BitVec.toNat_ofNat, Nat.mod_eq_of_lt (by omega), if_neg (by omega), if_neg (by omega)]

theorem rawFault_high {a n : Nat} (h : 2 ^ 57 ≤ a) (h' : a < 2 ^ 64) : rawFault (BitVec.ofNat 64 a) n = some 0x15 := by
  unfold rawFault
  rw [BitVec.toNat_ofNat, Nat.mod_eq_of_lt h', if_pos (by omega)]

theorem rawFault_beyond {a n : Nat} (h : 2 ^ 39 < a + n) (h' : a < 2 ^ 57) : rawFault (BitVec.ofNat 64 a) n = some 0x22 := by
  unfold rawFault
  rw [BitVec.toNat_ofNat, Nat.mod_eq_of_lt (by omega), if_neg (by omega), if_pos h]

theorem rawFault_word (r : BitVec 64) (n : Nat) : rawFault r n = rawFault (BitVec.ofNat 64 r.toNat) n := by
  rw [BitVec.ofNat_toNat, BitVec.setWidth_eq]

/-- A location that memory does not list reads 0. -/
theorem Memory.read_eq_zero {m : Memory} {x : Nat} (h : ∀ c ∈ m, c.1 ≠ x) : Memory.read m x = 0 := by
  induction m with
  | nil => rfl
  | cons c m ih =>
    obtain ⟨a, b⟩ := c
    unfold Memory.read
    split
    · rfl
    · rw [if_neg (fun hx => h (a, b) List.mem_cons_self hx.symm)]
      exact ih fun c hc => h c (List.mem_cons_of_mem _ hc)

/-- A wiped range reads 0. -/
theorem State.read_wipe {s : State} {lo n x : Nat} (hlo : lo ≤ x) (hx : x < lo + n) : (s.wipe lo n).mem.read x = 0 := by
  refine Memory.read_eq_zero fun c hc hcx => ?_
  have hrange : c ∈ (s.settle lo n).mem.filter fun c => !(decide (lo ≤ c.1) && decide (c.1 < lo + n)) := (List.mem_filter.1 hc).1
  have := (List.mem_filter.1 hrange).2
  simp [hcx, hlo, hx] at this

/-- A response that matches an outstanding request ends it and brings the page back. -/
theorem exec_pageRequestResponse_ok {s : State} {f page : Nat} {g : BitVec 6} {e : BitVec 3} {r : Nat × Nat × Nat × Nat} (hr : r ∈ s.requests)
    (h1 : r.1 = f) (h2 : r.2.1 = page) (h3 : r.2.2.1 = g.toNat) (h4 : r.2.2.2 % 8 = e.toNat) :
    ∃ u, exec (.pageRequestResponse f page g e true) s = .next u ∧ r ∉ u.requests ∧ (f, page) ∉ u.hostGone ∧ (f, page) ∉ u.hostBad ∧
      u.mem = s.mem ∧ u.ctxs = s.ctxs := by
  have hhit : (decide (r.1 = f) && decide (r.2.1 = page) && decide (r.2.2.1 = g.toNat) && decide (r.2.2.2 % 8 = e.toNat)) = true := by
    simp [h1, h2, h3, h4]
  have hany : s.requests.any (fun r => decide (r.1 = f) && decide (r.2.1 = page) && decide (r.2.2.1 = g.toNat) &&
    decide (r.2.2.2 % 8 = e.toNat)) = true := List.any_eq_true.2 ⟨r, hr, hhit⟩
  refine ⟨_, (if_neg (by rw [hany]; decide)).trans (if_pos rfl), fun h => ?_, fun h => ?_, fun h => ?_, rfl, rfl⟩
  · have := (List.mem_filter.1 h).2
    exact Bool.false_ne_true ((congrArg not hhit).symm.trans this)
  · exact of_decide_eq_true (List.mem_filter.1 h).2 rfl
  · exact of_decide_eq_true (List.mem_filter.1 h).2 rfl

/-- Settles O52: each step takes the one path that its conditions leave; what ends an operation keeps the job slots, and a sweep meets each
leaf once. -/
theorem fabricManagement : Obligations.FabricManagement := by
  refine ⟨?ranks, ?lose, ?links, ?pages, ?windows, ?shootdown, ?discard, ?sweep, ?registers⟩
  case ranks =>
    intro s l1 job rank v w j hl1 hjob hrank hj hw
    subst hj
    have hunit : ¬(16 ≤ l1 ∨ 4 ≤ job ∨ 1024 ≤ rank) := by omega
    refine ⟨?write, fun hhold hrep hout => ?drain, ?lost⟩
    case write =>
      obtain ⟨k, hk⟩ : ∃ k : Job, k = { s.job l1 job with
        ranks := Table.set (s.job l1 job).ranks rank w
        lost := (s.job l1 job).lost.filter fun x => decide (x ≠ rank)
        reported := (s.job l1 job).reported.filter fun x => decide (x ≠ rank) } := ⟨_, rfl⟩
      have hstep : exec (.rankEntryWrite l1 job rank v) s =
          if (rankEntry w).ports = 0 then .next ((s.setJob l1 job k).loseRank l1 job k rank) else .next (s.setJob l1 job k) := by
        rw [hk, hw]
        exact if_neg hunit
      by_cases hp : (rankEntry w).ports = 0
      · have hjobs := (s.setJob l1 job k).sameJobs_loseRank l1 job k rank
        have hme : ((s.setJob l1 job k).loseRank l1 job k rank).job l1 job = k := by
          unfold State.job
          rw [hjobs]
          exact Table.get_set_same _ _ _ _
        refine ⟨_, hstep.trans (if_pos hp), ?_, fun h => absurd hp h, fun _ => by rw [hme]⟩
        rw [hjobs, ← hk]
        rfl
      · exact ⟨_, hstep.trans (if_neg hp), by rw [← hk]; rfl, fun _ => ⟨rfl, rfl, rfl⟩, fun h => absurd h hp⟩
    case drain =>
      refine if_neg ?_
      simp only [Bool.or_eq_true, Bool.not_eq_true', List.any_eq_true, Bool.and_eq_true, decide_eq_true_iff]
      rintro ((h | h) | ⟨o, ho, ⟨hs, l, hl, hlr⟩, hin⟩)
      · rw [hhold] at h
        cases h
      · exact hrep (List.contains_iff_mem.1 h)
      · rw [hout o ho hs ⟨l, hl, hlr⟩] at hin
        cases hin
    case lost =>
      refine ⟨{ s.job l1 job with lost := ((s.job l1 job).lost.filter fun x => decide (x ≠ rank)) ++ [rank] }, _, if_neg hunit,
        List.mem_append_right _ (List.mem_singleton.2 rfl), rfl, rfl, ?_⟩
      exact State.sameJobs_loseRank _ l1 job _ rank
  case lose =>
    intro s j rank o q hq
    subst hq
    refine ⟨State.loseOut_elsewhere, fun hs hk hl => ⟨fun hlegs => ?_, fun hlegs hn hd => ?_⟩,
      fun hs hk hl hj => State.loseOut_pull hs hk hl hj,
      fun hs hm hj => ?_, fun hs hj => ?_⟩
    · exact (State.loseOut_put hs hk hl).trans (if_pos (by simpa using hlegs))
    · have hlose : s.loseOut j rank o = s.failOut o.op true := by
        refine (State.loseOut_put hs hk hl).trans ?_
        dsimp only at hlegs
        unfold State.settleOut
        dsimp only
        rw [hlegs, hn, hd]
        rfl
      exact ⟨_, rfl, hlose, by rw [hlose]; rfl⟩
    · rw [State.loseOut_waiting hs, if_pos (by rw [Bool.and_eq_true, List.contains_iff_mem, hj]; exact ⟨hm, rfl⟩), State.loseOp_eq]
    · rw [State.loseOut_waiting hs, if_neg (by simp [hj])]
  case links =>
    intro s p hp
    refine ⟨fun n => ⟨fun hf hu => exec_flitTagFail_third hp hf hu, fun hf => ⟨fun hu hlt => ?_, fun h => ?_⟩⟩,
      if_neg (Nat.not_le.2 hp), if_neg (Nat.not_le.2 hp)⟩
    · rw [exec_flitTagFail_earlier hp hf]
      exact congrArg _ (congrArg _ (if_pos ⟨hu, hlt⟩))
    · rw [exec_flitTagFail_earlier hp hf]
      refine congrArg _ (congrArg _ (if_neg fun hb => ?_))
      obtain ⟨hb1, hb2⟩ := hb
      rcases h with h | h
      · exact absurd (h.symm.trans hb1) (by decide)
      · exact Nat.not_le.2 hb2 h
  case pages =>
    intro s f page g e
    refine ⟨fun hnone ok => if_pos ?_, fun r hr h1 h2 h3 h4 => exec_pageRequestResponse_ok hr h1 h2 h3 h4, ?_⟩
    · rw [Bool.not_eq_true', List.any_eq_false]
      intro r hr h
      simp only [Bool.and_eq_true, decide_eq_true_iff] at h
      obtain ⟨⟨⟨h1, h2⟩, h3⟩, h4⟩ := h
      exact hnone r hr ⟨h1, h2, h3, h4⟩
    · obtain ⟨hg, rs, hstep, hmem, hall⟩ := exec_hostTranslationInvalidate s f page
      exact ⟨_, hstep, hmem, rfl, rfl, hall⟩
  case windows =>
    intro s f a n bs
    refine ⟨fun hs hp => ?_, fun h => ?_, fun h => ?_, rfl, rfl, fun h h' => ?_, fun h => ?_, rfl⟩
    · have hopen : s.windowOpen f = true := by simp [State.windowOpen, hs, hp]
      refine ⟨if_pos hopen, ?_⟩
      change execHostRead f 0 a n s = _
      unfold execHostRead
      simp only [hopen]
      rfl
    · have hopen : s.windowOpen f = false := by
        unfold State.windowOpen
        rcases h with h | h <;> simp [h]
      refine ⟨if_neg (by simp [hopen]), ?_⟩
      change execHostRead f 0 a n s = _
      unfold execHostRead
      simp only [hopen]
      rfl
    · change execHostRead f 2 a n s = _
      unfold execHostRead
      dsimp only
      rw [if_pos h]
      rfl
    · change execHostRead f 11 a n s = _
      unfold execHostRead
      rw [if_pos rfl, rawFault_high h h']
    · change execHostRead f 11 a n s = _
      unfold execHostRead
      rw [if_pos rfl, rawFault_none h]
      rfl
  case shootdown =>
    intro s f sp va hidle
    have hgo : ¬ s.translating f = true := by simp [hidle]
    refine ⟨⟨_, if_neg hgo, rfl, rfl, fun c hc e he => State.dropTlb_clusters hc he, fun c hc e he => State.dropTlb_cores hc he,
      fun c hc t ht hf k hk hsp p hp => State.dropLocked_locks hc ht hf hk hsp hp, fun c hc e he hp => State.dropTlb_others hc he hp⟩,
      fun l hl => ?_⟩
    refine ⟨{ (s.setPte l.key (setField l.pte 8 8 0)).dropTlb f 0 va with fwStatus := field l.pte 8 8 }, ?_, rfl, rfl, rfl⟩
    change execDirtyHarvest f va s = _
    unfold execDirtyHarvest
    rw [if_neg hgo, hl]
  case discard =>
    intro s f va l hl
    refine ⟨fun hd => ?_, fun hd => ?_⟩
    · obtain ⟨w, hw⟩ : ∃ w, w = setField (setField (setField (setField l.pte 7 7 0) 6 6 1) 4 4 0) 53 14 0 := ⟨_, rfl⟩
      obtain ⟨b, hb⟩ : ∃ b, b = s.giveBack (l.flat 0 (va / l.size * l.size)) l.size := ⟨_, rfl⟩
      have hptes : b.ptes = s.ptes := by
        obtain ⟨_, _, _, _, _, h⟩ := s.onlyFrames_giveBack (l.flat 0 (va / l.size * l.size)) l.size
        rw [hb, h]
      obtain ⟨h4, h7⟩ := fields_reclaimed l.pte
      have hget : Table.get 0 (b.setPte l.key w).ptes l.key = w := Table.get_set_same _ _ _ _
      refine ⟨{ b.setPte l.key w with fwStatus := 0 }, ?_, rfl, fun k hk => ?_, ?_, ?_⟩
      · change execDiscardReclaim f va s = _
        unfold execDiscardReclaim
        rw [hl, hw, hb]
        exact if_pos hd
      · exact (Table.get_set_other _ _ _ hk).trans (by rw [hptes])
      · exact (congrArg (field · 4 4) hget).trans (hw ▸ h4)
      · exact (congrArg (field · 7 7) hget).trans (hw ▸ h7)
    · change execDiscardReclaim f va s = _
      unfold execDiscardReclaim
      rw [hl]
      exact if_neg (by simp [hd])
  case sweep =>
    intro s c hc hs
    obtain ⟨ps, hps⟩ := ptes_fadeFold (s.sweptKeys c) s
    have hget : ∀ k, Table.get 0 ps k = if k ∈ s.sweptKeys c then fade (Table.get 0 s.ptes k) else Table.get 0 s.ptes k := fun k => by
      have h := get_fadeFold (s.sweptKeys c) (nodup_eraseDups _) s k
      rw [hps] at h
      exact h
    have hstep := exec_heatSweep hc hs
    rw [hps] at hstep
    refine ⟨_, hstep, ?_, rfl, fun k hk => ?_, fun f hf p hp => ?_⟩
    · have hme : (State.setCluster { s with ptes := ps } c { s.cluster c with sweeps := (s.cluster c).sweeps - 1 }).cluster c =
          { s.cluster c with sweeps := (s.cluster c).sweeps - 1 } := Table.get_set_same _ _ _ _
      rw [hme]
      exact Nat.succ_pred_eq_of_pos (Nat.pos_of_ne_zero hs)
    · refine (hget k).trans (if_neg fun h => ?_)
      obtain ⟨f, hf, p, hp, hpk⟩ := State.mem_sweptKeys.1 h
      exact hk f hf p hp hpk
    · exact (hget _).trans (if_pos (State.mem_sweptKeys.2 ⟨f, hf, p, hp, rfl⟩))
  case registers =>
    intro s a f sp l1 job i v n hl1 hjob
    refine ⟨fun h => ?_, fun h h' => ?_, fun h => ?_, fun h h' => ?_, if_neg (by omega), fun hi => if_neg (by omega),
      fun r m => ⟨fun h => ?_, fun h h' => ?_, fun h => ?_⟩, fun l va hl hframed => ?_⟩
    · change execRegisterWrite (.pte a) v s = _
      unfold execRegisterWrite
      dsimp only
      rw [rawFault_none h]
    · change execRegisterWrite (.pte a) v s = _
      unfold execRegisterWrite
      dsimp only
      rw [rawFault_beyond h h']
    · change execRegisterWrite (.root f sp) v s = _
      unfold execRegisterWrite
      dsimp only
      rw [rawFault_none h]
    · change execRegisterWrite (.root f sp) v s = _
      unfold execRegisterWrite
      dsimp only
      rw [rawFault_beyond h h']
    · change execRegisterWrite (.raw r m) v s = _
      unfold execRegisterWrite
      dsimp only
      rw [rawFault_word, rawFault_high h r.isLt]
    · change execRegisterWrite (.raw r m) v s = _
      unfold execRegisterWrite
      dsimp only
      rw [rawFault_word, rawFault_beyond h' h]
    · change execRegisterWrite (.raw r m) v s = _
      unfold execRegisterWrite
      dsimp only
      rw [rawFault_word, rawFault_none h]
    · refine ⟨{ s.wipe (l.flat 0 (va / l.size * l.size)) l.size with fwStatus := 0 }, ?_, rfl, fun x hlo hx => State.read_wipe hlo hx⟩
      change execRegisterWrite (.zeroPage f va) v s = _
      unfold execRegisterWrite
      dsimp only
      rw [hl]
      exact if_pos hframed

end Sys2Proof.Machine
end

section
/-!
PROOFS. Remote operations move through queue, channel and port (R341 to R369, R397, R399).
-/

namespace Sys2Proof.Machine

/-! ### The entry of a channel -/

/-- What the rows of an instruction that may enter their channel do, by the copies that are left for them. -/
theorem exec_remoteChannelEntry {s : State} {n : Nat} {o : Out} {j : Job} {t : Machine.Task} {rows : List Out} {ls : List Leg}
    (ho : s.findOut n = some o) (hj : s.jobOfTid o.op.tid = some j) (ht : s.taskOf o.op.tid = some t)
    (hrows : rows = s.outs.filter fun x => decide (x.op.batch = o.op.batch)) (hhead : (rows.head?.map fun x => x.op.id) = some n)
    (hls : ls = rows.flatMap fun x => j.legs x.op) (hs : o.stage ≠ .sent) (hfree : s.entryFree j o ls = true) :
    (∀ x xs, (rows.filter fun x => (j.legs x.op).isEmpty) = x :: xs →
      exec (.remoteChannelEntry n) s = .next ((x :: xs).foldl (fun u y => u.loseOp j y) s)) ∧
    ((rows.filter fun x => (j.legs x.op).isEmpty) = [] →
      (j.held ls = true → exec (.remoteChannelEntry n) s = .next (if o.kept then s else s.holdRows j ls rows)) ∧
      (j.held ls = false →
        (∀ e, s.rowPlaces t j rows = .error e → exec (.remoteChannelEntry n) s = .next (s.dropRows t o rows e)) ∧
        ∀ rs spots, s.rowPlaces t j rows = .ok rs → spots = (rs.flatMap fun r => r.2.filterMap fun x => x) →
          s.ownStore o.op.ctx o.op.iss spots = false → s.spcLocked spots = false →
          exec (.remoteChannelEntry n) s = .next (State.enterChannel ((rows.filter (·.op.reads)).foldl
            (fun u x => State.prepareReads t x.op.ctx x.op.lspace u (chunks x.op.laddr x.op.len)) s) j n t.func
            (rs.map fun r => ⟨r.1, j.legs r.1.op, r.2.filterMap fun x => x,
              r.2.map (s.seePlace (engineViewer o.op.ctx (decide (r.1.op.lspace = 3))) r.1.op.lkey)⟩)))) := by
  have hgo : ¬(o.stage = .sent ∨ (rows.head?.map (·.op.id)) ≠ some n ∨ (!s.entryFree j o ls) = true) := by
    rintro (h | h | h)
    · exact hs h
    · exact h hhead
    · rw [hfree] at h
      cases h
  change (∀ x xs, _ → execRemoteChannelEntry n s = _) ∧ (_ → (_ → execRemoteChannelEntry n s = _) ∧ (_ →
    (∀ e, _ → execRemoteChannelEntry n s = _) ∧ ∀ rs spots, _ → _ → _ → _ → execRemoteChannelEntry n s = _))
  unfold execRemoteChannelEntry
  rw [ho]
  dsimp only
  rw [hj, ht, ← hrows]
  dsimp only
  rw [← hls, if_neg hgo]
  refine ⟨fun x xs hx => ?_, fun hnone => ⟨fun hh => ?_, fun hh => ⟨fun e he => ?_, fun rs spots hr hspots hown hfreeSpots => ?_⟩⟩⟩
  · rw [hx]
  · rw [hnone]
    exact (if_pos hh).trans (apply_ite Host.Outcome.next _ _ _).symm
  · rw [hnone]
    refine (if_neg (by simp [hh])).trans ?_
    rw [he]
  · rw [hnone]
    refine (if_neg (by simp [hh])).trans ?_
    rw [hr]
    dsimp only
    rw [← hspots, if_neg (by simp [hown, hfreeSpots])]

/-- Rows that have their tokens, and whose flits have counter values, are sent. -/
theorem State.enterChannel_sent {s s1 s2 : State} {j : Job} {n func : Nat} {rows : List Row1} (hcan : (s.sendRows j rows).isSome = true)
    (hpay : s.payBoth n func (rows.map fun r => hbmTokens r.spots).sum (rows.map fun r => r.flits).sum = (s1, true))
    (hsend : s1.sendRows j rows = some s2) : s.enterChannel j n func rows = rows.foldl (fun u r => u.setOut { r.out with
      stage := .sent, data := r.data, legs := r.legs, job := j.job.toNat, srank := j.myrank, spkg := j.ownPkg }) s2 := by
  unfold State.enterChannel
  rw [if_neg (by rw [Option.isNone_iff_eq_none]; exact Option.isSome_iff_ne_none.1 hcan), hpay]
  dsimp only
  rw [hsend]

/-! ### The port's own channels -/

section
variable {s u : State} {n : Nat} {o : Out} {l : Leg} {d : Job} {e : Nat}

/-- The check of a put with a flag, from those of its data and its flag word. -/
theorem State.putfCheck_data {part : Nat} {job : BitVec 16} {hoff len flag : Nat} (h : s.portCheck part job hoff len segPUT true = .error e) :
    s.putfCheck part job hoff len flag = .error (e, false) := by
  unfold State.putfCheck
  rw [h]

theorem State.putfCheck_flag {part : Nat} {job : BitVec 16} {hoff len flag : Nat} (h : s.portCheck part job hoff len segPUT true = .ok d)
    (hf : s.portCheck part job flag 8 segFLAG true = .error e) : s.putfCheck part job hoff len flag = .error (e, true) := by
  unfold State.putfCheck
  rw [h]
  dsimp only
  rw [hf]

theorem State.putfCheck_ok {d1 : Job} {part : Nat} {job : BitVec 16} {hoff len flag : Nat}
    (h : s.portCheck part job hoff len segPUT true = .ok d) (hf : s.portCheck part job flag 8 segFLAG true = .ok d1) :
    s.putfCheck part job hoff len flag = .ok d := by
  unfold State.putfCheck
  rw [h]
  dsimp only
  rw [hf]

section
variable (ho : s.ownHead n .put = some (o, l))
include ho

theorem exec_put_performed (hc : s.portCheck l.part o.jobNo o.op.hoff o.op.len segPUT true = .ok d)
    (hw : s.portWaits ((s.heapPlaces d o.op.hoff o.op.len).filterMap fun x => x) true = false)
    (hp : s.pay n d.func .memory (heapTokens (d.heapBase + o.op.hoff) o.data.length) = (u, true)) :
    exec (.put (.chan n)) s = .next ((u.heapWrite d o.op.hoff o.data).setOut (o.setLeg l .performed)) := by
  change execPut (.chan n) s = _
  unfold execPut
  dsimp only
  rw [ho]
  dsimp only
  rw [hc]
  refine (if_neg (by simp [hw])).trans ?_
  rw [hp]

theorem exec_put_rejected (hc : s.portCheck l.part o.jobNo o.op.hoff o.op.len segPUT true = .error e) :
    exec (.put (.chan n)) s = .next (s.rejectOwn o l o.op.len e false) := by
  change execPut (.chan n) s = _
  unfold execPut
  dsimp only
  rw [ho]
  dsimp only
  rw [hc]

end

section
variable (ho : s.ownHead n .putf = some (o, l))
include ho

theorem exec_putf_performed (hc : s.putfCheck l.part o.jobNo o.op.hoff o.op.len (o.op.flag.getD 0) = .ok d)
    (hw : s.portWaits ((s.heapPlaces d o.op.hoff o.op.len).filterMap fun x => x) true = false)
    (hp : s.pay n d.func .memory (heapTokens (d.heapBase + o.op.hoff) o.data.length) = (u, true)) :
    exec (.putf (.chan n)) s = .next (
      if s.spoiled.contains (o.spkg, o.op.ctx, o.op.batch) then (u.heapWrite d o.op.hoff o.data).setOut (o.setLeg l .performed)
      else State.noteFlag ((u.heapWrite d o.op.hoff o.data).setOut (o.setLeg l .flag)) (.chan n) d (o.op.flag.getD 0) o.op.scope
        o.op.addend l.mirror) := by
  change execPutf (.chan n) s = _
  unfold execPutf
  dsimp only
  rw [ho]
  dsimp only
  rw [hc]
  refine (if_neg (by simp [hw])).trans ?_
  rw [hp]
  exact (apply_ite Host.Outcome.next _ _ _).symm

theorem exec_putf_rejected {x : Nat × Bool} (hc : s.putfCheck l.part o.jobNo o.op.hoff o.op.len (o.op.flag.getD 0) = .error x) :
    exec (.putf (.chan n)) s = .next (s.rejectOwn o l o.op.len x.1 x.2) := by
  change execPutf (.chan n) s = _
  unfold execPutf
  dsimp only
  rw [ho]
  dsimp only
  rw [hc]

end

section
variable (ho : s.ownHead n .semadd = some (o, l)) (hr : s.releaseReady o.op = true)
include ho hr

theorem exec_semadd_performed (hc : s.portCheck l.part o.jobNo o.op.hoff 8 segSEM true = .ok d)
    (hw : s.portWaits (s.wordPlaces d.func (d.heapBase + o.op.hoff)) true = false) (hp : s.pay n d.func .memory 2 = (u, true)) :
    exec (.semadd (.chan n)) s = .next ((u.heapAdd d.func (d.heapBase + o.op.hoff) 2 o.op.addend o.op.tid o.op.ctx o.op.iss
      (s.releaseNeed o.op)).setOut (o.setLeg l .performed)) := by
  change execSemadd (.chan n) s = _
  unfold execSemadd
  dsimp only
  rw [ho]
  refine (if_neg (by simp [hr])).trans ?_
  rw [hc]
  refine (if_neg (by simp [hw])).trans ?_
  rw [hp]

theorem exec_semadd_rejected (hc : s.portCheck l.part o.jobNo o.op.hoff 8 segSEM true = .error e) :
    exec (.semadd (.chan n)) s = .next (s.rejectOwn o l 8 e false) := by
  change execSemadd (.chan n) s = _
  unfold execSemadd
  dsimp only
  rw [ho]
  refine (if_neg (by simp [hr])).trans ?_
  rw [hc]

end

section
variable (ho : s.ownHead n .pull = some (o, l))
include ho

theorem exec_pullreq_performed (hc : s.portCheck l.part o.jobNo o.op.hoff o.op.len segPULL false = .ok d)
    (hw : s.spcLocked ((s.heapPlaces d o.op.hoff o.op.len).filterMap fun x => x) = false)
    (hp : s.pay n d.func .memory (placeTokens (s.heapPlaces d o.op.hoff o.op.len)) = (u, true)) :
    exec (.pullreq (.chan n)) s = .next (u.setOut { o.setLeg l .performed with data := s.heapRead d o.op.hoff o.op.len }) := by
  change execPullreq (.chan n) s = _
  unfold execPullreq
  dsimp only
  rw [ho]
  dsimp only
  rw [hc]
  refine (if_neg (by simp [hw])).trans ?_
  rw [hp]

theorem exec_pullreq_rejected (hc : s.portCheck l.part o.jobNo o.op.hoff o.op.len segPULL false = .error e) :
    exec (.pullreq (.chan n)) s = .next (s.rejectOwn o l o.op.len e false) := by
  change execPullreq (.chan n) s = _
  unfold execPullreq
  dsimp only
  rw [ho]
  dsimp only
  rw [hc]

end

end

/-! ### Heads from another package -/

section
variable {s : State} {h : Head} {d : Job} {e : Nat} (hturn : s.inTurn h = true)
include hturn

theorem exec_put_wire (hc : s.portCheck h.part h.job h.hoff h.len segPUT true = .ok d) :
    exec (.put (.wire h)) s = .next ((State.heapWrite (s.payHead h .put).1 d h.hoff (h.data.take h.len)).answer h 0 []) := by
  change execPut (.wire h) s = _
  unfold execPut
  refine (if_neg (by simp [hturn])).trans ?_
  rw [hc]

theorem exec_put_wire_rejected (hc : s.portCheck h.part h.job h.hoff h.len segPUT true = .error e) :
    exec (.put (.wire h)) s = .next (s.rejectHead h .put h.hoff h.len e false) := by
  change execPut (.wire h) s = _
  unfold execPut
  refine (if_neg (by simp [hturn])).trans ?_
  rw [hc]

theorem exec_semadd_wire (hc : s.portCheck h.part h.job h.hoff 8 segSEM true = .ok d) : exec (.semadd (.wire h)) s =
    .next ((State.heapAdd (s.payHead h .semadd).1 d.func (d.heapBase + h.hoff) 2 h.addend 0 0 0 []).answer h 0 []) := by
  change execSemadd (.wire h) s = _
  unfold execSemadd
  refine (if_neg (by simp [hturn])).trans ?_
  rw [hc]

theorem exec_semadd_wire_rejected (hc : s.portCheck h.part h.job h.hoff 8 segSEM true = .error e) :
    exec (.semadd (.wire h)) s = .next (s.rejectHead h .semadd h.hoff 8 e false) := by
  change execSemadd (.wire h) s = _
  unfold execSemadd
  refine (if_neg (by simp [hturn])).trans ?_
  rw [hc]

theorem exec_pullreq_wire (hc : s.portCheck h.part h.job h.hoff h.len segPULL false = .ok d) :
    exec (.pullreq (.wire h)) s = .next (State.answer (s.payHead h .pull).1 h 0 (s.heapRead d h.hoff h.len)) := by
  change execPullreq (.wire h) s = _
  unfold execPullreq
  refine (if_neg (by simp [hturn])).trans ?_
  rw [hc]

theorem exec_pullreq_wire_rejected (hc : s.portCheck h.part h.job h.hoff h.len segPULL false = .error e) :
    exec (.pullreq (.wire h)) s = .next (s.rejectHead h .pull h.hoff h.len e false) := by
  change execPullreq (.wire h) s = _
  unfold execPullreq
  refine (if_neg (by simp [hturn])).trans ?_
  rw [hc]

section
variable (hflag : ∀ f ∈ s.flags, f.src ≠ .wire h)
include hflag

theorem not_flagWaits : ¬ (!s.inTurn h || s.flags.any fun f => decide (f.src = .wire h)) = true := by
  simp only [hturn, Bool.not_true, Bool.false_or, List.any_eq_true, decide_eq_true_iff]
  rintro ⟨f, hf, hs⟩
  exact hflag f hf hs

theorem exec_putf_wire (hc : s.putfCheck h.part h.job h.hoff h.len h.flag = .ok d) : exec (.putf (.wire h)) s = .next (
    if s.spoiled.contains (h.srcPkg, h.srcCtx, h.batch) then
      (State.heapWrite (s.payHead h .putf).1 d h.hoff (h.data.take h.len)).answer h 0 []
    else (State.heapWrite (s.payHead h .putf).1 d h.hoff (h.data.take h.len)).noteFlag (.wire h) d h.flag h.scope h.addend false) := by
  change execPutf (.wire h) s = _
  unfold execPutf
  refine (if_neg (not_flagWaits hturn hflag)).trans ?_
  rw [hc]
  exact (apply_ite Host.Outcome.next _ _ _).symm

theorem exec_putf_wire_rejected {x : Nat × Bool} (hc : s.putfCheck h.part h.job h.hoff h.len h.flag = .error x) :
    exec (.putf (.wire h)) s =
      .next (s.rejectHead h .putf (if x.2 then h.flag else h.hoff) (if x.2 then 8 else h.len) x.1 x.2) := by
  change execPutf (.wire h) s = _
  unfold execPutf
  refine (if_neg (not_flagWaits hturn hflag)).trans ?_
  rw [hc]

end

end

/-! ### Flag adds -/

section
variable {s s0 u : State} {n : Nat} {f : FlagAdd} (hf : s.flags.find? (fun x => decide (x.id = n)) = some f)
  (hw : s.portWaits (s.wordPlaces f.func f.va) true = false) (hp : s.pay n f.func .memory 2 = (u, true))
  (hs0 : s0 = { u with flags := u.flags.filter fun x => decide (x.id ≠ n) })
include hf hw hp hs0

theorem exec_putfFlagAdd_wire {h : Head} (hsrc : f.src = .wire h) :
    exec (.putfFlagAdd n) s = .next ((s0.heapAdd f.func f.va f.scope f.addend 0 0 0 []).answer h 0 []) := by
  change execPutfFlagAdd n s = _
  unfold execPutfFlagAdd
  rw [hf]
  refine (if_neg (by simp [hw])).trans ?_
  rw [hp]
  dsimp only
  rw [hsrc, hs0]

theorem exec_putfFlagAdd_chan {m : Nat} {o : Out} {l : Leg} (hsrc : f.src = .chan m) (ho : s.findOut m = some o)
    (hr : s.releaseReady o.op = true)
    (hl : o.legs.find? (fun x => x.here && decide (x.state = .flag) && decide (x.mirror = f.mirror)) = some l) :
    exec (.putfFlagAdd n) s = .next ((s0.heapAdd f.func f.va f.scope f.addend o.op.tid o.op.ctx o.op.iss (s.releaseNeed o.op)).setOut
      (o.setLeg l .performed)) := by
  change execPutfFlagAdd n s = _
  unfold execPutfFlagAdd
  rw [hf]
  refine (if_neg (by simp [hw])).trans ?_
  rw [hp]
  dsimp only
  rw [hsrc]
  dsimp only
  rw [ho]
  refine (if_neg (by simp [hr])).trans ?_
  rw [hl, hs0]

end

/-! ### Answers -/

theorem State.verified_kept (s : State) (port n : Nat) : ∃ ps, s.verified port n = { s with ports := ps } := by
  unfold State.verified
  split
  · exact ⟨_, rfl⟩
  · exact ⟨s.ports, rfl⟩

theorem State.verifyAnswer_kept (s : State) (port : Nat) (k : Nat × Nat) :
    ∃ ps sn, s.verifyAnswer port k = { s with ports := ps, seen := sn } := by
  unfold State.verifyAnswer
  split
  · exact ⟨s.ports, _, rfl⟩
  · obtain ⟨ps, h⟩ := s.verified_kept port 1
    exact ⟨ps, s.seen, h⟩

theorem State.findOut_verifyAnswer (s : State) (port n : Nat) (k : Nat × Nat) : (s.verifyAnswer port k).findOut n = s.findOut n := by
  obtain ⟨ps, sn, h⟩ := s.verifyAnswer_kept port k
  rw [h]
  rfl

theorem State.findOut_verified (s : State) (port n k : Nat) : (s.verified port k).findOut n = s.findOut n := by
  obtain ⟨ps, h⟩ := s.verified_kept port k
  rw [h]
  rfl

theorem State.taskOf_verified (s : State) (port k tid : Nat) : (s.verified port k).taskOf tid = s.taskOf tid := by
  obtain ⟨ps, h⟩ := s.verified_kept port k
  rw [h]
  rfl

/-- Data for a pull that is out: what it does, by whether the pull has its data. -/
theorem exec_pulldata {s : State} {n port : Nat} {o : Out} {l : Leg} {t : Machine.Task} {bs : List Byte} (ho : s.findOut n = some o)
    (hk : o.op.kind = .pull) (hs : o.stage = .sent) (hl : o.legs = [l]) (ht : s.taskOf o.op.tid = some t) :
    exec (.pulldata ⟨n, port⟩ bs) s =
      if l.state = .performed then .next ((s.verified port (1 + (bs.length + 63) / 64)).pullBeat o t)
      else if l.here then .next (s.verified port (1 + (bs.length + 63) / 64))
      else .next ((s.verified port (1 + (bs.length + 63) / 64)).setOut { o.setLeg l .performed with data := bs }) := by
  change execPulldata ⟨n, port⟩ bs s = _
  unfold execPulldata
  dsimp only
  rw [State.findOut_verified, ho]
  dsimp only
  rw [hl, State.taskOf_verified, ht]
  exact if_neg (by simp [hk, hs])

section
variable {s : State} {n r e port : Nat} {o : Out} {l : Leg} (ho : s.findOut n = some o) (hl : o.leg r = some l) (hs : o.stage = .sent)
include ho hl hs

theorem exec_ack (hk : o.op.kind ≠ .pull) (hhere : l.here = true → l.state = .performed)
    (hw : (s.verifyAnswer port (ackKey n r)).outBarWaits o.op false = false) :
    exec (.ack ⟨n, port⟩ r) s = .next ((s.verifyAnswer port (ackKey n r)).settleOut { o.dropLeg l with done := true }) := by
  change execAck ⟨n, port⟩ r s = _
  unfold execAck
  dsimp only
  rw [State.findOut_verifyAnswer, ho]
  dsimp only
  rw [hl]
  refine if_neg ?_
  rintro (h | h | ⟨h1, h2⟩ | h)
  · exact h hs
  · exact hk h
  · exact h2 (hhere h1)
  · rw [hw] at h
    cases h

theorem exec_nack (hhere : l.here = true → l.state = .rejected e)
    (hw : (s.verifyAnswer port (nackKey n r e)).outBarWaits o.op true = false) :
    exec (.nack ⟨n, port⟩ r e) s = .next ((s.verifyAnswer port (nackKey n r e)).settleOut { o.dropLeg l with nack := true }) := by
  change execNack ⟨n, port⟩ r e s = _
  unfold execNack
  dsimp only
  rw [State.findOut_verifyAnswer, ho]
  dsimp only
  rw [hl]
  refine if_neg ?_
  rintro (h | ⟨h1, h2⟩ | h)
  · exact h hs
  · exact h2 (hhere h1)
  · rw [hw] at h
    cases h

end

/-- The last copy of an operation leaves none. -/
theorem Out.legs_dropLeg {o : Out} {l : Leg} (h : o.legs = [l]) : (o.dropLeg l).legs = [] := by
  unfold Out.dropLeg
  rw [h]
  simp

/-- An operation whose last copy is answered is performed. -/
theorem State.settleOut_performed {s : State} {o : Out} {l : Leg} (h : o.legs = [l]) (hn : o.nack = false) :
    s.settleOut { o.dropLeg l with done := true } = (s.dropOut o.op.id).outBar o.op false := by
  have hlegs := Out.legs_dropLeg h
  unfold State.settleOut
  dsimp only
  rw [hlegs]
  refine (if_neg (by simp)).trans ((if_neg ?_).trans (if_pos rfl))
  exact fun hc => by rw [show (o.dropLeg l).nack = o.nack from rfl, hn] at hc; cases hc

/-- One of which a copy was rejected is recorded as rejected. -/
theorem State.settleOut_rejected {s : State} {o : Out} {l : Leg} (h : o.legs = [l]) :
    s.settleOut { o.dropLeg l with nack := true } = s.failOut o.op false := by
  have hlegs := Out.legs_dropLeg h
  unfold State.settleOut
  dsimp only
  rw [hlegs]
  exact (if_neg (by simp)).trans (if_pos rfl)

/-- Settles O51: each step over an operation takes the one path that its conditions leave, from its queue to the answer of the port. -/
theorem fabricOperations : Obligations.FabricOperations := by
  refine ⟨?entry, fun s s1 s2 j n func rows => State.enterChannel_sent, ?own, ?wire, ?flag, ?pull, ?answers, ?unmatched⟩
  case entry =>
    intro s n o j t rows ls ho hj ht hrows hhead hls hs hfree
    exact exec_remoteChannelEntry ho hj ht hrows hhead hls hs hfree
  case own =>
    intro s u n o l d e
    refine ⟨fun ho => ⟨exec_put_performed ho, exec_put_rejected ho⟩,
      fun ho => ⟨fun hc => ?_, fun hc => ⟨fun d1 hf hw hp => ?_, fun hf => ?_⟩⟩,
      fun ho hr => ⟨exec_semadd_performed ho hr, exec_semadd_rejected ho hr⟩,
      fun ho => ⟨exec_pullreq_performed ho, exec_pullreq_rejected ho⟩⟩
    · exact exec_putf_rejected (x := (e, false)) ho (State.putfCheck_data hc)
    · exact exec_putf_performed ho (State.putfCheck_ok hc hf) hw hp
    · exact exec_putf_rejected (x := (e, true)) ho (State.putfCheck_flag hc hf)
  case wire =>
    intro s h d e hturn
    refine ⟨fun hc => ⟨exec_put_wire hturn hc, fun hflag => ⟨fun d1 hf => ?_, fun hf => ?_⟩⟩,
      fun hc => ⟨exec_put_wire_rejected hturn hc, fun hflag => ?_⟩, exec_semadd_wire hturn, exec_semadd_wire_rejected hturn,
      exec_pullreq_wire hturn, exec_pullreq_wire_rejected hturn⟩
    · exact exec_putf_wire hturn hflag (State.putfCheck_ok hc hf)
    · exact exec_putf_wire_rejected (x := (e, true)) hturn hflag (State.putfCheck_flag hc hf)
    · exact exec_putf_wire_rejected (x := (e, false)) hturn hflag (State.putfCheck_data hc)
  case flag =>
    intro s s0 u n f hf hw hp hs0
    exact ⟨fun h hsrc => exec_putfFlagAdd_wire hf hw hp hs0 hsrc,
      fun m o l hsrc ho hr hl => exec_putfFlagAdd_chan hf hw hp hs0 hsrc ho hr hl⟩
  case pull =>
    intro s v n port o l t bs hv ho hk hs hl ht
    subst hv
    have hstep := exec_pulldata (port := port) (bs := bs) ho hk hs hl ht
    refine ⟨fun hhere hst => ?_, fun hst => ⟨fun hnext hw => ?_, fun a ds ls s1 hnext hplaces hfree hhost => ?_⟩⟩
    · exact (hstep.trans (if_neg hst)).trans (if_neg (by simp [hhere]))
    · refine (hstep.trans (if_pos hst)).trans (congrArg Host.Outcome.next ?_)
      unfold State.pullBeat
      rw [hnext]
      exact if_neg (by simp [hw])
    · refine (hstep.trans (if_pos hst)).trans (congrArg Host.Outcome.next ?_)
      unfold State.pullBeat
      rw [hnext]
      dsimp only
      rw [hplaces]
      exact if_neg (by simp [hfree, hhost])
  case answers =>
    intro s v w n r e port o l ho hl hs hv hw
    subst hv
    subst hw
    refine ⟨fun hk hhere hbar => ⟨exec_ack ho hl hs hk hhere hbar, fun hlegs hn => ?_⟩,
      fun hhere hbar => ⟨exec_nack ho hl hs hhere hbar, fun hlegs => ?_⟩⟩
    · exact (exec_ack ho hl hs hk hhere hbar).trans (congrArg Host.Outcome.next (State.settleOut_performed hlegs hn))
    · exact ⟨_, (exec_nack ho hl hs hhere hbar).trans (congrArg Host.Outcome.next (State.settleOut_rejected hlegs)), rfl⟩
  case unmatched =>
    intro s n r e port bs hnone
    refine ⟨?_, ?_, ?_, fun hport => ?_⟩
    · change execAck ⟨n, port⟩ r s = _
      unfold execAck
      dsimp only
      rw [State.findOut_verifyAnswer, hnone]
    · change execNack ⟨n, port⟩ r e s = _
      unfold execNack
      dsimp only
      rw [State.findOut_verifyAnswer, hnone]
    · change execPulldata ⟨n, port⟩ bs s = _
      unfold execPulldata
      dsimp only
      rw [State.findOut_verified, hnone]
    · unfold State.verified
      rw [if_pos hport]
      rfl

end Sys2Proof.Machine
end

section
/-!
PROOFS. What wiping a range of memory leaves (R94, R97, R203, R205, R360): its bytes read zero, and nothing that is on its way to memory comes there
any more.
-/

namespace Sys2Proof.Machine

/-! ### Blocks -/

/-- Byte `i` of a number of little-endian bytes. -/
theorem leNat_byte (bs : List Byte) (i : Nat) : BitVec.ofNat 8 (leNat bs / 256 ^ i) = bs.getD i 0 := by
  induction bs generalizing i with
  | nil => simp [leNat]
  | cons b bs ih =>
    cases i with
    | zero =>
      apply BitVec.eq_of_toNat_eq
      have := b.isLt
      simp only [leNat, pow_zero, Nat.div_one, BitVec.toNat_ofNat, List.getD_cons_zero]
      omega
    | succ i =>
      have hdiv : leNat (b :: bs) / 256 ^ (i + 1) = leNat bs / 256 ^ i := by
        have := b.isLt
        rw [leNat, pow_succ', ← Nat.div_div_eq_div_mul]
        congr 1
        omega
      rw [hdiv, ih, List.getD_cons_succ]

theorem Memory.getD_readN (m : Memory) (a n i : Nat) (h : i < n) : (m.readN a n).getD i 0 = m.read (a + i) := by
  induction n generalizing a i with
  | zero => omega
  | succ n ih =>
    cases i with
    | zero => rfl
    | succ i => rw [Memory.readN, List.getD_cons_succ, ih _ _ (by omega), Nat.add_right_comm, Nat.add_assoc]

/-- A byte of a block in memory is the byte at its place. -/
theorem blockByte_memBlock (m : Memory) (a : Nat) : blockByte (memBlock m a) a = m.read a := by
  have hlen : (m.readN (a / 16 * 16) 16).length = 16 := rfl
  have hlt : leNat (m.readN (a / 16 * 16) 16) < 2 ^ 128 := by
    have := leNat_lt (m.readN (a / 16 * 16) 16)
    rwa [hlen, show 256 ^ 16 = 2 ^ 128 by norm_num] at this
  rw [blockByte, memBlock, BitVec.toNat_ofNat, Nat.mod_eq_of_lt hlt, leNat_byte, Memory.getD_readN _ _ _ _ (Nat.mod_lt _ (by decide))]
  congr 1
  omega

/-- What the body-less cipher of Config would have to do for a zero byte of a block to stay zero when the block is brought under another key. -/
def CipherKeepsZeros : Prop := ∀ (k t blk : Nat) (b : BitVec 128) (i : Nat), blockByte b i = 0 →
  blockByte (Config.xtsEnc k t blk b) i = 0 ∧ blockByte (Config.xtsDec k t blk b) i = 0

theorem State.peekKey_eq_zero (hc : CipherKeepsZeros) {s : State} {a : Nat} (h : s.mem.read a = 0) (k : Nat) : s.peekKey k a = 0 := by
  have hb : blockByte (memBlock s.mem a) a = 0 := (blockByte_memBlock _ _).trans h
  unfold State.peekKey
  dsimp only
  split
  · exact h
  · split
    · exact h
    · exact (hc _ _ _ _ _ (hc _ _ _ _ _ hb).1).2
  · exact (hc _ _ _ _ _ hb).2

theorem State.rawByte_eq_zero (hc : CipherKeepsZeros) {s : State} {a : Nat} (h : s.mem.read a = 0) : s.rawByte a = 0 := by
  unfold State.rawByte
  split
  · exact (hc _ _ _ _ _ ((blockByte_memBlock _ _).trans h)).1
  · exact h

end Sys2Proof.Machine

namespace Sys2Proof

/-! ### Memory that lists no byte of an address -/

/-- No byte is listed at an address, wherever a list that is not in its canonical form might hold one. -/
def Memory.Free (m : Memory) (a : Nat) : Prop := ∀ c ∈ m, c.1 ≠ a

theorem Memory.Free.read {m : Memory} {a : Nat} (h : m.Free a) : m.read a = 0 := Machine.Memory.read_eq_zero h

theorem Memory.Free.write {m : Memory} {a x : Nat} {v : Byte} (h : m.Free a) (hx : x ≠ a ∨ v = 0) : (m.write x v).Free a := by
  have hnew : v ≠ 0 → x ≠ a := fun hv => hx.resolve_right hv
  induction m with
  | nil =>
    unfold Memory.write
    split
    · exact h
    next hv => simpa [Memory.Free] using hnew hv
  | cons c m ih =>
    obtain ⟨hc, hm⟩ := List.forall_mem_cons.1 h
    unfold Memory.write
    split
    · split
      · exact h
      next hv => exact List.forall_mem_cons.2 ⟨hnew hv, h⟩
    · split
      · split
        · exact hm
        next hv => exact List.forall_mem_cons.2 ⟨hnew hv, hm⟩
      · exact List.forall_mem_cons.2 ⟨hc, ih hm⟩

theorem Memory.Free.writeCells {m : Memory} {a : Nat} {cs : List Host.Cell} (h : m.Free a) (hcs : ∀ c ∈ cs, c.1 ≠ a ∨ c.2 = 0) :
    (m.writeCells cs).Free a := by
  induction cs generalizing m with
  | nil => exact h
  | cons c cs ih =>
    obtain ⟨hc, hcs⟩ := List.forall_mem_cons.1 hcs
    exact ih (h.write hc) hcs

theorem Memory.Free.filter {m : Memory} {a : Nat} (h : m.Free a) (p : Host.Cell → Bool) : Memory.Free (m.filter p) a :=
  fun c hc => h c (List.mem_of_mem_filter hc)

/-- The bytes of a line, each a function of its place, leave an address unlisted that lies in another line or is given a zero. -/
theorem Memory.Free.writeLine {m : Memory} {a line : Nat} {g : Nat → Byte} (h : m.Free a) (hg : line ≠ a / 128 ∨ g a = 0) :
    (m.writeCells ((List.range 128).map fun i => (line * 128 + i, g (line * 128 + i)))).Free a := by
  refine h.writeCells fun c hc => ?_
  obtain ⟨i, hi, rfl⟩ := List.mem_map.1 hc
  by_cases ha : line * 128 + i = a
  · have hline : line = a / 128 := by have := List.mem_range.1 hi; omega
    exact .inr (ha ▸ hg.resolve_left (not_not.2 hline))
  · exact .inl ha

end Sys2Proof

namespace Sys2Proof.Machine

/-! ### Writes that spare an address -/

/-- A write to `x` leaves address `a` unlisted: `x` lies in another line, or it is another address and the cipher keeps zeros. -/
def Spares (a x : Nat) : Prop := x / 128 ≠ a / 128 ∨ (CipherKeepsZeros ∧ x ≠ a)

theorem Spares.ne {a x : Nat} (h : Spares a x) : x ≠ a := h.elim (fun hl e => hl (e ▸ rfl)) And.right

theorem State.free_rekeyLine {s : State} {a line : Nat} (h : s.mem.Free a) (hl : line ≠ a / 128 ∨ CipherKeepsZeros) (k : Nat) :
    (s.rekeyLine k line).mem.Free a := by
  have hline : (s.mem.writeCells ((List.range 128).map fun i => (line * 128 + i, s.peekKey k (line * 128 + i)))).Free a :=
    h.writeLine (hl.imp_right fun hc => State.peekKey_eq_zero hc h.read k)
  unfold State.rekeyLine
  split
  · split
    · exact h
    · dsimp only
      exact hline
  · dsimp only
    exact hline
  · exact h

theorem State.free_rawLine {s : State} {a line : Nat} (h : s.mem.Free a) (hl : line ≠ a / 128 ∨ CipherKeepsZeros) (slot tweak : Nat) :
    (s.rawLine slot tweak line).mem.Free a := by
  have hline : (s.mem.writeCells ((List.range 128).map fun i => (line * 128 + i, s.rawByte (line * 128 + i)))).Free a :=
    h.writeLine (hl.imp_right fun hc => State.rawByte_eq_zero hc h.read)
  unfold State.rawLine
  split
  · dsimp only
    exact hline
  · exact h

theorem State.free_poke {s : State} {a : Nat} {c : Host.Cell} (h : s.mem.Free a) (hc : Spares a c.1) (slot : Nat) :
    (s.poke slot c).mem.Free a := by
  have hl : c.1 / 128 ≠ a / 128 ∨ CipherKeepsZeros := hc.imp_right And.left
  unfold State.poke
  refine Memory.Free.write ?_ (.inl hc.ne)
  split
  · exact State.free_rawLine h hl _ _
  · split
    · exact State.free_rekeyLine h hl _
    · split
      · exact h
      · exact h

theorem State.free_pokeCells {a : Nat} {cs : List Host.Cell} (hcs : ∀ c ∈ cs, Spares a c.1) (slot : Nat) {s : State} (h : s.mem.Free a) :
    (s.pokeCells slot cs).mem.Free a := by
  induction cs generalizing s with
  | nil => exact h
  | cons c cs ih =>
    obtain ⟨hc, hcs⟩ := List.forall_mem_cons.1 hcs
    exact ih hcs (State.free_poke h hc slot)

/-! ### Writes on their way -/

/-- A write that has its place in the coherence order and has not come to memory (R360). -/
def Write.onItsWay (w : Write) : Prop := w.level = 1 ∨ w.level = 2

theorem Write.onItsWay.lt {w : Write} (h : w.onItsWay) : w.level < 3 := by unfold Write.onItsWay at h; omega

theorem mem_insertWrite {w x : Write} {us : List Write} : x ∈ insertWrite w us ↔ x = w ∨ x ∈ us := by
  induction us with
  | nil => simp [insertWrite]
  | cons u us ih =>
    unfold insertWrite
    split
    · exact List.mem_cons
    · rw [List.mem_cons, ih, List.mem_cons, or_left_comm]

theorem mem_placed {w : Write} {ws : List Write} : w ∈ placed ws ↔ w ∈ ws ∧ w.onItsWay := by
  have hfold : ∀ us : List Write, w ∈ us.foldr insertWrite [] ↔ w ∈ us := by
    intro us
    induction us with
    | nil => rfl
    | cons u us ih => rw [List.foldr_cons, mem_insertWrite, ih, List.mem_cons]
  rw [placed, hfold, List.mem_filter, Write.onItsWay, Bool.or_eq_true, decide_eq_true_eq, decide_eq_true_eq]

theorem mem_of_mem_mustMove {level : Nat} {w : Write} {ws : List Write} {as : List Nat} (h : w ∈ mustMove level ws as) : w ∈ ws := by
  induction ws generalizing as with
  | nil => exact h
  | cons u us ih =>
    unfold mustMove at h
    split at h
    · exact (List.mem_cons.1 h).elim (fun e => e ▸ List.mem_cons_self) fun h => List.mem_cons_of_mem _ (ih h)
    · exact List.mem_cons_of_mem _ (ih h)

/-- Every write that names one of the addresses must move. -/
theorem mem_mustMove {level : Nat} {w : Write} {ws : List Write} {as : List Nat} (hw : w ∈ ws) (hl : w.level < level) {c : Host.Cell}
    (hc : c ∈ w.cells) (ha : c.1 ∈ as) : w ∈ mustMove level ws as := by
  have hover : ∀ as : List Nat, c.1 ∈ as → (decide (w.level < level) && overlaps w.cells as) = true := fun as ha =>
    Bool.and_eq_true_iff.2 ⟨decide_eq_true hl, List.any_eq_true.2 ⟨c, hc, List.contains_iff_mem.2 ha⟩⟩
  induction ws generalizing as with
  | nil => cases hw
  | cons u us ih =>
    unfold mustMove
    obtain rfl | hw := List.mem_cons.1 hw
    · rw [if_pos (hover as ha)]
      exact List.mem_cons_self
    · split
      · exact List.mem_cons_of_mem _ (ih hw (List.mem_append_right _ ha))
      · exact ih hw ha

theorem State.writes_poke (s : State) (slot : Nat) (c : Host.Cell) : (s.poke slot c).writes = s.writes := by
  unfold State.poke
  dsimp only
  split
  · unfold State.rawLine
    split <;> rfl
  · split
    · unfold State.rekeyLine
      split
      · split <;> rfl
      · rfl
      · rfl
    · split <;> rfl

theorem State.writes_pokeCells (slot : Nat) (cs : List Host.Cell) (s : State) : (s.pokeCells slot cs).writes = s.writes := by
  induction cs generalizing s with
  | nil => rfl
  | cons c cs ih => exact (ih _).trans (s.writes_poke slot c)

/-- What is still on its way after a write has moved to memory was so before, and is another one. -/
theorem State.onItsWay_moveTo {s : State} {u w : Write} (h : w ∈ (s.moveTo 3 u).writes) (hw : w.onItsWay) : w ∈ s.writes ∧ w.id ≠ u.id := by
  obtain ⟨x, hx, rfl⟩ := List.mem_map.1 h
  have hid : x.id ≠ u.id := fun e => by
    rw [if_pos e] at hw
    exact absurd hw.lt (Nat.lt_irrefl 3)
  rw [if_neg hid] at hw ⊢
  rw [if_pos rfl, State.memWrite, State.writes_pokeCells] at hx
  obtain ⟨y, hy, rfl⟩ := List.mem_map.1 (List.mem_of_mem_filter hx)
  by_cases hlt : y.level < 3
  · rw [Write.trim, if_pos hlt] at hid ⊢
    exact ⟨hy, hid⟩
  · rw [Write.trim, if_neg hlt] at hw
    exact absurd hw.lt hlt

/-- What is still on its way after some writes have been forced out to memory names none of their addresses. -/
theorem State.onItsWay_forceOut {s : State} {as : List Nat} {w : Write} (h : w ∈ (s.forceOut 3 as).writes) (hw : w.onItsWay) :
    w ∈ s.writes ∧ ∀ c ∈ w.cells, c.1 ∉ as := by
  have hmoved : ∀ (us : List Write) (t : State), w ∈ (us.foldl (fun t u => t.moveTo 3 u) t).writes → w ∈ t.writes ∧ ∀ u ∈ us, w.id ≠ u.id := by
    intro us
    induction us with
    | nil => exact fun t h => ⟨h, fun u hu => by cases hu⟩
    | cons u us ih =>
      intro t h
      obtain ⟨ht, hus⟩ := ih _ h
      obtain ⟨ht, hu⟩ := State.onItsWay_moveTo ht hw
      exact ⟨ht, List.forall_mem_cons.2 ⟨hu, hus⟩⟩
  obtain ⟨hs, hids⟩ := hmoved _ s (List.mem_of_mem_filter h)
  refine ⟨hs, fun c hc ha => ?_⟩
  have hmust : w ∈ mustMove 3 (placed s.writes) as := mem_mustMove (mem_placed.2 ⟨hs, hw⟩) hw.lt hc ha
  exact hids w (List.mem_reverse.2 hmust) rfl

/-! ### Addresses that stay zero -/

/-- An address reads zero, and no write on its way to memory can change that. -/
structure State.Clear (s : State) (a : Nat) : Prop where
  free : s.mem.Free a
  spared : ∀ w ∈ s.writes, w.onItsWay → ∀ c ∈ w.cells, Spares a c.1

theorem State.Clear.read {s : State} {a : Nat} (h : s.Clear a) : s.mem.read a = 0 := h.free.read

/-- Bytes may go, as long as the writes are the same. -/
theorem State.Clear.of_subset {s t : State} {a : Nat} (h : s.Clear a) (hm : ∀ c ∈ t.mem, c ∈ s.mem) (hw : t.writes = s.writes) : t.Clear a :=
  ⟨fun c hc => h.free c (hm c hc), hw ▸ h.spared⟩

theorem State.Clear.moveTo {s : State} {a : Nat} (h : s.Clear a) {u : Write} (hu : ∀ c ∈ u.cells, Spares a c.1) : (s.moveTo 3 u).Clear a := by
  refine ⟨?_, fun w hw hway => h.spared w (State.onItsWay_moveTo hw hway).1 hway⟩
  unfold State.moveTo
  rw [if_pos rfl]
  exact State.free_pokeCells hu u.key (s := { s with writes := _ }) h.free

theorem State.Clear.forceOut {s : State} {a : Nat} (h : s.Clear a) (as : List Nat) : (s.forceOut 3 as).Clear a := by
  have hfold : ∀ (us : List Write) (t : State), t.Clear a → (∀ u ∈ us, ∀ c ∈ u.cells, Spares a c.1) → (us.foldl (fun t u => t.moveTo 3 u) t).Clear a := by
    intro us
    induction us with
    | nil => exact fun t ht _ => ht
    | cons u us ih =>
      intro t ht hus
      obtain ⟨hu, hus⟩ := List.forall_mem_cons.1 hus
      exact ih _ (ht.moveTo hu) hus
  have hspared : ∀ u ∈ (mustMove 3 (placed s.writes) as).reverse, ∀ c ∈ u.cells, Spares a c.1 := fun u hu => by
    obtain ⟨hmem, hway⟩ := mem_placed.1 (mem_of_mem_mustMove (List.mem_reverse.1 hu))
    exact h.spared u hmem hway
  have hmoved := hfold _ s h hspared
  exact ⟨hmoved.free, fun w hw => hmoved.spared w (List.mem_of_mem_filter hw)⟩

theorem State.Clear.wipe {s : State} {a : Nat} (h : s.Clear a) (lo n : Nat) : (s.wipe lo n).Clear a :=
  (State.Clear.forceOut h _ : (s.settle lo n).Clear a).of_subset (fun _ hc => List.mem_of_mem_filter (List.mem_of_mem_filter hc)) rfl

/-- Wiping a range clears each of its addresses, where the range is made of whole lines or the cipher keeps zeros. -/
theorem State.clear_wipe {s : State} {lo n a : Nat} (hlo : lo ≤ a) (hn : a < lo + n) (hr : (128 ∣ lo ∧ 128 ∣ n) ∨ CipherKeepsZeros) :
    (s.wipe lo n).Clear a := by
  refine ⟨fun c hc hca => ?_, fun w hw hway c hc => ?_⟩
  · have hrange : c ∈ (s.settle lo n).mem.filter fun c => !(decide (lo ≤ c.1) && decide (c.1 < lo + n)) := List.mem_of_mem_filter hc
    have := (List.mem_filter.1 hrange).2
    simp [hca, hlo, hn] at this
  · obtain ⟨hmem, hout⟩ := State.onItsWay_forceOut (s := s) hw hway
    have hbeside : ¬ (lo ≤ c.1 ∧ c.1 < lo + n) := fun hin =>
      hout c hc (List.mem_filterMap.2 ⟨c, List.mem_flatMap.2 ⟨w, hmem, hc⟩, if_pos hin⟩)
    obtain ⟨⟨l, rfl⟩, ⟨m, rfl⟩⟩ | hcipher := hr
    · exact .inl (by omega)
    · exact .inr ⟨hcipher, by omega⟩

end Sys2Proof.Machine
end

section
/-!
PROOFS. What the zeroing pass of a partition and its end leave (R92, R94, R95, R437, R438).
-/

namespace Sys2Proof.Machine

/-! ### Folds that come to a property -/

/-- A property that every step keeps, and that one of them brings about, holds at the end. -/
theorem foldl_reaches {β : Type} {P : State → Prop} {f : State → β → State} (hk : ∀ s x, P s → P (f s x)) {x : β} (hx : ∀ s, P (f s x))
    {xs : List β} (h : x ∈ xs) (s : State) : P (xs.foldl f s) := by
  obtain ⟨as, bs, rfl⟩ := List.append_of_mem h
  rw [List.foldl_append, List.foldl_cons]
  exact foldl_keeps hk bs (hx _)

/-! ### Zeroing what is not in memory of the part's own -/

/-- Bytes and the marks of their lines go, with what cores note of them. -/
def State.OnlyZeroed (s t : State) : Prop := ∃ m ls ks, t = { s with mem := m, lines := ls, cores := ks } ∧ ∀ c ∈ m, c ∈ s.mem

theorem State.OnlyZeroed.refl (s : State) : s.OnlyZeroed s := ⟨s.mem, s.lines, s.cores, rfl, fun _ h => h⟩

theorem State.OnlyZeroed.trans {s t u : State} : s.OnlyZeroed t → t.OnlyZeroed u → s.OnlyZeroed u := by
  rintro ⟨m, ls, ks, rfl, hm⟩ ⟨m', ls', ks', rfl, hm'⟩
  exact ⟨m', ls', ks', rfl, fun c hc => hm c (hm' c hc)⟩

theorem State.OnlyZeroed.foldl {β : Type} {f : State → β → State} (h : ∀ (s : State) x, s.OnlyZeroed (f s x)) (xs : List β) (s : State) :
    s.OnlyZeroed (xs.foldl f s) :=
  foldl_keeps (P := s.OnlyZeroed) (fun u x hu => hu.trans (h u x)) xs (.refl s)

theorem State.OnlyZeroed.clear {s t : State} {a : Nat} (h : s.OnlyZeroed t) (hs : s.Clear a) : t.Clear a := by
  obtain ⟨m, ls, ks, rfl, hm⟩ := h
  exact hs.of_subset hm rfl

theorem State.onlyZeroed_setCore (s : State) (n : Nat) (k : Core) : s.OnlyZeroed (s.setCore n k) := ⟨_, _, _, rfl, fun _ h => h⟩

theorem State.onlyZeroed_zeroRange (s : State) (lo n : Nat) : s.OnlyZeroed (s.zeroRange lo n) :=
  ⟨_, _, s.cores, rfl, fun _ h => List.mem_of_mem_filter h⟩

theorem State.onlyZeroed_zeroTags (s : State) (lo n : Nat) : s.OnlyZeroed (s.zeroTags lo n) :=
  ⟨_, s.lines, s.cores, rfl, fun _ h => List.mem_of_mem_filter h⟩

theorem State.onlyZeroed_zeroCore (s : State) (n : Nat) : s.OnlyZeroed (s.zeroCore n) :=
  (((s.onlyZeroed_zeroRange _ _).trans (State.onlyZeroed_zeroRange _ _ _)).trans (State.onlyZeroed_zeroRange _ _ _)).trans
    (State.onlyZeroed_setCore _ _ _)

theorem State.onlyZeroed_zeroHeader (s : State) (g : Nat) : s.OnlyZeroed (s.zeroHeader g) := by
  unfold State.zeroHeader
  dsimp only
  split
  · exact .refl s
  · exact s.onlyZeroed_setCore _ _

theorem State.onlyZeroed_zeroGranules (s : State) (f : Nat) : s.OnlyZeroed (s.zeroGranules f) :=
  .foldl (fun u _ => (u.onlyZeroed_zeroRange _ _).trans (State.onlyZeroed_zeroHeader _ _)) _ s

/-! ### The pass -/

/-- The pages of a function wiped, which stay its own, and its contexts cleared. -/
def State.wipeOwned (s : State) (f : Nat) : State :=
  let p := s.part f
  let s1 := (s.ownedPages f).foldl (fun u a => u.wipe a.1 a.2) (s.setPart f { p with areas := p.areas ++ s.lineMaps f })
  { s1 with ctxs := s1.ctxs.filter fun c => !p.ownsCtx c.1 }

/-- The rest of a pass only zeroes more, and clears translations, instances, slots and keys of the function. -/
theorem State.zeroFunc_eq (s : State) (f : Nat) : ∃ u cs ks, (s.wipeOwned f).OnlyZeroed u ∧ s.zeroFunc f = State.zeroKeys { u with
    clusters := cs, cores := ks
    insts := u.insts.filter fun i => decide (i.2.func ≠ f)
    slots := u.slots.map fun x => if slotFunc (slotAt x.1) x.2 = f then (x.1, { func := x.2.func }) else x } f := by
  refine ⟨_, _, _, ?_, rfl⟩
  have hcores := (State.OnlyZeroed.foldl (fun u n => u.onlyZeroed_zeroCore n) (s.part f).wholeCores (s.wipeOwned f)).trans
    (State.onlyZeroed_zeroGranules _ f)
  split
  · exact hcores.trans (.foldl (fun u c => ((u.onlyZeroed_zeroRange _ _).trans (State.onlyZeroed_zeroTags _ _ _)).trans
      (State.onlyZeroed_zeroRange _ _ _)) _ _)
  · exact hcores

theorem State.wipeOwned_kept (s : State) (f : Nat) :
    (s.wipeOwned f).parts = Table.set s.parts f { s.part f with areas := (s.part f).areas ++ s.lineMaps f } ∧
      (s.wipeOwned f).insts = s.insts ∧ (s.wipeOwned f).slots = s.slots := by
  obtain ⟨m, ls, ws, h⟩ := State.OnlyBytes.foldl (fun u (a : Nat × Nat) => u.onlyBytes_wipe a.1 a.2) (s.ownedPages f)
    (s.setPart f { s.part f with areas := (s.part f).areas ++ s.lineMaps f })
  unfold State.wipeOwned
  dsimp only
  rw [h]
  exact ⟨rfl, rfl, rfl⟩

/-- What a pass leaves of the records of a function: its launch slots keep their function alone, and its images go. -/
theorem State.zeroFunc_kept (s : State) (f : Nat) :
    (s.zeroFunc f).part f = { s.part f with areas := (s.part f).areas ++ s.lineMaps f } ∧
      (s.zeroFunc f).insts = s.insts.filter (fun i => decide (i.2.func ≠ f)) ∧
      (s.zeroFunc f).slots = s.slots.map fun x => if slotFunc (slotAt x.1) x.2 = f then (x.1, { func := x.2.func }) else x := by
  obtain ⟨u, cs, ks, ⟨m, ls, ks', rfl, -⟩, h⟩ := s.zeroFunc_eq f
  obtain ⟨hparts, hinsts, hslots⟩ := s.wipeOwned_kept f
  rw [h]
  refine ⟨?_, congrArg _ hinsts, congrArg _ hslots⟩
  change Table.get {} (s.wipeOwned f).parts f = _
  rw [hparts, Table.get_set_same]

/-- Every address that a function owns is clear after its pass, where its ranges are made of whole lines or the cipher keeps zeros. -/
theorem State.clear_zeroFunc {s : State} {f a : Nat} {p : Nat × Nat} (hp : p ∈ s.ownedPages f) (hlo : p.1 ≤ a) (hn : a < p.1 + p.2)
    (hr : (128 ∣ p.1 ∧ 128 ∣ p.2) ∨ CipherKeepsZeros) : (s.zeroFunc f).Clear a := by
  obtain ⟨u, cs, ks, hu, h⟩ := s.zeroFunc_eq f
  have hpages := foldl_reaches (P := fun u => u.Clear a) (f := fun u (x : Nat × Nat) => u.wipe x.1 x.2) (fun _ x hu => hu.wipe x.1 x.2)
    (fun _ => State.clear_wipe hlo hn hr) hp (s.setPart f { s.part f with areas := (s.part f).areas ++ s.lineMaps f })
  have hwiped : (s.wipeOwned f).Clear a := hpages.of_subset (fun _ hc => hc) rfl
  rw [h]
  exact (hu.clear hwiped).of_subset (fun _ hc => hc) rfl

/-! ### Page tables -/

/-- Only page tables, their roots and the frames handed out differ. -/
def State.OnlyTrees (s t : State) : Prop := ∃ ps rs fs, t = { s with ptes := ps, roots := rs, frames := fs }

theorem State.OnlyTrees.refl (s : State) : s.OnlyTrees s := ⟨s.ptes, s.roots, s.frames, rfl⟩

theorem State.OnlyTrees.trans {s t u : State} : s.OnlyTrees t → t.OnlyTrees u → s.OnlyTrees u := by
  rintro ⟨_, _, _, rfl⟩ ⟨ps, rs, fs, rfl⟩
  exact ⟨ps, rs, fs, rfl⟩

theorem State.OnlyTrees.foldl {β : Type} {f : State → β → State} (h : ∀ (s : State) x, s.OnlyTrees (f s x)) (xs : List β) (s : State) :
    s.OnlyTrees (xs.foldl f s) :=
  foldl_keeps (P := s.OnlyTrees) (fun u x hu => hu.trans (h u x)) xs (.refl s)

theorem State.OnlyTrees.clear {s t : State} {a : Nat} (h : s.OnlyTrees t) (hs : s.Clear a) : t.Clear a := by
  obtain ⟨ps, rs, fs, rfl⟩ := h
  exact hs.of_subset (fun _ hc => hc) rfl

theorem State.onlyTrees_setPte (s : State) (k : Nat) (w : Word) : s.OnlyTrees (s.setPte k w) := ⟨_, s.roots, s.frames, rfl⟩

theorem State.onlyTrees_clearLeaf (s : State) (l : Leaf) : s.OnlyTrees (s.clearLeaf l) := by
  unfold State.clearLeaf
  split
  · exact ⟨_, s.roots, s.frames, rfl⟩
  · exact s.onlyTrees_setPte _ _

theorem State.onlyTrees_dropTable (s : State) (tab : Nat) : s.OnlyTrees (s.dropTable tab) := ⟨_, s.roots, _, rfl⟩

theorem State.onlyTrees_prune (shs : List Nat) (tab : Nat) (s : State) : s.OnlyTrees (State.prune shs tab s).1 := by
  induction shs generalizing tab s with
  | nil => exact .refl s
  | cons sh rest ih =>
    have hfold : s.OnlyTrees ((tableEntries s.ptes tab).foldl (fun u e =>
      if field e.2 3 0 = 15 ∧ field e.2 4 4 = 1 ∧ rest ≠ [] then
        match State.prune rest (field e.2 53 14 * 4096) u with
        | (v, true) => v.setPte (tab / 8 + e.1) 0
        | (v, false) => v
      else u) s) := by
      refine State.OnlyTrees.foldl (fun u e => ?_) _ s
      have h := ih (field e.2 53 14 * 4096) u
      split
      · split
        next v hv => rw [hv] at h; exact h.trans (v.onlyTrees_setPte _ _)
        next v hv => rw [hv] at h; exact h
      · exact .refl u
    simp only [State.prune]
    split
    · exact hfold.trans (State.onlyTrees_dropTable _ _)
    · exact hfold

theorem State.onlyTrees_pruneTables (s : State) (f : Nat) : s.OnlyTrees (s.pruneTables f) := by
  refine State.OnlyTrees.foldl (fun u space => ?_) _ s
  split
  · exact .refl u
  next r _ =>
    have h := State.onlyTrees_prune [48, 39, 30, 21, 12] r u
    split
    next v hv =>
      rw [hv] at h
      exact h.trans ⟨v.ptes, _, v.frames, rfl⟩
    next v hv => rw [hv] at h; exact h

/-! ### What can be granted again -/

/-- The frames of a function given back, with those of a pool, and its translations gone. -/
def State.freed (s : State) (f : Nat) (pooled : List (Nat × Nat)) : State :=
  let s1 := (s.ownedPages f ++ pooled).foldl (fun u a => u.giveBack a.1 a.2) (s.setPart f { s.part f with areas := [] })
  ((s.leaves f 0 ++ s.leaves f 1).foldl (fun u l => u.clearLeaf l.2) s1).pruneTables f

theorem State.dropPages_eq (s : State) (f : Nat) : ∃ pooled pl ow, s.dropPages f = { s.freed f pooled with pool := pl, owners := ow } :=
  ⟨_, _, _, rfl⟩

/-- What a function's pages leave when they are granted again: every record but for its partition's areas. -/
def State.OnlyFreed (s t : State) : Prop := ∃ m ls ws fs pl ps rs ow, t = { s with
  mem := m, lines := ls, writes := ws, frames := fs, pool := pl, ptes := ps, roots := rs, owners := ow }

theorem State.onlyFreed_dropPages (s : State) (f : Nat) : (s.setPart f { s.part f with areas := [] }).OnlyFreed (s.dropPages f) := by
  obtain ⟨pooled, pl, ow, h⟩ := s.dropPages_eq f
  obtain ⟨m, ls, ws, fs, ps, h1⟩ := State.OnlyFrames.foldl (fun u (a : Nat × Nat) => u.onlyFrames_giveBack a.1 a.2) (s.ownedPages f ++ pooled)
    (s.setPart f { s.part f with areas := [] })
  obtain ⟨pts, rs, fs', h2⟩ := (State.OnlyTrees.foldl (fun u (l : Nat × Leaf) => u.onlyTrees_clearLeaf l.2) (s.leaves f 0 ++ s.leaves f 1)
    ((s.ownedPages f ++ pooled).foldl (fun u a => u.giveBack a.1 a.2) (s.setPart f { s.part f with areas := [] }))).trans
    (State.onlyTrees_pruneTables _ f)
  rw [h, State.freed, h2, h1]
  exact ⟨_, _, _, _, _, _, _, _, rfl⟩

theorem State.Clear.giveBack {s : State} {a : Nat} (h : s.Clear a) (lo n : Nat) : (s.giveBack lo n).Clear a :=
  (h.wipe lo n).of_subset (fun _ hc => hc) rfl

theorem State.Clear.freed {s : State} {a : Nat} {f : Nat} {pooled : List (Nat × Nat)}
    (h : ((s.ownedPages f ++ pooled).foldl (fun u a => u.giveBack a.1 a.2) (s.setPart f { s.part f with areas := [] })).Clear a) :
    (s.freed f pooled).Clear a :=
  (State.onlyTrees_pruneTables _ f).clear ((State.OnlyTrees.foldl (fun u (l : Nat × Leaf) => u.onlyTrees_clearLeaf l.2) _ _).clear h)

theorem State.Clear.dropPages {s : State} {a : Nat} (h : s.Clear a) (f : Nat) : (s.dropPages f).Clear a := by
  obtain ⟨pooled, pl, ow, hd⟩ := s.dropPages_eq f
  have hback := foldl_keeps (P := fun u => u.Clear a) (f := fun u (x : Nat × Nat) => u.giveBack x.1 x.2) (fun u x hu => hu.giveBack x.1 x.2)
    (s.ownedPages f ++ pooled) (h.of_subset (t := s.setPart f { s.part f with areas := [] }) (fun _ hc => hc) rfl)
  rw [hd]
  exact (State.Clear.freed hback).of_subset (fun _ hc => hc) rfl

/-- Every address that a function owns is clear once its pages can be granted again. -/
theorem State.clear_dropPages {s : State} {f a : Nat} {p : Nat × Nat} (hp : p ∈ s.ownedPages f) (hlo : p.1 ≤ a) (hn : a < p.1 + p.2)
    (hr : (128 ∣ p.1 ∧ 128 ∣ p.2) ∨ CipherKeepsZeros) : (s.dropPages f).Clear a := by
  obtain ⟨pooled, pl, ow, hd⟩ := s.dropPages_eq f
  have hback := foldl_reaches (P := fun u => u.Clear a) (f := fun u (x : Nat × Nat) => u.giveBack x.1 x.2) (fun u x hu => hu.giveBack x.1 x.2)
    (fun u => (State.clear_wipe hlo hn hr : (u.wipe p.1 p.2).Clear a).of_subset (t := u.giveBack p.1 p.2) (fun _ hc => hc) rfl)
    (List.mem_append_left pooled hp) (s.setPart f { s.part f with areas := [] })
  rw [hd]
  exact (State.Clear.freed hback).of_subset (fun _ hc => hc) rfl

theorem State.dropPages_kept (s : State) (f : Nat) : (s.dropPages f).part f = { s.part f with areas := [] } ∧
    (s.dropPages f).insts = s.insts ∧ (s.dropPages f).slots = s.slots ∧ (s.dropPages f).keys = s.keys ∧ (s.dropPages f).monitor = s.monitor := by
  obtain ⟨_, _, _, _, _, _, _, _, h⟩ := s.onlyFreed_dropPages f
  rw [h]
  exact ⟨Table.get_set_same _ _ _ _, rfl, rfl, rfl, rfl⟩

/-! ### The end of a pass -/

/-- Only clusters differ. -/
theorem State.powerDown_eq (s : State) (p : Part) : ∃ cs, s.powerDown p = { s with clusters := cs } :=
  foldl_keeps (P := fun u => ∃ cs, u = { s with clusters := cs }) (fun _ _ hu => by obtain ⟨cs, rfl⟩ := hu; exact ⟨_, rfl⟩) _ ⟨s.clusters, rfl⟩

/-- A destroyed function gives back what was its; its clusters may lose power. -/
theorem State.endPass_of_destroy {s : State} {f : Nat} (h : (s.part f).destroy = true) :
    ∃ cs, s.endPass f = { State.dropPages (s.setPart f { s.part f with state := 0, destroy := false, zeroed := false }) f with clusters := cs } := by
  unfold State.endPass
  dsimp only
  rw [if_pos h]
  split
  · exact State.powerDown_eq _ _
  · exact ⟨_, rfl⟩

theorem State.endPass_of_kept {s : State} {f : Nat} (h : (s.part f).destroy = false) :
    s.endPass f = s.setPart f { s.part f with zeroed := true } := by
  unfold State.endPass
  dsimp only
  rw [if_neg (not_of_eq_false h)]

theorem State.endPass_kept (s : State) (f : Nat) :
    (s.endPass f).part f = (if (s.part f).destroy then { s.part f with state := 0, destroy := false, zeroed := false, areas := [] }
      else { s.part f with zeroed := true }) ∧ (s.endPass f).insts = s.insts ∧ (s.endPass f).slots = s.slots := by
  cases hd : (s.part f).destroy with
  | true =>
    obtain ⟨cs, h⟩ := State.endPass_of_destroy hd
    have hkept := State.dropPages_kept (s.setPart f { s.part f with state := 0, destroy := false, zeroed := false }) f
    rw [State.part_setPart, if_pos rfl] at hkept
    generalize State.dropPages (s.setPart f { s.part f with state := 0, destroy := false, zeroed := false }) f = v at h hkept
    obtain ⟨hpart, hinsts, hslots, -, -⟩ := hkept
    rw [h]
    exact ⟨hpart, hinsts, hslots⟩
  | false =>
    rw [State.endPass_of_kept hd]
    exact ⟨Table.get_set_same _ _ _ _, rfl, rfl⟩

theorem State.Clear.endPass {s : State} {a : Nat} (h : s.Clear a) (f : Nat) : (s.endPass f).Clear a := by
  cases hd : (s.part f).destroy with
  | true =>
    obtain ⟨cs, he⟩ := State.endPass_of_destroy hd
    have hs : (s.setPart f { s.part f with state := 0, destroy := false, zeroed := false }).Clear a := h.of_subset (fun _ hc => hc) rfl
    have hdrop := hs.dropPages f
    generalize State.dropPages (s.setPart f { s.part f with state := 0, destroy := false, zeroed := false }) f = v at he hdrop
    rw [he]
    exact hdrop.of_subset (fun _ hc => hc) rfl
  | false =>
    rw [State.endPass_of_kept hd]
    exact h.of_subset (fun _ hc => hc) rfl

end Sys2Proof.Machine
end

section
/-!
PROOFS. The life of a partition (R83 to R94, R373, R437, R438, R445): descriptors, CREATE, wheel masks, refills, release, quiescing and zeroing.
-/

namespace Sys2Proof.Machine

/-! ### Descriptors, CREATE and wheel masks -/

theorem exec_descriptorWrite_sound {s : State} {f : Nat} {d : BitVec 1024} {n : Part} (hf : f < nFuncs) (hu : s.monitor.update ≠ .trial)
    (hn : n = (s.part f).withFields d.toNat) (hr : descReserved d.toNat = true) (hok : s.descOk f n = true)
    (hsame : (s.part f).state = 0 ∨ (n.mask = (s.part f).mask ∧ n.clusters = (s.part f).clusters ∧ n.level = (s.part f).level ∧
      n.parent = (s.part f).parent)) :
    exec (.descriptorWrite f d) s = .next { (s.setPart f n).clearArbiters n with fwStatus := 0 } := by
  subst hn
  change execDescriptorWrite f d s = _
  unfold execDescriptorWrite
  rw [if_neg (Nat.not_le.2 hf), if_neg hu]
  refine if_neg ?_
  rw [hr, hok]
  obtain h0 | ⟨hm, hc, hl, hp⟩ := hsame
  · simp [h0]
  · simp [hm, hc, hl, hp]

theorem exec_descriptorWrite_unsound {s : State} {f : Nat} {d : BitVec 1024} {n : Part} (hf : f < nFuncs) (hu : s.monitor.update ≠ .trial)
    (hn : n = (s.part f).withFields d.toNat)
    (h : descReserved d.toNat = false ∨ s.descOk f n = false ∨ ((s.part f).state ≠ 0 ∧ n.mask ≠ (s.part f).mask)) :
    exec (.descriptorWrite f d) s = .next { s with fwStatus := 1 } := by
  subst hn
  change execDescriptorWrite f d s = _
  unfold execDescriptorWrite
  rw [if_neg (Nat.not_le.2 hf), if_neg hu]
  refine if_pos ?_
  obtain h | h | ⟨h0, hm⟩ := h
  · simp [h]
  · simp [h]
  · simp [h0, hm]

/-- A partition whose budgets have come into effect (R86, R87). -/
def Part.created (p : Part) : Part := { p with
  state := 1, mtok := p.nextM, ftok := p.nextF, tbudget := p.nextT, weight := p.nextW, mleft := p.nextM
  fleft := p.nextF, tused := 0, mdebt := 0, fdebt := 0, mcarry := 0, fcarry := 0, mwant := [], fwant := []
  mwait := none, fwait := none, destroy := false }

theorem State.powerUp_eq (s : State) (p : Part) : ∃ cs, s.powerUp p = { s with clusters := cs } :=
  foldl_keeps (P := fun u => ∃ cs, u = { s with clusters := cs }) (fun _ _ hu => by obtain ⟨cs, rfl⟩ := hu; exact ⟨_, rfl⟩) _ ⟨s.clusters, rfl⟩

theorem State.cluster_setCluster (s : State) (n m : Nat) (k : Cluster) : (s.setCluster n k).cluster m = if m = n then k else s.cluster m :=
  Table.get_set _ _ _ _ _

/-- Every cluster of a partition runs once it is assigned (R440). -/
theorem State.powerUp_runs (s : State) {p : Part} {c : Nat} (hc : c < nClusters) (hp : p.clusters.getLsbD c = true) :
    ((s.powerUp p).cluster c).state = 0 := by
  refine foldl_reaches (P := fun u => (u.cluster c).state = 0) (fun u n hu => ?_) (x := c) (fun u => ?_)
    (List.mem_filter.2 ⟨List.mem_range.2 hc, hp⟩) s
  · rw [State.cluster_setCluster]
    split
    · rfl
    · exact hu
  · rw [State.cluster_setCluster, if_pos rfl]

section

variable {s : State} {f : Nat} (hf : f < nFuncs) (hstart : s.monitor.started = true) (hu : s.monitor.update ≠ .trial)

include hf hstart hu

theorem exec_create_of_assigned (h0 : (s.part f).state ≠ 0) : exec (.create f) s = .next { s with fwStatus := 1 } := by
  change execCreate f s = _
  unfold execCreate
  rw [if_neg (Nat.not_le.2 hf), if_neg (ne_false_of_eq_true hstart), if_neg hu]
  exact if_pos (.inl h0)

theorem exec_create_of_unassigned (h0 : (s.part f).state = 0) (hok : s.descOk f (s.part f) = true)
    (hparent : f < 16 ∨ (s.part (parentOf f)).state = 1) :
    exec (.create f) s = .next { (s.setPart f (s.part f).created).powerUp (s.part f).created with fwStatus := 0 } := by
  change execCreate f s = _
  unfold execCreate
  rw [if_neg (Nat.not_le.2 hf), if_neg (ne_false_of_eq_true hstart), if_neg hu]
  refine if_neg ?_
  rintro (h | h | ⟨h16, h1⟩)
  · exact h h0
  · exact absurd (hok.symm.trans h) (by decide)
  · exact hparent.elim (Nat.not_lt.2 h16) h1

end

theorem exec_wheelMaskWrite_ok {s : State} {p : Nat} {m : BitVec 256} (hp : p < 16) (hu : s.monitor.update ≠ .trial) (h0 : (s.part p).state = 0)
    (hm : ∀ g, g < 16 → g ≠ p → (s.part g).wheel &&& m = 0) :
    exec (.wheelMaskWrite p m) s = .next { s.setPart p { s.part p with wheel := m } with fwStatus := 0 } := by
  change execWheelMaskWrite p m s = _
  unfold execWheelMaskWrite
  rw [if_neg (Nat.not_le.2 hp), if_neg hu]
  refine if_pos (Bool.and_eq_true_iff.2 ⟨decide_eq_true h0, List.all_eq_true.2 fun g hg => ?_⟩)
  by_cases hgp : g = p
  · simp [hgp]
  · simp [hm g (List.mem_range.1 hg) hgp]

theorem exec_wheelMaskWrite_refused {s : State} {p : Nat} {m : BitVec 256} (hp : p < 16) (hu : s.monitor.update ≠ .trial)
    (h : (s.part p).state ≠ 0 ∨ ∃ g, g < 16 ∧ g ≠ p ∧ (s.part g).wheel &&& m ≠ 0) :
    exec (.wheelMaskWrite p m) s = .next { s with fwStatus := 1 } := by
  change execWheelMaskWrite p m s = _
  unfold execWheelMaskWrite
  rw [if_neg (Nat.not_le.2 hp), if_neg hu]
  refine if_neg fun hok => ?_
  obtain ⟨h0, hall⟩ := Bool.and_eq_true_iff.1 hok
  obtain h | ⟨g, hg, hgp, hgm⟩ := h
  · exact h (of_decide_eq_true h0)
  · have := List.all_eq_true.1 hall g (List.mem_range.2 hg)
    exact hgm (by simpa [hgp] using this)

/-! ### Refills -/

theorem Part.refill_renews (p : Part) : p.refill.mtok = p.nextM ∧ p.refill.ftok = p.nextF ∧ p.refill.tused = 0 ∧
    p.refill.mleft + min p.mdebt (p.nextM / 4) = p.nextM ∧ p.refill.mdebt + min p.mdebt (p.nextM / 4) = p.mdebt ∧
    p.refill.fleft + min p.fdebt (p.nextF / 4) = p.nextF ∧ p.refill.fdebt + min p.fdebt (p.nextF / 4) = p.fdebt ∧
    p.refill.mcarry = p.refill.mdebt ∧ p.refill.fcarry = p.refill.fdebt ∧ p.refill.state = p.state := by
  have hpart : ∀ debt budget, min debt (budget / 4) ≤ debt ∧ min debt (budget / 4) ≤ budget := fun debt budget =>
    ⟨Nat.min_le_left _ _, (Nat.min_le_right _ _).trans (Nat.div_le_self _ _)⟩
  exact ⟨rfl, rfl, rfl, Nat.sub_add_cancel (hpart _ _).2, Nat.sub_add_cancel (hpart _ _).1, Nat.sub_add_cancel (hpart _ _).2,
    Nat.sub_add_cancel (hpart _ _).1, rfl, rfl, rfl⟩

/-! ### Release -/

/-- A partition that is RELEASING, its epoch moved on (R92, R418). -/
def Part.released (p : Part) (destroy : Bool) : Part := { p with state := 2, destroy := destroy, epoch := (p.epoch + 1) % 8, zeroed := false }

theorem State.releasing_of_not_ready {s : State} {f : Nat} (h : (s.part f).state ≠ 1) (b : Bool) : s.releasing f b = s := if_pos h

theorem State.releasing_of_ready {s : State} {f : Nat} (h : (s.part f).state = 1) (b : Bool) :
    s.releasing f b = { (s.setPart f ((s.part f).released b)).disableSlots f with requests := s.requests.filter fun r => decide (r.1 ≠ f) } :=
  if_neg (not_not.2 h)

theorem State.part_releasing_same {s : State} {f : Nat} (h : (s.part f).state = 1) (b : Bool) :
    (s.releasing f b).part f = (s.part f).released b := by
  rw [State.releasing_of_ready h]
  exact Table.get_set_same _ _ _ _

theorem State.part_releasing_other (s : State) {f g : Nat} (h : g ≠ f) (b : Bool) : (s.releasing f b).part g = s.part g := by
  by_cases h1 : (s.part f).state = 1
  · rw [State.releasing_of_ready h1]
    exact Table.get_set_other _ _ _ h
  · rw [State.releasing_of_not_ready h1]

/-- What a release takes back is of one function: page requests go, launch slots are disabled, the rest stays. -/
structure State.Withdraws (s t : State) : Prop where
  mem : t.mem = s.mem
  ctxs : t.ctxs = s.ctxs
  requests : ∀ r ∈ t.requests, r ∈ s.requests
  slots : ∀ x ∈ t.slots, x ∈ s.slots ∨ x.2.en = false

theorem State.Withdraws.refl (s : State) : s.Withdraws s := ⟨rfl, rfl, fun _ h => h, fun _ h => .inl h⟩

theorem State.withdraws_releasing (s : State) (f : Nat) (b : Bool) : s.Withdraws (s.releasing f b) := by
  by_cases h : (s.part f).state = 1
  · rw [State.releasing_of_ready h]
    refine ⟨rfl, rfl, fun r hr => List.mem_of_mem_filter hr, fun x hx => ?_⟩
    obtain ⟨y, hy, rfl⟩ := List.mem_map.1 hx
    split
    · exact .inr rfl
    · exact .inl hy
  · rw [State.releasing_of_not_ready h]
    exact .refl s

/-- Neither a request nor an enabled slot is left of a function. -/
def State.Withdrawn (s : State) (f : Nat) : Prop :=
  (∀ r ∈ s.requests, r.1 ≠ f) ∧ ∀ x ∈ s.slots, slotFunc (slotAt x.1) x.2 = f → x.2.en = false

theorem State.Withdraws.withdrawn {s t : State} {f : Nat} (h : s.Withdraws t) (hs : s.Withdrawn f) : t.Withdrawn f := by
  refine ⟨fun r hr => hs.1 r (h.requests r hr), fun x hx hxf => ?_⟩
  obtain hx | hen := h.slots x hx
  · exact hs.2 x hx hxf
  · exact hen

theorem State.withdrawn_releasing {s : State} {f : Nat} (h : (s.part f).state = 1) (b : Bool) : (s.releasing f b).Withdrawn f := by
  rw [State.releasing_of_ready h]
  refine ⟨fun r hr => of_decide_eq_true (List.mem_filter.1 hr).2, fun x hx hxf => ?_⟩
  obtain ⟨y, hy, rfl⟩ := List.mem_map.1 hx
  by_cases hyf : slotFunc (slotAt y.1) y.2 = f
  · rw [if_pos hyf]
  · rw [if_neg hyf] at hxf
    exact absurd hxf hyf

/-- A release: that of the function, and of the children of a level-1 partition. -/
def State.releaseAll (s : State) (f : Nat) (b : Bool) (kids : List Nat) : State := kids.foldl (fun u g => u.releasing g true) (s.releasing f b)

theorem State.release_of_ready {s : State} {f : Nat} (h : (s.part f).state = 1) (b : Bool) :
    s.release f b = s.releaseAll f b (if f < 16 then childrenOf f else []) := by
  unfold State.release
  by_cases hf : f < 16
  · rw [if_pos ⟨hf, h⟩, if_pos hf]
    rfl
  · rw [if_neg (fun hc => hf hc.1), if_neg hf]
    rfl

theorem State.release_of_not_ready {s : State} {f : Nat} (h : (s.part f).state ≠ 1) (b : Bool) : s.release f b = s :=
  (if_neg fun hc => h hc.2).trans (State.releasing_of_not_ready h b)

theorem not_mem_children {f : Nat} (hf : f < 16) : f ∉ childrenOf f := fun h => by
  obtain ⟨i, -, hi⟩ := List.mem_map.1 h
  omega

section

variable {s : State} {f : Nat} (h : (s.part f).state = 1) (b : Bool) (kids : List Nat)

include h

theorem State.part_releaseAll (hk : f ∉ kids) : (s.releaseAll f b kids).part f = (s.part f).released b := by
  have hkeep : ∀ (ks : List Nat) (t : State), f ∉ ks → (ks.foldl (fun u g => u.releasing g true) t).part f = t.part f := by
    intro ks
    induction ks with
    | nil => exact fun t _ => rfl
    | cons g ks ih =>
      intro t ht
      exact (ih _ (List.not_mem_of_not_mem_cons ht)).trans (t.part_releasing_other (List.ne_of_not_mem_cons ht) true)
  exact (hkeep kids _ hk).trans (State.part_releasing_same h b)

theorem State.withdrawn_releaseAll : (s.releaseAll f b kids).Withdrawn f :=
  foldl_keeps (P := fun u => u.Withdrawn f) (fun u g hu => (u.withdraws_releasing g true).withdrawn hu) kids (State.withdrawn_releasing h b)

omit h in
theorem State.releaseAll_kept : (s.releaseAll f b kids).mem = s.mem ∧ (s.releaseAll f b kids).ctxs = s.ctxs := by
  refine foldl_keeps (P := fun u => u.mem = s.mem ∧ u.ctxs = s.ctxs) (fun u g hu => ?_) kids ?_
  · have hw := u.withdraws_releasing g true
    exact ⟨hw.mem.trans hu.1, hw.ctxs.trans hu.2⟩
  · have hw := s.withdraws_releasing f b
    exact ⟨hw.mem, hw.ctxs⟩

omit h in
/-- A READY child is RELEASING after the release. -/
theorem State.state_releaseAll_child {g : Nat} (hg : g ∈ kids) (hgf : g ≠ f) (h1 : (s.part g).state = 1) : ((s.releaseAll f b kids).part g).state = 2 := by
  have hready : ∀ (u : State) (x : Nat), ((u.releasing x true).part g).state = (if x = g ∧ (u.part g).state = 1 then 2 else (u.part g).state) := by
    intro u x
    by_cases hx : g = x
    · subst hx
      by_cases hu : (u.part g).state = 1
      · rw [State.part_releasing_same hu, if_pos ⟨rfl, hu⟩]
        rfl
      · rw [State.releasing_of_not_ready hu, if_neg fun hc => hu hc.2]
    · rw [u.part_releasing_other hx, if_neg fun hc => hx hc.1.symm]
  have hstart : ((s.releasing f b).part g).state = 1 := by rw [s.part_releasing_other hgf, h1]
  have hboth : ∀ (u : State) (x : Nat), ((u.part g).state = 1 ∨ (u.part g).state = 2) →
      (((u.releasing x true).part g).state = 1 ∨ ((u.releasing x true).part g).state = 2) := fun u x hu => by
    rw [hready]
    split
    · exact .inr rfl
    · exact hu
  have hend := foldl_keeps (P := fun u => (u.part g).state = 1 ∨ (u.part g).state = 2) hboth kids (.inl hstart)
  have hleft : ((s.releaseAll f b kids).part g).state ≠ 1 := by
    refine foldl_reaches (P := fun u => (u.part g).state ≠ 1) (fun u x hu => ?_) (x := g) (fun u => ?_) hg _
    · rw [hready, if_neg fun hc => hu hc.2]
      exact hu
    · rw [hready]
      split
      · decide
      next hc => exact fun hu => hc ⟨rfl, hu⟩
  exact hend.resolve_left hleft

end

end Sys2Proof.Machine
end

section
/-!
PROOFS. Quiescing and zeroing of a partition, and the whole of its life where the cipher keeps zeros (R92 to R95, R437, R438).
-/

namespace Sys2Proof.Machine

/-! ### Commands during a trial -/

theorem exec_lifecycle_in_trial {s : State} {f p : Nat} (h : s.monitor.update = .trial) (hf : f < nFuncs) (hp : p < 16) (d : BitVec 1024)
    (m : BitVec 256) (b : Bool) :
    exec (.descriptorWrite f d) s = .next { s with fwStatus := 2 } ∧
      (s.monitor.started = true → exec (.create f) s = .next { s with fwStatus := 2 }) ∧
      exec (.wheelMaskWrite p m) s = .next { s with fwStatus := 2 } ∧ exec (.releaseRequest f b) s = .next { s with fwStatus := 2 } := by
  have hf : ¬ nFuncs ≤ f := Nat.not_le.2 hf
  have hp : ¬ 16 ≤ p := Nat.not_le.2 hp
  refine ⟨?descriptor, fun hstart => ?create, ?wheel, ?release⟩
  case descriptor => exact (if_neg hf).trans (if_pos h)
  case create => exact (if_neg hf).trans ((if_neg (ne_false_of_eq_true hstart)).trans (if_pos h))
  case wheel => exact (if_neg hp).trans (if_pos h)
  case release => exact (if_neg hf).trans (if_pos h)

/-! ### Release -/

theorem exec_releaseRequest {s : State} {f : Nat} (hf : f < nFuncs) (hu : s.monitor.update ≠ .trial) (b : Bool) :
    exec (.releaseRequest f b) s = .next (s.release f b) := (if_neg (Nat.not_le.2 hf)).trans (if_neg hu)

theorem exec_functionLevelReset {s : State} {f : Nat} (hf : f < nFuncs) : exec (.functionLevelReset f) s = .next (s.release f false) :=
  if_neg (Nat.not_le.2 hf)

/-- The functions that are released with one: the children of a level-1 partition. -/
def releasedWith (f : Nat) : List Nat := if f < 16 then childrenOf f else []

theorem not_mem_releasedWith (f : Nat) : f ∉ releasedWith f := by
  unfold releasedWith
  split
  next hf => exact not_mem_children hf
  · exact List.not_mem_nil

/-- A READY child of a released partition is RELEASING. -/
theorem State.state_release_child {s : State} {f g : Nat} (h : (s.part f).state = 1) (hf : f < 16) (hg : g ∈ childrenOf f)
    (h1 : (s.part g).state = 1) (b : Bool) : ((s.release f b).part g).state = 2 := by
  rw [State.release_of_ready h, if_pos hf]
  exact State.state_releaseAll_child b _ hg (fun e => not_mem_children hf (e ▸ hg)) h1

/-! ### Quiescing -/

/-- The contexts of a function are cleared, and give up their save areas. -/
theorem State.ctxs_dropTasks (s : State) (f : Nat) : (s.dropTasks f).ctxs =
    s.ctxs.map fun c => (c.1, if (s.idsOf f).contains c.1 then { c.2.clear with area := [] } else c.2) := by
  have hunits := fun t : State => foldl_keeps (P := fun u => u.ctxs = t.ctxs)
    (f := fun (u : State) id => (u.leaveArray id 0 false).unrelease id) (fun _ _ hu => hu) (s.idsOf f) (rfl : t.ctxs = t.ctxs)
  unfold State.dropTasks
  dsimp only
  rw [hunits]
  rfl

theorem State.not_tasked_dropTasks (s : State) (f : Nat) : ∀ c ∈ (s.dropTasks f).ctxs, ∀ t, c.2.task = some t → t.func ≠ f := by
  intro c hc t ht hf
  rw [s.ctxs_dropTasks] at hc
  obtain ⟨d, hd, rfl⟩ := List.mem_map.1 hc
  by_cases hid : (s.idsOf f).contains d.1 = true
  · rw [if_pos hid] at ht
    cases ht
  · rw [if_neg hid] at ht
    refine hid (List.contains_iff_mem.2 (List.mem_filterMap.2 ⟨d, hd, ?_⟩))
    dsimp only at ht
    simp only [ht, hf, if_true]

/-- Neither a walk nor a launch of a function is left, nor one into it. -/
theorem State.dropWalks_kept (s : State) (f : Nat) : (s.dropWalks f).mem = s.mem ∧ (s.dropWalks f).ctxs = s.ctxs ∧
    (∀ w ∈ (s.dropWalks f).walks, w.2.func ≠ f) ∧ ∀ l ∈ (s.dropWalks f).launches, l.2.func ≠ f := by
  refine ⟨rfl, rfl, fun w hw e => ?_, fun l hl e => ?_⟩
  · have := (List.mem_filter.1 hw).2
    simp [e] at this
  · have := (List.mem_filter.1 hl).2
    simp [e] at this

theorem exec_releaseQuiesced_of_stopped {s : State} {f : Nat} (hf : f < nFuncs) (h2 : (s.part f).state = 2)
    (h : ∀ t ∈ s.tids f, s.stopped t = true) : ∃ u, exec (.releaseQuiesced f) s = .next u ∧ (u.part f).state = 3 ∧ u.mem = s.mem ∧
      (∀ c ∈ u.ctxs, ∀ t, c.2.task = some t → t.func ≠ f) ∧ (∀ w ∈ u.walks, w.2.func ≠ f) ∧ ∀ l ∈ u.launches, l.2.func ≠ f := by
  have hguard : ¬ ((s.part f).state ≠ 2 ∨ (s.tids f).all s.stopped = false) := by
    rw [List.all_eq_true.2 h]
    simp [h2]
  obtain ⟨hmem, hctxs, hwalks, hlaunches⟩ := (s.dropTasks f).dropWalks_kept f
  refine ⟨_, (if_neg (Nat.not_le.2 hf)).trans (if_neg hguard), ?_, hmem.trans (s.dropTasks_mem f), ?_, hwalks, hlaunches⟩
  · exact congrArg Part.state (Table.get_set_same _ _ _ _)
  · exact fun c hc => s.not_tasked_dropTasks f c (hctxs ▸ hc)

theorem exec_releaseQuiesced_of_running {s : State} {f : Nat} (hf : f < nFuncs) (h : ∃ t ∈ s.tids f, s.stopped t = false) :
    exec (.releaseQuiesced f) s = .next s := by
  obtain ⟨t, ht, hs⟩ := h
  have hall : (s.tids f).all s.stopped = false := List.all_eq_false.2 ⟨t, ht, not_of_eq_false hs⟩
  exact (if_neg (Nat.not_le.2 hf)).trans (if_pos (.inr hall))

/-! ### Zeroing -/

section

variable {s : State} {f : Nat}

theorem exec_zeroingComplete_of_alone (hf : f < nFuncs) (h3 : (s.part f).state = 3) (hz : (s.part f).zeroed = false)
    (hl : (s.part f).zeroLeft = 0) (hkids : f < 16 → ∀ g ∈ childrenOf f, (s.part g).state = 0)
    (hparent : 16 ≤ f → (s.part f).destroy = true → (s.part (parentOf f)).state = 1) :
    exec (.zeroingComplete f) s = .next ((s.zeroFunc f).endPass f) := by
  have hnone : (if f < 16 then (childrenOf f).filter fun g => decide ((s.part g).state ≠ 0) else []) = [] := by
    split
    next h16 => exact List.filter_eq_nil_iff.2 fun g hg => by simp [hkids h16 g hg]
    · rfl
  change execZeroingComplete f s = _
  unfold execZeroingComplete
  rw [if_neg (Nat.not_le.2 hf)]
  dsimp only
  rw [hnone, if_neg (by simp [h3, hz]), if_neg (by simp [hl]), if_neg fun hc => hc.2.2 (hparent hc.1 hc.2.1)]
  rfl

/-- What the pass of a function leaves of its partition, its images and its launch slots. -/
theorem State.passed_kept (s : State) (f : Nat) : ((s.zeroFunc f).endPass f).part f =
      (if (s.part f).destroy then { s.part f with state := 0, destroy := false, zeroed := false, areas := [] }
        else { s.part f with zeroed := true, areas := (s.part f).areas ++ s.lineMaps f }) ∧
    (∀ i ∈ ((s.zeroFunc f).endPass f).insts, i.2.func ≠ f) ∧
    ∀ x ∈ ((s.zeroFunc f).endPass f).slots, slotFunc (slotAt x.1) x.2 = f → x.2 = { func := x.2.func } := by
  obtain ⟨hpart, hinsts, hslots⟩ := s.zeroFunc_kept f
  obtain ⟨hpart', hinsts', hslots'⟩ := (s.zeroFunc f).endPass_kept f
  refine ⟨?_, fun i hi => ?_, fun x hx hxf => ?_⟩
  · rw [hpart', hpart]
  · rw [hinsts', hinsts] at hi
    exact of_decide_eq_true (List.mem_filter.1 hi).2
  · rw [hslots', hslots] at hx
    obtain ⟨y, hy, rfl⟩ := List.mem_map.1 hx
    by_cases hyf : slotFunc (slotAt y.1) y.2 = f
    · rw [if_pos hyf]
    · rw [if_neg hyf] at hxf
      exact absurd hxf hyf

/-- What a function owns reads zero after its pass, where it is made of whole lines, or the cipher keeps zeros. -/
theorem State.read_passed {a : Nat} {p : Nat × Nat} (hp : p ∈ s.ownedPages f) (hlo : p.1 ≤ a) (hn : a < p.1 + p.2)
    (hr : (128 ∣ p.1 ∧ 128 ∣ p.2) ∨ CipherKeepsZeros) : ((s.zeroFunc f).endPass f).mem.read a = 0 :=
  ((State.clear_zeroFunc hp hlo hn hr).endPass f).read

end

/-- ZEROING_COMPLETE of a function whose memory is made of whole lines, as pages are (R94, R219), leaves zeros there, whatever the cipher. -/
theorem exec_zeroingComplete_zeroes {s : State} {f : Nat} (hf : f < nFuncs) (h3 : (s.part f).state = 3) (hz : (s.part f).zeroed = false)
    (hl : (s.part f).zeroLeft = 0) (hkids : f < 16 → ∀ g ∈ childrenOf f, (s.part g).state = 0)
    (hparent : 16 ≤ f → (s.part f).destroy = true → (s.part (parentOf f)).state = 1)
    (hlines : ∀ p ∈ s.ownedPages f, 128 ∣ p.1 ∧ 128 ∣ p.2) : ∃ u, exec (.zeroingComplete f) s = .next u ∧
      ∀ p ∈ s.ownedPages f, ∀ a, p.1 ≤ a → a < p.1 + p.2 → u.mem.read a = 0 :=
  ⟨_, exec_zeroingComplete_of_alone hf h3 hz hl hkids hparent, fun p hp _ hlo hn => State.read_passed hp hlo hn (.inl (hlines p hp))⟩

/-! ### The life of a partition -/

/-- O57 holds if the cipher keeps zeros; but for the last of its claims, nothing of the cipher is used. -/
theorem partitionLifecycle_of_cipherKeepsZeros (hcipher : CipherKeepsZeros) : Obligations.PartitionLifecycle := by
  refine ⟨?descriptor, ?create, ?wheel, ?refill, Part.refill_renews, ?trial, ?release, ?quiesce, ?zero⟩
  case descriptor =>
    rintro s f d p n hf hu rfl hn
    exact ⟨exec_descriptorWrite_sound hf hu hn, exec_descriptorWrite_unsound hf hu hn⟩
  case create =>
    rintro s f p hf hu rfl hok
    refine ⟨fun hstart => (if_neg (Nat.not_le.2 hf)).trans (if_pos hstart), fun hstart => ⟨exec_create_of_assigned hf hstart hu, fun h0 hparent => ?_⟩⟩
    obtain ⟨cs, hup⟩ := (s.setPart f (s.part f).created).powerUp_eq (s.part f).created
    refine ⟨_, exec_create_of_unassigned hf hstart hu h0 hok hparent, rfl, ?_, fun g hg => ?_, fun c hc hp => ?_, ?_⟩
    · rw [hup]
      exact Table.get_set_same _ _ _ _
    · rw [hup]
      exact Table.get_set_other _ _ _ hg
    · exact State.powerUp_runs _ (p := (s.part f).created) hc hp
    · rw [hup]
      rfl
  case wheel => exact fun s p m hp hu => ⟨exec_wheelMaskWrite_ok hp hu, exec_wheelMaskWrite_refused hp hu⟩
  case refill => exact fun s hdue hnew => if_pos (Bool.and_eq_true_iff.2 ⟨decide_eq_true hdue, decide_eq_true hnew⟩)
  case trial => exact fun s f p d m b hu hf hp => exec_lifecycle_in_trial hu hf hp d m b
  case release =>
    intro s f b hf hu
    rw [exec_releaseRequest hf hu, exec_functionLevelReset hf]
    refine ⟨fun h => ?_, fun h => ⟨_, _, rfl, rfl, ?_⟩⟩
    · rw [State.release_of_not_ready h, State.release_of_not_ready h]
      exact ⟨rfl, rfl⟩
    · have hkids : f < 16 → ∀ g ∈ childrenOf f, (s.part g).state = 1 → ((s.release f b).part g).state = 2 ∧ ((s.release f false).part g).state = 2 :=
        fun hf g hg h1 => ⟨State.state_release_child h hf hg h1 b, State.state_release_child h hf hg h1 false⟩
      refine ⟨?_, ?_, ?_, ?_, hkids, ?_⟩
      all_goals simp only [State.release_of_ready h]
      · exact State.part_releaseAll h b _ (not_mem_releasedWith f)
      · exact State.part_releaseAll h false _ (not_mem_releasedWith f)
      · exact (State.withdrawn_releaseAll h b _).1
      · exact (State.withdrawn_releaseAll h b _).2
      · exact State.releaseAll_kept b _
  case quiesce => exact fun s f hf h2 => ⟨exec_releaseQuiesced_of_stopped hf h2, exec_releaseQuiesced_of_running hf⟩
  case zero =>
    intro s f hf h3 hz hl hkids hparent
    obtain ⟨hpart, hinsts, hslots⟩ := s.passed_kept f
    exact ⟨_, exec_zeroingComplete_of_alone hf h3 hz hl hkids hparent, hpart, hinsts, hslots,
      fun p hp a hlo hn => State.read_passed hp hlo hn (.inr hcipher)⟩

end Sys2Proof.Machine
end

section
/-!
PROOFS. The monitor's commands (R98 to R101, R110 to R116, R438, R445): keys, rotations, transfers, firmware updates and moves of lines.
-/

namespace Sys2Proof.Machine

/-! ### Memory keys -/

theorem State.keySlot_setKeySlot_other (s : State) {n m : Nat} (k : KeySlot) (h : m ≠ n) : (s.setKeySlot n k).keySlot m = s.keySlot m :=
  Table.get_set_other _ _ _ h

/-- A fresh key in the memory slot of a function (R98 to R100). -/
def State.withKey (s : State) (f : Nat) : State :=
  s.drawKey.2.setKeySlot (1 + f) { s.keySlot (1 + f) with
    cur := s.monitor.keys, state := 1, owner := f, gen := ((s.keySlot (1 + f)).gen + 1) % 256 }

theorem State.part_withKey (s : State) (f g : Nat) : (s.withKey f).part g = s.part g := rfl

/-- Whether a memory key is what a zeroed function waits for to become READY (R92, R438). -/
def State.awaitsKey (s : State) (f : Nat) : Prop :=
  (s.part f).state = 3 ∧ (s.part f).zeroed = true ∧ (f < 16 ∨ (s.part (parentOf f)).state = 1)

/-- A zeroed function that has got its key is READY, and what was its can be granted again (R95, R438). -/
def State.readied (s : State) (f : Nat) : State := State.dropPages (s.setPart f { s.part f with state := 1, zeroed := false }) f

section

variable {s : State} {f : Nat} (hf : f < nFuncs) (h0 : (s.keySlot (1 + f)).state = 0)

include hf h0

theorem exec_mkeyCreate_awaited (h : s.awaitsKey f) : exec (.mkeyCreate f) s = .next (((s.withKey f).readied f).reply 0) := by
  change execMkeyCreate f s = _
  unfold execMkeyCreate
  rw [if_neg (Nat.not_le.2 hf)]
  dsimp only
  rw [if_neg (not_not.2 h0)]
  exact congrArg (fun u : State => (.next (u.reply 0) : Result)) (if_pos h)

theorem exec_mkeyCreate_other (h : ¬ s.awaitsKey f) : exec (.mkeyCreate f) s = .next ((s.withKey f).reply 0) := by
  change execMkeyCreate f s = _
  unfold execMkeyCreate
  rw [if_neg (Nat.not_le.2 hf)]
  dsimp only
  rw [if_neg (not_not.2 h0)]
  exact congrArg (fun u : State => (.next (u.reply 0) : Result)) (if_neg h)

end

/-- What a function owns does not depend on keys, nor on how its pass stands. -/
theorem State.ownedPages_withKey (s : State) (f : Nat) :
    State.ownedPages ((s.withKey f).setPart f { (s.withKey f).part f with state := 1, zeroed := false }) f = s.ownedPages f := by
  unfold State.ownedPages
  rw [State.part_setPart, if_pos rfl]
  rfl

theorem State.readied_kept (s : State) (f : Nat) : (s.readied f).part f = { s.part f with state := 1, zeroed := false, areas := [] } ∧
    (s.readied f).keys = s.keys ∧ (s.readied f).monitor = s.monitor := by
  obtain ⟨hpart, -, -, hkeys, hmonitor⟩ := State.dropPages_kept (s.setPart f { s.part f with state := 1, zeroed := false }) f
  rw [State.part_setPart, if_pos rfl] at hpart
  exact ⟨hpart, hkeys, hmonitor⟩

/-- What a new key leaves in the slots and in the monitor, whatever becomes of the partition. -/
theorem State.withKey_kept {s u : State} {f : Nat} (hkeys : u.keys = (s.withKey f).keys) (hmon : u.monitor = (s.withKey f).monitor) :
    (u.reply 0).monitor.status = 0 ∧ (u.reply 0).keySlot (1 + f) = { s.keySlot (1 + f) with
        cur := s.monitor.keys, state := 1, owner := f, gen := ((s.keySlot (1 + f)).gen + 1) % 256 } ∧
      (u.reply 0).monitor.keys = s.monitor.keys + 1 ∧ ∀ n, n ≠ 1 + f → (u.reply 0).keySlot n = s.keySlot n := by
  have hslot : ∀ n, (u.reply 0).keySlot n = (s.withKey f).keySlot n := fun n => congrArg (fun t : Table KeySlot => Table.get ({} : KeySlot) t n) hkeys
  refine ⟨rfl, (hslot _).trans (State.keySlot_setKeySlot _ _ _), congrArg Monitor.keys hmon, fun n hn => (hslot n).trans ?_⟩
  exact State.keySlot_setKeySlot_other _ _ hn

/-- MKEY_CREATE completes; what a zeroed partition owned reads zero where it is made of whole lines, or the cipher keeps zeros. -/
theorem exec_mkeyCreate {s : State} {f : Nat} (hf : f < nFuncs) (h0 : (s.keySlot (1 + f)).state = 0) :
    ∃ u, exec (.mkeyCreate f) s = .next u ∧ u.monitor.status = 0 ∧
      u.keySlot (1 + f) = { s.keySlot (1 + f) with
        cur := s.monitor.keys, state := 1, owner := f, gen := ((s.keySlot (1 + f)).gen + 1) % 256 } ∧
      u.monitor.keys = s.monitor.keys + 1 ∧ (∀ n, n ≠ 1 + f → u.keySlot n = s.keySlot n) ∧
      (s.awaitsKey f → u.part f = { s.part f with state := 1, zeroed := false, areas := [] } ∧
        ∀ p ∈ s.ownedPages f, ∀ a, p.1 ≤ a → a < p.1 + p.2 → (128 ∣ p.1 ∧ 128 ∣ p.2) ∨ CipherKeepsZeros → u.mem.read a = 0) ∧
      (¬ s.awaitsKey f → u.part f = s.part f ∧ u.mem = s.mem) := by
  by_cases h : s.awaitsKey f
  · have hexec := exec_mkeyCreate_awaited hf h0 h
    have hzero : ∀ p ∈ s.ownedPages f, ∀ a, p.1 ≤ a → a < p.1 + p.2 → (128 ∣ p.1 ∧ 128 ∣ p.2) ∨ CipherKeepsZeros →
        ((s.withKey f).readied f).mem.read a = 0 := fun p hp a hlo hn hr =>
      (State.clear_dropPages ((s.ownedPages_withKey f).symm ▸ hp) hlo hn hr).read
    obtain ⟨hpart, hkeys, hmon⟩ := (s.withKey f).readied_kept f
    rw [State.part_withKey] at hpart
    generalize (s.withKey f).readied f = u at hexec hzero hpart hkeys hmon
    obtain ⟨hstatus, hslot, hnum, hother⟩ := State.withKey_kept hkeys hmon
    exact ⟨_, hexec, hstatus, hslot, hnum, hother, fun _ => ⟨hpart, hzero⟩, fun hno => absurd h hno⟩
  · obtain ⟨hstatus, hslot, hnum, hother⟩ := State.withKey_kept (s := s) (f := f) rfl rfl
    exact ⟨_, exec_mkeyCreate_other hf h0 h, hstatus, hslot, hnum, hother, fun hyes => absurd hyes h, fun _ => ⟨rfl, rfl⟩⟩

/-! ### Key slots -/

theorem slotKind_unsealed {n : Nat} (h : n < 145) : slotKind n ≠ 2 := by
  unfold slotKind
  split
  · decide
  · rw [if_pos (by omega)]
    decide

/-- A slot whose sweep has re-encrypted its line: at the next line, or at its end (R115, R116). -/
def KeySlot.afterLine (k : KeySlot) : KeySlot :=
  match nextLine k.sweep k.prange k.pline with
  | some r => { k with prange := r.1, pline := r.2, paid := 0 }
  | none => k.endSweep

theorem KeySlot.afterLine_of_next {k : KeySlot} {r : Nat × Nat} (h : nextLine k.sweep k.prange k.pline = some r) :
    k.afterLine = { k with prange := r.1, pline := r.2, paid := 0 } := by rw [KeySlot.afterLine, h]

theorem KeySlot.afterLine_of_last {k : KeySlot} (h : nextLine k.sweep k.prange k.pline = none) : k.afterLine = k.endSweep := by
  rw [KeySlot.afterLine, h]

section

variable {s : State} {n : Nat} (hn : n < 256)

include hn

theorem exec_slotZeroise_ok (h : s.zeroiseRefused n = false) :
    exec (.slotZeroise n) s = .next ((s.setKeySlot n { gen := (s.keySlot n).gen }).reply 0) :=
  (if_neg (Nat.not_le.2 hn)).trans (if_neg (not_of_eq_false h))

theorem exec_slotZeroise_refused (h : s.zeroiseRefused n = true) : exec (.slotZeroise n) s = .next (s.reply 1) :=
  (if_neg (Nat.not_le.2 hn)).trans (if_pos h)

/-- ROTATE of an ACTIVE slot: its sweep starts at the first line, towards the key that is provisioned, or a fresh one (R98, R115). -/
theorem exec_rotate {rs : List (Nat × Nat)} {p : Nat × Nat} (h1 : (s.keySlot n).state = 1) (hne : rs ≠ []) (hlen : rs.length ≤ 16)
    (hp : firstLine rs 0 = some p) (hnext : ¬ (slotKind n = 2 ∧ (s.keySlot n).nxt = 0)) :
    exec (.rotate n rs) s =
      let d := if slotKind n = 2 then ((s.keySlot n).nxt, s) else s.drawKey
      .next ((d.2.setKeySlot n { s.keySlot n with nxt := d.1, state := 2, sweep := rs, prange := p.1, pline := p.2 }).reply 0) := by
  have hgood : ¬ ((s.keySlot n).state ≠ 1 ∨ rs = [] ∨ 16 < rs.length ∨ (slotKind n = 2 ∧ (s.keySlot n).nxt = 0)) := by
    rintro (h | h | h | h)
    · exact h h1
    · exact hne h
    · exact Nat.not_lt.2 hlen h
    · exact hnext h
  change execRotate n rs s = _
  unfold execRotate
  rw [if_neg (Nat.not_le.2 hn)]
  dsimp only
  rw [if_neg (by rw [h1]; decide), if_neg hgood, hp]
  rfl

theorem exec_rotate_sealed {rs : List (Nat × Nat)} {p : Nat × Nat} (h1 : (s.keySlot n).state = 1) (hne : rs ≠ []) (hlen : rs.length ≤ 16)
    (hp : firstLine rs 0 = some p) (hs : 145 ≤ n) (hnxt : (s.keySlot n).nxt ≠ 0) :
    exec (.rotate n rs) s = .next ((s.setKeySlot n { s.keySlot n with state := 2, sweep := rs, prange := p.1, pline := p.2 }).reply 0) := by
  rw [exec_rotate hn h1 hne hlen hp fun hc => hnxt hc.2, slotKind_sealed hs]
  rfl

theorem exec_rotate_unsealed {rs : List (Nat × Nat)} {p : Nat × Nat} (h1 : (s.keySlot n).state = 1) (hne : rs ≠ []) (hlen : rs.length ≤ 16)
    (hp : firstLine rs 0 = some p) (hs : n < 145) : ∃ u, exec (.rotate n rs) s = .next u ∧ u.monitor.status = 0 ∧
      u.monitor.keys = s.monitor.keys + 1 ∧
      u.keySlot n = { s.keySlot n with nxt := s.monitor.keys, state := 2, sweep := rs, prange := p.1, pline := p.2 } := by
  rw [exec_rotate hn h1 hne hlen hp fun hc => slotKind_unsealed hs hc.1, if_neg (slotKind_unsealed hs)]
  exact ⟨_, rfl, rfl, rfl, State.keySlot_setKeySlot _ _ _⟩

/-- A line of a sweep that has its tokens is re-encrypted, and the sweep goes on to the next or ends (R115, R116). -/
theorem exec_rotationSweepLine {p : Nat × Nat} {s1 : State} {need : Nat} (h2 : (s.keySlot n).state = 2)
    (ho : (s.keySlot n).owner = 255 ∨ (s.part (s.keySlot n).owner).state = 1) (hp : firstLine (s.keySlot n).sweep 0 = some p)
    (hneed : need = 2 * hbmTokens (if (s.keySlot n).owner = 255 then [] else (List.range 128).map ((s.keySlot n).pline * 128 + ·)) - (s.keySlot n).paid)
    (htake : s.takeUpTo (s.keySlot n).owner .memory need = (need, s1)) :
    exec (.rotationSweepLine n) s =
      .next ((State.reencrypt (s1.waitOver (requestNo 4 n) (s.keySlot n).owner) n (s.keySlot n).pline).setKeySlot n
        (s.keySlot n).afterLine) := by
  change execRotationSweepLine n s = _
  unfold execRotationSweepLine
  rw [if_neg (Nat.not_le.2 hn)]
  dsimp only
  rw [if_neg (by rintro (h | ⟨ha, hb⟩); exacts [h h2, ho.elim ha hb]), hp]
  dsimp only
  rw [← hneed, htake, if_neg (Nat.lt_irrefl _)]
  dsimp only
  split
  next r h => rw [KeySlot.afterLine_of_next h]
  next h => rw [KeySlot.afterLine_of_last h]

/-! ### Transfers of sealed slots -/

theorem exec_sealedSlotTransfer_out (hs : 145 ≤ n) (h1 : (s.keySlot n).state = 1) (hr : (s.keySlot n).release = []) {m : Nat}
    (hm : s.monitor.fuses ≤ m) :
    exec (.sealedSlotTransfer n ⟨Config.romMeasurement, m⟩ none) s = .next (s.setKeySlot n { s.keySlot n with moving := true }) :=
  (if_neg (Nat.not_le.2 hn)).trans (if_pos ⟨slotKind_sealed hs, h1, hr, rfl, hm⟩)

theorem exec_sealedSlotTransfer_in (hs : 145 ≤ n) (h0 : (s.keySlot n).state = 0) {m : Nat} {x : SealedKey} (hm : m ≤ s.monitor.fuses)
    (hx : x.owner < nFuncs) :
    exec (.sealedSlotTransfer n ⟨Config.romMeasurement, m⟩ (some x)) s = .next (s.setKeySlot n { s.keySlot n with
      cur := givenKey x.key, owner := x.owner, state := 1, gen := ((s.keySlot n).gen + 1) % 256
      olines := x.olines.toNat, pdigest := x.pdigest.toNat }) :=
  (if_neg (Nat.not_le.2 hn)).trans (if_pos ⟨slotKind_sealed hs, h0, rfl, hm, hx⟩)

theorem exec_sealedSlotTransfer_refused {b : BitVec 256} (m : Nat) (l : Option SealedKey) (h : b ≠ Config.romMeasurement ∨ n < 145) :
    exec (.sealedSlotTransfer n ⟨b, m⟩ l) s = .next s := by
  have hno : ¬ (slotKind n = 2 ∧ b = Config.romMeasurement) := fun hc => h.elim (· hc.2) fun hs => slotKind_unsealed hs hc.1
  cases l with
  | none => exact (if_neg (Nat.not_le.2 hn)).trans (if_neg fun hc => hno ⟨hc.1, hc.2.2.2.1⟩)
  | some x => exact (if_neg (Nat.not_le.2 hn)).trans (if_neg fun hc => hno ⟨hc.1, hc.2.2.1⟩)

theorem exec_slotTransferConfirm (h : (s.keySlot n).moving = true) :
    exec (.slotTransferConfirm n) s = .next (s.setKeySlot n { gen := (s.keySlot n).gen }) :=
  (if_neg (Nat.not_le.2 hn)).trans (if_pos h)

end

end Sys2Proof.Machine
end

section
/-!
PROOFS. Firmware updates, the start-up record and moves of lines (R101, R110 to R114, R445), and the monitor's commands where the cipher keeps zeros.
-/

namespace Sys2Proof.Machine

/-! ### Firmware updates -/

section

variable {s : State}

theorem exec_updateStage {img : List Byte} (hi : s.monitor.update = .idle) (hs : fwSigned img = true) (hv : s.monitor.fuses ≤ svn img) :
    exec (.updateStage img) s = .next { s with
      monitor := if s.monitor.active = 0 then { s.monitor with slot1 := img, update := .staged, status := 0 }
        else { s.monitor with slot0 := img, update := .staged, status := 0 } } := by
  change execUpdateStage img s = _
  unfold execUpdateStage
  dsimp only
  rw [if_neg (not_not.2 hi), hs, if_neg (by decide), if_neg (Nat.not_lt.2 hv)]
  split <;> rfl

theorem exec_updateSwitch_busy (h : List Byte) (v : Nat) (hc : s.monitor.committing = true) : exec (.updateSwitch h v) s = .next (s.reply 4) :=
  if_pos hc

section

variable (hc : s.monitor.committing = false) (hst : s.monitor.update = .staged) (h : List Byte) {v : Nat}

include hc hst

theorem exec_updateSwitch_old (hv : svn (s.monitor.image (otherSlot s.monitor.active)) < s.monitor.fuses) :
    exec (.updateSwitch h v) s = .next (s.reply 3) := (if_neg (not_of_eq_false hc)).trans (if_pos ⟨hst, hv⟩)

theorem exec_updateSwitch_ok (hv : s.monitor.fuses ≤ svn (s.monitor.image (otherSlot s.monitor.active)))
    (hlo : bytesAt (s.monitor.image (otherSlot s.monitor.active)) 144 16 ≤ v)
    (hhi : v ≤ bytesAt (s.monitor.image (otherSlot s.monitor.active)) 128 16) :
    exec (.updateSwitch h v) s = .next { s with monitor := { s.monitor with
      update := .trial, switchAt := s.time, handover := h, running := otherSlot s.monitor.active
      code := s.monitor.image (otherSlot s.monitor.active), status := 0 } } := by
  refine (if_neg (not_of_eq_false hc)).trans ((if_neg fun hold => Nat.not_lt.2 hv hold.2).trans (if_neg ?_))
  rintro (hno | hno | hno)
  · exact hno hst
  · exact Nat.not_lt.2 hlo hno
  · exact Nat.not_lt.2 hhi hno

end

/-! ### Trials -/

theorem exec_heartbeat_in_time (ht : s.monitor.update = .trial) (hin : s.time - s.monitor.switchAt ≤ 200000000) :
    exec .heartbeat s = .next { s with monitor := { s.monitor with
      update := .idle, active := s.monitor.running, switchAt := s.time, updateFailed := false, status := 0 } } := if_pos ⟨ht, hin⟩

theorem exec_heartbeat_late (ht : s.monitor.update = .trial) (hout : 200000000 < s.time - s.monitor.switchAt) :
    exec .heartbeat s = .next (s.reply 1) := (if_neg fun hc => Nat.not_le.2 hout hc.2).trans (if_pos ht)

theorem exec_heartbeat_outside (ht : s.monitor.update ≠ .trial) :
    exec .heartbeat s = .next (State.reply { s with monitor := { s.monitor with switchAt := s.time } } 1) :=
  (if_neg fun hc => ht hc.1).trans (if_neg ht)

theorem exec_updateTrialTimeout_early (ht : s.monitor.update = .trial) (hin : s.time - s.monitor.switchAt ≤ 200000000) :
    exec .updateTrialTimeout s = .next s :=
  (if_neg fun hc => Nat.not_lt.2 hin hc.2).trans (if_neg fun hc => hc.1 ht)

theorem exec_updateTrialTimeout_over (ht : s.monitor.update = .trial) (hout : 200000000 < s.time - s.monitor.switchAt) :
    exec .updateTrialTimeout s = .next { s with monitor := { s.monitor with
      update := .idle, running := s.monitor.active, code := s.monitor.image s.monitor.active, updateFailed := true } } := if_pos ⟨ht, hout⟩

theorem exec_updateTrialTimeout_missed (ht : s.monitor.update ≠ .trial) (hstart : s.monitor.started = true)
    (hout : 200000000 < s.time - s.monitor.switchAt) :
    exec .updateTrialTimeout s = .next { s with monitor := { s.monitor with missed := s.monitor.missed + 1, switchAt := s.time } } :=
  (if_neg fun hc => ht hc.1).trans (if_pos ⟨ht, hstart, hout⟩)

/-! ### Fuses -/

theorem exec_updateCommit_in_trial (ht : s.monitor.update = .trial) : exec .updateCommit s = .next (s.reply 1) := if_pos ht

theorem exec_updateCommit_busy (ht : s.monitor.update ≠ .trial) (hc : s.monitor.committing = true) : exec .updateCommit s = .next (s.reply 4) :=
  (if_neg ht).trans (if_pos hc)

theorem exec_updateCommit_ok (ht : s.monitor.update ≠ .trial) (hc : s.monitor.committing = false) :
    exec .updateCommit s = .next { s with monitor := s.monitor.blow } := (if_neg ht).trans (if_neg (not_of_eq_false hc))

end

theorem Monitor.blow_of_last {m : Monitor} (h : m.target ≤ m.fuses + 1) :
    m.blow = { m with fuses := max m.fuses m.target, committing := false, status := 0 } := if_pos h

theorem Monitor.blow_of_more {m : Monitor} (h : m.fuses + 1 < m.target) : m.blow = { m with fuses := m.fuses + 1, committing := true } :=
  if_neg (Nat.not_le.2 h)

theorem Monitor.target_le (m : Monitor) : m.target ≤ 64 := Nat.min_le_left _ _

/-- The fuses never fall, go one at a time to the running image's version, and are 64 (R111, R114). -/
theorem Monitor.blow_advances (m : Monitor) : m.fuses ≤ m.blow.fuses ∧ m.blow.fuses ≤ max m.fuses 64 ∧
    (m.fuses + 1 < m.target → m.blow.fuses = m.fuses + 1 ∧ m.blow.committing = true) ∧
    (m.fuses ≤ m.target → m.target ≤ m.fuses + 1 → m.blow.fuses = m.target ∧ m.blow.committing = false ∧ m.blow.status = 0) ∧
    (svn m.code ≤ 64 → m.target = svn m.code) := by
  have htarget := m.target_le
  refine ⟨?_, ?_, fun h => ?_, fun hle h => ?_, fun h => Nat.min_eq_right h⟩
  · obtain h | h := Nat.lt_or_ge (m.fuses + 1) m.target
    · rw [Monitor.blow_of_more h]
      exact Nat.le_succ _
    · rw [Monitor.blow_of_last h]
      exact Nat.le_max_left _ _
  · obtain h | h := Nat.lt_or_ge (m.fuses + 1) m.target
    · rw [Monitor.blow_of_more h]
      dsimp only
      omega
    · rw [Monitor.blow_of_last h]
      dsimp only
      omega
  · rw [Monitor.blow_of_more h]
    exact ⟨rfl, rfl⟩
  · rw [Monitor.blow_of_last h]
    exact ⟨Nat.max_eq_right hle, rfl, rfl⟩

/-! ### The start-up record -/

theorem exec_bootrecClear {s : State} {k : BitVec 64} (h0 : k.getLsbD 0 = false) (h : k.toNat < 256) : ∃ r, exec (.bootrecClear k) s =
      .next { s with monitor := { s.monitor with bootrec := r, status := 0 } } ∧ r.length = 7 ∧
    ∀ i, i < 7 → r.getD i 0 = if k.getLsbD (i + 1) then 0 else s.monitor.bootrec.getD i 0 := by
  have hok : ¬ (k.getLsbD 0 || decide (256 ≤ k.toNat)) = true := by
    rw [h0, decide_eq_false (Nat.not_le.2 h)]
    decide
  refine ⟨_, if_neg hok, by rw [List.length_map, List.length_range], fun i hi => ?_⟩
  rw [List.getD_eq_getElem?_getD, List.getElem?_map, List.getElem?_range hi]
  rfl

/-! ### Moves of lines -/

theorem exec_reEncryptingMove_beyond {s : State} {a b : Nat} (w : Bool) (h : 2 ^ 32 ≤ a ∨ 2 ^ 32 ≤ b) :
    exec (.reEncryptingMove a ⟨b, w⟩) s = .next { s with fwStatus := 0x22 } := if_pos h

/-- A line put in its new place with its tags, each byte a function of the old one, with its mark (R101, R207). -/
def State.movedLine (s : State) (a b : Nat) (g : Nat → Byte) (t : Option LineTag) : State :=
  { s with mem := (s.moveTags a b).writeCells ((List.range 128).map fun i => (b * 128 + i, g (a * 128 + i)))
           lines := match t with | some x => Table.set s.lines b x | none => Table.del s.lines b }

theorem State.movedLine_kept (s : State) (a b : Nat) (g : Nat → Byte) (t : Option LineTag) :
    (s.movedLine a b g t).ctxs = s.ctxs ∧ (s.movedLine a b g t).ptes = s.ptes := by
  unfold State.movedLine
  dsimp only
  exact ⟨rfl, rfl⟩

/-- The key under which a line kept under key `k` lies at its new place: that of the same slot (R101). -/
def State.movedKey (s : State) (k b : Nat) : Nat :=
  match slotOfKey k s.keys with
  | some n => s.keyFor n b
  | none => k

theorem exec_reEncryptingMove {s : State} {a b : Nat} (w : Bool) (ha : a < 2 ^ 32) (hb : b < 2 ^ 32) :
    ∃ g t, exec (.reEncryptingMove a ⟨b, w⟩) s = .next (s.movedLine a b g t) ∧
      (Table.find s.lines a = none ∨ w = true → g = s.mem.read ∧ t = Table.find s.lines a) := by
  have hin : ¬ (2 ^ 32 ≤ a ∨ 2 ^ 32 ≤ b) := by omega
  change ∃ g t, execReEncryptingMove a ⟨b, w⟩ s = _ ∧ _
  unfold execReEncryptingMove
  dsimp only
  rw [if_neg hin]
  split
  next h => exact ⟨_, _, rfl, fun _ => ⟨rfl, h.symm⟩⟩
  next h => exact ⟨_, _, rfl, fun _ => ⟨rfl, h.symm⟩⟩
  next k t h =>
    cases w with
    | true => exact ⟨_, _, rfl, fun _ => ⟨rfl, h.symm⟩⟩
    | false =>
      rw [if_neg (by decide)]
      exact ⟨s.peekKey k, some (.key (s.movedKey k b) b), rfl, fun hc => by simp [h] at hc⟩

theorem Table.find_eq_none_of_ne {α : Type} {t : Table α} {k : Nat} (h : ∀ p ∈ t, p.1 ≠ k) : Table.find t k = none := by
  induction t with
  | nil => rfl
  | cons p t ih =>
    obtain ⟨hp, ht⟩ := List.forall_mem_cons.1 h
    rw [Table.find, if_neg (Ne.symm hp), ih ht, ite_self]

theorem Table.find_del_same {α : Type} (t : Table α) (k : Nat) : Table.find (Table.del t k) k = none :=
  Table.find_eq_none_of_ne fun _ hp => of_decide_eq_true (List.mem_filter.1 hp).2

theorem State.find_movedLine (s : State) (a b : Nat) (g : Nat → Byte) (t : Option LineTag) : Table.find (s.movedLine a b g t).lines b = t := by
  cases t with
  | some x => exact Table.find_set_same _ _ _
  | none => exact Table.find_del_same _ _

/-- The bytes of a line are where it has been moved to. -/
theorem State.read_movedLine {s : State} (hs : s.Canonical) (a b : Nat) (g : Nat → Byte) (t : Option LineTag) {i : Nat} (hi : i < 128) :
    (s.movedLine a b g t).mem.read (b * 128 + i) = g (a * 128 + i) := by
  have hcells : ((List.range 128).map fun i => (b * 128 + i, g (a * 128 + i))) =
      ((List.range 128).map fun i => b * 128 + i).map fun x => (x, g (a * 128 + (x - b * 128))) := by
    rw [List.map_map]
    exact List.map_congr_left fun i _ => by simp
  have hwf : (s.moveTags a b).wf = true := Memory.wf_writeCells _ hs
  unfold State.movedLine
  dsimp only
  rw [hcells, Memory.read_writeCells hwf, cellAt_map (List.mem_map.2 ⟨i, List.mem_range.2 hi, rfl⟩), Option.getD_some, Nat.add_sub_cancel_left]

/-! ### The commands -/

/-- O58 holds if the cipher keeps zeros; but for what a new key finds zeroed, nothing of the cipher is used. -/
theorem monitorCommands_of_cipherKeepsZeros (hcipher : CipherKeepsZeros) : Obligations.MonitorCommands := by
  refine ⟨?key, ?slots, ?firmware, fun s a b w h => exec_reEncryptingMove_beyond w h, ?move⟩
  case key =>
    intro s f hf h0
    obtain ⟨u, hexec, hstatus, hslot, hnum, hother, hyes, hno⟩ := exec_mkeyCreate hf h0
    refine ⟨u, hexec, hstatus, hslot, hnum, hother, fun h => ?_, hno⟩
    obtain ⟨hpart, hzero⟩ := hyes h
    exact ⟨hpart, fun p hp a hlo hn => hzero p hp a hlo hn (.inr hcipher)⟩
  case slots =>
    rintro s n k hn rfl
    refine ⟨exec_slotZeroise_ok hn, exec_slotZeroise_refused hn, fun rs p h1 hne hlen hp => ⟨exec_rotate_sealed hn h1 hne hlen hp,
      exec_rotate_unsealed hn h1 hne hlen hp⟩, fun h2 ho p s1 hp need hneed htake => ⟨fun r hr => ?_, fun hl => ?_⟩,
      fun m hs h1 hr hm => exec_sealedSlotTransfer_out hn hs h1 hr hm, fun m x hs h0 hm hx => exec_sealedSlotTransfer_in hn hs h0 hm hx,
      fun b m l h => exec_sealedSlotTransfer_refused hn m l h, exec_slotTransferConfirm hn⟩
    · rw [exec_rotationSweepLine hn h2 ho hp hneed htake, KeySlot.afterLine_of_next hr]
    · rw [exec_rotationSweepLine hn h2 ho hp hneed htake, KeySlot.afterLine_of_last hl]
      rfl
  case firmware =>
    rintro s m rfl
    exact ⟨fun img => exec_updateStage, exec_updateSwitch_busy, fun h v hc hst => exec_updateSwitch_old hc hst h,
      fun h v hc hst => exec_updateSwitch_ok hc hst h, fun ht hin => ⟨exec_heartbeat_in_time ht hin, exec_updateTrialTimeout_early ht hin⟩,
      exec_updateTrialTimeout_over, exec_heartbeat_late, exec_heartbeat_outside, exec_updateTrialTimeout_missed, exec_updateCommit_in_trial,
      exec_updateCommit_busy, exec_updateCommit_ok, s.monitor.blow_advances, fun k => exec_bootrecClear⟩
  case move =>
    intro s a b w ha hb
    obtain ⟨g, t, hexec, hsame⟩ := exec_reEncryptingMove (s := s) w ha hb
    refine ⟨_, hexec, (State.movedLine_kept _ _ _ _ _).1, (State.movedLine_kept _ _ _ _ _).2, fun hs h => ?_⟩
    obtain ⟨rfl, rfl⟩ := hsame h
    exact ⟨State.find_movedLine _ _ _ _ _, fun i hi => State.read_movedLine hs _ _ _ _ hi⟩

end Sys2Proof.Machine
end

section
/-!
PROOFS. Why O57 and O58 are settled neither way. Where two ranges that are zeroed lie in one line of ciphertext, a write on its way to the second
brings the first under another key after it has been zeroed (R203, R360), and what that leaves is a value of the cipher, a constant of Config without
a body (log entry 7). So each of the two says of the cipher that a block of zeros is decrypted to a zero byte, which cannot be proved; and each holds
if the cipher keeps zeros, which cannot be refuted. Memory made of whole lines is zeroed whatever the cipher (exec_zeroingComplete_zeroes,
exec_mkeyCreate).
-/

namespace Sys2Proof

theorem Memory.read_filter_from {lo : Nat} {m : Memory} (w : Memory.wfFrom lo m = true) {p : Host.Cell → Bool} {x : Nat}
    (hp : ∀ c, c.1 = x → p c = true) : Memory.read (m.filter p) x = m.read x := by
  induction m generalizing lo with
  | nil => rfl
  | cons c m ih =>
    obtain ⟨a, b⟩ := c
    simp only [Memory.wfFrom, Bool.and_eq_true] at w
    by_cases hc : p (a, b) = true
    · rw [List.filter_cons_of_pos hc, Memory.read, Memory.read, ih w.2]
    · have hne : x ≠ a := fun e => hc (hp _ e.symm)
      rw [List.filter_cons_of_neg hc, Memory.read, if_neg hne, ih w.2]
      split
      next hlt => exact Memory.read_below (Nat.lt_succ_of_lt hlt) w.2
      · rfl

/-- Taking other bytes out of canonical memory leaves a byte as it is. -/
theorem Memory.read_filter {m : Memory} (w : m.wf = true) {p : Host.Cell → Bool} {x : Nat} (hp : ∀ c, c.1 = x → p c = true) :
    Memory.read (m.filter p) x = m.read x := Memory.read_filter_from w hp

end Sys2Proof

namespace Sys2Proof.Machine

/-! ### A line that two areas share -/

/-- A write of a zero byte to address 0 under slot 1, which has its place in the coherence order. -/
def sharedWrite : Write := ⟨0, 0, 0, 0, 0, 1, 0, 1, [(0, 0)], [], [], 0, none, 0, [], true⟩

/-- A child in its pass whose two areas lie in one line, which holds sealed ciphertext; a write is on its way to the second. -/
def sharedLine (zeroed : Bool) : State := { State.reset with
  parts := [(0, { state := 1 }), (16, { state := 3, zeroed := zeroed, areas := [(64, 1), (0, 1)] })]
  lines := [(0, .raw 0 0)]
  writes := [sharedWrite] }

theorem ownedPages_sharedLine (zeroed : Bool) : (sharedLine zeroed).ownedPages 16 = [(64, 1), (0, 1)] := rfl

/-- Wiping the first area leaves the state as it is: its byte is zero, and the line begins in the other one. -/
theorem wipe_sharedLine (zeroed : Bool) : (sharedLine zeroed).wipe 64 1 = sharedLine zeroed := rfl

/-- The write comes to memory when its address is wiped. -/
theorem settle_sharedWrite {s : State} (hw : s.writes = [sharedWrite]) :
    ∃ ws, (s.settle 0 1).mem = (({ s with writes := ws } : State).poke 1 (0, 0)).mem := by
  have hmust : mustMove 3 (placed [sharedWrite]) (([sharedWrite].flatMap (·.cells)).filterMap fun c =>
      if 0 ≤ c.1 ∧ c.1 < 0 + 1 then some c.1 else none) = [sharedWrite] := rfl
  refine ⟨(s.writes.map (·.trim [0])).filter fun w => !w.cells.isEmpty || decide (w.level < 3), ?_⟩
  rw [State.settle, State.forceOut, hw, hmust, List.reverse_singleton, List.foldl_cons, List.foldl_nil, State.sweepWrites_mem, State.moveTo,
    if_pos rfl, State.memWrite, hw]
  rfl

theorem peekKey_of_raw {s : State} (hm : s.mem = []) (hl : s.lines = [(0, .raw 0 0)]) (k : Nat) :
    s.peekKey k 64 = blockByte (Config.xtsDec k 0 4 0) 0 := by
  have hfind : Table.find s.lines (64 / 128) = some (.raw 0 0) := by
    rw [hl]
    rfl
  have hblock : memBlock [] 64 = 0 := by decide
  have hplace : ∀ b : BitVec 128, blockByte b 64 = blockByte b 0 := fun _ => rfl
  rw [State.peekKey]
  simp only [hfind, hm, hblock, hplace]

/-- What wiping address 0 leaves at address 64, of a line of sealed ciphertext that holds zeros, where a write under key `k` to address 0 is on its
way: what the decryption of a block of zeros gives. -/
theorem read_wipe_of_sharedWrite {s : State} {k : Nat} (hw : s.writes = [sharedWrite]) (hm : s.mem = []) (hl : s.lines = [(0, .raw 0 0)])
    (hk : s.keyFor 1 0 = k) : (s.wipe 0 1).mem.read 64 = blockByte (Config.xtsDec k 0 4 0) 0 := by
  have hempty : s.mem.wf = true := by
    rw [hm]
    rfl
  have hsettled : (s.settle 0 1).mem.wf = true := State.settle_wf s 0 1 hempty
  obtain ⟨ws, hs⟩ := settle_sharedWrite hw
  have hline : (({ s with writes := ws } : State).rekeyLine k 0).mem.wf = true := State.rekeyLine_wf _ _ hempty
  have hkey : ({ s with writes := ws } : State).keyFor 1 (0 / 128) = k := hk
  have hread : (({ s with writes := ws } : State).rekeyLine k 0).mem.read 64 = blockByte (Config.xtsDec k 0 4 0) 0 :=
    (read_rekeyLine (s := { s with writes := ws }) hempty k (x := 64) rfl).trans (peekKey_of_raw (s := { s with writes := ws }) hm hl k)
  have hpoke : (s.settle 0 1).mem = (({ s with writes := ws } : State).rekeyLine k 0).mem.write 0 0 := by
    rw [hs, mem_poke_ciphered _ (by decide) (by decide)]
    dsimp only
    rw [hkey, Nat.zero_div]
  rw [State.wipe, State.zeroTags, State.zeroRange]
  dsimp only
  rw [Memory.read_filter (Memory.wf_filter _ hsettled) (by rintro c hc; rw [hc]; decide), Memory.read_filter hsettled (by rintro c hc; rw [hc]; decide),
    hpoke, Memory.read_write 0 64 0 hline, if_neg (by decide), hread]

/-- The byte of the first area after both have been wiped. -/
theorem read_wipes_sharedLine (zeroed : Bool) :
    (((sharedLine zeroed).wipe 64 1).wipe 0 1).mem.read 64 = blockByte (Config.xtsDec 0 0 4 0) 0 := by
  rw [wipe_sharedLine]
  exact read_wipe_of_sharedWrite rfl rfl rfl rfl

theorem mem_passed_sharedLine : (((sharedLine false).zeroFunc 16).endPass 16).mem = (((sharedLine false).wipe 64 1).wipe 0 1).mem := by
  rfl

theorem mem_readied_sharedLine : (((sharedLine true).withKey 16).readied 16).mem = (((sharedLine true).wipe 64 1).wipe 0 1).mem := by
  rfl

/-! ### What the obligations say of the cipher -/

/-- O57 says that the cipher, of which nothing can be proved, decrypts a block of zeros to a block that begins with a zero byte. -/
theorem xtsDec_of_partitionLifecycle (h : Obligations.PartitionLifecycle) : blockByte (Config.xtsDec 0 0 4 0) 0 = 0 := by
  obtain ⟨-, -, -, -, -, -, -, -, hzero⟩ := h
  have hpass := exec_zeroingComplete_of_alone (s := sharedLine false) (f := 16) (by decide) rfl rfl rfl (fun hf => absurd hf (by decide))
    (fun _ hd => by cases hd)
  obtain ⟨u, hexec, -, -, -, hmem⟩ := hzero (sharedLine false) 16 (by decide) rfl rfl rfl (fun hf => absurd hf (by decide)) (fun _ hd => by cases hd)
  obtain rfl := Host.Outcome.next.inj (hpass.symm.trans hexec)
  rw [← read_wipes_sharedLine false, ← mem_passed_sharedLine]
  exact hmem (64, 1) (ownedPages_sharedLine false ▸ List.mem_cons_self) 64 (by decide) (by decide)

/-- O58 says the same of it. -/
theorem xtsDec_of_monitorCommands (h : Obligations.MonitorCommands) : blockByte (Config.xtsDec 0 0 4 0) 0 = 0 := by
  obtain ⟨hkey, -⟩ := h
  have hwaits : (sharedLine true).awaitsKey 16 := ⟨rfl, rfl, .inr rfl⟩
  have hcreate := exec_mkeyCreate_awaited (s := sharedLine true) (f := 16) (by decide) rfl hwaits
  obtain ⟨u, hexec, -, -, -, -, hready, -⟩ := hkey (sharedLine true) 16 (by decide) rfl
  obtain rfl := Host.Outcome.next.inj (hcreate.symm.trans hexec)
  obtain ⟨-, hmem⟩ := hready hwaits
  rw [← read_wipes_sharedLine true, ← mem_readied_sharedLine]
  exact hmem (64, 1) (ownedPages_sharedLine true ▸ List.mem_cons_self) 64 (by decide) (by decide)

end Sys2Proof.Machine
end
